-- ==== Sys2Proof/Word.lean ====
section
/-! DEFINITION. Word.lean: the word types of the device (R345, R278) and nothing else. -/

namespace Sys2Proof

/-- A byte of a packet, an image or a record. -/
abbrev Byte := BitVec 8
/-- A 16-bit field, little-endian in every payload (00_scope, Conventions). -/
abbrev U16 := BitVec 16
/-- A 32-bit field. -/
abbrev U32 := BitVec 32
/-- A 64-bit field. -/
abbrev U64 := BitVec 64
/-- An instant in picoseconds since VDD_AON came up (the model's clock). -/
abbrev Ps := Nat

end Sys2Proof
end

