-- ==== Sys2Proof/Syntax.lean ====
section
/-! DEFINITION. Syntax.lean: the commands of the block, one constructor of `Instr` per row of
spec/opcode_table.json, with the operands each row brings from outside the device. A host command carries a
request (`Req`); an event whose instant the device's state does not fix carries its instant `t`. -/

namespace Sys2Proof

/-- Where a request came from (R359, R364): a PCIe queue pair (0 normal, 1 urgent), a UDP source's queue, or the
pair partner (R372). -/
inductive Source where
  | pcie (q : Fin 2)
  | udp (id : Nat) (urgent : Bool)
  | partner
deriving DecidableEq, Repr

/-- A request as the controller executes it: header fields (R345) and the payload without its trailing `CRC`
(R348). `at` is the instant at which the command begins executing. `rsv` holds header bytes 12-13. -/
structure Req where
  src     : Source
  at_     : Ps
  tag     : U16
  seq     : U32
  flags   : Byte
  target  : U16
  rsv     : U16
  /-- PCIe: `REPLY_ADDR` of the entry (R353) -/
  replyTo : U64
  payload : List Byte
deriving DecidableEq, Repr

/-- An entry of a submission queue as the device reads it from host memory (R353): the 16 header bytes, the reply
address and the payload bytes; `payload = none`: the read of the payload failed at the PCIe level (R356). -/
structure SqEntry where
  header    : List Byte
  replyAddr : U64
  payload   : Option (List Byte)
deriving DecidableEq, Repr

/-- The header fields of an unfetched submission entry, read to complete it with an abort status (R357, R374). -/
structure EntryHdr where
  opcode : Byte
  tag    : U16
  seq    : U32
  flags  : Byte
deriving DecidableEq, Repr

/-- The base and size registers of a queue (R355). `size` is a `Qn_CTRL` write that changes `SIZE_LOG2`. -/
inductive QueueReg where
  | sqBaseLo | sqBaseHi | cqBaseLo | cqBaseHi | size
deriving DecidableEq, Repr

/-- The registers of BAR0 that hold W1C flags (R355, R556). -/
inductive W1cReg where
  | qStatus (q : Fin 2)
  | irqCause
  | alarmSummary (k : Fin 8)
deriving DecidableEq, Repr

/-- The three resets of the PCI Express side (R554). -/
inductive PcieResetKind where
  | flr | perst | d3hot
deriving DecidableEq, Repr

/-- A complex value with whole parts, in converter units (R147, R155). -/
structure Phasor where
  re : Int
  im : Int
deriving DecidableEq, Repr

/-- One instant of the light at the four Indigo converters (R97): X-I, X-Q, Y-I, Y-Q, in converter steps at an attenuation
of 0 dB, before rounding and clipping to 12 bits. -/
structure RxSample where
  xi : Int
  xq : Int
  yi : Int
  yq : Int
deriving DecidableEq, Repr

/-- One instant of the three reference converters (R108): the 14-bit amplitudes of the 3x3 outputs. -/
structure RefSample where
  a : Int
  b : Int
  c : Int
deriving DecidableEq, Repr

/-- A reflection in the first 2 km of a return, as the receiver and the return monitor measure it (R86): position in cm,
reflectance in 0.1 dB. -/
structure Peak where
  position : Nat
  refl     : Int
deriving DecidableEq, Repr

/-- What the receiver brings for one DAS line (R97-R124). -/
structure LineIn where
  /-- the converter inputs at 2.0 GS/s, from the launch instant on (R97, R49) -/
  rx         : List RxSample
  /-- the reference converters' samples every 4 ns, from the one after the last that the line before brought (R108) -/
  refs       : List RefSample
  /-- reflections in the first 2 km (R86) -/
  peaks      : List Peak
  /-- the spare's output differs from the shadowed lane's (R102) -/
  mismatch   : Bool
  /-- contexts whose ring line the memory cannot accept (R254, R459), each with the channel that has no room; 256: the
  raw capture -/
  ringDrop   : List (Nat × Fin 4)
deriving DecidableEq, Repr

/-- One reflection of a survey (R40). -/
structure Reflection where
  position : U32
  refl     : U16
  width    : U16
deriving DecidableEq, Repr

/-- A peak of the averaged trace as a survey measures it (R36, R40): sample, reflectance (0.1 dB), height above the local
backscatter level (0.1 dB), width above it (cm). -/
structure TracePeak where
  sample : Nat
  refl   : Int
  height : Int
  width  : Nat
deriving DecidableEq, Repr

/-- What Gambit measures on a port in the steps of R35. -/
structure SurveyIn where
  /-- step 2: per 1 dB step from `APR_LEVEL` on, does backscatter in the first 2 km stay above the threshold? -/
  nearAbove : List Bool
  /-- step 3: mean power per sample over 4,096 lines, and the noise floor in the same units -/
  trace     : List Nat
  floor     : Nat
  peaks     : List TracePeak
  /-- step 4: per 0.1 dB step down, the largest deviation from the linear-loss fit over the fibre, 0.01 dB (R37) -/
  deviation : List Nat
  /-- mean power per sample of the last 64 lines (R85) -/
  refTrace  : List Nat
deriving DecidableEq, Repr

/-- What the receivers bring for one Ochre line (R154-R156): the two Ochre converters' codes at 2.0 GS/s from the launch
instant on, and for automatic power reduction (R86) the Rayleigh receiver's converter inputs and the reflections. -/
structure OchreIn where
  iq    : List Phasor
  rx    : List RxSample
  peaks : List Peak
deriving DecidableEq, Repr

/-- What a completed calibration step measured (R182, R183): its quality figure in the units of R203, what it trims (the
delays of R15 in ps for `DELAY`: TX_S1, TX_S2, RX_S1, RX_S2; tau_ref in fs for `REFSCALE`; the Ochre receiver's noise
floor, power of one gate summed over bins, for `SIDEBAND`), the reading that becomes the reference of its drift indicator
(R197), and its section of device data (R199). `COIL` trims the thermometer chain (R166): gain in 10^-9, offset in microohm. -/
structure CalIn where
  figure  : Int
  delays  : List Int
  tau     : Nat
  floor   : Nat
  coilGain : Int := 0
  coilOffset : Int := 0
  ref     : Int
  section_ : List Byte
deriving DecidableEq, Repr

/-- Where a PTP message came from (R391): the Ethernet port, its `domainNumber`, its transport as `PTP_CFG` codes it, the
sender's address in the form of `MASTER_ADDR`, the identity of the sending port. -/
structure PtpFrom where
  port      : Fin 2
  number    : Nat
  transport : Nat
  addr      : List Byte
  id        : BitVec 80
deriving DecidableEq, Repr, Inhabited

/-- What an Announce says (IEEE 1588): the grandmaster's identity and quality, steps removed, the UTC offset when valid, the interval
of the Announce messages in ps. -/
structure PtpAnnounce where
  gm        : U64
  priority1 : Byte
  clkClass  : Byte
  accuracy  : Byte
  variance  : BitVec 16
  priority2 : Byte
  steps     : Byte
  utc       : Option (BitVec 16)
  interval  : Ps
deriving DecidableEq, Repr, Inhabited

/-- Received PTP messages, as the MAC hands them to a domain's tracker (R391, R394). -/
inductive PtpMsg where
  | announce (src : PtpFrom) (a : PtpAnnounce)
  /-- a Sync and Delay_Resp pair: the instants at the MAC of the Sync and of the Delay_Req; the Sync's `twoStepFlag`, the time it
  gives for its sending (one-step) and that of its Follow_Up (two-step), the Delay_Resp's for the Delay_Req's arrival, each with its
  correction fields (t1 and t4 of IEEE 1588, ps); recovered line-clock frequency (0.001 ppb) -/
  | pair (src : PtpFrom) (syncRx reqTx : Nat) (twoStep : Bool) (sync : Int) (followUp : Option Int) (t4 lineFreq : Int)
deriving DecidableEq, Repr

/-- A partner heartbeat (R507). -/
structure Heartbeat where
  role       : BitVec 2
  pairState  : Byte
  epoch      : U16
  slots      : Byte
  mode       : Byte
  held       : Int
  currentEnd : Nat
  launchCount : U64
  release    : Bool
deriving DecidableEq, Repr

/-- What the partner presents when the pair link comes up (R504), and the plan it holds. -/
structure PartnerHello where
  role      : BitVec 2
  routeLen  : Nat
  node      : BitVec 14
  /-- the node ID that the partner's configuration names -/
  expects   : BitVec 14
  pairState : Byte
  /-- the leader's plan: T_L (10 ns), waveform, CHIRP_LEN, PULSE_LEN, CHIRP_BW, TAPER, DIR_MASK, CARRIER -/
  plan      : List Nat
  /-- boundary offset to A, ps -/
  align     : Int
  /-- the partner shows `THRU_LOST` (R513) -/
  thruLost  : Bool
deriving DecidableEq, Repr

/-- What the comparators of an aux channel showed in a conversion period (R428, R431), at any time in it and at its end: a ball of
its pair outside 0.05-1.75 V; current source 0 or 1 at its compliance limit. -/
structure AuxDetect where
  ballAny  : Bool
  ballEnd  : Bool
  limitAny : BitVec 2
  limitEnd : BitVec 2
deriving DecidableEq, Repr

/-- Who reads a memory word (R463). -/
inductive MemReader where
  | fetch | bar4 | readback | firmware | scrub
deriving DecidableEq, Repr

/-- The training of one channel (R466-R468): did it end in time, the sweeps of read lane 0, read lane 1, write lane 0 and write
lane 1 (does each of the 128 taps pass?), the tap size measured. -/
structure TrainIn where
  finished : Bool
  sweeps   : List (List Bool)
  tapFs    : Nat
deriving DecidableEq, Repr

/-- What the board and the flash hold when the supplies come up or a wake begins (R498, R529, R562, R593). -/
structure BootIn where
  imageAValid : Bool
  imageBValid : Bool
  /-- both copies of the board record fail their check -/
  boardBad    : Bool
  /-- outcome of start-up training per channel (R467) -/
  training    : List TrainIn
  /-- both copies of the wake store fail (R529): bit per copy -/
  storeFails  : BitVec 2
  /-- the leakage test (R75): channel driven, neighbouring channel, current that reached it, nA -/
  leaks       : List (Nat × Nat × Nat)
deriving DecidableEq, Repr

/-- One run of the self-tests (R502): the units that failed each test. -/
structure SelfTestIn where
  memoryFails : Bool
  lanesFailed : List (Fin 9)
  coresFailed : List (Fin 32)
  standbyFails : Bool
  /-- as in `BootIn` -/
  leaks       : List (Nat × Nat × Nat)
  imageAFails : Bool
  imageBFails : Bool
deriving DecidableEq, Repr

/-- A memory operand `S[pN mod]` of a zone-core instruction (R281, R283 format L): space (true: Y), pointer, modify. -/
structure MemOp where
  spaceY : Bool
  p      : Fin 8
  mod    : BitVec 2
deriving DecidableEq, Repr

/-- The two operands of a MAC instruction (R283 format M). -/
structure MacOp where
  px   : Fin 8
  xmod : BitVec 2
  py   : Fin 8
  ymod : BitVec 2
deriving DecidableEq, Repr

/-- The commands of the block: the 238 rows of spec/opcode_table.json, in the table's order. -/
inductive Instr where
  -- host commands (R351)
  | nop (r : Req)
  | getCaps (r : Req)
  | getStatus (r : Req)
  | setMode (r : Req)
  | fence (r : Req)
  | resetUnit (r : Req)
  | setNode (r : Req)
  | getLog (r : Req)
  | launchCfg (r : Req)
  | slotCfg (r : Req)
  | lightCfg (r : Req)
  | portSelect (r : Req)
  | gambitRun (r : Req)
  | gambitRead (r : Req)
  | aprCfg (r : Req)
  | indigoCfg (r : Req)
  | zoneMapLoad (r : Req)
  | zoneMapRead (r : Req)
  | ochreCfg (r : Req)
  | ochreRead (r : Req)
  | refCoilCfg (r : Req)
  | ctxSet (r : Req)
  | ctxGet (r : Req)
  | ctxArm (r : Req)
  | ctxDisarm (r : Req)
  | patternSet (r : Req)
  | threshLoad (r : Req)
  | alarmRoute (r : Req)
  | recList (r : Req)
  | recFetch (r : Req)
  | recRelease (r : Req)
  | poolCfg (r : Req)
  | coreLoad (r : Req)
  | coreStart (r : Req)
  | coreStop (r : Req)
  | coreRead (r : Req)
  | streamCfg (r : Req)
  | streamSave (r : Req)
  | streamRestore (r : Req)
  | bulkLoad (r : Req)
  | ptpCfg (r : Req)
  | ptpStatus (r : Req)
  | timeGet (r : Req)
  | domainSelect (r : Req)
  | timCfg (r : Req)
  | timRead (r : Req)
  | launchSync (r : Req)
  | calRun (r : Req)
  | calSave (r : Req)
  | calRestore (r : Req)
  | calQuality (r : Req)
  | memStatus (r : Req)
  | memTrain (r : Req)
  | memMap (r : Req)
  | auxCfg (r : Req)
  | auxRead (r : Req)
  | amonCfg (r : Req)
  | pairCfg (r : Req)
  | pairStatus (r : Req)
  | castle (r : Req)
  | faultRead (r : Req)
  | faultClear (r : Req)
  | spareStatus (r : Req)
  | rawCapture (r : Req)
  | selfTest (r : Req)
  | fwUpdate (r : Req)
  -- BAR0 and SMBus accesses
  | sqTailWrite (q : Fin 2) (v : U32)
  | cqHeadWrite (q : Fin 2) (v : U32)
  | queueBaseSizeWrite (q : Fin 2) (reg : QueueReg) (v : U32)
  | enable (q : Fin 2) (v : U32)
  | flush (t : Ps) (q : Fin 2) (entries : List EntryHdr)
  | keyLoad (v : U32)
  | keyClear (v : U32)
  | w1cClear (reg : W1cReg) (v hw : U32)
  | registerWrite (off size : Nat) (v : U32)
  | evtDataLoRead (t : Ps) (parityFails : Bool)
  | evtLostRead (dropInCycle : Bool)
  | evtMark
  | evtRewind
  | evtRelease
  | evtFlush (t : Ps)
  | smbKeyWrite (key : List Byte) (pec : Bool)
  | smbKeyClear (v : U16) (pec : Bool)
  | boardData (w : Option (List Byte)) (pec : Bool)
  | boardCommit (pec : Bool)
  | smbRegisterWrite (code : Byte) (v : U16) (pec : Bool)
  | boardRecordWritten
  -- transport events
  | pcieReset (k : PcieResetKind)
  | sqEntryFetch (t : Ps) (q : Fin 2) (e : Option SqEntry)
  | udpDatagram (t : Ps) (port : Fin 2) (id : Nat) (addrLow : U32) (bytes : List Byte)
  | udpGap (t : Ps) (id : Nat) (urgent : Bool)
  | deferRetry (t : Ps) (src : Source)
  | deferTimeout (t : Ps) (src : Source)
  | mirroredRequest (opcode : Byte) (r : Req)
  | mirrorReply (t : Ps) (status : Byte)
  | mirrorTimeout (t : Ps)
  | recovery (t : Ps) (cause : Byte) (unit : U16) (e0 e1 : List EntryHdr)
  -- launches, lines, light
  | launch
  | drainEnd
  | dasLine (d : LineIn)
  | laneSelfTestDone (t : Ps) (lane : Fin 9) (pass : Bool)
  | refLost (t : Ps) (percent : Nat)
  | refResume (t : Ps)
  | caseTempSample (t : Ps) (temp : Int)
  | ldShortDetect (t : Ps) (ch : Fin 8) (diff : Int)
  | soaOpenConfirm (t : Ps) (diff : Int)
  | soaProbe (t : Ps) (pass : Bool)
  | surveyDone (t : Ps) (d : SurveyIn)
  | surveyTimeout (t : Ps)
  | portSwitchSettled
  | ochreLine (d : OchreIn)
  | accumulationEnd
  | ochreUpdate (t : Ps) (ringDrop : List (Nat × Fin 4))
  | sidebandLost (t : Ps) (percent : Nat)
  | sidebandRecovered (t : Ps)
  | calStepDone (t : Ps) (d : CalIn)
  | calStepTimeout (t : Ps)
  | calDrift (t : Ps) (step : Fin 7) (value : Int)
  | tinEdge (t : Ps) (pin : Fin 4) (rising : Bool)
  | almPulseEnd (pin : Fin 8)
  | almsFrameEnd
  | alarmHoldoffEnd
  | readbackDone (t : Ps) (handle : U32)
  -- zone cores: events
  | zoneSampleToCore (c : Fin 32)
  | coreBudgetCut (c : Fin 32)
  | coreDeadline (ctx : Fin 256)
  | zcImemParity (t : Ps) (c : Fin 32) (addr : Nat)
  | zcDmemParity (t : Ps) (c : Fin 32) (addr : Nat)
  | zcRetired (t : Ps) (c : Fin 32)
  | coreMoveStart (t : Ps) (c : Fin 32)
  -- zone cores: instructions (R284)
  | nopInstr (c : Fin 32)
  | done (c : Fin 32)
  | repeatI (c : Fin 32) (n : BitVec 12)
  | setlc (c : Fin 32) (imm : BitVec 16)
  | dbnz (c : Fin 32) (t : BitVec 12)
  | br (c : Fin 32) (t : BitVec 12)
  | bcc (c : Fin 32) (cond : BitVec 4) (t : BitVec 12)
  | setb (c : Fin 32) (b : Fin 4) (cond : BitVec 4)
  | movi (c : Fin 32) (d : Fin 8) (imm : BitVec 16)
  | movhi (c : Fin 32) (d : Fin 8) (imm : BitVec 16)
  | mov (c : Fin 32) (dA dB : Fin 8)
  | movp (c : Fin 32) (p : Fin 8) (imm : BitVec 14)
  | movm (c : Fin 32) (m : Fin 4) (imm : BitVec 14)
  | movpd (c : Fin 32) (p d : Fin 8)
  | movdp (c : Fin 32) (d p : Fin 8)
  | addi (c : Fin 32) (d : Fin 8) (imm : BitVec 16)
  | add (c : Fin 32) (dA dB dC : Fin 8)
  | sub (c : Fin 32) (dA dB dC : Fin 8)
  | cmpd (c : Fin 32) (dA dB : Fin 8)
  | cmpi (c : Fin 32) (d : Fin 8) (imm : BitVec 16)
  | cmpa (c : Fin 32) (a b : Fin 4)
  | addp (c : Fin 32) (p : Fin 8) (imm : BitVec 14)
  | cmpad (c : Fin 32) (a : Fin 4) (d : Fin 8)
  | ld (c : Fin 32) (d : Fin 8) (m : MemOp)
  | ldw (c : Fin 32) (d : Fin 8) (m : MemOp)
  | st (c : Fin 32) (d : Fin 8) (m : MemOp)
  | stw (c : Fin 32) (d : Fin 8) (m : MemOp)
  | sta (c : Fin 32) (a : Fin 4) (sh : BitVec 6) (m : MemOp)
  | staw (c : Fin 32) (a : Fin 4) (sh : BitVec 6) (m : MemOp)
  | lda (c : Fin 32) (a : Fin 4) (m : MemOp)
  | clr (c : Fin 32) (a : Fin 4)
  | mac (c : Fin 32) (a : Fin 4) (m : MacOp)
  | msu (c : Fin 32) (a : Fin 4) (m : MacOp)
  | mac2 (c : Fin 32) (a : Fin 4) (m : MacOp)
  | macd (c : Fin 32) (a : Fin 4) (dA dB : Fin 8)
  | msud (c : Fin 32) (a : Fin 4) (dA dB : Fin 8)
  | addAcc (c : Fin 32) (a b : Fin 4)
  | subAcc (c : Fin 32) (a b : Fin 4)
  | shr (c : Fin 32) (a : Fin 4) (sh : BitVec 6)
  | shl (c : Fin 32) (a : Fin 4) (sh : BitVec 6)
  | absA (c : Fin 32) (a : Fin 4)
  | mova (c : Fin 32) (a : Fin 4) (d : Fin 8)
  | movd (c : Fin 32) (d : Fin 8) (a : Fin 4) (sh : BitVec 6)
  | clrst (c : Fin 32) (mask : BitVec 5)
  -- streams, time, interval unit
  | blockAgeExpiry (stream : Nat)
  | blockSend (t : Ps) (stream : Nat) (consumer : U32) (room : Bool)
  | evtForwardSend (t : Ps) (room : Bool)
  | secondTick (t : Ps)
  | ptpMessage (t : Ps) (domain : Fin 2) (m : PtpMsg)
  | announceTimeout (t : Ps) (domain : Fin 2)
  | lossTimeout (t : Ps) (domain : Fin 2)
  | domainRevert (t : Ps)
  | ocxoAverage (t : Ps) (freq : Int)
  | ocxoRdyChange (t : Ps) (level : Bool)
  | ocxoLost (t : Ps)
  | timEdge (t : Ps) (code : Byte) (falling : Bool)
  | timWindowExpiry (t : Ps) (ch : Fin 4)
  | timGateEnd (t : Ps) (ch : Fin 4)
  | timMarkerLost (t : Ps)
  | timSyncFail (t : Ps)
  -- auxiliary front end
  | auxResult (t : Ps) (ch : Fin 8) (raw : BitVec 24) (det : AuxDetect) (ringDrop : List (Nat × Fin 4))
  | amonVrefLow (t : Ps) (mv : Nat)
  -- record memory
  | refreshDue (ch : Fin 4) (bank : Fin 16) (idle : Bool)
  | scrubPass (t : Ps) (ch : Fin 4) (corrected : Nat)
  | memEccUncorr (t : Ps) (frame : Nat) (offset : Fin 1792) (reader : MemReader) (rec : Option Nat) (word : Nat)
  | phyFault (t : Ps) (channels : BitVec 4)
  | memTrainChannelDone (t : Ps) (d : TrainIn)
  | memTrainReq (t : Ps) (ch : Fin 4)
  | rtDropEpisodeEnd (t : Ps)
  -- faults, controllers, firmware
  | mgmtWatchdog (t : Ps)
  | mgmtLockstep (t : Ps)
  | mgmtTakeover (t : Ps)
  | mgmtRetestDone (t : Ps) (pass : Bool)
  | mgmtNoController (t : Ps)
  | commandPathRestart (t : Ps)
  | fwUpdateDone (t : Ps) (verified readBack : Bool)
  | selfTestDone (t : Ps) (d : SelfTestIn)
  -- the pair
  | heartbeatTx
  | heartbeatRx (t : Ps) (h : Heartbeat)
  | partnerLost (t : Ps)
  | pairLaneDown (t : Ps) (lane : Fin 2)
  | plinkUp (t : Ps) (h : PartnerHello)
  | thruWindowEnd (t : Ps) (slot : Fin 8) (power : Int) (delay : Nat)
  -- modes and power
  | modeChange (t : Ps)
  | wakeN (t : Ps)
  | wakeTimer (t : Ps)
  | wake (t : Ps) (b : BootIn)
  | dutyDwellEnd (t : Ps)
  | dutyLingerEnd (t : Ps)
  | thermalTrip (t : Ps) (evidence : Fin 4) (temp : Int)
  | tecLimit (t : Ps) (deviation current : Int)
  | refclkLost (t : Ps)
  | supplyFault (t : Ps) (supply : Fin 8) (mv us : Nat)
  | supplyRestored (t : Ps) (b : BootIn)
  | xtalFail (t : Ps) (stopped : Bool)
  | xtalRestored (t : Ps)
  | powerUp (t : Ps) (b : BootIn)
  | startUpAbort
  | powerDown
  | ethLinkDown (t : Ps) (port : Fin 2)
  | jtagInstructionExit (t : Ps) (b : BootIn)
  | ocxoSignalReturn (t : Ps)
  | ethLinkUp (t : Ps) (port : Fin 2)
  | selfRefreshReturn (ch : Fin 4)
  | rawCaptureCopyDone (t : Ps) (gap : Bool)
  | slewDone (t : Ps)
  | refResistorCheck (t : Ps)
  | perstNDeassert
deriving DecidableEq, Repr

end Sys2Proof
end

