-- ==== Sys2Proof/Decode.lean ====
section
/-! DEFINITION. Decode.lean: `decodeTableWord` (no row of the opcode table gives bits, so no word spells a command), and
the decoder and encoder of the zone cores' own 32-bit instruction words (R283, R284, R305), used by image loading and by
the instruction rows. Fields are read by division: bit i of a word is `w / 2^i % 2`. -/

namespace Sys2Proof

/-- The command that a table word spells: the rows give no bits. -/
def decodeTableWord (_nbits _w : Nat) : Option Instr := none

namespace Zc

/-- A register number of three bits, of two bits. -/
def fin8 (n : Nat) : Fin 8 := ⟨n % 8, Nat.mod_lt _ (by decide)⟩
def fin4 (n : Nat) : Fin 4 := ⟨n % 4, Nat.mod_lt _ (by decide)⟩

/-- Fields of R283: `a` [25:24], register [23:21], r2 [20:18], r3 [17:15], shift [14:9]. -/
def fA (w : Nat) : Nat := w / 16777216 % 4
def fR (w : Nat) : Nat := w / 2097152 % 8
def fR2 (w : Nat) : Nat := w / 262144 % 8
def fR3 (w : Nat) : Nat := w / 32768 % 8
def fSh (w : Nat) : Nat := w / 512 % 64
/-- Format L: space [20], p [19:17], modify [16:15]. -/
def fSpace (w : Nat) : Nat := w / 1048576 % 2
def fP (w : Nat) : Nat := w / 131072 % 8
def fMod (w : Nat) : Nat := w / 32768 % 4
/-- Format M: X modify [20:19], py [18:16], Y modify [15:14]. -/
def fXm (w : Nat) : Nat := w / 524288 % 4
def fPy (w : Nat) : Nat := w / 65536 % 8
def fYm (w : Nat) : Nat := w / 16384 % 4
/-- Format C: detector bit [17:16], condition [15:12]. -/
def fB (w : Nat) : Nat := w / 65536 % 4
def fCond (w : Nat) : Nat := w / 4096 % 16

/-- A listed condition (R285). -/
def condOk (c : Nat) : Bool := c < 8 || c = 14 || c = 15

/-- Answer when the reserved fields are 0 and the checks hold. -/
def when (b : Bool) (i : Instr) : Option Instr := if b then some i else none

/-- A load or store operand. -/
def memOp (w : Nat) : MemOp := { spaceY := fSpace w = 1, p := fin8 (fP w), mod := BitVec.ofNat 2 (fMod w) }
def macOp (w : Nat) : MacOp :=
  { px := fin8 (fR w), xmod := BitVec.ofNat 2 (fXm w), py := fin8 (fPy w), ymod := BitVec.ofNat 2 (fYm w) }

/-- Reserved fields of the formats: control (count or target alone), immediate with d or p, register forms. -/
def okC (w : Nat) : Bool := w % 67108864 < 4096
def okI (w : Nat) : Bool := fA w = 0 && w / 65536 % 32 = 0
def okI14 (w : Nat) : Bool := okI w && w / 16384 % 4 = 0
def okR1 (w : Nat) : Bool := w % 2097152 = 0
def okR2 (w : Nat) : Bool := w % 262144 = 0
def okL (w : Nat) : Bool := fA w = 0 && w % 32768 = 0 && fMod w ≠ 3
def okLa (w : Nat) : Bool := fR w = 0 && w % 512 = 0 && fMod w ≠ 3
def okM (w : Nat) : Bool := w % 16384 = 0 && fXm w ≠ 3 && fYm w ≠ 3

/-- R284 opcodes 0x00-0x07: control. -/
def control (c : Fin 32) (op w : Nat) : Option Instr :=
  if op = 0x00 then when (w % 67108864 = 0) (.nopInstr c)
  else if op = 0x01 then when (w % 67108864 = 0) (.done c)
  else if op = 0x02 then when (okC w) (.repeatI c (BitVec.ofNat 12 (w % 4096)))
  else if op = 0x03 then when (w % 67108864 < 65536) (.setlc c (BitVec.ofNat 16 (w % 65536)))
  else if op = 0x04 then when (okC w) (.dbnz c (BitVec.ofNat 12 (w % 4096)))
  else if op = 0x05 then when (okC w) (.br c (BitVec.ofNat 12 (w % 4096)))
  else if op = 0x06 then when (w % 67108864 < 65536 && condOk (fCond w)) (.bcc c (BitVec.ofNat 4 (fCond w)) (BitVec.ofNat 12 (w % 4096)))
  else if op = 0x07 then when (w % 67108864 < 262144 && w % 4096 = 0 && condOk (fCond w)) (.setb c (fin4 (fB w)) (BitVec.ofNat 4 (fCond w)))
  else none

/-- R284 0x08-0x0F: moves and immediates. -/
def move (c : Fin 32) (op w : Nat) : Option Instr :=
  if op = 0x08 then when (okI w) (.movi c (fin8 (fR w)) (BitVec.ofNat 16 (w % 65536)))
  else if op = 0x09 then when (okI w) (.movhi c (fin8 (fR w)) (BitVec.ofNat 16 (w % 65536)))
  else if op = 0x0A then when (fA w = 0 && okR2 w) (.mov c (fin8 (fR w)) (fin8 (fR2 w)))
  else if op = 0x0B then when (okI14 w) (.movp c (fin8 (fR w)) (BitVec.ofNat 14 (w % 16384)))
  else if op = 0x0C then when (okI14 w && fR w < 4) (.movm c (fin4 (fR w)) (BitVec.ofNat 14 (w % 16384)))
  else if op = 0x0D then when (fA w = 0 && okR2 w) (.movpd c (fin8 (fR w)) (fin8 (fR2 w)))
  else if op = 0x0E then when (fA w = 0 && okR2 w) (.movdp c (fin8 (fR w)) (fin8 (fR2 w)))
  else if op = 0x0F then when (okI w) (.addi c (fin8 (fR w)) (BitVec.ofNat 16 (w % 65536)))
  else none

/-- R284 0x10-0x16: 32-bit arithmetic, compares, `addp`. -/
def arith (c : Fin 32) (op w : Nat) : Option Instr :=
  if op = 0x10 then when (fA w = 0 && w % 32768 = 0) (.add c (fin8 (fR w)) (fin8 (fR2 w)) (fin8 (fR3 w)))
  else if op = 0x11 then when (fA w = 0 && w % 32768 = 0) (.sub c (fin8 (fR w)) (fin8 (fR2 w)) (fin8 (fR3 w)))
  else if op = 0x12 then when (fA w = 0 && okR2 w) (.cmpd c (fin8 (fR w)) (fin8 (fR2 w)))
  else if op = 0x13 then when (okI w) (.cmpi c (fin8 (fR w)) (BitVec.ofNat 16 (w % 65536)))
  else if op = 0x14 then when (okR1 w && fR w < 4) (.cmpa c (fin4 (fA w)) (fin4 (fR w)))
  else if op = 0x15 then when (okI14 w) (.addp c (fin8 (fR w)) (BitVec.ofNat 14 (w % 16384)))
  else if op = 0x16 then when (okR1 w) (.cmpad c (fin4 (fA w)) (fin8 (fR w)))
  else none

/-- R284 0x18-0x1E: loads and stores. -/
def memory (c : Fin 32) (op w : Nat) : Option Instr :=
  if op = 0x18 then when (okL w) (.ld c (fin8 (fR w)) (memOp w))
  else if op = 0x19 then when (okL w) (.ldw c (fin8 (fR w)) (memOp w))
  else if op = 0x1A then when (okL w) (.st c (fin8 (fR w)) (memOp w))
  else if op = 0x1B then when (okL w) (.stw c (fin8 (fR w)) (memOp w))
  else if op = 0x1C then when (okLa w && fSh w ≤ 39) (.sta c (fin4 (fA w)) (BitVec.ofNat 6 (fSh w)) (memOp w))
  else if op = 0x1D then when (okLa w && fSh w ≤ 39) (.staw c (fin4 (fA w)) (BitVec.ofNat 6 (fSh w)) (memOp w))
  else if op = 0x1E then when (okLa w && fSh w = 0) (.lda c (fin4 (fA w)) (memOp w))
  else none

/-- R284 0x20-0x27: accumulators. -/
def accum (c : Fin 32) (op w : Nat) : Option Instr :=
  if op = 0x20 then when (w % 16777216 = 0) (.clr c (fin4 (fA w)))
  else if op = 0x21 then when (okM w) (.mac c (fin4 (fA w)) (macOp w))
  else if op = 0x22 then when (okM w) (.msu c (fin4 (fA w)) (macOp w))
  else if op = 0x23 then when (okM w) (.mac2 c (fin4 (fA w)) (macOp w))
  else if op = 0x24 then when (okR2 w) (.macd c (fin4 (fA w)) (fin8 (fR w)) (fin8 (fR2 w)))
  else if op = 0x25 then when (okR2 w) (.msud c (fin4 (fA w)) (fin8 (fR w)) (fin8 (fR2 w)))
  else if op = 0x26 then when (okR1 w && fR w < 4) (.addAcc c (fin4 (fA w)) (fin4 (fR w)))
  else if op = 0x27 then when (okR1 w && fR w < 4) (.subAcc c (fin4 (fA w)) (fin4 (fR w)))
  else none

/-- R284 0x28-0x2D: shifts, narrowing, status. -/
def accum2 (c : Fin 32) (op w : Nat) : Option Instr :=
  if op = 0x28 then when (w % 16777216 = fSh w * 512 && 1 ≤ fSh w && fSh w ≤ 39) (.shr c (fin4 (fA w)) (BitVec.ofNat 6 (fSh w)))
  else if op = 0x29 then when (w % 16777216 = fSh w * 512 && 1 ≤ fSh w && fSh w ≤ 39) (.shl c (fin4 (fA w)) (BitVec.ofNat 6 (fSh w)))
  else if op = 0x2A then when (w % 16777216 = 0) (.absA c (fin4 (fA w)))
  else if op = 0x2B then when (okR1 w) (.mova c (fin4 (fA w)) (fin8 (fR w)))
  else if op = 0x2C then when (w % 2097152 = fSh w * 512 && fSh w ≤ 39) (.movd c (fin8 (fR w)) (fin4 (fA w)) (BitVec.ofNat 6 (fSh w)))
  else if op = 0x2D then when (w % 67108864 < 32) (.clrst c (BitVec.ofNat 5 (w % 32)))
  else none

/-- The instruction a 32-bit word spells (R283-R285), for core `c`: none for an opcode not listed, a reserved field that is
not 0, a modify 0b11, a reserved condition, or a shift out of range. -/
def decode (c : Fin 32) (w : Nat) : Option Instr :=
  let op := w / 67108864 % 64
  if op < 0x08 then control c op w
  else if op < 0x10 then move c op w
  else if op < 0x18 then arith c op w
  else if op < 0x20 then memory c op w
  else if op < 0x28 then accum c op w
  else accum2 c op w

/-- The bits of a load or store operand, of the operands of a MAC. -/
def memBits (m : MemOp) : Nat := (if m.spaceY then 1048576 else 0) + m.p.val * 131072 + m.mod.toNat * 32768
def macBits (m : MacOp) : Nat := m.px.val * 2097152 + m.xmod.toNat * 524288 + m.py.val * 65536 + m.ymod.toNat * 16384

/-- An opcode in [31:26]. -/
def op (n : Nat) : Nat := n * 67108864
def rA (a : Fin 4) : Nat := a.val * 16777216
def r1 (d : Fin 8) : Nat := d.val * 2097152
def r1a (a : Fin 4) : Nat := a.val * 2097152
def r2 (d : Fin 8) : Nat := d.val * 262144
def r3 (d : Fin 8) : Nat := d.val * 32768
def rSh (sh : BitVec 6) : Nat := sh.toNat * 512

/-- The word of a zone-core instruction (R283, R284); none for a row that is no instruction. -/
def encode : Instr → Option Nat
  | .nopInstr _ => some 0
  | .done _ => some (op 0x01)
  | .repeatI _ n => some (op 0x02 + n.toNat)
  | .setlc _ imm => some (op 0x03 + imm.toNat)
  | .dbnz _ t => some (op 0x04 + t.toNat)
  | .br _ t => some (op 0x05 + t.toNat)
  | .bcc _ cond t => some (op 0x06 + cond.toNat * 4096 + t.toNat)
  | .setb _ b cond => some (op 0x07 + b.val * 65536 + cond.toNat * 4096)
  | .movi _ d imm => some (op 0x08 + r1 d + imm.toNat)
  | .movhi _ d imm => some (op 0x09 + r1 d + imm.toNat)
  | .mov _ dA dB => some (op 0x0A + r1 dA + r2 dB)
  | .movp _ p imm => some (op 0x0B + r1 p + imm.toNat)
  | .movm _ m imm => some (op 0x0C + r1a m + imm.toNat)
  | .movpd _ p d => some (op 0x0D + r1 p + r2 d)
  | .movdp _ d p => some (op 0x0E + r1 d + r2 p)
  | .addi _ d imm => some (op 0x0F + r1 d + imm.toNat)
  | .add _ dA dB dC => some (op 0x10 + r1 dA + r2 dB + r3 dC)
  | .sub _ dA dB dC => some (op 0x11 + r1 dA + r2 dB + r3 dC)
  | .cmpd _ dA dB => some (op 0x12 + r1 dA + r2 dB)
  | .cmpi _ d imm => some (op 0x13 + r1 d + imm.toNat)
  | .cmpa _ a b => some (op 0x14 + rA a + r1a b)
  | .addp _ p imm => some (op 0x15 + r1 p + imm.toNat)
  | .cmpad _ a d => some (op 0x16 + rA a + r1 d)
  | .ld _ d m => some (op 0x18 + r1 d + memBits m)
  | .ldw _ d m => some (op 0x19 + r1 d + memBits m)
  | .st _ d m => some (op 0x1A + r1 d + memBits m)
  | .stw _ d m => some (op 0x1B + r1 d + memBits m)
  | .sta _ a sh m => some (op 0x1C + rA a + memBits m + rSh sh)
  | .staw _ a sh m => some (op 0x1D + rA a + memBits m + rSh sh)
  | .lda _ a m => some (op 0x1E + rA a + memBits m)
  | .clr _ a => some (op 0x20 + rA a)
  | .mac _ a m => some (op 0x21 + rA a + macBits m)
  | .msu _ a m => some (op 0x22 + rA a + macBits m)
  | .mac2 _ a m => some (op 0x23 + rA a + macBits m)
  | .macd _ a dA dB => some (op 0x24 + rA a + r1 dA + r2 dB)
  | .msud _ a dA dB => some (op 0x25 + rA a + r1 dA + r2 dB)
  | .addAcc _ a b => some (op 0x26 + rA a + r1a b)
  | .subAcc _ a b => some (op 0x27 + rA a + r1a b)
  | .shr _ a sh => some (op 0x28 + rA a + rSh sh)
  | .shl _ a sh => some (op 0x29 + rA a + rSh sh)
  | .absA _ a => some (op 0x2A + rA a)
  | .mova _ a d => some (op 0x2B + rA a + r1 d)
  | .movd _ d a sh => some (op 0x2C + rA a + r1 d + rSh sh)
  | .clrst _ mask => some (op 0x2D + mask.toNat)
  | _ => none

end Zc
end Sys2Proof
end

