-- ==== Sys2Proof/Config.lean ====
section
/-! DEFINITION. Config.lean: what an implementation fixes and the spec does not state: the free values of the model
(opaque constants: nothing in Lean can evaluate them) and the constants the spec gives every device. -/

namespace Sys2Proof

/-- What the Lorentzian fit of one zone spectrum answers (R161, R162). `start`, `centre`, `width`, `sigma` and `crb` in kHz;
`snr` in 0.01 dB; `weak`: the peak A lies below 2 sigma at the peak bin. -/
structure FitOut where
  converged : Bool
  start     : Int
  centre    : Int
  width     : Nat
  snr       : Int
  weak      : Bool
  sigma     : Nat
  crb       : Nat
  iter      : Nat
deriving DecidableEq, Repr, Inhabited

namespace Config

/-- FREE VALUE (log 10): the coefficients of the channeliser's prototype filter. R100 bounds its ripple and its rejection and
gives no coefficients. -/
opaque prototype : List Rat
/-- FREE VALUE (log 10): the coefficients by which a lane interpolates at a fraction of a sample (R105), by the fraction in
1/256 sample. -/
opaque fracTaps : Nat → List Rat
/-- FREE VALUE (log 10): the coefficients of Ochre's decimation from 2.0 GS/s to 500 MS/s (R148). -/
opaque decimator : List Rat
/-- FREE VALUE (log 10): D(t) of R108, in turns, from the three outputs of the reference interferometer: the phase and
amplitude constants are measured by the `REFSCALE` step and not given. -/
opaque refPhase : RefSample → Rat
/-- FREE VALUE (log 11): the smoothing of the averaged trace that R36 speaks of. -/
opaque smooth : List Nat → List Nat
/-- FREE VALUE (log 12): the factory amplifier table held in fuses (R64): the total optical pump power, uW, for a launch power
in 0.1 dBm. -/
opaque ampPump : Int → Nat
/-- FREE VALUE (log 12): the optical power, uW, of pump A, B or C (0-2) at a current in uA, where no binning gives it. -/
opaque pumpPower : Nat → Nat → Nat
/-- FREE VALUE (log 12): the compliance limit of a channel, mV. R71 gives 4.0 V for the pumps only. -/
opaque complianceMv : Nat → Nat
/-- FREE VALUE (log 15): one sample of a channel's readings (R73): anode and return current (uA), output voltage (mV); by
channel, free index and sample. -/
opaque driveSample : Nat → Nat → Nat → Int × Int × Nat
/-- FREE VALUE (log 11): what one unit of compressed power stands for, by `RX_ATTEN`: received energy in a resolution cell, J (the
calibrated receiver gain of R29), and received optical power, W (R121). -/
opaque rxEnergy : Nat → Rat
opaque rxPower : Nat → Rat
/-- FREE VALUE (log 11): the measured quantum efficiency of R29. -/
opaque quantumEff : Rat
/-- FREE VALUE (log 13): the damping of the Levenberg-Marquardt method of R161, by iteration, and its first amplitude (in
spectrum units) and width (kHz). -/
opaque fitDamping : Nat → Rat
opaque fitStart : List Rat → Rat × Rat
/-- FREE VALUE (log 13): the Ochre receiver's noise floor before any `SIDEBAND` step has measured it (R171), power of one gate
summed over bins, per sample of its window. -/
opaque ochreFloor : Rat
/-- FREE VALUE (log 15): a sensor reading (sensor number, free index): die temperatures, power, supply voltages,
currents, which the spec says the device measures and gives no number for (R73, R380, R564). -/
opaque reading : Nat → Nat → BitVec 32
/-- FREE VALUE (log 16): device data in the saved blob (R199): by step the bytes of a section that no run has written, and, as
step 7, what the quality region holds beside the figures: offset. -/
opaque blobByte : Nat → Nat → Byte
/-- FREE VALUE (log 16): device data of a saved coder state (R326 bytes 32-59): stream, index, free index. -/
opaque coderByte : Nat → Nat → Nat → Byte
/-- FREE VALUE (log 207): does the coder state of a stream fail its parity at a line (R321)? By free index. -/
opaque coderParity : Nat → Bool
/-- FREE VALUE (log 17): the version of the running firmware (R379), by image (false A, true B). -/
opaque fwVersion : Bool → U32
/-- FREE VALUE (log 18): bytes that a raw capture of tap 1, 2 or 3 takes (R141): the I and Q of channel outputs, compressed samples
and combined phasors, for which the spec gives no scale; tap, free index, byte index. -/
opaque rawByte : Nat → Nat → Nat → Byte
/-- FREE VALUE (log 18): the converter codes a raw capture of tap 0 or 4 takes: tap, free index, value index. -/
opaque rawCode : Nat → Nat → Nat → U16
/-- FREE VALUE (log 19): the device-time offset at power-up, ps (R387 states none): by the free index. -/
opaque powerUpTime : Nat → Nat
/-- FREE VALUE (log 20): the drive current (uA) that the lock, sideband and temperature loops choose for a channel (R71). -/
opaque driveCurrent : Nat → Nat → Int
/-- FREE VALUE (log 20): the total optical pump power (uW) that the closed loop of R65 asks for in one launch period. -/
opaque loopPower : Nat → Nat
/-- FREE VALUE (log 20): the current (uA) that gives pump A, B or C (0-2) a power (uW), where no binning gives it. -/
opaque pumpDrive : Nat → Nat → Int
/-- FREE VALUE (log 20): the currents of the leakage test (R75) that `SET_MODE` runs: channel driven, neighbour, current that
reached it (nA); by the free index. -/
opaque leakTest : Nat → List (Nat × Nat × Nat)
/-- FREE VALUE (log 15): do the two conditions of R539 (die temperature, lock residual) hold at a boundary? By the free
index. -/
opaque thermalSettled : Nat → Bool
/-- FREE VALUE (log 202): how a survey's launch levels go (R35), by its free index: the 1 dB steps up through which the near-end
backscatter holds, the 0.1 dB steps down that the linearity test takes, and the lines launched at each of these. -/
opaque surveySteps : Nat → Nat
opaque surveyFalls : Nat → Nat
opaque surveyLines : Nat → Nat
/-- FREE VALUE (log 216): the power of the launches of the `DELAY` step, 0.1 dBm, where it lies at or below `APR_LEVEL` (R182): by
the free index. -/
opaque delayPower : Nat → Int
/-- FREE VALUE (log 23): the header fields of a submission entry whose read failed (R356): opcode, tag and sequence
number of the completion, by the free index. -/
opaque headerLost : Nat → Nat
/-- Does a posted write of a reply payload fail on the host's side (R354)? (free value, log 209) -/
opaque replyWriteFails : Nat → Bool
/-- FREE VALUE (log 21): the version that the header of a firmware image carries (R497); its layout is not given. -/
opaque imageVersion : List Byte → U32

/-- FREE VALUE (log 25): which free entry of the record table a record takes (R248), by the free index. -/
opaque entryPick : Nat → Nat
/-- FREE VALUE (log 25): a byte of pool memory that no line of the record was written to (R254): handle, offset. -/
opaque poolByte : Nat → Nat → Byte

/-- FREE VALUE (log 28): the `GEN` field of a status block (R568), by block and free index: how often the device has
rewritten the block is timing. -/
opaque mirrorGen : Nat → Nat → BitVec 14

/-- FREE VALUE (log 187): the PCI vendor and the JEDEC manufacturer identity assigned to the maker (R550, R566). -/
opaque vendorId : U16
opaque jedecId : BitVec 11

/-- FREE VALUE (log 182): from the origin of R232 to the edge and the frame of an alarm, ps, by the free index: what exceeds
350 ns wraps. -/
opaque alarmLag : Nat → Nat

/-- The speed of light in vacuum, m/s (01, table of symbols). -/
def lightSpeed : Nat := 299792458
/-- Largest sample index of a port (R14). -/
def maxSample : Nat := 262143
/-- DAS zone bound of R22. -/
def maxDasZones : Nat := 131072
/-- DTS zone bound of R22. -/
def maxDtsZones : Nat := 65536
/-- Aggregate zone-sample bound of R24, per second. -/
def maxZoneRate : Nat := 1000000000
/-- Trigger-engine load bound of R225, per second. -/
def maxTriggerLoad : Nat := 4000000000
/-- Gate spectra bound of R155, per second. -/
def maxGateRate : Nat := 250000000
/-- The 25 microseconds of R56, in ps. -/
def leadTime : Nat := 25000000
/-- The guard of R17, in ps. -/
def guardTime : Nat := 5000000
/-- Staging buffer size (R328). -/
def stageBytes : Nat := 2097216
/-- Threshold memory (R233). -/
def threshEntries : Nat := 1048576
/-- Firmware log entries (R385). -/
def logEntries : Nat := 4096

end Config
end Sys2Proof
end

