-- ==== Sys2Proof/Machine/State.lean ====
section
/-! DEFINITION. Machine/State.lean: every register, table, queue, counter and mode the spec gives the device, as plain
data; the outcome types; the state after reset (log 1). Each structure's docstring names the rules it holds. -/

namespace Sys2Proof.Machine

open Sys2Proof

/-- The modes of R380, in the order of their codes. -/
inductive Mode where
  | dormant | sleepWatch | standby | warm | acoustic | survey | full | calibrate
deriving DecidableEq, Repr, Inhabited

/-- A reply (R349). `payload` ends with its CRC-32C when it is not empty. -/
structure Reply where
  opcode  : Byte
  status  : Byte
  tag     : U16
  epoch   : U16
  seq     : U32
  partner : Byte
  flags   : Byte
  payload : List Byte
deriving DecidableEq, Repr, Inhabited

/-- A fetched request not yet answered (R356, R360): the command row that runs it consumes it. `status`: the status of
the first failing check of R350 steps 1-5, in which case only an answer is due. -/
structure Fetched where
  src    : Source
  opcode : Byte
  tag    : U16
  seq    : U32
  flags  : Byte
  target : U16
  rsv    : U16
  reply  : U64
  payload : List Byte
  failed : Option Byte
  epoch  : U16
  /-- its reply is not entered in the reply cache: a `BAD_CHECK` (R350, R360) -/
  uncached : Bool
deriving DecidableEq, Repr

/-- What the device sends to the outside, newest first in `State.outbox`. -/
inductive Out where
  /-- a reply datagram (R359) and its HMAC trailer (R363) -/
  | reply (src : Source) (r : Reply) (trailer : List Byte)
  /-- a reply payload written to `REPLY_ADDR` (R354); then a completion-queue entry (R354) and whether its reply payload was written, was lost -/
  | replyWrite (q : Nat) (addr : U64) (payload : List Byte)
  | cqEntry (q : Nat) (pos : Nat) (phase : Bool) (sqHead : Nat) (written lost : Bool) (r : Reply)
  /-- an MSI-X request of a vector (R555) -/
  | msix (v : Nat)
  /-- the value a BAR0 read returns (R552) -/
  | regRead (off : Nat) (v : U32)
  /-- SMBus block data read (R564) -/
  | smbData (d : List Byte)
  /-- a Delay_Req of a domain's tracker (R391): Ethernet port, domain number, instant -/
  | delayReq (port number : Nat) (at_ : Ps)
  /-- an edge on an ALM pin (R227): pin, asserted, instant -/
  | almPin (pin : Nat) (asserted : Bool) (at_ : Ps)
  /-- an `ALMS` frame (R230): its word, the instant of its start, its code groups in the order sent, bit `a` the highest -/
  | almsFrame (w : U32) (at_ : Ps) (groups : List (BitVec 10))
  /-- idle on the `ALMS` pair from an instant on (R230): the code groups of the pair that repeats until the next frame -/
  | almsIdle (at_ : Ps) (pair : List (BitVec 10))
  /-- a posted write to host memory for a stream (R322): a block into its slot, then `PRODUCER` -/
  | hostWrite (stream : Nat) (addr : U64) (bytes : List Byte)
  /-- a stream or event-forward datagram (R323, R340) from port 39401: Ethernet port, destination address and port, bytes -/
  | datagram (stream port : Nat) (addr : List Byte) (to_ : Nat) (bytes : List Byte)
  /-- a pair heartbeat (R507) -/
  | heartbeat (h : Heartbeat)
  /-- a request forwarded to the partner (R372), and the answer to one of its requests -/
  | mirror (r : Fetched)
  | mirrorAnswer (opcode status : Byte)
  /-- the boundary agreed with the partner by `CASTLE` (R514) -/
  | castle (action : Byte) (count : Nat)
  /-- a launch (R49): slot, launch count, instant, level in 0.1 dBm; waveform (R53, R54): direct pulse, length in ps,
  bandwidth in MHz, taper in per cent, falling; lead of the modulator over the instant in steps of 1/256 sample (R15) -/
  | launch (slot : Nat) (count : Nat) (at_ : Ps) (level : Int) (pulse : Bool) (tp bw taper : Nat) (falling : Bool)
      (lead : Int)
  /-- a refresh command to a bank (R455): channel, bank -/
  | refresh (ch bank : Nat)
deriving DecidableEq, Repr

/-- A PCIe queue pair (R353-R356). -/
structure PQueue where
  tail     : U16 := 0
  head     : U16 := 0
  sqBase   : U64 := 0
  cqBase   : U64 := 0
  enable   : Bool := false
  sizeLog2 : Nat := 4
  qerr     : Bool := false
  fetchErr : Bool := false
  sqHead   : Nat := 0
  cqPos    : Nat := 0
  phase    : Bool := true
  /-- SEQ of the last entry whose header passed; none: any SEQ may come (R365) -/
  lastSeq  : Option U32 := none
  /-- QUEUE_ERROR queued since QERR was last cleared (R365) -/
  errTold  : Bool := false
  /-- the tail latched at step 1 of a recovery (R374) -/
  latched  : Nat := 0
  /-- a FLUSH written during a recovery, carried out after it (R357, R376): the SQ head and tail it found and the headers of the
  entries between them -/
  flush    : Option (Nat × Nat × List EntryHdr) := none
deriving DecidableEq, Repr, Inhabited

/-- One of a UDP source's two queues (R360). `cache`: the last 32 replies, newest first; `held`: requests at a
distance 1-31, with the instant each arrived. -/
structure UQueue where
  expect : Option U32 := none
  cache  : List (U32 × Reply) := []
  held   : List (Ps × Fetched) := []
deriving DecidableEq, Repr, Inhabited

/-- A UDP source (R359); `used`: the stamp of its last request, for eviction. -/
structure USource where
  id     : Nat
  used   : Nat
  normal : UQueue := {}
  urgent : UQueue := {}
deriving DecidableEq, Repr, Inhabited

/-- A command held under R370 (`busy`) or waiting as a `FENCE` command (R367: what it still waits for). -/
structure HeldCmd where
  req   : Fetched
  first : Ps
  /-- its last attempt (R370) -/
  tried : Ps
deriving DecidableEq, Repr

/-- A waiting `FENCE` (R367): `toFetch` entries per PCIe queue still unfetched of those posted when it executed, `cmds` the
source and sequence number of each command received before it, `waited` for its reply. -/
structure FenceWait where
  req     : Fetched
  toFetch : Nat × Nat
  cmds    : List (Source × U32)
  waited  : U32
deriving DecidableEq, Repr

/-- A mirrored request whose partner status is awaited (R372): the reply, ready but for that status. -/
structure MirrorWait where
  req   : Fetched
  reply : Reply
  sent  : Ps
deriving DecidableEq, Repr

/-- An item an aborted long command or a cause of a recovery leaves to be queued after `RECOVERED` (R487): fault code,
unit, evidence, arguments; or a `TAKEOVER` body (kind, cause, slots before, slots after, first launch). -/
inductive FollowItem where
  | fault (code unit : Nat) (evidence : Byte) (a0 a1 : U32) (retired : Bool)
  | takeover (kind cause before after : Byte) (first : U64)
deriving DecidableEq, Repr

/-- A recovery between steps 1 and 5 of R374, or one queued behind it (R492). -/
structure RecoveryRec where
  cause    : Byte
  unit     : U16
  started  : Ps
  oldEpoch : U16
  follow   : List FollowItem
deriving DecidableEq, Repr, Inhabited

/-- The command path (R345-R377, R384, R602). -/
structure CmdState where
  q0 : PQueue := {}
  q1 : PQueue := {}
  epoch        : U16 := 1
  recoveries   : U16 := 0
  authRequired : Bool := false
  keyStage     : List Byte := List.replicate 32 0
  key          : Option (List Byte) := none
  sources      : List USource := []
  fetched      : List Fetched := []
  held         : List HeldCmd := []
  fences       : List FenceWait := []
  mirror       : Option MirrorWait := none
  authFail     : U32 := 0
  udpDiscarded : U32 := 0
  cmdsDone     : U32 := 0
  /-- changes scheduled by a command of a queue and not yet applied (R364): source, sequence number, boundary instant -/
  unsettled    : List (Source × U32 × Ps) := []
  /-- long commands accepted and not yet answered (R368): opcode, source, sequence number -/
  longs        : List (Byte × Source × U32) := []
  recovery     : Option RecoveryRec := none
  queuedRec    : List RecoveryRec := []
  /-- datagrams buffered during a recovery, per Ethernet port (R602), oldest first: source id, low address, bytes -/
  buffer0      : List (Nat × U32 × List Byte) := []
  buffer1      : List (Nat × U32 × List Byte) := []
  /-- PCIe requests fetched before a PCIe reset, whose replies are not written (R554) -/
  orphans      : List (Source × U32) := []
  node         : BitVec 14 := 0
  /-- the queues that commands have been taken from, the latest first (R366) -/
  turn         : List Source := []
deriving DecidableEq, Repr, Inhabited

/-- An item in the event queue (R331): its words, which of them fail parity, the cycle its last word is in, the cycle of its
decision and its rank among the items of that cycle (R333). -/
structure EvtItem where
  words  : List U64
  poison : List Bool
  doneAt : Nat
  cyc    : Nat
  rank   : Nat
deriving DecidableEq, Repr, Inhabited

/-- The event queue (R331-R340). `items`: from the release point on. `mark`, `rdItem`: item indices; `rdWord`: word of
the read point in its item. -/
structure EvqState where
  items   : List EvtItem := []
  mark    : Nat := 0
  rdItem  : Nat := 0
  rdWord  : Nat := 0
  dataHi  : U32 := 0
  tag     : U32 := 0
  level   : Nat := 1
  lost    : U32 := 0
  /-- cycle of the last release or flush and the words it freed (R333: they count from the next cycle) -/
  relCycle : Nat := 0
  relWords : Nat := 0
  /-- items awaiting forwarding (R340) and the datagram count -/
  forward : List EvtItem := []
  fwdSeq  : U32 := 0
  /-- stream 0x0101 runs (R340) -/
  fwdOn   : Bool := false
deriving DecidableEq, Repr, Inhabited

/-- An entry of the firmware log (R385). -/
structure LogEntry where
  index : U32
  sec   : U32
  nsec  : U32
  epoch : U16
  code  : U16
  arg   : U32
deriving DecidableEq, Repr, Inhabited

/-- An entry of the fault table (R518). -/
structure FaultEntry where
  code    : Nat
  cls     : Byte
  unread  : Bool
  retired : Bool
  count   : U32
  lastSec : U32
  lastArg : U32
deriving DecidableEq, Repr, Inhabited

/-- Faults and the log (R385, R479-R491, R518). -/
structure FaultState where
  table     : List FaultEntry := []
  log       : List LogEntry := []
  logNext   : U32 := 0
  unread    : Bool := false
  latch     : Bool := false
  permanent : Bool := false
  fatalCode : Option Nat := none
  /-- state-bound codes whose condition lasts (R486) -/
  bound     : List Nat := []
deriving DecidableEq, Repr, Inhabited

/-- The management controllers and firmware images (R494-R501). -/
structure MgmtState where
  activeB    : Bool := false
  ready      : Bool := true
  retiredA   : Bool := false
  retiredB   : Bool := false
  /-- failure detected, cause code of the `TAKEOVER` item (R494), takeover due -/
  failed     : Option Byte := none
  failedAt   : Ps := 0
  /-- a failed controller under test (R495) -/
  retest     : Bool := false
  /-- no controller runs: rebooting (R496) -/
  down       : Bool := false
  bootRom    : Bool := false
  validA     : Bool := true
  validB     : Bool := true
  runningB   : Bool := false
  preferredB : Bool := false
  /-- version of the image last written to a slot; none: the one the slot came with -/
  versionA   : Option U32 := none
  versionB   : Option U32 := none
  /-- slot and version of the image whose digest is held (R527) -/
  digest     : Option (Bool × Option U32) := some (false, none)
  /-- `FW_UPDATE` in progress: tag, action, image (none: activate only), readback verified -/
  update     : Option (U16 × Byte × Option (List Byte) × Bool) := none
  /-- `SELF_TEST` in progress: tag, tests -/
  selfTest   : Option (U16 × Byte) := none
  /-- a memory disable ended its test 0 (R502) -/
  selfTestCut : Bool := false
deriving DecidableEq, Repr, Inhabited

/-- Progress of the pair (R505). -/
inductive PairPhase where
  | unconfigured | syncing | paired | solo | yielded | linkLost
deriving DecidableEq, Repr, Inhabited

/-- A test of a partner slot after the partner was declared lost (R509). -/
structure ThruTest where
  slot    : Nat
  done    : Bool := false
  present : Bool := false
deriving DecidableEq, Repr, Inhabited

/-- The Castling pair (R503-R523). -/
structure PairState where
  role        : BitVec 2 := 0
  autoTake    : Bool := true
  thruCheck   : Bool := true
  routeLen    : Nat := 0
  partnerNode : BitVec 14 := 0
  phase       : PairPhase := .unconfigured
  partnerState : Byte := 0xFF
  thruLost    : Bool := false
  split       : Bool := false
  lane0       : Bool := false
  lane1       : Bool := false
  aligned     : Bool := false
  partnerHeld : Int := 0
  partnerMode : Byte := 0
  /-- the partner runs FULL, a calibration run from FULL included (R192, R505) -/
  partnerFull : Bool := false
  alignPs     : Int := 0
  partnerEnd  : Option Nat := none
  /-- through-light windows measured since pairing: power, delay, newest first, at most 256 (R508) -/
  thruHist    : List (Int × Nat) := []
  absent      : Nat := 0
  partnerEpoch : U16 := 0
  hbMissed    : U32 := 0
  takeovers   : U32 := 0
  lastHb      : Ps := 0
  /-- slots owned now (R505) -/
  owned       : Byte := 0xFF
  /-- tests running after a declaration of loss (R509), the launch counts of b1 and b2, cause of the loss -/
  tests       : List ThruTest := []
  lossCount   : Option Nat := none
  lossCause   : Byte := 0
  /-- a `CASTLE` in progress: action, launch count of H, whether this device commanded it (R514) -/
  castle      : Option (Byte × Nat × Bool) := none
  /-- a yielded device's survey deferred to the handback (R513, R514) -/
  deferSurvey : Bool := false
deriving DecidableEq, Repr, Inhabited

/-- A mode transition in progress (R534-R537). -/
structure Transition where
  from_   : Mode
  to_     : Mode
  cause   : Byte
  tag     : U16
  /-- when it began: execution of the command, or the wake request -/
  began   : Ps := 0
  /-- it does not end before this instant: the boundary, or the end of the drain (R535) -/
  due     : Ps := 0
  survey  : Bool := false
  mcFlags : Byte := 0
  /-- status that stops the entry (R38, R543) -/
  fail    : Option Nat := none
deriving DecidableEq, Repr, Inhabited

/-- The wake configuration (R540, R544, R548). -/
structure WakeCfg where
  timerMode : Mode := .standby
  wakeNMode : Mode := .standby
  auxMode   : Mode := .standby
  duty      : Bool := false
  period    : Nat := 0
  offset    : Nat := 0
  dwellUpd  : Nat := 0
  dwellS    : Nat := 0
  lingerS   : Nat := 0
deriving DecidableEq, Repr, Inhabited

/-- A duty return (R544). -/
inductive DutyState where
  | none | dwell (updatesLeft : Nat) (until_ : Ps) | linger (until_ : Ps)
deriving DecidableEq, Repr, Inhabited

/-- Modes, sleep and supplies (R525-R549, R593-R598). -/
structure PowerState where
  mode       : Mode := .standby
  trans      : Option Transition := none
  thermalCoarse : Bool := false
  /-- the wake or `SET_MODE` that the 20 s of R539 run from -/
  thermalSince : Ps := 0
  tecLimited : Bool := false
  wake       : WakeCfg := {}
  lastWake   : Byte := 0
  timerSkipped : U16 := 0
  /-- wake requests held during entry to sleep: cause codes (R541) -/
  wakeReq    : List Byte := []
  waking     : Option Byte := none
  /-- when the wake was requested; another source asked in the same cycle (R541) -/
  wakeAt     : Ps := 0
  wakeOther  : Bool := false
  duty       : DutyState := .none
  sleptIn    : Mode := .standby
  sleeping   : Bool := false
  standbySince : Ps := 0
  /-- the mode a calibration run returns to (R189) -/
  calFrom    : Mode := .standby
  /-- calibration since VDD_AON came up (R187) -/
  startCalDone : Bool := false
  /-- start-up of R593 running; a supply is out of range (R595, R596), the fault it will report -/
  starting   : Bool := false
  vddAon     : Bool := true
  supplyOut  : Option (Nat × Nat × Nat) := none
  xtalOk     : Bool := true
  tCase      : Int := 2500
  supplies   : List Nat := [750, 850, 900, 1200, 1800, 1800, 3300, 5000]
deriving DecidableEq, Repr, Inhabited

/-- Interrupts, links, SMBus, board record, JTAG (R550-R566). -/
structure LinkState where
  irqCause    : U16 := 0
  holdoff     : U16 := 0
  alarmSum    : Vector U32 8 := Vector.replicate 8 0
  holdoffEnd  : Option Ps := none
  holdoffHit  : Bool := false
  pcieUp      : Bool := true
  /-- PERST_N is high -/
  perstN      : Bool := true
  eth0        : Bool := true
  eth1        : Bool := true
  /-- words of the MSI-X table the host wrote, by offset -/
  msixTable   : List (Nat × U32) := []
  /-- the MSI-X pending-bit array -/
  msixPend    : U16 := 0
  board       : List Byte := List.replicate 128 0
  boardBad    : Bool := false
  boardStage  : List Byte := List.replicate 128 0
  boardStaged : Bool := false
  boardNext   : Option (List Byte) := none
  boardPtr    : BitVec 5 := 0
  /-- the record a commit is writing to flash (`BOARD_BUSY`) -/
  boardWriting : Option (List Byte) := none
  boardReject : Bool := false
deriving DecidableEq, Repr, Inhabited

/-- A survey in force on a port (R35-R40), with its automatic-power-reduction reference (R85). -/
structure Survey where
  endCm     : Nat
  /-- group index in force at the survey, to which its positions belong -/
  gi        : Nat
  isFloor   : Bool
  noBack    : Bool
  isRange   : Bool
  /-- smoothed mean power per sample (R36), from which the losses of R40 and R70 follow -/
  profile   : List Nat
  /-- the noise floor of the survey (R122) -/
  floor     : Nat
  refls     : List Reflection
  propTl    : Nat
  propSlots : Nat
  propPower : Int
  time      : U32
  /-- the reference of R85 captured at its end, loaded when the port is selected (R89) -/
  refLevels : List Rat
deriving DecidableEq, Repr, Inhabited

/-- One port (R13, R15, R35-R42, R85). `dlyTx`, `dlyRx`: the delays of R15 in ps. `aprRef`: the reference of R85, level per
bin relative to the launched power. -/
structure Port where
  groupIndex : Nat := 14682
  survey     : Option Survey := none
  currentEnd : Nat := 0
  /-- group index to which `currentEnd` belongs -/
  endGi      : Nat := 14682
  dlyTx      : Int := 1840
  dlyRx      : Int := 2120
  aprRef     : List Rat := []
  aliasSticky : Byte := 0
  aliasLive  : Byte := 0
  /-- per slot the mean guard-window powers of the last lines, newest first, at most 16, and the count of lines below the
  level (R41) -/
  aliasUp    : Vector (List Rat) 8 := Vector.replicate 8 []
  aliasDown  : Vector Nat 8 := Vector.replicate 8 0
  /-- consecutive lines that call the end closer, farther, with the last position (R42) -/
  closer     : Nat × Nat := (0, 0)
  farther    : Nat × Nat := (0, 0)
deriving DecidableEq, Repr, Inhabited

/-- A survey in progress (R34, R35, R38): ports left, range, tag; `entry`: run at a mode entry or a handback; `on`: the port
the switch stands at; `item`: cause and status of the last port's item while the switch returns (R35 step 6). Of the port being
surveyed: `since`, when its survey started, `nextAt`, when its next launch is due, `made`, the launches made, and `idx`, the free
index by which its launch levels are taken (log 202). -/
structure Gambit where
  ports  : List Nat
  range  : Nat
  tag    : U16
  back   : Nat
  entry  : Bool
  on     : Nat
  item   : Option (Nat × Nat) := none
  since  : Ps := 0
  nextAt : Ps := 0
  made   : Nat := 0
  idx    : Nat := 0
deriving DecidableEq, Repr, Inhabited

/-- The slot plan (R48-R55, R90, R91). `tl`: launch period, ps. -/
structure Plan where
  tl       : Nat := 1250000000
  nSlots   : Nat := 1
  pulse    : Bool := false
  taper    : Nat := 10
  chirpBw  : Nat := 160
  chirpLen : Nat := 200
  pulseLen : Nat := 50
  dirMask  : Byte := 0xAA
  trim     : Vector Int 8 := Vector.replicate 8 0
  power    : Int := 100
  carrier  : Nat := 3400
deriving DecidableEq, Repr, Inhabited

/-- Light settings of `LIGHT_CFG` and `APR_CFG` (R92, R94). -/
structure LightCfg where
  closed    : Bool := false
  pumpEn    : BitVec 3 := 0b111
  rampStep  : Nat := 5
  knee      : Nat := 95
  slope     : Vector Nat 3 := Vector.replicate 3 0
  thresh    : Vector Nat 3 := Vector.replicate 3 0
  aprLevel  : Int := 100
  aprCeil   : Int := 270
  reflLimit : Int := -300
  lossDrop  : Int := 60
deriving DecidableEq, Repr, Inhabited

/-- A light-drive channel (R71-R79). -/
structure Ldc where
  setpoint : Int := 0
  iAnode   : Int := 0
  iReturn  : Int := 0
  vOut     : Nat := 0
  headroom : Nat := 0
  /-- the current the channel's loop asks for, before its limit and ceiling (R73 `AT_CEILING`) -/
  demand   : Int := 0
  enabled  : Bool := false
  short_   : Bool := false
  leakFail : Bool := false
  open_    : Bool := false
  atCeil   : Bool := false
  retired  : Bool := false
  mismatch : U32 := 0
  comply   : U32 := 0
  leakNa   : Nat := 0
  pOpt     : Nat := 0
deriving DecidableEq, Repr, Inhabited

/-- A segment of the launch schedule: launches at `start + m·tl` with counts from `count`; the drain before it begins at
the boundary `drainFrom` (R56, R57). -/
structure Seg where
  drainFrom : Ps
  start     : Ps
  count     : Nat
  tl        : Nat
  portMove  : Bool := false
  /-- the start waits for a marker edge (R408): `start` is not known yet -/
  waits     : Bool := false
deriving DecidableEq, Repr, Inhabited

/-- An accepted change that falls due at a boundary (R56, R371): the instant, the opcode, target and payload that
brought it, its source and sequence number. -/
structure Change where
  due     : Ps
  opcode  : Byte
  target  : U16
  payload : List Byte
  src     : Source
  seq     : U32
  /-- a map whose boundary has come while earlier lines are still to be processed -/
  begun   : Bool := false
deriving DecidableEq, Repr

/-- The waveform of a probe (R53, R54, R150): lengths in ps, bandwidth in MHz, taper in per cent. -/
structure Wave where
  pulse   : Bool := true
  tp      : Nat := 0
  bw      : Nat := 0
  taper   : Nat := 0
  falling : Bool := false
deriving DecidableEq, Repr, Inhabited

/-- A launch whose return has not been processed: slot, count, instant, flags decided at the launch (R119), port, waveform,
launch period and power. -/
structure LaunchRec where
  slot    : Nat
  count   : Nat
  at_     : Ps
  ramp    : Bool
  coarse  : Bool
  reduced : Bool
  refLost : Bool
  stale   : Bool
  lane    : Nat
  ochre   : Bool
  /-- levels of `TIN0`-`TIN3` at the launch (R217) -/
  tins    : BitVec 4 := 0
  port    : Nat := 1
  wave    : Wave := {}
  tl      : Nat := 0
  /-- T_S of its launch period -/
  ts      : Nat := 0
  /-- power launched, 0.1 dBm -/
  level   : Int := -100
  /-- the Ochre sideband is lost (R174); state of the polarisation scrambler (R149) -/
  sideLost : Bool := false
  scrambler : Nat := 0
  /-- the line waits for thermal settling (R160) -/
  waits   : Bool := false
  /-- device time of the launch instant, ns (R388) -/
  dev     : Nat := 0
deriving DecidableEq, Repr, Inhabited

/-- The light source and Madder (R46-R97). -/
structure LightState where
  plan      : Plan := {}
  cfg       : LightCfg := {}
  port      : Nat := 1
  locked    : Bool := false
  running   : Bool := false
  /-- launches end at this boundary (R535) -/
  stopAt    : Option Ps := none
  nextAt    : Ps := 0
  nextSlot  : Nat := 0
  /-- launches of slot 0 made since VDD_AON came up: the count the next boundary takes (R50) -/
  launches  : Nat := 0
  segs      : List Seg := []
  changes   : List Change := []
  draining  : Bool := false
  switching : Option (Nat × Ps) := none
  level     : Int := -100
  ramping   : Bool := false
  powerNow  : Option Int := none
  /-- was the power limited when the item of R69 was last considered? -/
  limited   : Bool := false
  /-- held power (R70): in 0.1 dBm, rounded down, and in dBm -/
  held      : Int := 270
  heldDbm   : Rat := 27
  heldTold  : Int := 270
  aprTrip   : Bool := false
  /-- instant of the trip: a restore due at it does nothing (R88) -/
  aprAt     : Ps := 0
  /-- the reference is to be captured on the first launches after a restore (R88) -/
  aprArmed  : Bool := false
  /-- the reference being taken: lines launched from this instant on, their sum per bin, their number (R85) -/
  aprFrom   : Ps := 0
  aprSum    : List Rat := []
  aprN      : Nat := 0
  derate    : Rat := 1
  ldc       : Vector Ldc 8 := Vector.replicate 8 {}
  probeRuns : Nat := 0
  probeFails : Nat := 0
  probeStreak : Nat := 0
  probeCount : Nat := 0
  inflight  : List LaunchRec := []
deriving DecidableEq, Repr, Inhabited

/-- The fibre side (R13-R45). -/
structure FibreState where
  s1     : Port := {}
  s2     : Port := { dlyTx := 1910, dlyRx := 2180 }
  gambit : Option Gambit := none
deriving DecidableEq, Repr, Inhabited

/-- A DAS zone of the map (R129), with its first sample. -/
structure DasEntry where
  first : Nat
  len   : Nat
  gauge : Nat
  xi    : Nat
deriving DecidableEq, Repr, Inhabited

/-- A DTS zone of the map (R130), with its first sample. -/
structure DtsEntry where
  first   : Nat
  len     : Nat
  ct      : Nat
  cStrain : Nat
  nuRef   : Nat
  tRef    : Nat
deriving DecidableEq, Repr, Inhabited

/-- The zone map in force (R128-R137). -/
structure ZoneMap where
  das1 : List DasEntry := []
  das2 : List DasEntry := []
  dts1 : List DtsEntry := []
  dts2 : List DtsEntry := []
  crc  : U32 := 0
deriving DecidableEq, Repr, Inhabited

/-- The state of a DAS zone (R111, R112, R116, R121); phases in turns. -/
structure DasZone where
  phi     : Rat := 0
  dprev   : Rat := 0
  n       : Nat := 0
  meanAmp : Rat := 0
  /-- alignment angles, per slot and branch -/
  theta   : Vector (List (BitVec 22)) 8 := Vector.replicate 8 []
  out     : Int := 0
  flag    : Byte := 0
  taint   : Bool := false
  frozen  : Bool := false
  /-- slots that restarted while the zone was frozen (R116) -/
  missed  : Byte := 0
  fades   : Nat := 0
  sats    : Nat := 0
  /-- of the second that runs (R33, R121): the outputs, newest first; sums of the received powers at the gauge's two ends and
  their number; was the zone `STALE`, `NO_FIBRE` or on the other port at some time? -/
  sec     : List Int := []
  powEnd  : Rat := 0
  powGauge : Rat := 0
  powN    : Nat := 0
  spoilt  : Bool := false
deriving DecidableEq, Repr, Inhabited

/-- Where the lane test of R102 stands. -/
inductive LaneStage where
  | spareTest | moving | oldTest
deriving DecidableEq, Repr, Inhabited

/-- A lane suspected after a shadow mismatch (R102). -/
structure LaneSuspect where
  slot  : Nat
  old   : Nat
  spare : Nat
  stage : LaneStage
deriving DecidableEq, Repr, Inhabited

/-- A dark slot tried on the spare (R124): the lane it came from, the lines it has had there. -/
structure DarkTest where
  slot  : Nat
  old   : Nat
  spare : Nat
  moved : Bool := false
  lines : Nat := 0
  /-- it stayed dark and goes back at the next boundary -/
  back  : Bool := false
deriving DecidableEq, Repr, Inhabited

/-- A lane move due at a boundary (R102, R124): slot, lane, instant. -/
structure LaneMove where
  slot : Nat
  lane : Nat
  at_  : Ps
deriving DecidableEq, Repr, Inhabited

/-- A raw capture in progress (R141-R145). -/
structure RawCapture where
  tap    : Nat
  slots  : Byte
  first  : Nat
  count  : Nat
  lines  : Nat
  start  : Option Nat
  startAt : Ps
  got    : Nat := 0
  bytes  : Nat
  /-- what the lines have brought of a capture of tap 0 or 4 (R141) -/
  brought : List Byte := []
  data   : List Byte := []
  full   : Bool := false
  handle : Nat
deriving DecidableEq, Repr, Inhabited

/-- Indigo (R97-R146). `laneOf`: lane of each slot, 255 none. -/
structure IndigoState where
  subbands : Nat := 4
  pol      : Nat := 1
  pns      : Bool := true
  unwrap   : Bool := true
  bridge   : Bool := true
  spareCheck : Bool := true
  fade     : Nat := 16
  align    : Nat := 8
  atten    : Nat := 0
  laneOf   : Vector Nat 8 := Vector.ofFn (fun i => i.val)
  spare    : Option Nat := some 8
  laneRetired : BitVec 9 := 0
  shadow   : Nat := 0
  shadowLines : Nat := 0
  suspect  : Option LaneSuspect := none
  darkTest : Option DarkTest := none
  darkTold : Byte := 0
  moves    : List LaneMove := []
  restart  : Byte := 0xFF
  restartAll : Bool := true
  dark     : Byte := 0
  darkCnt  : Vector Nat 8 := Vector.replicate 8 0
  litCnt   : Vector Nat 8 := Vector.replicate 8 0
  /-- per port, bit 0 for S1: the last line processed was dark (R117) -/
  afterDark : BitVec 2 := 0
  refLost  : Bool := false
  /-- the reconstructed laser phase in turns, every 4 ns, newest first, over 2.1 ms; the instant of the newest (R108) -/
  psi      : List Rat := []
  psiAt    : Ps := 0
  /-- the delay tau_ref of the reference interferometer, fs (R108) -/
  tau      : Nat := 13300000
  /-- `NF_FIRST` of the last line of each port, S1 first (R115) -/
  nfFirst  : Vector Nat 2 := Vector.replicate 2 0xFFFFFF
  map      : ZoneMap := {}
  zones    : List DasZone := []
  /-- outputs held `STALE` from this instant (R115, R189) -/
  staleFrom : Option Ps := none
  /-- launches resume at this boundary (R189 step 5) -/
  staleUntil : Option Ps := none
  raw      : Option RawCapture := none
deriving DecidableEq, Repr, Inhabited

/-- Ochre's settings (R177). -/
structure OchreCfg where
  pulseLen : Nat := 20
  power    : Int := 200
  lo       : Nat := 10850
  pitch    : Nat := 1
  fitHalf  : Nat := 60
  acc      : Nat := 65536
  period   : Nat := 125000
  settle   : Bool := false
deriving DecidableEq, Repr, Inhabited

/-- The reference coil (R180). -/
structure Coil where
  port  : Nat
  auxCh : Nat
  rtd   : Nat
  first : Nat
  len   : Nat
  rZero : Nat
deriving DecidableEq, Repr, Inhabited

/-- The last results of a DTS zone (R161, R162, R179). -/
structure DtsZone where
  fit    : FitOut := default
  centre : Option Int := none
  temp   : Nat := 0
  flag   : Byte := 0
deriving DecidableEq, Repr, Inhabited

/-- Sums of an accumulation (R158): zone spectra, coil, baseline, thermometer results, flags gathered. -/
structure OchreAcc where
  done    : Nat := 0
  /-- port of its lines -/
  port    : Nat := 1
  zones   : List (List Rat) := []
  coil    : List Rat := []
  base    : List Rat := []
  /-- power of the gate at each sample, summed over bins (R172) -/
  profile : List Rat := []
  tSum    : Int := 0
  tCount  : Nat := 0
  tBad    : Bool := false
  tOpen   : Bool := false
  /-- some launch of it was held `STALE` (R170), or not made because Ochre is retired (R173) -/
  held    : Bool := false
  absent  : Bool := false
  coarse  : Bool := false
  reduced : Bool := false
  ramp    : Bool := false
  clip    : Bool := false
  lost    : Bool := false
  lastAt  : Ps := 0
  /-- device time of its last launch, ns (R167) -/
  lastDev : Nat := 0
  /-- launches before this instant do not enter it (R159) -/
  since   : Ps := 0
deriving DecidableEq, Repr, Inhabited

/-- A finished accumulation whose update is due (R161, R170). -/
structure OchreReady where
  acc     : OchreAcc
  fits    : List FitOut
  starts  : List (Option Int)
  coilFit : Option FitOut
  /-- the coil of that accumulation (R180), and the settings its fits were made with (R161, R162) -/
  coil    : Option Coil
  cfg     : OchreCfg
  /-- the accumulation has restarted since: its centres start no later fit (R161, R165) -/
  past    : Bool := false
deriving DecidableEq, Repr, Inhabited

/-- Ochre (R147-R181). -/
structure OchreState where
  cfg      : OchreCfg := {}
  coil     : Option Coil := none
  /-- a new coil waiting for the next accumulation start (R180) -/
  coilNext : Option (Option Coil) := none
  retired  : Bool := false
  acc      : OchreAcc := {}
  ready    : Option OchreReady := none
  zones    : List DtsZone := []
  desc     : List Byte := []
  specs    : List (List Rat) := []
  base     : List Rat := []
  nuCoil   : Option Int := none
  tCoil    : Option Rat := none
  refWas   : Bool := false
  /-- a valid reference has existed since the last restart (R165); the coil's last valid centre since then (R161) -/
  refSeen  : Bool := false
  coilStart : Option Int := none
  /-- launches made of the accumulation that runs on the launch side, and the scrambler state of the last (R149) -/
  launched : Nat := 0
  /-- launches of it that were held or not made because Ochre is retired (R170, R173) -/
  skipped : Nat := 0
  scrambler : Nat := 0
  /-- the receiver's noise floor measured by the `SIDEBAND` step (R171), per sample of a gate's window -/
  floor    : Option Rat := none
  /-- the coil reference used at the latest update (R179) -/
  refUse   : Option (Int × Rat) := none
  /-- trim of the thermometer chain by the `COIL` step (R166, R424): gain in 10^-9, offset in microohm -/
  coilGain : Int := 0
  coilOffset : Int := 0
  /-- `UPDATE_FLAGS` of the last update (R170) -/
  lastUf   : Nat := 0
  refAt    : Option Ps := none
  rtdOpen  : Bool := false
  specBase : Nat := 0
  overlap  : Bool := false
  sideLost : Bool := false
  level    : Int := -100
  ramping  : Bool := false
  powerNow : Option Int := none
deriving DecidableEq, Repr, Inhabited

/-- The launch lock (R408-R411, R419). `phase`: 0 off, 1 acquiring, 2 locked, 3 flywheel. -/
structure LockState where
  phase   : Nat := 0
  tin     : Nat := 0
  falling : Bool := false
  divider : Nat := 1
  delay   : Nat := 0
  pMin    : Nat := 0
  pMax    : Nat := 0
  since   : Ps := 0
  /-- selected edges since the measurement started, and the last 257 of them, newest first -/
  nEdges  : Nat := 0
  edges   : List Ps := []
  pBar    : Nat := 0
  /-- the free-running T_L in force before the lock (R408) -/
  prevTl  : Nat := 1250000000
  lostTold : Bool := false
  /-- T_L of the plan is the lock's (R18, R408) -/
  owns    : Bool := false
  missed  : U32 := 0
  /-- residuals of the last 4,096 launches placed at an edge, ps, newest first (R409) -/
  resid   : List Int := []
  /-- the instant that an edge has set for the next launch of slot 0 while slots of the period before are still to come (R409) -/
  place   : Option Ps := none
  /-- edge that places the next launch of slot 0 -/
  base    : Ps := 0
  baseN   : Nat := 0
  /-- error still to pull in after flywheel (R410), ps -/
  pull    : Int := 0
deriving DecidableEq, Repr, Inhabited

/-- A calibration step (R183, R185, R203). `st`: 0 DESIGN, 1 MEASURED, 2 RESTORED. -/
structure CalStep where
  st        : Nat := 0
  result    : Byte := 0xFF
  refreshed : Bool := false
  out       : Bool := false
  figure    : Int := 0
  doneSec   : U32 := 0
  data      : Option (List Byte) := none
deriving DecidableEq, Repr, Inhabited

/-- A calibration run in progress (R187-R196): steps left in order, masks of outcomes, the report held at its start. -/
structure CalRun where
  todo    : List Nat
  ok      : Nat := 0
  out     : Nat := 0
  late    : Nat := 0
  skipped : Nat := 0
  na      : Nat := 0
  tag     : U16
  startup : Bool
  began   : Ps
  held    : Vector CalStep 7
  heldGen : U32
  heldReq : BitVec 7
  /-- at the start of the run: steps not applicable, `LO_OFFSET` and coil of the blob (R191) -/
  heldNa  : Nat
  heldLo  : Nat
  heldCoil : Nat × Nat
  /-- the drain is complete and the steps run (R189 step 3) -/
  started : Bool
deriving DecidableEq, Repr, Inhabited

/-- Mordant (R182-R203). -/
structure CalState where
  steps     : Vector CalStep 7 := Vector.replicate 7 {}
  gen       : U32 := 0
  requested : BitVec 7 := 0
  run       : Option CalRun := none
  snap      : Option (List Byte × U32) := none
  loAt      : Nat := 10850
  coilCh    : Nat := 0
  coilRtd   : Nat := 0
  /-- the references of the drift indicators (R197) -/
  ref       : Vector Int 7 := Vector.replicate 7 0
  /-- per indicator the cycle, plus one, of its last crossing, and whether that crossing queued the item (R198) -/
  crossed   : Vector (Nat × Bool) 7 := Vector.replicate 7 (0, false)
deriving DecidableEq, Repr, Inhabited

/-- A staging buffer (R328-R330). `phase`: 0 empty, 1 loading, 2 complete; `part`: bytes of an unfinished token. -/
structure StageBuf where
  phase    : Nat := 0
  declared : Nat := 0
  imageCrc : U32 := 0
  accepted : Nat := 0
  decoded  : List Byte := []
  part     : List Byte := []
deriving DecidableEq, Repr, Inhabited

/-! ### Watch contexts (06) -/

/-- The states of a context (R222), in the order of their codes. -/
inductive CtxState where
  | disarmed | armed | capture | rearm | disarming
deriving DecidableEq, Repr, Inhabited

/-- A binding of a context to a core (R289, R290). `pos`, `size`: position in the group and its size. `places`: per local
zone invoked since the binding started, the next place of its history ring. -/
structure Binding where
  ctx       : Nat
  entry     : Nat
  mask      : U32
  budget    : Nat
  histLen   : Nat
  histBase  : Nat
  stateBase : Nat
  stateLen  : Nat
  histY     : Bool
  stateY    : Bool
  pos       : Nat
  size      : Nat
  nLocal    : Nat
  /-- it serves lines from this instant (R307) -/
  from_     : Ps := 0
  places    : List (Nat × Nat) := []
deriving DecidableEq, Repr, Inhabited

/-- What takes effect at a context's point of R224: disarming, a pattern, a copy of a threshold table, the halt of zone cores
that serve it (R308). -/
inductive CtxAct where
  | disarm (abandon : Bool)
  | pattern (w : Nat) (value care : BitVec 256)
  | table (n copy : Nat)
  | halt (cores : Nat) (unbind : Bool)
deriving DecidableEq, Repr

/-- A point of R224: the first line of the context at or after `due`. -/
structure CtxPoint where
  due : Ps
  act : CtxAct
deriving DecidableEq, Repr

/-- A line of a context (R204), cut to its span: values, flag bytes, the index at which `NO_FIBRE` begins, and what the
trigger engine sampled for it (R217). `flagged`: first zone with a flag byte, their number, their OR (R250). -/
structure CtxLine where
  seq     : Nat
  at_     : Ps
  /-- device time, ns, of the instant its stamp names (R388): the launch, the update's last launch (R167), the conversion end -/
  dev     : Nat
  /-- epoch in which it reached the context (R237, R264) -/
  epoch   : U16
  /-- from a zone's last sample to its value on the zone bus, and from a position's to its decision (R126, R127), DAS only -/
  bus     : Nat := 0
  lag     : Nat
  slot    : Nat
  desc    : List Byte
  values  : List Int
  flags   : List Byte
  nfRel   : Nat
  /-- the last zone whose exception entry the source line kept (R120) -/
  excTo   : Nat
  skipped : Bool
  gate    : Bool
deriving DecidableEq, Repr, Inhabited

/-- A line whose zone-core bits are not all in (R211): bits per zone. `settled`: nothing of it is left to decide. -/
structure CtxJob where
  line : CtxLine
  bits : List (Option (BitVec 4))
  settled : Bool := false
deriving DecidableEq, Repr, Inhabited

/-- A ring line as written (R250). `mark`: `LINE_MARK`. -/
structure RingLine where
  desc     : List Byte
  seq      : Nat
  epoch    : U16
  spanFlags : Byte
  mark     : Byte
  first    : Nat
  nFlagged : Nat
  nfRel    : Nat
  values   : List Int
deriving DecidableEq, Repr, Inhabited

/-- A place of a ring or of a post area: the line number that belongs there and what is held there (R253, R254; none:
nothing was ever written). -/
structure Place where
  seq  : Nat
  held : Option RingLine
deriving DecidableEq, Repr, Inhabited

/-- A line a trigger is assigned to: number, instant, device time of its stamp, epoch, slot. -/
structure TrigLine where
  seq   : Nat
  at_   : Ps
  dev   : Nat
  epoch : U16
  slot  : Nat
deriving DecidableEq, Repr, Inhabited

/-- A `TIN` trigger that waits for what earlier lines still decide before it (R214, R220). -/
structure TinWait where
  at_  : Ps
  line : TrigLine
deriving DecidableEq, Repr, Inhabited

/-- The last trigger of a context: its line, its causes, the record it started (R221). -/
structure LastTrig where
  seq    : Nat
  stamp  : Nat
  cause  : Nat
  handle : Option Nat
deriving DecidableEq, Repr, Inhabited

/-- A restart of a context's run (R218): its instant, the run that lines launched before it still follow, and whether a
recovery made it. -/
structure RunCut where
  at_  : Ps
  runC : Nat
  runW : Nat
  recovery : Bool := false
deriving DecidableEq, Repr, Inhabited

/-- A watch context. `cfg`: bytes 0-55 of `CTX_SET` as held (R240). -/
structure Ctx where
  cfg      : List Byte := List.replicate 14 0 ++ [0x88, 0x03] ++ List.replicate 40 0
  patW     : Nat := 0
  patValue : BitVec 256 := 0
  patCare  : BitVec 256 := 0
  state    : CtxState := .disarmed
  runC     : Nat := 0
  runW     : Nat := 0
  /-- lines received since arming (R206) -/
  lines    : Nat := 0
  startAt  : Ps := 0
  effect   : Nat := 2 ^ 64 - 1
  points   : List CtxPoint := []
  jobs     : List CtxJob := []
  /-- restarts of the run that lines in flight may precede, newest first (R218) -/
  cuts     : List RunCut := []
  /-- a disarm whose point has come while earlier lines wait for zone-core bits: with `ABANDON`? (R226) -/
  stopping : Option Bool := none
  /-- the lines received before that point -/
  stopLines : Nat := 0
  /-- threshold copies in use, per table (R234) -/
  tabs     : List (Nat × Nat) := []
  lastLine : Option CtxLine := none
  /-- the triggers another cause may still join, newest first (R221) -/
  trigs    : List LastTrig := []
  /-- `TIN` triggers that wait their turn, oldest first -/
  edges    : List TinWait := []
  trigCnt  : U32 := 0
  missed   : U32 := 0
  absorbed : U32 := 0
  skipped  : U32 := 0
  coreGap  : U32 := 0
  discarded : U32 := 0
  lastZone : BitVec 17 := 0
  lastCause : BitVec 2 := 0
  lastSeq  : U32 := 0
  lastStamp : U32 := 0
  -- rings and records (07)
  ring     : List Place := []
  s0       : Nat := 0
  ringBlocks : Nat := 0
  resBlocks  : Nat := 0
  reserve  : Bool := false
  /-- why the last claim of a reserve failed (R269) -/
  why      : Nat := 1
  capture  : Option Nat := none
  /-- a cut that waits for the end of its trigger line (R255) -/
  cutDue   : Option Nat := none
  /-- marks for lines not written yet: line, `LINE_MARK` bit -/
  marks    : List (Nat × Nat) := []
  missedBefore : U32 := 0
  /-- the record completed last since arming: its lines may still be marked (R259) -/
  recent   : Option Nat := none
  rearmLeft : Nat := 0
  /-- when `REARM` last ended: triggers decided before it are missed (R223, R257) -/
  armedAt  : Ps := 0
  ringDrop : U32 := 0
  quota    : Nat := 0
  measThresh : Nat := 1000
deriving DecidableEq, Repr, Inhabited

/-- An alarm pin (R227). `pulseW` in 10 ns. `edgeAt`, `endedAt`: its last edges, either of which may still be ahead; `setAt`: the
last trigger, or the first that is still ahead. -/
structure AlmPin where
  mode     : Nat := 0
  nAboveP  : Bool := false
  pulseW   : Nat := 0
  asserted : Bool := false
  endAt    : Ps := 0
  edgeAt   : Ps := 0
  endedAt  : Ps := 0
  setAt    : Option Ps := none
deriving DecidableEq, Repr, Inhabited

/-- The alarms of a decided trigger that are not driven yet (R126, R231): decision, instant of the edge and of the frame,
context, `LINE_SEQ`, `ZONE`. -/
structure AlarmDue where
  dec  : Ps
  out  : Ps
  ctx  : Nat
  seq  : Nat
  zone : Nat
deriving DecidableEq, Repr, Inhabited

/-- Alarm outputs and trigger inputs (R219, R220, R227-R231). `frame`: the end of the frame being sent; `idleFrom`: where
idle last resumed; `rdPlus`: the running disparity there (R230). -/
structure AlarmState where
  pins   : Vector AlmPin 8 := Vector.replicate 8 {}
  due    : List AlarmDue := []
  queue  : List U32 := []
  frame  : Option Ps := none
  idleFrom : Ps := 0
  rdPlus : Bool := false
  sent   : U32 := 0
  lost   : U32 := 0
  level  : Vector Bool 4 := Vector.replicate 4 false
  /-- last edge accepted for triggers, per input -/
  accept : Vector (Option Ps) 4 := Vector.replicate 4 none
deriving DecidableEq, Repr, Inhabited

/-- A copy of a threshold table (R233, R234). -/
structure ThreshCopy where
  id      : Nat
  first   : Nat
  entries : List U16
deriving DecidableEq, Repr, Inhabited

/-- Threshold memory: copies held, and the newest copy of each table. -/
structure ThreshState where
  copies : List ThreshCopy := []
  newest : List (Nat × Nat) := []
  nextId : Nat := 0
deriving DecidableEq, Repr, Inhabited

/-! ### Records (07) -/

/-- The measurements of a record (R266). -/
structure Measures where
  peak      : Nat := 0
  peakZone  : Nat := 0
  peakLine  : Nat := 0
  rms       : Nat := 0
  energy    : Nat := 0
  period    : Nat := 0
  nCross    : Nat := 0
  onset     : Nat := 0
  extent    : Nat := 0
  extFirst  : Nat := 0
  atStart   : Bool := false
  onsetNone : Bool := false
  noneIn    : Bool := false
deriving DecidableEq, Repr, Inhabited

/-- Progress of a record (R272). -/
inductive RecPhase where
  | capture | measuring | done | lost
deriving DecidableEq, Repr, Inhabited

/-- A held record (R255-R268). `ctx` 256: a raw capture. `bad`: 8-byte words of the logical image that fail (R463). -/
structure Record where
  entry    : Nat
  gen      : Nat
  ctx      : Nat
  source   : Nat
  cause    : Nat
  epoch    : U16
  firstZone : Nat
  nZones   : Nat
  lineSize : Nat
  preReq   : Nat
  postReq  : Nat
  missedBefore : U32
  zone     : Nat
  seq      : Nat
  stamp    : Nat
  sec      : Nat
  nsec     : Nat
  preHead  : Nat := 0
  /-- the ring blocks that became the pre area, ascending (R255) -/
  preKept  : List Nat := []
  preBlocks : Nat := 0
  postBlocks : Nat := 0
  pre      : List Place := []
  post     : List Place := []
  /-- the payload of a raw capture -/
  raw      : List Byte := []
  thresh   : Nat := 1000
  isCut    : Bool := false
  phase    : RecPhase := .capture
  readBack : Bool := false
  abandoned : Bool := false
  lost     : Bool := false
  gap      : Bool := false
  meas     : Measures := {}
  bad      : List Nat := []
deriving DecidableEq, Repr, Inhabited

/-- The record pool (R247-R249, R271). `gens`: last generation of each table entry used. -/
structure PoolState where
  blocks  : Nat := 13312
  recs    : List Record := []
  gens    : List (Nat × Nat) := []
  /-- BAR4 pages mapped: page, handle, record block -/
  pages   : List (Nat × Nat × Nat) := []
deriving DecidableEq, Repr, Inhabited

/-! ### Zone cores (08) -/

/-- The states of a core (R277), in the order of their codes. -/
inductive CoreState where
  | empty | stopped | running | retired
deriving DecidableEq, Repr, Inhabited

/-- A zone-sample on its way to a core (R292, R298): context, line, span-relative zone, value, flag byte, skipped; counted late. -/
structure Sample where
  ctx     : Nat
  seq     : Nat
  zone    : Nat
  value   : Int
  flag    : Byte
  skipped : Bool
  late    : Bool := false
deriving DecidableEq, Repr, Inhabited

/-- A bounded memory as a list of (address, byte) pairs with addresses rising and no byte that is 0, as an unlisted
address reads (R304). -/
abbrev Memory := List Host.Cell

/-- A zone core (R276-R301, R310). Memories are addressed in bytes: halfword h at 2h, instruction word w at 4w. -/
structure Core where
  state    : CoreState := .empty
  unified  : Bool := false
  nInstr   : Nat := 0
  imageCrc : U32 := 0
  image    : List Byte := []
  imem     : Memory := []
  xmem     : Memory := []
  ymem     : Memory := []
  acc      : Vector (BitVec 40) 4 := Vector.replicate 4 0
  d        : Vector U32 8 := Vector.replicate 8 0
  p        : Vector (BitVec 14) 8 := Vector.replicate 8 0
  m        : Vector (BitVec 14) 4 := Vector.replicate 4 0
  lc       : U16 := 0
  st       : U16 := 0
  pc       : BitVec 12 := 0
  /-- executions left of the instruction a `repeat` runs (R288) -/
  rep      : Nat := 0
  cycles   : Nat := 0
  /-- `BUDGET` of the invocation in progress (R295) -/
  budget   : Nat := 0
  inv      : Option Sample := none
  /-- the invocation met a data parity error: its bits are 0 (R300) -/
  spoiled  : Bool := false
  bus      : List Sample := []
  buffer   : List Sample := []
  bindings : List Binding := []
  stopDue  : Bool := false
  overTold : Bool := false
  invocations : U32 := 0
  overruns : U32 := 0
  late     : U32 := 0
  inDrop   : U32 := 0
  ovCnt    : U32 := 0
  satCnt   : U32 := 0
  parity   : U32 := 0
  maxCycles : Nat := 0
  /-- `ZC_BURST` told of the present failure (R299) -/
  burstTold : Bool := false
  stSticky : BitVec 5 := 0
  movedFrom : Nat := 0xFF
  lastOverPc : BitVec 12 := 0
  /-- the first of the instruction parity errors counted, the last data parity errors (R300) -/
  iParAt   : Option Ps := none
  dParAt   : List Ps := []
  /-- the errors of R300 call for retirement -/
  retireDue : Bool := false
  /-- a recovery waits for the repeat in progress (R288, R303) -/
  dropDue  : Bool := false
  /-- memories and register bytes as `CORE_READ` sees them while an invocation runs (R309) -/
  xGap     : Memory := []
  yGap     : Memory := []
  regGap   : List Byte := List.replicate 96 0
  /-- `INVOCATIONS` at that snapshot -/
  gapCount : U32 := 0
  /-- a reset core runs again at this instant (R300); a replacement core at this one (R301) -/
  backAt   : Option Ps := none
deriving DecidableEq, Repr, Inhabited

/-! ### Streams (09) -/

/-- A block coded and not delivered (R316-R319). -/
structure Block where
  seq     : U32
  epoch   : U16
  flags   : Nat
  carry   : Nat
  nLines  : Nat
  table   : List Byte
  tokens  : List Byte
  sampleCrc : U32
  padFrom : Nat
  /-- `NODE` when it was coded (R317, R384) -/
  node    : BitVec 14
  /-- the block before it was dropped as it was coded: it carries `AFTER_DROP` (R324) -/
  after   : Bool := false
  /-- the drops of its run from one `RESYNC` to the next, once a later run has begun (R324) -/
  pastDrops : Option U32 := none
deriving DecidableEq, Repr, Inhabited

/-- A stream (R311-R327, R341). `units`: units of the blocks not complete, oldest first; `lines`: line entries of those
blocks by the index of their first unit, without `FIRST_UNIT`. -/
structure Stream where
  configured : Bool := false
  rle      : Bool := false
  transport : Nat := 0
  vector   : Nat := 0
  irqBlocks : Nat := 1
  auth     : Bool := false
  run      : Bool := false
  maxAge   : Nat := 10
  suppTable : Nat := 0xFF
  suppConst : Nat := 0
  ringSlots : Nat := 0
  ringBase : U64 := 0
  destAddr : List Byte := List.replicate 16 0
  destPort : Nat := 39401
  fragLen  : Nat := 1408
  paused   : Bool := false
  resync   : Bool := true
  resumed  : Bool := false
  resumeAt : Option Ps := none
  nextSeq  : U32 := 0
  units    : List U16 := []
  lines    : List (Nat × List Byte) := []
  /-- when the first unit of each block not complete was coded -/
  opened   : List Ps := []
  carry    : Nat := 0
  /-- the escape that supplies `carry` was a full one of a longer run (R314) -/
  longRun  : Bool := false
  waiting  : List Block := []
  sinceIrq : Nat := 0
  producer : U32 := 0
  consumer : U32 := 0
  drops    : U32 := 0
  afterDrop : Bool := false
  sent     : U32 := 0
  unitsIn  : U64 := 0
  bytesOut : U64 := 0
  lineSeq  : U32 := 0
  unitsDone : Nat := 0
  /-- seconds since stream 0x0100 started (R318) -/
  secs     : Nat := 0
  /-- seconds that passed in all, and at the last save of stream 0x0100 its `LINE_SEQ`, `secs` and that count (R327) -/
  tick     : Nat := 0
  saved    : Option (Nat × Nat × Nat) := none
  /-- the line in which a save fell, and the units of it still to be sent (R326) -/
  owed     : Option (Nat × Nat) := none
  /-- configurations accepted since, which take effect once the save's block is closed (R326) -/
  renew    : List (List Byte) := []
  /-- the last block coded was dropped: the next one carries `AFTER_DROP` (R324) -/
  gap      : Bool := false
  /-- the block closes at the end of the line in progress (R320) -/
  closeDue : Bool := false
deriving DecidableEq, Repr, Inhabited

/-! ### The interval unit (11) -/

/-- A result of a measurement channel (R418): value, device time of its start edge in ps, flags. -/
structure TimResult where
  value : Int
  at_   : Ps
  flags : Nat
deriving DecidableEq, Repr, Inhabited

/-- A measurement channel (R403-R407, R417). `cfg`: bytes 0-15 of `TIM_CFG` as held. -/
structure TimChan where
  cfg     : List Byte := List.replicate 8 0 ++ [0x40, 0x42, 0x0F, 0x00] ++ List.replicate 4 0
  results : List TimResult := []
  dropped : U32 := 0
  missed  : U32 := 0
  /-- edges not paired yet (interval), or the edges of the gate (period, frequency), in device time, ps (R402); oldest first -/
  starts  : List Ps := []
  stops   : List Ps := []
  /-- edges into the prescaler -/
  pre     : Nat := 0
  /-- start of the running gate, device time in ps (R403) -/
  gateAt  : Ps := 0
  /-- the last edge accepted behind a prescaler (R402, R405) -/
  lastHit : Option Ps := none
deriving DecidableEq, Repr, Inhabited

/-- The interval unit (R402-R405, R417): its four channels, and the trims of the four `TIN` inputs (R406). -/
structure TimState where
  chans : Vector TimChan 4 := Vector.replicate 4 {}
  trim  : Vector Int 4 := Vector.replicate 4 0
  /-- last accepted edge of each source (R402) -/
  last  : List (Nat × Ps) := []
deriving DecidableEq, Repr, Inhabited

/-! ### The auxiliary front end (12) -/

/-- A result (R422, R423, R433). -/
structure AuxRes where
  r     : Int
  at_   : Ps
  stamp : Nat
  flags : Nat
  ch    : Nat
deriving DecidableEq, Repr, Inhabited

/-- An auxiliary channel. `cfg`: bytes 0-15 of `AUX_CFG` as held (R444). -/
structure AuxCh where
  cfg      : List Byte := List.replicate 16 0
  enabled  : Bool := false
  unsettled : Nat := 0
  suspect  : Bool := false
  isOpen   : Bool := false
  openTold : Bool := false
  caLeft   : Nat := 0
  sinceReset : Nat := 0
  wakes    : Nat := 0
  buf      : List AuxRes := []
  dropped  : U32 := 0
  last     : Option AuxRes := none
  /-- results of a reference-resistor measurement still to come, and the value they repeat (R436) -/
  refLeft  : Nat := 0
  refHold  : Int := 0
deriving DecidableEq, Repr, Inhabited

/-- A current source (R427): current (10 uA), destination, `CHMASK`. -/
structure Exc where
  current : Nat := 0
  dest    : Nat := 0
  chmask  : Byte := 0
deriving DecidableEq, Repr, Inhabited

/-- An analogue monitor output (R440-R446). `cfg`: bytes 1-17 of `AMON_CFG` as held. -/
structure Amon where
  cfg     : List Byte := List.replicate 17 0
  next    : Option (List Byte) := none
  code    : Nat := 0
  y       : Option Rat := none
  holding : Bool := false
  atSafe  : Bool := false
deriving DecidableEq, Repr, Inhabited

/-- The auxiliary front end (R422-R447): its channels, current sources and monitor outputs, `VREF` as last measured, and of the last
wake request its channel, value and instant (R439). -/
structure AuxState where
  chans   : Vector AuxCh 8 := Vector.replicate 8 {}
  exc     : Vector Exc 2 := Vector.replicate 2 {}
  amon    : Vector Amon 2 := Vector.replicate 2 {}
  vrefLow : Bool := false
  vrefMv  : Nat := 0
  lastWakeCh : Nat := 0xFF
  lastWake : Int := 0
  lastWakeAt : Option Ps := none
deriving DecidableEq, Repr, Inhabited

/-! ### Record memory (13) -/

/-- A memory channel (R463-R474). `eyes`, `centres`: read lane 0, read lane 1, write lane 0, write lane 1. -/
structure MemCh where
  live     : Bool := true
  training : Bool := false
  trained  : Bool := true
  drift    : Bool := false
  reason   : Nat := 0
  policy   : Nat := 0
  refreshX : Nat := 0
  eyes     : List Nat := [0, 0, 0, 0]
  centres  : List Nat := [0, 0, 0, 0]
  tapFs    : Nat := 0
  /-- a passed set that becomes active at the next refresh (R468): eyes, centres, tap -/
  newSet   : Option (List Nat × List Nat × Nat) := none
  tDram    : Int := 0
  eccCorr  : U32 := 0
  eccUncorr : U32 := 0
  lastUncorr : U32 := 0
  rtBytes  : Nat := 0
  rtDrop   : U32 := 0
  /-- the real-time load has exceeded the reservation since the counts were cleared (R461) -/
  overSeen : Bool := false
  postponed : Nat := 0
  postponeMax : Nat := 0
  refreshes : Nat := 0
  trainSec : U32 := 0
  uncorrAt : List Ps := []
  corrSec  : Option Nat := none
  selfRefresh : Bool := true
  preds    : Vector Nat 16 := Vector.replicate 16 2
  /-- per bank the row that is open, or would be had it been kept (R455) -/
  rows     : Vector (Option Nat) 16 := Vector.replicate 16 none
deriving DecidableEq, Repr, Inhabited

/-- A `MEM_TRAIN` in progress (R468, R476). -/
structure Training where
  left     : List Nat
  tag      : U16
  began    : Ps
  degraded : Bool := false
  late     : Bool := false
deriving DecidableEq, Repr, Inhabited

/-- Record memory (R453-R477): its channels, bank hash and eye limit, the training under way. -/
structure MemState where
  ch       : Vector MemCh 4 := Vector.replicate 4 {}
  bankSel  : Vector U32 4 := Vector.ofFn (fun i => BitVec.ofNat 32 (0x1110 * 2 ^ i.val))
  eyeMin   : Nat := 12
  train    : Option Training := none
  /-- last drop of the running episode of R459 -/
  dropAt   : Option Ps := none
deriving DecidableEq, Repr, Inhabited

/-! ### Network time (11) -/

/-- A time transmitter seen in a domain (R391): the identity of its port, its last Announce and when it came. -/
structure PtpMaster where
  id   : BitVec 80
  data : PtpAnnounce
  at_  : Ps
deriving DecidableEq, Repr, Inhabited

/-- A tracked PTP domain (R394, R395, R413). `cfg`: bytes 2-43 of `PTP_CFG` as held; `phase`: 0 off, 1 acquiring, 2
locked, 3 lost; `f`, `r` in ps/s. -/
structure Domain where
  cfg     : List Byte := [0, 0, 0, 0, 0, 0, 3, 2, 6, 0, 3, 0, 100, 0] ++ List.replicate 28 0
  phase   : Nat := 0
  streak  : Nat := 0
  f       : Rat := 0
  r       : Rat := 0
  offset  : Int := 0
  path    : Nat := 0
  freq    : Int := 0
  outliers : U32 := 0
  syncRx  : U32 := 0
  steps   : Byte := 0
  gm      : U64 := 0
  utc     : Option U16 := none
  lockedAt : Option Ps := none
  lastPair : Ps := 0
  lastAnn  : Ps := 0
  /-- the interval of the best time transmitter's Announce messages (R395), the identity of its port, the transmitters seen (R391) -/
  annEvery : Ps := 0
  sender   : Option (BitVec 80) := none
  masters  : List PtpMaster := []
  /-- the domain's copy of the timescale, the device timescale itself while it is selected (R394): its time at an instant t is
  t + `cOff` + the rate's share since `cRef`; `synced`: it has been set to its time transmitter -/
  cOff     : Rat := 0
  cRef     : Ps := 0
  cRate    : Rat := 0
  synced   : Bool := false
deriving DecidableEq, Repr, Inhabited

/-- The timescale (R387-R401). Device time at model instant t is t + `offset` + the rate's share since `ref` + what has been
slewed since `slewRef`. `state`: 0 FREERUN, 1 ACQUIRING, 2 LOCKED, 3 HOLDOVER, 4 AON_COARSE. -/
structure TimeState where
  offset   : Rat := 0
  ref      : Ps := 0
  /-- frequency correction in force, ps/s -/
  rate     : Rat := 0
  /-- standing correction still to slew at `slewRef`, ps; kept when `hold` -/
  slew     : Rat := 0
  /-- what is slewed besides while `hold` keeps the standing correction: offsets not stepped (R396) -/
  pull     : Rat := 0
  slewRef  : Ps := 0
  state    : Nat := 0
  selected : Option Nat := none
  auto     : Bool := true
  revert   : Bool := false
  hold     : Bool := false
  slewMax  : Nat := 100
  stepLimit : Nat := 1000
  domains  : Vector Domain 2 := Vector.replicate 2 {}
  holdSince : Option Ps := none
  ocxoPresent : Bool := false
  ocxoRdy  : Bool := false
  ocxoWarm : Bool := false
  ocxoLast : Option Int := none
  ocxoStreak : Nat := 0
  /-- corrections of the last 60 s of lock: instant, ps/s -/
  history  : List (Ps × Rat) := []
deriving DecidableEq, Repr, Inhabited

/-- What the wake store holds (R528): Indigo's settings as a list, per port the group index, the survey and the
automatic-power-reduction reference, per memory channel the policy and the bank masks. -/
structure WakeStore where
  plan   : Plan
  cfg    : LightCfg
  port   : Nat
  trip   : Bool
  /-- the reference of a restore has not been taken (R88) -/
  armed  : Bool
  ports  : List (Nat × Option Survey × List Rat)
  indigo : List Nat
  ochre  : OchreCfg
  coil   : Option Coil
  map    : ZoneMap
  policy : List Nat
  banks  : List U32
  eyeMin : Nat
deriving DecidableEq, Repr, Inhabited

/-- The always-on identity of the part (R1, R2, R199). -/
structure PartState where
  caps  : U32 := 0x00020FA1
  dieId : U64 := 0
deriving DecidableEq, Repr, Inhabited

/-- The machine. `pending`: the queue of commands that wait, first in first out. `now`: picoseconds since VDD_AON
came up. `freeIdx`: the model's own counter of free values taken (log 10-23). -/
structure State where
  pending : List Instr := []
  now     : Ps := 0
  freeIdx : Nat := 0
  outbox  : List Out := []
  part    : PartState := {}
  cmd     : CmdState := {}
  evq     : EvqState := {}
  fault   : FaultState := {}
  mgmt    : MgmtState := {}
  pair    : PairState := {}
  power   : PowerState := {}
  link    : LinkState := {}
  fibre   : FibreState := {}
  light   : LightState := {}
  time    : TimeState := {}
  indigo  : IndigoState := {}
  ochre   : OchreState := {}
  lock    : LockState := {}
  cal     : CalState := {}
  stages  : Vector StageBuf 4 := Vector.replicate 4 {}
  ctxs    : Vector Ctx 256 := Vector.replicate 256 {}
  alarm   : AlarmState := {}
  thresh  : ThreshState := {}
  pool    : PoolState := {}
  cores   : Vector Core 32 := Vector.replicate 32 {}
  streams : Vector Stream 258 := Vector.replicate 258 {}
  tim     : TimState := {}
  aux     : AuxState := {}
  mem     : MemState := {}
  /-- the newer copy of the wake store written since VDD_AON came up (R528) -/
  store   : Option WakeStore := none
deriving DecidableEq, Repr, Inhabited

/-- Faults that stop the model. The spec stops no command of the table with a fault, so no row raises one; the type
has one name because the interface asks for a closed type. -/
inductive Fault where
  /-- raised by no row: SAFE. -/
  | impossible
deriving DecidableEq, Repr

/-- Refusals. -/
inductive Refusal where
  /-- the arm of a row that has no meaning yet: SAFE (nothing is said of that row) -/
  | notModelled (mnemonic : String)
deriving DecidableEq, Repr

/-- The machine right after reset: STANDBY at the end of R593, every setting at its reset value (log 1). The
structure defaults above are the reset values. -/
def State.reset : State := {}

end Sys2Proof.Machine
end

