-- ==== Sys2Proof/Machine/Ops.lean ====
section
/-! DEFINITION. Machine/Ops.lean: the named operations every family uses: byte fields (00_scope, Conventions), the two
check functions (R347), tables, time and stamps (R387, R388, R603), interrupt requests (R555), the firmware log (R385),
event items (R331-R333, R337) and fault items (R479-R491). -/

namespace Sys2Proof.Machine

open Sys2Proof

/-! ### Byte fields -/

/-- The `n` bytes of a field, little-endian. -/
def leBytes : Nat → Nat → List Byte
  | 0, _ => []
  | n + 1, v => BitVec.ofNat 8 v :: leBytes n (v / 256)

/-- The value of a little-endian byte list. -/
def leVal : List Byte → Nat
  | [] => 0
  | b :: bs => b.toNat + 256 * leVal bs

/-- The unsigned field of `n` bytes at an offset of a payload; bytes beyond its end read 0. -/
def fld (p : List Byte) (off n : Nat) : Nat := leVal ((p.drop off).take n)

/-- Two's complement reading of an `n`-byte value. -/
def signed (n v : Nat) : Int := if v < 2 ^ (8 * n - 1) then v else (v : Int) - 2 ^ (8 * n)

/-- The signed field of `n` bytes at an offset. -/
def sfld (p : List Byte) (off n : Nat) : Int := signed n (fld p off n)

/-- The `n` bytes of a signed field. -/
def leInt (n : Nat) (v : Int) : List Byte := leBytes n (v % 2 ^ (8 * n)).toNat

def le1 (v : Nat) : List Byte := leBytes 1 v
def le2 (v : Nat) : List Byte := leBytes 2 v
def le4 (v : Nat) : List Byte := leBytes 4 v
def le8 (v : Nat) : List Byte := leBytes 8 v
/-- `n` reserved bytes. -/
def zeros (n : Nat) : List Byte := List.replicate n 0
/-- A flag as a number. -/
def bit (b : Bool) : Nat := if b then 1 else 0
/-- Flags packed from bit 0 upward. -/
def flags : List Bool → Nat
  | [] => 0
  | b :: bs => bit b + 2 * flags bs
/-- Bit `i` of a number. -/
def tst (v i : Nat) : Bool := v.testBit i
/-- Payload padded with zeros to a length. -/
def padTo (n : Nat) (l : List Byte) : List Byte := l ++ zeros (n - l.length)
/-- A byte from a number. -/
def by8 (n : Nat) : Byte := BitVec.ofNat 8 n

/-- A counter that stops at its largest value. -/
def satInc {w : Nat} (c : BitVec w) : BitVec w := if c = BitVec.allOnes w then c else c + 1
/-- Saturating addition of `n`. -/
def satAdd {w : Nat} (c : BitVec w) (n : Nat) : BitVec w := BitVec.ofNat w (min (c.toNat + n) (2 ^ w - 1))

/-! ### Check functions (R347) -/

/-- One bit of CRC-16/CCITT. -/
def crc16Bit (c : U16) : U16 := if c.msb then (c <<< 1) ^^^ 0x1021 else c <<< 1

/-- CRC-16 over bytes, from a running value. -/
def crc16From (c : U16) : List Byte → U16
  | [] => c
  | b :: bs =>
    let x := c ^^^ (b.zeroExtend 16 <<< 8)
    crc16From (crc16Bit (crc16Bit (crc16Bit (crc16Bit (crc16Bit (crc16Bit (crc16Bit (crc16Bit x)))))))) bs

/-- CRC-16 (R347): polynomial 0x1021, initial value 0xFFFF, not reflected, no final XOR. -/
def crc16 (l : List Byte) : U16 := crc16From 0xFFFF l

/-- One bit of the reflected Castagnoli polynomial 0x1EDC_6F41. -/
def crc32Bit (c : U32) : U32 := if c.getLsbD 0 then (c >>> 1) ^^^ 0x82F63B78 else c >>> 1

/-- CRC-32C over bytes, from a running value. -/
def crc32From (c : U32) : List Byte → U32
  | [] => c
  | b :: bs =>
    let x := c ^^^ b.zeroExtend 32
    crc32From (crc32Bit (crc32Bit (crc32Bit (crc32Bit (crc32Bit (crc32Bit (crc32Bit (crc32Bit x)))))))) bs

/-- CRC-32C (R347): reflected, initial value and final XOR 0xFFFF_FFFF. -/
def crc32c (l : List Byte) : U32 := crc32From 0xFFFFFFFF l ^^^ 0xFFFFFFFF

/-- A payload with its trailing `CRC` (R348, R349). -/
def withCrc (l : List Byte) : List Byte := l ++ le4 (crc32c l).toNat

/-! ### Tables -/

/-- Entry `i` of a table; a default outside it. -/
def vget {α : Type} {n : Nat} [Inhabited α] (v : Vector α n) (i : Nat) : α := v[i]?.getD default
/-- Entry `i` set; unchanged outside the table. -/
def vset {α : Type} {n : Nat} (v : Vector α n) (i : Nat) (x : α) : Vector α n := v.setIfInBounds i x
/-- Entry `i` modified. -/
def vmod {α : Type} {n : Nat} [Inhabited α] (v : Vector α n) (i : Nat) (f : α → α) : Vector α n := vset v i (f (vget v i))

/-- Ceiling division. -/
def cdiv (a b : Nat) : Nat := if a % b = 0 then a / b else a / b + 1

/-! ### Modes -/

/-- The code of a mode (R380). -/
def Mode.code : Mode → Nat
  | .dormant => 0 | .sleepWatch => 1 | .standby => 2 | .warm => 3
  | .acoustic => 4 | .survey => 5 | .full => 6 | .calibrate => 7

/-- The mode of a code. -/
def Mode.ofCode : Nat → Mode
  | 0 => .dormant | 1 => .sleepWatch | 2 => .standby | 3 => .warm
  | 4 => .acoustic | 5 => .survey | 6 => .full | _ => .calibrate

/-- ACOUSTIC, SURVEY and FULL, the measurement modes (R535). -/
def Mode.measures : Mode → Bool
  | .acoustic | .survey | .full => true
  | _ => false

/-- DORMANT and SLEEP_WATCH. -/
def Mode.asleep : Mode → Bool
  | .dormant | .sleepWatch => true
  | _ => false

/-- Is the device in one of these modes? -/
def State.inMode (s : State) (ms : List Mode) : Bool := ms.contains s.power.mode

/-! ### Capability word (R2) -/

def State.ochreFitted (s : State) : Bool := s.part.caps.getLsbD 8
def State.pairFitted (s : State) : Bool := s.part.caps.getLsbD 9
/-- Largest permitted slot count: 0b01 gives 2, 0b11 gives 8. -/
def State.slotsMax (s : State) : Nat := if (s.part.caps >>> 10).extractLsb' 0 2 = 3#2 then 8 else 2
def State.zoneCores (s : State) : Nat := ((s.part.caps >>> 12).extractLsb' 0 6).toNat

/-! ### Time (R387, R388, R603) -/

/-- The clock moved to an instant; it never runs back. -/
def State.adv (s : State) (t : Ps) : State := { s with now := max s.now t }

/-- What is being slewed, as of `slewRef` (R396), ps. -/
def TimeState.toSlew (x : TimeState) : Rat := x.pull + if x.hold then 0 else x.slew

/-- What has been slewed of it at an instant, ps. -/
def TimeState.slewed (x : TimeState) (t : Ps) : Rat :=
  let done : Rat := ((t - x.slewRef) * x.slewMax : Nat) / 1000000000
  if x.toSlew < 0 then max x.toSlew (-done) else min x.toSlew done

/-- Device time of an instant, in ps since the PTP epoch, exactly (R387). -/
def State.devAt (s : State) (t : Ps) : Rat :=
  t + s.time.offset + ((t : Int) - s.time.ref : Int) * s.time.rate / 1000000000000 + s.time.slewed t

/-- The tick of the 32.768 kHz counter a device time falls in, ps (R400). -/
def coarse (d : Rat) : Rat := ((d * 32768 / 1000000000000).floor : Rat) * 1000000000000 / 32768

/-- Device time in whole ps: in sleep, that of the real-time counter (R400). -/
def State.devPs (s : State) (t : Ps) : Nat :=
  (if s.power.sleeping then coarse (s.devAt t) else s.devAt t).floor.toNat
/-- Device time in whole nanoseconds. -/
def State.devNs (s : State) (t : Ps) : Nat := s.devPs t / 1000
/-- Device-time seconds. -/
def State.devSec (s : State) (t : Ps) : Nat := s.devNs t / 1000000000
/-- Nanoseconds within the second. -/
def State.devSubNs (s : State) (t : Ps) : Nat := s.devNs t % 1000000000
/-- The compact stamp of a device time in ns (R388), and of an instant. -/
def stampOf (ns : Nat) : Nat := ns % 2 ^ 32
def State.stamp (s : State) (t : Ps) : Nat := stampOf (s.devNs t)
/-- The cycle an instant falls in (R603): one period of 1 ns of the device timescale. -/
def State.cycle (s : State) : Nat := s.devNs s.now

/-! ### Interrupts (R555, R556) -/

/-- A word of the MSI-X table. At reset every vector is masked and the rest reads 0 (PRESUMED from PCI Express, log 215). -/
def LinkState.msixWord (l : LinkState) (off : Nat) : U32 :=
  match l.msixTable.find? (fun e => e.1 = off) with
  | some e => e.2
  | none => if off % 16 = 12 then 1 else 0

/-- Is a vector masked: the lowest bit of its vector control? -/
def LinkState.masked (l : LinkState) (v : Nat) : Bool := (l.msixWord (0x200C + 16 * v)).getLsbD 0

/-- A request of an MSI-X vector: `IRQ_CAUSE` bit set; a message sent, or the pending bit set while the vector is masked. -/
def reqVector (v : Nat) (s : State) : State :=
  let b : U16 := BitVec.ofNat 16 (2 ^ v)
  { s with link := { s.link with irqCause := s.link.irqCause ||| b,
                                 msixPend := if s.link.masked v then s.link.msixPend ||| b else s.link.msixPend }
           outbox := if s.link.masked v then s.outbox else .msix v :: s.outbox }

/-- Something sent to the outside. -/
def send (o : Out) (s : State) : State := { s with outbox := o :: s.outbox }

/-- The number of set bits among the low `n`. -/
def popCount : Nat → Nat → Nat
  | 0, _ => 0
  | n + 1, v => v % 2 + popCount n (v / 2)

/-- A free value's index taken. -/
def State.took (s : State) : State := { s with freeIdx := s.freeIdx + 1 }

/-! ### The firmware log (R385) -/

/-- An entry added to the ring of 4,096. -/
def logEntry (code arg : Nat) (s : State) : State :=
  let e : LogEntry :=
    { index := s.fault.logNext, sec := BitVec.ofNat 32 (s.devSec s.now), nsec := BitVec.ofNat 32 (s.devSubNs s.now),
      epoch := s.cmd.epoch, code := BitVec.ofNat 16 code, arg := BitVec.ofNat 32 arg }
  { s with fault.log := (e :: s.fault.log).take Config.logEntries, fault.logNext := s.fault.logNext + 1 }

/-! ### The event queue (R331-R337) -/

/-- Words admitted and not released. -/
def EvqState.used (q : EvqState) : Nat := (q.items.map (·.words.length)).sum

/-- Words written and not released, at a cycle: one word a cycle (R333, R334). -/
def EvqState.written (q : EvqState) (cyc : Nat) : Nat :=
  (q.items.map (fun i => min i.words.length (cyc - (i.doneAt - i.words.length)))).sum

/-- While forwarding runs, the items complete before a cycle have left the queue (R340). -/
def EvqState.forwarded (q : EvqState) (cyc : Nat) : EvqState :=
  if q.fwdOn then
    { q with forward := q.forward ++ q.items.takeWhile (fun i => i.doneAt < cyc),
             items := q.items.dropWhile (fun i => i.doneAt < cyc) }
  else q

/-- Words from the read point on. -/
def EvqState.unread (q : EvqState) : Nat := ((q.items.drop q.rdItem).map (·.words.length)).sum - q.rdWord

/-- Words of complete items from the read point on, at a cycle. -/
def EvqState.unreadAt (q : EvqState) (cyc : Nat) : Nat :=
  (((q.items.drop q.rdItem).takeWhile (fun i => i.doneAt ≤ cyc)).map (·.words.length)).sum - q.rdWord

/-- Vector 1 when the count of unread words rises to the level (R337); the rise is taken at admission (log 30). -/
def riseCheck (before : Nat) (s : State) : State :=
  if s.evq.level ≠ 0 ∧ before < s.evq.level ∧ s.evq.level ≤ s.evq.unread then reqVector 1 s else s

/-- The words of an item: header (R331) and body bytes in words. -/
def itemWords (type epoch stampNs : Nat) (body : List Byte) : List U64 :=
  let n := cdiv body.length 8
  let hdr := type + (n % 8) * 256 + epoch * 65536 + stampNs * 2 ^ 32
  BitVec.ofNat 64 hdr :: (List.range n).map (fun i => BitVec.ofNat 64 (fld body (8 * i) 8))

/-- The free words at the start of the present cycle, less words admitted since (R333). -/
def EvqState.free (q : EvqState) (cyc : Nat) : Nat :=
  64 - (q.used + (if q.relCycle = cyc then q.relWords else 0))

/-- The rank of an item among those decided in its cycle: type code, then context or unit (R333). A `FLUSH_MARK` is the first
item after its flush (R338). -/
def itemRank (type : Nat) (body : List Byte) : Nat :=
  let unit := if type = 5 then fld body 4 2 else if type = 2 then fld body 0 2 else if type = 1 || type = 3 then fld body 0 1
    else if type = 9 then fld body 1 1 else 0
  if type = 0x0A then 0 else type * 65536 + unit

/-- An item takes its place behind the first `k` items and those after them that `stays` keeps ahead of it; the rest are written
later. -/
def insertItem (k : Nat) (stays : EvtItem → Bool) (it : EvtItem) (l : List EvtItem) : List EvtItem :=
  let head := l.take k ++ (l.drop k).takeWhile stays
  let tail := l.drop head.length
  let n := it.words.length
  let start := match tail with
    | x :: _ => x.doneAt - x.words.length
    | [] => max it.cyc ((l.getLast?.map (·.doneAt)).getD 0)
  head ++ { it with doneAt := start + n } :: tail.map (fun x => { x with doneAt := x.doneAt + n })

/-- An item decided now goes behind all but the items of its own cycle that rank after it. -/
def placeItem (it : EvtItem) (l : List EvtItem) : List EvtItem :=
  insertItem 0 (fun x => !(x.cyc = it.cyc && it.rank < x.rank)) it l

/-- One that a row brings after its decision goes ahead of the items decided after it that the host has not begun to read. -/
def placePast (q : EvqState) (it : EvtItem) : List EvtItem :=
  insertItem (if q.rdWord = 0 then q.rdItem else q.rdItem + 1)
    (fun x => x.cyc < it.cyc || (x.cyc = it.cyc && x.rank ≤ it.rank)) it q.items

/-- An item decided at an instant, carrying an epoch: admitted whole, or dropped and counted in `EVT_LOST` (R331, R333). -/
def evtItemAt (t : Ps) (type : Nat) (epoch : U16) (body : List Byte) (s : State) : State :=
  let ws := itemWords type epoch.toNat (s.stamp t) body
  let it : EvtItem := { words := ws, poison := ws.map (fun _ => false), doneAt := 0, cyc := s.devNs t, rank := itemRank type body }
  let s := { s with evq := s.evq.forwarded s.cycle }
  if s.evq.free s.cycle < ws.length then { s with evq.lost := satInc s.evq.lost }
  else
    let u := { s with evq.items := if t < s.now then placePast s.evq it else placeItem it s.evq.items }
    if s.evq.fwdOn then u else riseCheck s.evq.unread u

/-- An item decided now, carrying an epoch. -/
def evtItemE (type : Nat) (epoch : U16) (body : List Byte) (s : State) : State := evtItemAt s.now type epoch body s

/-- An item decided now under the epoch in force. -/
def evtItem (type : Nat) (body : List Byte) (s : State) : State := evtItemE type s.cmd.epoch body s

/-- The items the host has not begun to read changed: `f` takes an item's words. -/
def amendItems (f : List U64 → List U64) (s : State) : State :=
  let put (it : EvtItem) : EvtItem := { it with words := f it.words }
  let keep := s.evq.rdItem + (if s.evq.rdWord = 0 then 0 else 1)
  { s with evq.items := s.evq.items.take keep ++ (s.evq.items.drop keep).map put, evq.forward := s.evq.forward.map put }

/-- The epoch under which commands are answered now: during a recovery the one before it, since they were received before step 1
(R374). -/
def State.answerEpoch (s : State) : U16 := (s.cmd.recovery.map (·.oldEpoch)).getD s.cmd.epoch

/-- Would an item of `n` words be admitted now? -/
def State.admits (s : State) (n : Nat) : Bool := n ≤ (s.evq.forwarded s.cycle).free s.cycle

/-! ### Fault items (R479-R491) -/

/-- The class of a fault code, by the owning chapters' tables (R479): 0 correctable, 1 degrading, 2 recoverable,
3 fatal; none for codes with no class (R386). -/
def faultClass (code : Nat) : Option Nat :=
  if code ∈ [0x0100, 0x0101, 0x0102, 0x0104, 0x0110, 0x0111, 0x0112, 0x0206, 0x0207, 0x0208, 0x0302, 0x0303, 0x0305,
      0x0400, 0x0401, 0x0402, 0x0500, 0x0601, 0x0604, 0x0605, 0x0700, 0x0800, 0x0802, 0x0804, 0x0805, 0x0806, 0x0900,
      0x0901, 0x0A00, 0x0A01, 0x0A03, 0x0A04, 0x0A06, 0x0C02, 0x0C03, 0x0C04, 0x0C05, 0x0D01, 0x0D02] then some 0
  else if code ∈ [0x0201, 0x0202, 0x0204, 0x0300, 0x0301, 0x0304, 0x0602, 0x0603, 0x0801, 0x0803, 0x0A02, 0x0A05,
      0x0B01, 0x0B03, 0x0B04, 0x0C00, 0x0C01, 0x0E01] then some 1
  else if code ∈ [0x0600, 0x0B00] then some 2
  else if code ∈ [0x0200, 0x0203, 0x0205, 0x0B02, 0x0D00, 0x0D03, 0x0E00] then some 3
  else none

/-- Codes with a class that R386 marks as not queued. -/
def faultQueued (code : Nat) : Bool := code ≠ 0x0100 && code ≠ 0x0101 && code ≠ 0x0102

/-- State-bound degrading codes (R486). -/
def faultBound (code : Nat) : Bool :=
  [0x0A02, 0x0A05, 0x0801, 0x0803, 0x0B03, 0x0C00, 0x0C01, 0x0E01].contains code

/-- One occurrence of a fault, with the fields of its item (R480). -/
structure FaultOcc where
  code     : Nat
  unit     : Nat := 0xFFFF
  evidence : Nat := 0
  a0       : Nat := 0
  a1       : Nat := 0
  retired  : Bool := false
  spare    : Bool := false
  noSpare  : Bool := false
  tag      : U16 := 0
  status   : Nat := 0
  /-- the log's `ARG` where it is not `ARG0` (R483) -/
  logArg   : Option Nat := none
  /-- a long command's completion item: it carries the epoch of the command's answer (R374) -/
  answers  : Bool := false
deriving Repr

/-- The fault table after an occurrence (R518): a new code takes the next index. -/
def faultTable (o : FaultOcc) (sec : U32) (t : List FaultEntry) : List FaultEntry :=
  let upd (e : FaultEntry) : FaultEntry :=
    { e with count := satInc e.count, unread := e.unread || faultQueued o.code, retired := e.retired || o.retired,
             lastSec := sec, lastArg := BitVec.ofNat 32 o.a0 }
  match faultClass o.code with
  | none => t
  | some c =>
    if t.any (·.code = o.code) then t.map (fun e => if e.code = o.code then upd e else e)
    else t ++ [{ code := o.code, cls := BitVec.ofNat 8 c, unread := faultQueued o.code, retired := o.retired,
                 count := 1, lastSec := sec, lastArg := BitVec.ofNat 32 o.a0 }]

/-- Occurrences of a code since counts were last cleared. -/
def faultCount (code : Nat) (t : List FaultEntry) : Nat := ((t.find? (·.code = code)).map (·.count.toNat)).getD 0

/-- The body of a `FAULT` item (R480). -/
def faultBody (o : FaultOcc) (count logIndex : Nat) : List Byte :=
  le2 o.code ++ le1 ((faultClass o.code).getD 0) ++ le1 o.evidence ++ le2 o.unit ++ le2 o.tag.toNat ++ le1 o.status
    ++ le1 (flags [o.retired, o.spare, o.noSpare]) ++ le2 (min count 0xFFFF) ++ le4 o.a0 ++ le4 o.a1 ++ le4 logIndex

/-- One occurrence of a fault: logged (R483), entered in the fault table (R518), and queued where its table says so;
vector 3 under R555. An item that cannot be admitted is counted (R483). -/
def raise (o : FaultOcc) (s : State) : State :=
  let ix := s.fault.logNext
  let s := logEntry o.code (o.logArg.getD o.a0) s
  let s := { s with fault.table := faultTable o (BitVec.ofNat 32 (s.devSec s.now)) s.fault.table }
  let s := if faultBound o.code && !s.fault.bound.contains o.code then
    { s with fault.bound := o.code :: s.fault.bound } else s
  match faultClass o.code with
  | none => s
  | some c =>
    if faultQueued o.code then
      let ok := s.admits 4
      let rise := ok && (!s.fault.unread || 1 ≤ c)
      let s := evtItemE 0x05 (if o.answers then s.answerEpoch else s.cmd.epoch) (faultBody o (faultCount o.code s.fault.table) ix.toNat) s
      let s := if ok then { s with fault.unread := true } else s
      if rise then reqVector 3 s else s
    else s

/-- The condition of a state-bound code ends (R486). -/
def endBound (code : Nat) (s : State) : State :=
  { s with fault.bound := s.fault.bound.filter (· ≠ code) }

/-- A completion item of a long command (R368, R483): codes 0x0110-0x0112. -/
def completion (code : Nat) (tag : U16) (status evidence a0 a1 : Nat) (s : State) : State :=
  raise { code := code, evidence := evidence, a0 := a0, a1 := a1, tag := tag, status := status, answers := true,
          logArg := some (tag.toNat * 65536 + status) } { s with cmd.cmdsDone := s.cmd.cmdsDone + 1 }

end Sys2Proof.Machine
end

