-- ==== Sys2Proof/Machine/Hmac.lean ====
section
/-! DEFINITION. Machine/Hmac.lean: HMAC-SHA-256 (R362: FIPS 198-1 over SHA-256), the trailer of authenticated requests,
replies and datagrams. The rule names the standard and prints none of it: the functions, and the constants as digits of square
and cube roots of primes, are PRESUMED (log 24). -/

namespace Sys2Proof.Machine

open Sys2Proof

/-! ### The constants: fractional digits of roots -/

/-- The first 64 primes: the numbers below 312 with no divisor from 2 to 17 but themselves. -/
def rootPrimes : List Nat :=
  ((List.range 310).map (· + 2)).filter (fun n => ((List.range 16).map (· + 2)).all (fun d => d = n || n % d ≠ 0))

/-- The largest number below `acc + 2^bits`, at or above `acc`, whose power `e` does not exceed `x`: bit by bit from the top. -/
def rootFrom (e x : Nat) : Nat → Nat → Nat
  | 0, acc => acc
  | n + 1, acc => rootFrom e x n (if (acc + 2 ^ n) ^ e ≤ x then acc + 2 ^ n else acc)

/-- The first 32 binary digits after the point of the root of order `e` of a number below 2^9. -/
def rootDigits (e p : Nat) : U32 := BitVec.ofNat 32 (rootFrom e (p * 2 ^ (32 * e)) 37 0)

/-- What each of the 64 steps adds, and the digest of no block. -/
def stepConst : List U32 := rootPrimes.map (rootDigits 3)
def digest0 : List U32 := (rootPrimes.take 8).map (rootDigits 2)

/-! ### A block -/

/-- The exclusive or of a word turned right by each of some amounts. -/
def turns (ns : List Nat) (x : U32) : U32 := ns.foldl (fun a n => a ^^^ x.rotateRight n) 0

/-- Eight working words, `a` first, after one step with an addend. -/
def mixStep (v : List U32) (add : U32) : List U32 :=
  match v with
  | [a, b, c, d, e, f, g, h] =>
    let x := turns [6, 11, 25] e + (g ^^^ (e &&& (f ^^^ g))) + h + add
    let y := turns [2, 13, 22] a + ((a &&& b) ||| (c &&& (a ||| b)))
    [x + y, a, b, c, d + x, e, f, g]
  | _ => v

/-- The next message word of a window of sixteen, oldest first. -/
def nextWord (win : List U32) : U32 :=
  let w (i : Nat) : U32 := (win[i]?).getD 0
  w 0 + w 9 + (turns [7, 18] (w 1) ^^^ (w 1 >>> 3)) + (turns [17, 19] (w 14) ^^^ (w 14 >>> 10))

/-- The steps of a block: each takes the oldest word of the window and slides it by one. -/
def mixBlock : List U32 → List U32 → List U32 → List U32
  | [], _, v => v
  | k :: ks, win, v => mixBlock ks (win.drop 1 ++ [nextWord win]) (mixStep v (k + win.headD 0))

/-- Big-endian words of four bytes. -/
def bigWords : List Byte → List U32
  | p :: q :: r :: t :: rest => (p ++ q ++ r ++ t) :: bigWords rest
  | _ => []

/-- The words of a message, sixteen at a time, mixed into a digest. -/
def mixAll : Nat → List U32 → List U32 → List U32
  | 0, _, v => v
  | n + 1, ws, v => mixAll n (ws.drop 16) (List.zipWith (· + ·) v (mixBlock stepConst (ws.take 16) v))

/-- SHA-256: a one bit, zeros and the length in bits fill the last block. -/
def sha256 (m : List Byte) : List Byte :=
  let fill := (119 - m.length % 64) % 64
  let ws := bigWords (m ++ 0x80 :: zeros fill ++ (le8 (8 * m.length)).reverse)
  (mixAll (ws.length / 16) ws digest0).flatMap (fun x => (le4 x.toNat).reverse)

/-- HMAC-SHA-256 under a 32-byte key (R362). -/
def hmac (key msg : List Byte) : List Byte :=
  let masked (x : Byte) : List Byte := (padTo 64 key).map (x ^^^ ·)
  sha256 (masked 0x5C ++ sha256 (masked 0x36 ++ msg))

end Sys2Proof.Machine
end

