-- ==== Sys2Proof/Machine/CommandPath.lean ====
section
/-! DEFINITION. Machine/CommandPath.lean: how any command is checked, executed, answered, held, fenced and mirrored
(R345-R372); each family gives only the command's own checks and effect (`Ans`). -/

namespace Sys2Proof.Machine

open Sys2Proof

/-! ### Status codes (R352): every reply's `STATUS` is one of these, set by `mkReply` -/

namespace St
def ok : Nat := 0x00
def accepted : Nat := 0x01
def badOpcode : Nat := 0x10
def badLength : Nat := 0x11
def badCheck : Nat := 0x12
def badTarget : Nat := 0x13
def badParam : Nat := 0x14
def notFitted : Nat := 0x15
def wrongMode : Nat := 0x16
def busy : Nat := 0x20
def ctxArmed : Nat := 0x21
def noSpace : Nat := 0x22
def limitExceeded : Nat := 0x23
def checkFail : Nat := 0x24
def timeout : Nat := 0x30
def calTimeout : Nat := 0x31
def abortedFault : Nat := 0x40
def abortedFlush : Nat := 0x41
def abortedTakeover : Nat := 0x42
def degraded : Nat := 0x50
def internal : Nat := 0xFF
end St

/-- The status codes of R352: `answer` writes no reply with another. -/
def statusCodes : List Nat :=
  [St.ok, St.accepted, St.badOpcode, St.badLength, St.badCheck, St.badTarget, St.badParam, St.notFitted, St.wrongMode, St.busy,
   St.ctxArmed, St.noSpace, St.limitExceeded, St.checkFail, St.timeout, St.calTimeout, St.abortedFault, St.abortedFlush,
   St.abortedTakeover, St.degraded, St.internal]

/-- A value of a request field: one the field's description defines, or 0 in a field the action does not use (R348; DEDUCED, log
208). -/
def definedOr0 (used : Bool) (v : Nat) (ok : Bool) : Bool := ok || (!used && v = 0)

/-! ### Flags of a request (R346) -/

def flFence : Nat := 0
def flNotify : Nat := 1
def flDefer : Nat := 2
def flMirror : Nat := 3
def flUrgent : Nat := 4
def flAuth : Nat := 5

/-- Is flag `i` of a request set? -/
def Fetched.has (f : Fetched) (i : Nat) : Bool := f.flags.getLsbD i

/-! ### The opcode table (R351) -/

/-- The target classes of R351. -/
inductive TClass where
  | device | context | core | stream | unit | deviceOrContext
deriving DecidableEq, Repr

/-- The unit codes of R383. -/
def unitCode (t : Nat) : Bool := t ≤ 0x1F || [0x100, 0x101, 0x102, 0x103, 0x104, 0x106, 0x107].contains t

/-- Does a target lie in its class (R350 step 7)? -/
def TClass.accepts (c : TClass) (t : Nat) : Bool :=
  match c with
  | .device => t = 0xFFFF
  | .context => t ≤ 255
  | .core => t ≤ 31
  | .stream => t ≤ 0x101
  | .unit => unitCode t
  | .deviceOrContext => t = 0xFFFF || t ≤ 255

/-- What R351 and the command's layout say of an opcode. `len`: is the payload (without `CRC`) as long as the layout and
count fields require? -/
structure CmdSpec where
  opcode  : Nat
  target  : TClass
  mirror  : Bool
  len     : List Byte → Bool
  bootRom : Bool := false

/-- A layout of fixed length. -/
def fixedLen (n : Nat) (p : List Byte) : Bool := p.length = n

/-- The opcodes of R351. -/
def opcodes : List Nat :=
  [0x00, 0x01, 0x02, 0x03, 0x04, 0x05, 0x06, 0x07, 0x10, 0x11, 0x12, 0x13, 0x14, 0x15, 0x16, 0x20, 0x21, 0x22, 0x28,
   0x29, 0x2A, 0x30, 0x31, 0x32, 0x33, 0x34, 0x35, 0x36, 0x40, 0x41, 0x42, 0x43, 0x50, 0x51, 0x52, 0x53, 0x58, 0x59,
   0x5A, 0x5B] ++
  [0x60, 0x61, 0x62, 0x63, 0x64, 0x65, 0x66, 0x70, 0x71, 0x72, 0x73, 0x78, 0x79, 0x7A, 0x80, 0x81, 0x82, 0x90, 0x91,
   0x92, 0xA0, 0xA1, 0xA2, 0xF0, 0xF1, 0xF2]

/-- The long commands (R368). -/
def isLong (op : Nat) : Bool := [0x14, 0x70, 0x79, 0xF1, 0xF2].contains op

/-! ### Answers -/

/-- What a command's own chapter answers: status, reply payload without `CRC`, the boundary its change waits for, the
state after it, and what follows the reply. A status that changes nothing gives back the state it was given. -/
structure Ans where
  status  : Nat
  payload : List Byte := []
  /-- the reply names a boundary (R371) -/
  names   : Bool := false
  /-- the change is applied at this instant (R364 settled) -/
  due     : Option Ps := none
  st      : State
  after   : State → State := id

/-- An answer that changes nothing. -/
def reject (status : Nat) (s : State) : Ans := { status := status, st := s }

/-- A command's own checks in their order: the first that fails sets the status (R350 step 9). -/
def firstFail : List (Bool × Nat) → Option Nat
  | [] => none
  | (c, st) :: rest => if c then some st else firstFail rest

/-- Checks, then the effect. -/
def checked (cs : List (Bool × Nat)) (s : State) (k : Unit → Ans) : Ans :=
  match firstFail cs with
  | some st => reject st s
  | none => k ()

/-! ### Queues -/

def getQ (q : Nat) (s : State) : PQueue := if q = 0 then s.cmd.q0 else s.cmd.q1
def setQ (q : Nat) (x : PQueue) (s : State) : State :=
  if q = 0 then { s with cmd.q0 := x } else { s with cmd.q1 := x }

/-- Entries of a queue. -/
def PQueue.size (q : PQueue) : Nat := 2 ^ q.sizeLog2

/-- Posted entries not fetched. -/
def PQueue.unfetched (q : PQueue) : Nat := (q.tail.toNat + q.size - q.sqHead) % q.size

/-- No command of this queue fetched and unanswered (R355 `IDLE`); a long command is answered by its completion item (R364). -/
def qIdle (q : Nat) (s : State) : Bool :=
  let mine (x : Source) : Bool := match x with | .pcie k => k.val = q | _ => false
  !(s.cmd.fetched.any (fun f => mine f.src) || s.cmd.held.any (fun h => mine h.req.src)
    || s.cmd.fences.any (fun f => mine f.req.src) || (s.cmd.mirror.map (fun m => mine m.req.src)).getD false
    || s.cmd.longs.any (fun l => mine l.2.1))

/-- A UDP source's queue. -/
def USource.q (u : USource) (urgent : Bool) : UQueue := if urgent then u.urgent else u.normal
def USource.setQ (u : USource) (urgent : Bool) (x : UQueue) : USource :=
  if urgent then { u with urgent := x } else { u with normal := x }

/-- One UDP queue changed. -/
def modUdp (id : Nat) (urgent : Bool) (f : UQueue → UQueue) (s : State) : State :=
  { s with cmd.sources := s.cmd.sources.map (fun u => if u.id = id then u.setQ urgent (f (u.q urgent)) else u) }

/-! ### Settled commands (R364, R366, R367) -/

/-- Is a command received, and not yet settled? Commands waiting as a `FENCE` count. -/
def unsettledCmd (src : Source) (seq : U32) (s : State) : Bool :=
  s.cmd.fetched.any (fun f => f.src = src ∧ f.seq = seq) || s.cmd.held.any (fun h => h.req.src = src ∧ h.req.seq = seq)
  || s.cmd.fences.any (fun h => h.req.src = src ∧ h.req.seq = seq)
  || (s.cmd.mirror.map (fun m => decide (m.req.src = src ∧ m.req.seq = seq))).getD false
  || s.cmd.unsettled.any (fun u => u.1 = src ∧ u.2.1 = seq) || s.cmd.longs.any (fun l => l.2.1 = src ∧ l.2.2 = seq)
  || s.cmd.sources.any (fun u => (u.normal.held.any (fun h => h.2.src = src ∧ h.2.seq = seq))
      || (u.urgent.held.any (fun h => h.2.src = src ∧ h.2.seq = seq)))

/-- Every command received before a `FENCE` that executes now and not yet settled (R367): of its own queue, whose later commands
are all behind it, those that have begun; a `FENCE` that waits for this one is not waited for. -/
def receivedBefore (f : Fetched) (s : State) : List (Source × U32) :=
  let other (g : Fetched) : Bool := g.src ≠ f.src
  ((s.cmd.fetched.filter other).map (fun g => (g.src, g.seq))) ++ (s.cmd.held.map (fun h => (h.req.src, h.req.seq)))
    ++ (s.cmd.fences.filter (fun w => !w.cmds.contains (f.src, f.seq))).map (fun h => (h.req.src, h.req.seq))
    ++ (s.cmd.unsettled.map (fun u => (u.1, u.2.1))) ++ (s.cmd.longs.map (fun l => (l.2.1, l.2.2)))
    ++ (s.cmd.sources.flatMap (fun u =>
        ((u.normal.held ++ u.urgent.held).filter (fun h => other h.2)).map (fun h => (h.2.src, h.2.seq))))

/-- Is a command that a `FENCE` waits for not yet settled? Of the fence's own queue only what has begun counts. -/
def FenceWait.pending (w : FenceWait) (s : State) (c : Source × U32) : Bool :=
  if c.1 = w.req.src then
    s.cmd.unsettled.any (fun u => u.1 = c.1 ∧ u.2.1 = c.2) || s.cmd.longs.any (fun l => l.2.1 = c.1 ∧ l.2.2 = c.2)
  else unsettledCmd c.1 c.2 s

/-- Is the queue's next command waiting (R366), or the controller busy with a mirrored one (R364)? -/
def queueBlocked (f : Fetched) (s : State) : Bool :=
  s.cmd.held.any (fun h => h.req.src = f.src) || s.cmd.fences.any (fun h => h.req.src = f.src) || s.cmd.mirror.isSome

/-- Do two records stand for one request? Entries of a queue may carry the same `SEQ` (R365), so every field of the request
counts; of two alike in all of them the earlier one runs first. -/
def Fetched.same (f g : Fetched) : Bool :=
  { g with failed := f.failed, epoch := f.epoch, uncached := f.uncached } = f

/-- Earlier commands of the request's own queue not yet answered (R364). -/
def earlierFetched (f : Fetched) (s : State) : Bool :=
  (s.cmd.fetched.takeWhile (fun g => !f.same g)).any (fun g => g.src = f.src) && s.cmd.fetched.any f.same

/-- Earlier commands of the request's own queue not yet settled (R366). -/
def earlierUnsettled (f : Fetched) (s : State) : Bool :=
  earlierFetched f s || s.cmd.unsettled.any (fun u => u.1 = f.src) || s.cmd.longs.any (fun l => l.2.1 = f.src)

/-- Does the command wait in its own queue (R364, R366)? -/
def waitsInQueue (f : Fetched) (s : State) : Bool :=
  queueBlocked f s || earlierFetched f s || (f.has flFence && earlierUnsettled f s)

/-- Is a queue urgent (R353, R359)? -/
def urgentSrc : Source → Bool
  | .pcie q => q = 1
  | .udp _ u => u
  | .partner => false

/-- Has a queue gone longer without a turn than another (R366)? One that never had a turn has gone longest. -/
def staler (s : State) (a b : Source) : Bool := s.cmd.turn.findIdx (· = b) < s.cmd.turn.findIdx (· = a)

/-- Is a ready command of one queue taken before one of another: an urgent one before a normal one, and among queues of one class
the one that has gone longest without a turn (R366)? -/
def takenBefore (s : State) (g f : Fetched) : Bool :=
  g.src ≠ f.src && !waitsInQueue g s
    && (urgentSrc g.src && !urgentSrc f.src || (urgentSrc g.src = urgentSrc f.src && staler s g.src f.src))

/-- Does a ready command of another queue come first (R366)? -/
def otherFirst (f : Fetched) (s : State) : Bool := s.cmd.fetched.any (fun g => takenBefore s g f)

/-- The request the controller takes next (R366). -/
def nextTaken (s : State) : Option Fetched := s.cmd.fetched.find? (fun f => !waitsInQueue f s && !otherFirst f s)

/-- Is the command passed over now (R364, R366)? -/
def passedOver (f : Fetched) (s : State) : Bool := waitsInQueue f s || otherFirst f s

/-- A queue has its turn. -/
def takeTurn (x : Source) (s : State) : State := { s with cmd.turn := (x :: s.cmd.turn.filter (· ≠ x)).take 64 }

/-! ### Replies -/

/-- A reply record (R349). `NOP` repeats even a payload without fields (R378). -/
def mkReply (f : Fetched) (status : Nat) (payload : List Byte) (rflags partner : Nat) : Reply :=
  { opcode := f.opcode, status := by8 status, tag := f.tag, epoch := f.epoch, seq := f.seq, partner := by8 partner,
    flags := by8 rflags,
    payload := if payload.isEmpty && !(f.opcode = 0 && status = St.ok) then [] else withCrc payload }

/-- A reply's bytes (R349). -/
def Reply.bytes (r : Reply) : List Byte :=
  let h := [r.opcode, r.status] ++ le2 r.tag.toNat ++ le2 r.payload.length ++ le2 r.epoch.toNat ++ le4 r.seq.toNat
    ++ [r.partner, r.flags]
  h ++ le2 (crc16 h).toNat ++ r.payload

/-- The trailer of a reply to an authenticated request (R363). -/
def trailerOf (r : Reply) (s : State) : List Byte := if r.flags.getLsbD 1 then hmac (s.cmd.key.getD []) r.bytes else []

/-- A reply datagram sent. -/
def sendReply (src : Source) (r : Reply) (s : State) : State := send (.reply src r (trailerOf r s)) s

/-- The command leaves the fetched list. -/
def dropFetched (f : Fetched) (s : State) : State :=
  { s with cmd.fetched := s.cmd.fetched.eraseP f.same }

/-- The reply payload written to `REPLY_ADDR` before the entry (R354): nothing for an address of 0 or a write that fails, which
is the host's side (free value, log 209). -/
def writePayload (q : Nat) (f : Fetched) (r : Reply) (s : State) : Bool × State :=
  if r.payload.isEmpty || f.reply = 0 then (false, s)
  else if Config.replyWriteFails s.freeIdx then (false, s.took)
  else (true, send (.replyWrite q f.reply r.payload) s.took)

/-- A reply written to a CQ (R354): phase and position advance; vector 0 for `NOTIFY` or an abort completion (R358). -/
def writeCq (q : Nat) (f : Fetched) (r : Reply) (abort : Bool) (s : State) : State :=
  if s.cmd.orphans.any (fun o => o.1 = f.src ∧ o.2 = f.seq) then
    raise { code := 0x0100, a0 := f.seq.toNat }
      { s with cmd.orphans := s.cmd.orphans.eraseP (fun o => o.1 = f.src ∧ o.2 = f.seq) }
  else
    let w := writePayload q f r s
    let s := w.2
    let x := getQ q s
    let o := Out.cqEntry q x.cqPos x.phase x.sqHead w.1 (!r.payload.isEmpty && !w.1) r
    let nx := if x.cqPos + 1 = x.size then { x with cqPos := 0, phase := !x.phase } else { x with cqPos := x.cqPos + 1 }
    let s := send o (setQ q nx s)
    if f.has flNotify || abort then reqVector 0 s else s

/-- A reply written to its transport, and entered in the UDP reply cache (R360). -/
def writeReply (f : Fetched) (r : Reply) (abort : Bool) (s : State) : State :=
  match f.src with
  | .pcie q => writeCq q.val f r abort s
  | .udp id urgent =>
    let s := sendReply f.src r s
    if f.uncached then s
    else modUdp id urgent (fun u => { u with cache := ((r.seq, r) :: u.cache).take 32 }) s
  | .partner => send (.mirrorAnswer r.opcode r.status) s

/-- The reply flags for a request: `AUTH` echoes an authenticated request, and only a datagram is one (R349, R363). -/
def replyFlags (f : Fetched) (deferred mirrored names : Bool) : Nat :=
  let auth := match f.src with | .udp _ _ => f.has flAuth | _ => false
  flags [deferred, auth, false, mirrored, names]

/-- A command answered: its reply written, counted, gone from the fetched list. -/
def answer (f : Fetched) (r : Reply) (abort : Bool) (s : State) : State :=
  let s := writeReply f r abort (dropFetched f s)
  { s with cmd.cmdsDone := s.cmd.cmdsDone + 1 }

/-- Requests that failed R350 steps 1-4 are answered as the controller takes them in turn (R366); during a recovery none is
(R374). -/
def drainFailed : Nat → State → State
  | 0, s => s
  | n + 1, s =>
    match if s.cmd.recovery.isSome then none else nextTaken s with
    | some g =>
      match g.failed with
      | some st =>
        let r := mkReply g st.toNat [] (replyFlags g false false false) (if g.has flMirror then 0xFE else 0)
        drainFailed n (answer g r false (takeTurn g.src s))
      | none => s
    | none => s

/-- `FENCE` commands whose wait has ended are answered (R367, R382); those that still wait when a recovery begins end with it. -/
def settleFences : Nat → State → State
  | 0, s => s
  | n + 1, s =>
    let done (w : FenceWait) : Bool :=
      s.cmd.recovery.isNone && w.toFetch.1 = 0 && w.toFetch.2 = 0 && w.cmds.all (fun c => !w.pending s c)
    match s.cmd.fences.find? done with
    | some w =>
      let s := { s with cmd.fences := s.cmd.fences.eraseP (fun x => x.req.src = w.req.src ∧ x.req.seq = w.req.seq) }
      let r := mkReply w.req St.ok (le4 w.waited.toNat) (replyFlags w.req false false false) 0
      settleFences n (drainFailed 64 (answer w.req r false s))
    | none => s

/-- After a command was answered: failed requests whose turn has come, then fences. -/
def settle (s : State) : State := settleFences 64 (drainFailed 64 s)

/-! ### Executing a command -/

/-- Is the command path absent: asleep, starting, without supplies, its controller failed (R494, R496, R596)? A controller
that an activation will replace still runs (R500). -/
def State.pathDown (s : State) : Bool :=
  s.power.sleeping || s.power.starting || s.power.supplyOut.isSome || s.mgmt.down || s.power.waking.isSome
    || (s.mgmt.failed.isSome && s.mgmt.failed ≠ some 7)

/-- Is an entry to SLEEP_WATCH or DORMANT in progress (R537)? -/
def State.enteringSleep (s : State) : Bool := (s.power.trans.map (fun t => t.to_.asleep)).getD false

/-- The checks of R350 steps 5 to 8, and boot ROM (R498). -/
def preCheck (sp : CmdSpec) (f : Fetched) (s : State) : Option Nat :=
  let mirror := f.has flMirror
  firstFail [
    (s.mgmt.bootRom && !sp.bootRom, St.wrongMode),
    (mirror && !s.pairFitted, St.notFitted),
    (f.has 6 || f.has 7 || f.rsv ≠ 0 || (mirror && !sp.mirror), St.badParam),
    (match f.src with | .pcie _ => f.has flUrgent || f.has flAuth | _ => false, St.badParam),
    (!sp.target.accepts f.target.toNat, St.badTarget),
    (!sp.len f.payload, St.badLength)]

/-- The fetched request a command row runs; a request that came straight is received now. -/
def toFetched (sp : CmdSpec) (r : Req) (s : State) : Fetched :=
  let f : Fetched := { src := r.src, opcode := by8 sp.opcode, tag := r.tag, seq := r.seq, flags := r.flags, target := r.target,
                       rsv := r.rsv, reply := r.replyTo, payload := r.payload, failed := none, epoch := s.cmd.epoch,
                       uncached := false }
  let e := s.cmd.fetched.find? f.same
  { f with epoch := (e.map (·.epoch)).getD f.epoch, uncached := (e.map (·.uncached)).getD false }

/-- The command is given an answer. -/
def conclude (f : Fetched) (a : Ans) (deferred : Bool) : State :=
  let paired := decide (a.st.pair.phase = .paired)
  let mirror := f.has flMirror
  let okSt := a.status = St.ok || a.status = St.accepted
  let st := match a.due with
    | some t => { a.st with cmd.unsettled := (f.src, f.seq, t) :: a.st.cmd.unsettled }
    | none => a.st
  let st := if a.status = St.accepted then { st with cmd.longs := (f.opcode, f.src, f.seq) :: st.cmd.longs } else st
  if mirror && paired && okSt && f.src ≠ .partner then
    let r := mkReply f a.status a.payload (replyFlags f deferred true a.names) 0
    a.after { (send (.mirror f) (dropFetched f st)) with cmd.mirror := some { req := f, reply := r, sent := st.now } }
  else
    let r := mkReply f a.status a.payload (replyFlags f deferred false a.names) (if mirror then 0xFE else 0)
    let s := answer f r false st
    let s := if a.status = St.accepted then { s with cmd.cmdsDone := s.cmd.cmdsDone - 1 } else s
    a.after (settle s)

/-- A command that returns `BUSY` with `DEFER_OK` is held (R370). -/
def holdCmd (f : Fetched) (s : State) : State :=
  { (dropFetched f s) with cmd.held := s.cmd.held ++ [{ req := f, first := s.now, tried := s.now }] }

/-- One attempt at a request: checks, the command's own part, then its answer or its holding. During an entry to sleep every
command is answered `WRONG_MODE`, after its `NOT_FITTED` (R4, R534, R537). -/
def attempt (sp : CmdSpec) (body : Fetched → State → Ans) (f : Fetched) (s : State) : State :=
  match preCheck sp f s with
  | some st => conclude f (reject st s) false
  | none =>
    let a := body f s
    if s.enteringSleep && a.status ≠ St.notFitted then conclude f (reject St.wrongMode s) false
    else if a.status = St.busy && f.has flDefer then holdCmd f s else conclude f a false

/-- A command row: the request is executed when its turn has come; otherwise it is passed over (R366), or, where no
command path exists or a recovery runs, it is not begun. -/
def perform (sp : CmdSpec) (body : Fetched → State → Ans) (r : Req) (s : State) : State :=
  let s := s.adv r.at_
  let f := toFetched sp r s
  if s.pathDown || s.cmd.recovery.isSome || passedOver f s then s
  else attempt sp body f (takeTurn f.src s)

/-- Result type of every arm. -/
abbrev Res := Host.Outcome State Fault Refusal

/-- A long command's answer is complete: its item has been queued (R364, R368). -/
def endLong (op : Nat) (s : State) : State :=
  settleFences 64 { s with cmd.longs := s.cmd.longs.filter (fun l => l.1 ≠ by8 op) }

/-- Is a long command of this opcode unanswered (R368)? -/
def State.longBusy (s : State) (op : Nat) : Bool := s.cmd.longs.any (fun l => l.1 = by8 op)

/-! ### Mode changes (R386, R538) -/

/-- A `MODE_CHANGE` item and its log entry. -/
def modeItem (from_ to_ : Mode) (cause status : Nat) (tag : U16) (mcFlags : Nat) (s : State) : State :=
  evtItem 0x04 (le1 from_.code ++ le1 to_.code ++ le1 cause ++ le1 status ++ le2 tag.toNat ++ le1 mcFlags ++ zeros 1)
    (logEntry 0x0105 (from_.code * 256 + to_.code) s)

end Sys2Proof.Machine
end

