-- ==== Sys2Proof/Machine/Numeric.lean ====
section
/-! DEFINITION. Machine/Numeric.lean: the real functions the spec names (modulus and argument, R111; rotations, R109;
decibels, R41, R86, R95, R138; square root, R30), by rational arithmetic to about 2^-60 (log 164). Angles are in turns. -/

namespace Sys2Proof.Machine

/-! ### Fixed point -/

/-- A rational cut to a multiple of 2^-80 towards minus infinity: keeps the terms of a series small (log 164). -/
def fix80 (x : Rat) : Rat := ((x * 2 ^ 80).floor : Rat) / 2 ^ 80

/-- Partial sum of a series: `term k prev` gives the next term from the one before. -/
def series (term : Nat → Rat → Rat) : Nat → Nat → Rat → Rat → Rat
  | 0, _, _, acc => acc
  | n + 1, k, t, acc => let u := fix80 (term k t); series term n (k + 1) u (acc + u)

/-! ### Square root -/

/-- The integer square root, bit by bit from 2^`n`. -/
def isqrtBits (v : Nat) : Nat → Nat → Nat
  | 0, r => r
  | n + 1, r => let q := r + 2 ^ n; isqrtBits v n (if q * q ≤ v then q else r)

/-- The integer square root. -/
def isqrt (v : Nat) : Nat := isqrtBits v (v.log2 / 2 + 1) 0

/-- The square root of a rational that is not negative. -/
def sqrtR (x : Rat) : Rat := if x ≤ 0 then 0 else (isqrt (x * 2 ^ 160).floor.toNat : Rat) / 2 ^ 80

/-! ### Exponential and logarithm -/

/-- ln 2 and ln 10, by 2·atanh(1/3) and 3 ln 2 + 2·atanh(1/9). -/
def atanhSum (z : Rat) : Rat :=
  (List.range 40).foldl (fun a k => a + fix80 (z ^ (2 * k + 1) / (2 * k + 1 : Nat))) 0
def ln2 : Rat := 2 * atanhSum (1 / 3)
def ln10 : Rat := 3 * ln2 + 2 * atanhSum (1 / 9)

/-- e^x for a small x. -/
def expSmall (x : Rat) : Rat := series (fun k t => t * x / (k + 1 : Nat)) 30 0 1 1

/-- 10^x. -/
def pow10 (x : Rat) : Rat :=
  let y := fix80 (x * ln10)
  let k := (y / ln2).floor
  let r := expSmall (fix80 (y - k * ln2))
  if 0 ≤ k then r * (2 ^ k.toNat : Nat) else r / (2 ^ (-k).toNat : Nat)

/-- The base-2 exponent of a positive rational: 2^e ≤ x < 2^(e+2). -/
def exponentOf (x : Rat) : Int := (x.num.natAbs.log2 : Int) - (x.den.log2 : Int) - 1

/-- ln x of a positive rational. -/
def lnR (x : Rat) : Rat :=
  let e := exponentOf x
  let m := fix80 (if 0 ≤ e then x / (2 ^ e.toNat : Nat) else x * (2 ^ (-e).toNat : Nat))
  let h := m / 2
  e * ln2 + ln2 + 2 * atanhSum (fix80 ((h - 1) / (h + 1)))

/-- 10·log10 of a power ratio, in dB; a ratio of 0 or below counts as -400 dB (log 164). -/
def db10 (x : Rat) : Rat := if x ≤ 0 then -400 else 10 * lnR x / ln10

/-- A power ratio of a number of dB. -/
def ratioOfDb (d : Rat) : Rat := pow10 (d / 10)

/-- The nearest integer, ties away from zero. -/
def roundAway (x : Rat) : Int := if 0 ≤ x then (x + 1 / 2).floor else -((-x + 1 / 2).floor)

/-! ### Complex values and angles -/

/-- A complex number with rational parts. -/
structure Cplx where
  re : Rat := 0
  im : Rat := 0
deriving DecidableEq, Repr, Inhabited

namespace Cplx
def add (a b : Cplx) : Cplx := ⟨a.re + b.re, a.im + b.im⟩
def mul (a b : Cplx) : Cplx := ⟨a.re * b.re - a.im * b.im, a.re * b.im + a.im * b.re⟩
def conj (a : Cplx) : Cplx := ⟨a.re, -a.im⟩
def scale (k : Rat) (a : Cplx) : Cplx := ⟨k * a.re, k * a.im⟩
/-- |a|², the power. -/
def norm2 (a : Cplx) : Rat := a.re * a.re + a.im * a.im
/-- |a|. -/
def abs (a : Cplx) : Rat := sqrtR a.norm2
def sum (l : List Cplx) : Cplx := l.foldl add {}
end Cplx

/-- atan z / 2π for 0 ≤ z ≤ 1, by Euler's series; 2π as `twoPi`. -/
def eulerAtan (z : Rat) : Rat :=
  let y := fix80 (z * z / (1 + z * z))
  let t := fix80 (z / (1 + z * z))
  series (fun k u => u * y * (2 * k + 2 : Nat) / (2 * k + 3 : Nat)) 80 0 t t

/-- π, by Machin's formula. -/
def piR : Rat := 16 * eulerAtan (1 / 5) - 4 * eulerAtan (1 / 239)

/-- The angle of a complex number, in turns, in (-1/2, 1/2]; of 0 it is 0. -/
def argTurns (a : Cplx) : Rat :=
  let x := if a.re < 0 then -a.re else a.re
  let y := if a.im < 0 then -a.im else a.im
  if x = 0 ∧ y = 0 then 0
  else
    let q := if y ≤ x then eulerAtan (y / x) / (2 * piR) else 1 / 4 - eulerAtan (x / y) / (2 * piR)
    if a.re < 0 then (if a.im < 0 then q - 1 / 2 else 1 / 2 - q) else if a.im < 0 then -q else q

/-- cos and sin of an angle in turns, |t| ≤ 1/8. -/
def cisSmall (t : Rat) : Cplx :=
  let x := fix80 (2 * piR * t)
  { re := series (fun k u => -u * x * x / ((2 * k + 1) * (2 * k + 2) : Nat)) 14 0 1 1
    im := series (fun k u => -u * x * x / ((2 * k + 2) * (2 * k + 3) : Nat)) 14 0 x x }

/-- e^(j·2π·t). -/
def cis (t : Rat) : Cplx :=
  let q := (4 * t + 1 / 2).floor
  let c := cisSmall (t - q / 4)
  match (q % 4).toNat with
  | 0 => c
  | 1 => ⟨-c.im, c.re⟩
  | 2 => ⟨-c.re, -c.im⟩
  | _ => ⟨c.im, -c.re⟩

/-- The value modulo one turn in (-1/2, 1/2]. -/
def wrapT (x : Rat) : Rat := x - ((x - 1 / 2).ceil : Int)

end Sys2Proof.Machine
end

