-- ==== Sys2Proof/Machine/Signal.lean ====
section
/-! DEFINITION. Machine/Signal.lean: from the converters to compressed samples and powers: converters (R97, R98),
channeliser (R100), lanes (R105-R107), laser phase (R108, R109), gauge phasors (R21, R111), mean powers, and Ochre's gate
spectra (R148, R154-R156). Filter coefficients and constants that the spec does not give are free values (log 10). -/

namespace Sys2Proof.Machine

open Sys2Proof

/-! ### Converters (R97, R98, R141) -/

/-- A converter code: the input scaled by `RX_ATTEN`, rounded and clipped to 12 bits (R97). -/
def adc (gain : Rat) (v : Int) : Int := max (-2048) (min 2047 (roundAway (gain * v)))

/-- The amplitude factor of an attenuation in dB: 10^(-a/20). -/
def attenGain (db : Nat) : Rat := pow10 (-(db : Rat) / 20)

/-- The four codes of an instant. -/
def RxSample.codes (x : RxSample) (gain : Rat) : RxSample :=
  { xi := adc gain x.xi, xq := adc gain x.xq, yi := adc gain x.yi, yq := adc gain x.yq }

def fullScale (v : Int) : Bool := v ≤ -2048 || 2047 ≤ v

/-- Does an instant hold a sample at full scale (R98)? -/
def RxSample.clips (x : RxSample) : Bool := fullScale x.xi || fullScale x.xq || fullScale x.yi || fullScale x.yq

/-! ### Channeliser (R100) -/

/-- A value of a list; 0 outside it. -/
def at0 {α : Type} [Inhabited α] (l : List α) (i : Nat) : α := (l[i]?).getD default

/-- Convolution at one point: coefficients against the samples at and before `n`. -/
def firAt (h : List Rat) (x : List Cplx) (n : Nat) : Cplx :=
  Cplx.sum ((List.range h.length).map (fun m => if m ≤ n then Cplx.scale (at0 h m) (at0 x (n - m)) else {}))

/-- The stream shifted down by a frequency in MHz at 2.0 GS/s. -/
def shiftDown (mhz : Int) (x : List Cplx) : List Cplx :=
  ((List.range x.length).zip x).map (fun p => Cplx.mul p.2 (cis (-((mhz * p.1 : Int) : Rat) / 2000)))

/-- The channel of slot k, 250 MS/s: after the shift by 100 MHz its centre is (-800 + 200·k) MHz (R100). -/
def channel (k : Nat) (x : List Cplx) : List Cplx :=
  let y := shiftDown (100 + (-800 + 200 * k)) x
  (List.range (x.length / 8)).map (fun j => firAt Config.prototype y (8 * j))

/-! ### Waveform and lanes (R53, R105-R107) -/

/-- The raised-cosine envelope at a fraction of T_p (R53). -/
def envelope (taper : Nat) (x : Rat) : Rat :=
  let r : Rat := taper / 100
  let rise (u : Rat) : Rat := (1 - (cis (u / 2)).re) / 2
  if r = 0 then 1 else if x < r then rise (x / r) else if 1 - r < x then rise ((1 - x) / r) else 1

/-- The chirp at an instant in ps after its leading edge (R53). -/
def Wave.at_ (w : Wave) (t : Nat) : Cplx :=
  let d : Rat := (t : Rat) - (w.tp : Rat) / 2
  let turns : Rat := (w.bw : Rat) * d * d / (2 * w.tp * 1000000)
  Cplx.scale (envelope w.taper ((t : Rat) / w.tp)) (cis (if w.falling then -turns else turns))

/-- Sub-band `q` of `n` holds an instant of the sweep: contiguous bands of B/n (R107). -/
def Wave.inBand (w : Wave) (n q t : Nat) : Bool :=
  let seg := n * t / w.tp
  (if w.falling then n - 1 - seg else seg) = q

/-- The matched filter of a sub-band, sampled every 4 ns (R105, R107). -/
def Wave.filter (w : Wave) (n q : Nat) : List Cplx :=
  (List.range (cdiv w.tp 4000)).map (fun m => if w.inBand n q (4000 * m) then Cplx.conj (w.at_ (4000 * m)) else {})

/-- A delay in ps in steps of 1/256 sample (R15, R105). -/
def delaySteps (ps : Int) : Int := roundAway ((ps : Rat) * 256 / 4000)

/-- A channel with a delay of so many steps taken out: sample 0 then lies at the reference plane (R105). -/
def undelay (steps : Int) (x : List Cplx) : List Cplx :=
  let whole := (steps / 256).toNat
  let frac := (steps % 256).toNat
  if frac = 0 then x.drop whole
  else (List.range x.length).map (fun i => firAt (Config.fracTaps frac) x (i + whole))

/-- Correlation with the matched filter: sample i collects the echo that begins at i (R105). -/
def compress (h : List Cplx) (x : List Cplx) : List Cplx :=
  (List.range x.length).map (fun i =>
    Cplx.sum (((List.range h.length).zip h).map (fun p => Cplx.mul p.2 (at0 x (i + p.1)))))

/-- The settings of `INDIGO_CFG` that a lane follows; sub-bands as in effect (R107). -/
structure LaneCfg where
  subbands : Nat
  pol      : Nat
  delay    : Int

/-- A lane's branches: per sub-band and polarisation the compressed samples (R105-R107). -/
def laneOut (c : LaneCfg) (w : Wave) (x y : List Cplx) : List (List Cplx) :=
  let pols := (if c.pol = 3 then [] else [undelay c.delay x]) ++ (if c.pol = 2 then [] else [undelay c.delay y])
  if w.pulse then pols
  else (List.range c.subbands).flatMap (fun q => pols.map (compress (w.filter c.subbands q)))

/-! ### Laser phase (R108, R109) -/

/-- Values kept: 2.1 ms every 4 ns. -/
def psiKept : Nat := 525000

/-- The laser phase carried on by reference samples (R108). `tau`: fs. -/
def psiStep (tau : Nat) (psi : List Rat) (r : RefSample) : List Rat :=
  let last := at0 psi 0
  ((last + Config.refPhase r * 4000000 / (tau : Rat)) :: psi).take psiKept

/-- The history after more samples; the first of a history starts from 0. -/
def psiRun (tau : Nat) (psi : List Rat) (rs : List RefSample) : List Rat := rs.foldl (psiStep tau) psi

/-- The reconstructed phase at an instant: the nearest of the history; none where it does not reach. -/
def psiAtTime (psi : List Rat) (newest t : Nat) : Option Rat :=
  if newest + 2000 < t then none else psi[(newest + 2000 - t) / 4000]?

/-- The correction of sample i (R109): exp(-j·(psi(t) - psi(t - t_rt))), t the arrival, referred to the middle of a chirp. -/
def psiFactor (psi : List Rat) (newest launch mid i : Nat) : Option Cplx :=
  match psiAtTime psi newest (launch + mid + 4000 * i), psiAtTime psi newest (launch + mid) with
  | some a, some b => some (cis (b - a))
  | _, _ => none

/-- Is the correction of a line of so many samples complete (R110)? -/
def psiCovers (psi : List Rat) (newest launch mid n : Nat) : Bool :=
  (psiFactor psi newest launch mid (n - 1)).isSome

/-- Branches with the laser phase taken out (R109); where no correction exists, a sample stays as it is. -/
def correct (psi : List Rat) (newest launch mid : Nat) (b : List Cplx) : List Cplx :=
  ((List.range b.length).zip b).map (fun p => match psiFactor psi newest launch mid p.1 with
    | some f => Cplx.mul p.2 f
    | none => p.2)

/-! ### Zones and powers -/

/-- The gauge in force: shortened to sample 0 (R21). -/
def gaugeOf (last gauge : Nat) : Nat := min gauge last

/-- The gauge phasors of a zone, per branch (R111): x[e]·conj(x[e - lg]). -/
def gaugePhasors (bs : List (List Cplx)) (e : DasEntry) : List Cplx :=
  let last := e.first + e.len - 1
  bs.map (fun x => Cplx.mul (at0 x last) (Cplx.conj (at0 x (last - gaugeOf last e.gauge))))

/-- Compressed power per sample. R122 sums over polarisations and says nothing of four sub-bands: DESIGN CHOICE, every branch is
summed, sub-bands included (log 200). -/
def powerTrace (bs : List (List Cplx)) : List Rat :=
  let n := (bs.map List.length).foldl max 0
  (List.range n).map (fun i => (bs.map (fun x => (at0 x i).norm2)).sum)

/-- The mean over the samples from `a` to `b`. -/
def meanOver (p : List Rat) (a b : Nat) : Rat :=
  let l := (p.drop a).take (b + 1 - a)
  if l.isEmpty then 0 else l.sum / l.length

/-- A level 3 dB above a floor. -/
def above3dB (floor : Rat) : Rat := floor * ratioOfDb 3

/-! ### Ochre (R148, R154-R156) -/

def Phasor.toCplx (p : Phasor) : Cplx := ⟨p.re, p.im⟩

/-- The decimated stream, 500 MS/s. -/
def decimate (x : List Phasor) : List Cplx :=
  let y := x.map Phasor.toCplx
  (List.range (x.length / 4)).map (fun j => firAt Config.decimator y (4 * j))

/-- The window of a gate at a sample: N_W decimated samples from its round-trip time on (R154). -/
def gateWindow (z : List Cplx) (nw sample : Nat) : List Cplx := (z.drop (2 * sample)).take nw

/-- Squared magnitude of the 128-point transform, bin k at (k - 64) × 3.90625 MHz (R148, R155; log 165). -/
def spectrum (w : List Cplx) : List Rat :=
  (List.range 128).map (fun k =>
    (Cplx.sum (((List.range w.length).zip w).map (fun p =>
      Cplx.mul p.2 (cis (-((((k : Int) - 64) * p.1 : Int) : Rat) / 128))))).norm2)

/-- Sum of two spectra, bin by bin. -/
def addSpec : List Rat → List Rat → List Rat
  | [], b => b
  | a, [] => a
  | x :: a, y :: b => (x + y) :: addSpec a b

def addSpecs : List (List Rat) → List (List Rat) → List (List Rat)
  | [], b => b
  | a, [] => a
  | x :: a, y :: b => addSpec x y :: addSpecs a b

/-- The samples of a range's gates: its first and every `pitch`-th after it (R154). -/
def gateSamples (first len pitch : Nat) : List Nat := (List.range (cdiv len pitch)).map (fun j => first + j * pitch)

/-- The sum of the gate spectra of a range (R155). -/
def rangeSpectrum (z : List Cplx) (nw first len pitch : Nat) : List Rat :=
  (gateSamples first len pitch).foldl (fun a g => addSpec a (spectrum (gateWindow z nw g))) []

/-- Decimated samples before an instant in ps. -/
def decimatedAt (ps : Int) : Nat := cdiv ps.toNat 2000

/-- The gate windows of the guard window, back to back (R156, log 165): from T - T_O - 5 us to T - T_O. -/
def guardGates (to_ : Nat) : Nat := Config.guardTime / to_
def guardSpectrum (z : List Cplx) (nw tl to_ : Nat) : List Rat :=
  let a := decimatedAt ((tl : Int) - to_ - Config.guardTime)
  (List.range (guardGates to_)).foldl (fun s j => addSpec s (spectrum ((z.drop (a + j * nw)).take nw))) []

/-- Power of the gate at each sample, summed over bins (R172): 128 times the energy of its window. -/
def gateProfile (z : List Cplx) (nw : Nat) : List Rat :=
  (List.range (z.length / 2)).map (fun i => 128 * ((gateWindow z nw i).map Cplx.norm2).sum)

end Sys2Proof.Machine
end

