-- ==== Sys2Proof/Machine/Plan.lean ====
section
/-! DEFINITION. Machine/Plan.lean: the launch plan as every family sees it: probe and period lengths, the geometry rules
(R17-R24, R155, R158), and launch-period boundaries (R56, R57). -/

namespace Sys2Proof.Machine

open Sys2Proof

/-! ### Figures of the plan -/

/-- Is a value inside a range? -/
def inR (v lo hi : Nat) : Bool := lo ≤ v && v ≤ hi
def inI (v lo hi : Int) : Bool := lo ≤ v && v ≤ hi

/-- T_p of the DAS waveform in force, ps (R53, R54). -/
def Plan.probe (p : Plan) : Nat := if p.pulse then p.pulseLen * 1000 else p.chirpLen * 10000

/-- The port structure of a port number. -/
def State.portOf (s : State) (k : Nat) : Port := if k = 2 then s.fibre.s2 else s.fibre.s1
def setPort (k : Nat) (p : Port) (s : State) : State :=
  if k = 2 then { s with fibre.s2 := p } else { s with fibre.s1 := p }

/-- DAS entries of a port in the map in force. -/
def ZoneMap.das (m : ZoneMap) (port : Nat) : List DasEntry := if port = 2 then m.das2 else m.das1
def ZoneMap.dts (m : ZoneMap) (port : Nat) : List DtsEntry := if port = 2 then m.dts2 else m.dts1
/-- Index of a port's first zone (R22). -/
def ZoneMap.dasBase (m : ZoneMap) (port : Nat) : Nat := if port = 2 then m.das1.length else 0
def ZoneMap.dtsBase (m : ZoneMap) (port : Nat) : Nat := if port = 2 then m.dts1.length else 0
def ZoneMap.nDas (m : ZoneMap) : Nat := m.das1.length + m.das2.length
def ZoneMap.nDts (m : ZoneMap) : Nat := m.dts1.length + m.dts2.length

/-- The measurement mode the plan is checked for: the target of a transition under way, the mode a calibration returns
to, or the mode in force. It also is the mode by which `PORT_SELECT` asks for a valid survey (R89): a device on its way to a
measurement mode counts as in it (DESIGN CHOICE, log 218). -/
def State.planMode (s : State) : Mode :=
  match s.power.trans with
  | some t => if t.to_.measures then t.to_ else s.power.mode
  | none => if s.power.mode = .calibrate then s.power.calFrom else s.power.mode

/-- The mode whose launches run: during a calibration run, the one it returns to. -/
def State.runMode (s : State) : Mode := if s.power.mode = .calibrate then s.power.calFrom else s.power.mode

/-- Is the device a member of a configured pair (R503)? -/
def State.inPair (s : State) : Bool := s.pair.phase ≠ .unconfigured

/-- The device that leads the pair (R504): A while PAIRED, the sole launching device while SOLO. -/
def State.leads (s : State) : Bool :=
  match s.pair.phase with
  | .paired => s.pair.role = 1
  | .solo => true
  | .unconfigured => true
  | _ => s.pair.role = 1

/-- Does slot 7 of the pair carry Ochre (R505, R506)? A in FULL, or a SOLO device in FULL; a YIELDED device follows its
partner, which launches every slot. `m`: this device's mode. -/
def State.pairFull (s : State) (m : Mode) : Bool :=
  if (s.pair.role = 1 && s.pair.phase ≠ .yielded) || s.pair.phase = .solo then m = .full else s.pair.partnerFull

/-- N_DAS for the bound of R24: of the pair when configured (R505). -/
def nDas (s : State) (m : Mode) (p : Plan) : Nat :=
  if s.inPair then (if s.pairFull m then 7 else 8) else if m = .full then 7 else p.nSlots

/-- The launch period in force: `SURVEY_PERIOD` in SURVEY (R152). -/
def periodOf (s : State) (m : Mode) : Nat := if m = .survey then s.ochre.cfg.period * 10000 else s.light.plan.tl

/-- Round-trip group delay of a position, as group index times cm: t_rt = 2·n_g·L/c (chapter 01). -/
def Port.fibreProd (p : Port) : Option Nat := p.survey.map (fun v => max (v.gi * v.endCm) (p.endGi * p.currentEnd))

/-- t_rt ≤ a time in ps, exactly, for a group index times cm. -/
def rtWithin (prod : Nat) (ps : Int) : Bool := decide ((2 * prod * 1000000 : Int) ≤ ps * Config.lightSpeed)

/-- The least number of ps not below t_rt. -/
def rtPs (prod : Nat) : Nat := cdiv (2 * prod * 1000000) Config.lightSpeed

/-- The position in cm under the port's present group index (R40). -/
def atIndex (cm gi now_ : Nat) : Nat := cm * gi / now_

/-- The launch periods of an accepted lock that has not brought its T_L yet, shortest and longest: `DIVIDER` × `P_MIN` and
`DIVIDER` × `P_MAX`, for which R408 checks it. -/
def lockSpan (s : State) : Option (Nat × Nat) :=
  let l := s.lock
  if l.phase = 0 || (l.owns && l.phase ≠ 1) then none else some (l.divider * l.pMin * 1000, l.divider * l.pMax * 1000)

/-- T_L of R19, R24 and every rate, in a plan for which a lock has been accepted (R59): the shorter of the plan's own and the
lock's least. DESIGN CHOICE: both count, because the free plan comes back where the acquisition fails (R408; log 190). -/
def acceptedTl (s : State) : Nat :=
  match lockSpan s with
  | some x => min s.light.plan.tl x.1
  | none => s.light.plan.tl

/-- T_L of R17: the shorter of the plan's own and `DIVIDER` × `P_MAX` of an accepted lock (R408; log 190). -/
def reachTl (s : State) : Nat :=
  match lockSpan s with
  | some x => min s.light.plan.tl x.2
  | none => s.light.plan.tl

/-- R17: T_L ≥ t_rt(L_f) + T_p + 5 us, L_f the surveyed end or the current end when farther. Deferred without a valid
survey (R20). -/
def okR17 (p : Port) (tl probe : Nat) : Bool :=
  match p.fibreProd with
  | some l => rtWithin l ((tl : Int) - probe - Config.guardTime)
  | none => true

/-- Does a sample lie at or beyond the current end (R43)? Sample i returns after i·4 ns (R12, R16). A port that has never had
a valid survey has no current end (R42). -/
def beyondEnd (p : Port) (sample : Nat) : Bool :=
  p.survey.isSome && !decide (sample * 4000 * Config.lightSpeed < 2 * (p.endGi * p.currentEnd) * 1000000)

/-- The position of a sample, cm, under a group index (R14). -/
def sampleCm (gi sample : Nat) : Nat := sample * 4000 * Config.lightSpeed / (2 * gi * 1000000)

/-- The last sample at or before a position in cm under a group index. -/
def cmSample (gi cm : Nat) : Nat := 2 * gi * cm * 1000000 / (4000 * Config.lightSpeed)

/-- The first sample at or after a position. -/
def cmSampleUp (gi cm : Nat) : Nat := cdiv (2 * gi * cm * 1000000) (4000 * Config.lightSpeed)

/-- The sample of the current end of a port (R42). -/
def Port.endSample (p : Port) : Nat := cmSample p.endGi p.currentEnd

/-- The first zone of a list whose last sample lies beyond the end, counted from a base index (R43, R45). -/
def firstBeyond (p : Port) (base : Nat) (lasts : List Nat) : Option Nat :=
  (lasts.findIdx? (beyondEnd p)).map (· + base)

/-- The first DAS zone of a port flagged `NO_FIBRE`, as `FIRST_ZONE` and `NF_FIRST` give it. R45 does not say whether
`FIRST_ZONE` counts DAS or DTS zones in SURVEY, where only DTS zones are processed: DESIGN CHOICE, the DAS index in every
mode (log 166). -/
def firstNoFibre (s : State) (port : Nat) : Option Nat :=
  firstBeyond (s.portOf port) (s.indigo.map.dasBase port) ((s.indigo.map.das port).map (fun e => e.first + e.len - 1))

/-- R24: at most 10^9 DAS zone-samples per second. -/
def okR24 (zones n tl : Nat) : Bool := zones * n * 1000 ≤ tl

/-- Gates per Ochre line of a port, coil included (R154, R155). -/
def gates (m : ZoneMap) (c : Option Coil) (port pitch : Nat) : Nat :=
  ((m.dts port).map (fun e => cdiv e.len pitch)).sum
    + (match c with | some k => if k.port = port then cdiv k.len pitch else 0 | none => 0)

/-- The coil the next accumulation uses. -/
def OchreState.coilDue (o : OchreState) : Option Coil := (o.coilNext.getD o.coil)

/-- The Ochre line period used for the bounds of R155 and R158: T_L in FULL, otherwise `SURVEY_PERIOD` (log 31). -/
def ochrePeriod (s : State) (m : Mode) : Nat := if m = .full then acceptedTl s else s.ochre.cfg.period * 10000

/-- Gate spectra per second (R155). -/
def gateRate (s : State) (m : Mode) : Nat :=
  gates s.indigo.map s.ochre.coilDue s.light.port s.ochre.cfg.pitch * 1000000000000 / ochrePeriod s m

/-- R155 and R158 for a mode. -/
def okOchre (s : State) (m : Mode) : Bool :=
  !s.ochreFitted ||
  (gates s.indigo.map s.ochre.coilDue s.light.port s.ochre.cfg.pitch * 1000000000000
      ≤ Config.maxGateRate * ochrePeriod s m
    && (s.indigo.map.dts s.light.port).length * 40000 + 20000000 ≤ s.ochre.cfg.acc * ochrePeriod s m)

/-- T_p of R17 and R19 in FULL: the larger of the DAS probe and Ochre's (R151). -/
def probeOf (s : State) (m : Mode) : Nat :=
  match m with
  | .full => max s.light.plan.probe (s.ochre.cfg.pulseLen * 1000)
  | .survey => s.ochre.cfg.pulseLen * 1000
  | _ => s.light.plan.probe

/-- R54: a pulse below 20 ns allows one or two slots. -/
def okR54 (p : Plan) : Bool := !p.pulse || 20 ≤ p.pulseLen || p.nSlots ≤ 2

/-- T_p of the DAS plan in R17 and R19: in FULL the larger of the two probes (R151). -/
def planProbe (s : State) (m : Mode) : Nat :=
  max s.light.plan.probe (if m = .full then s.ochre.cfg.pulseLen * 1000 else 0)

/-- R18, R19 and R24 for a state whose plan would be in force in a mode. A plan whose T_L is the lock's need not lie on the
grid of R18. While an accepted lock does not own the plan yet, the grid is asked of the free plan's T_L, which comes back where the
acquisition fails (DESIGN CHOICE, log 190). -/
def okGrid (s : State) (m : Mode) : Bool :=
  let p := s.light.plan
  (s.lock.owns || p.tl % (p.nSlots * 10000) = 0) && planProbe s m * p.nSlots ≤ acceptedTl s
    && okR24 (s.indigo.map.das s.light.port).length (nDas s m p) (acceptedTl s)

/-- R17 (with a survey), R18, R19 and R24 for a state whose plan would be in force in a mode. -/
def okPlan (s : State) (m : Mode) : Bool :=
  okR17 (s.portOf s.light.port) (reachTl s) (planProbe s m) && okGrid s m

/-- R17 with `SURVEY_PERIOD` and T_O (R152). -/
def okSurvey (s : State) : Bool :=
  okR17 (s.portOf s.light.port) (s.ochre.cfg.period * 10000) (s.ochre.cfg.pulseLen * 1000)

/-! ### Boundaries (R49, R56) -/

/-- The first boundary of a segment at or after an instant. -/
def Seg.next (g : Seg) (x : Ps) : Ps := if x ≤ g.start then g.start else g.start + cdiv (x - g.start) g.tl * g.tl

/-- The launch count of a segment's boundary. -/
def Seg.countAt (g : Seg) (b : Ps) : Nat := g.count + (b - g.start) / g.tl

/-- The segment and the boundary an instant leads to. -/
def boundaryIn : List Seg → Ps → Option (Seg × Ps)
  | [], _ => none
  | [g], x => some (g, if g.waits then g.drainFrom else g.next x)
  | g :: h :: rest, x => if g.next x ≤ h.drainFrom then some (g, g.next x) else boundaryIn (h :: rest) x

/-- Where a change accepted now takes effect. `named`: the reply names it. -/
structure Bound where
  named : Bool
  due   : Ps
  count : Nat
  stamp : Nat
  /-- no launches run: applied at once -/
  now_  : Bool
deriving Repr

/-- The boundary of R56 for a command that begins executing at `t`. -/
def boundFor (s : State) (t : Ps) : Bound :=
  if !s.light.running then { named := false, due := t, count := 0, stamp := 0, now_ := true }
  else match boundaryIn s.light.segs (t + Config.leadTime) with
    | none => { named := false, due := t, count := 0, stamp := 0, now_ := true }
    | some (g, b) =>
      match s.light.stopAt with
      | some e =>
        if e ≤ b then { named := false, due := e, count := 0, stamp := 0, now_ := false }
        else { named := true, due := b, count := g.countAt b, stamp := s.stamp b, now_ := false }
      | none =>
        -- a boundary on which a drain begins names the first launch after it (R57)
        match s.light.segs.find? (fun h => h.drainFrom = b ∧ g.start < h.start) with
        | some h => { named := true, due := b, count := h.count, stamp := s.stamp h.start, now_ := false }
        | none =>
          if g.waits then { named := true, due := b, count := g.count, stamp := 2 ^ 32 - 1, now_ := false }
          else { named := true, due := b, count := g.countAt b, stamp := s.stamp b, now_ := false }

/-- A timing change accepted at a boundary: the drain and the segment that follows it (R57); a port switch settles 50 ms
after the drain (R89), and the new plan starts at its first boundary after that (log 32). A segment that waits for a marker edge goes
on waiting for it with the change (R408). -/
def addSeg (segs : List Seg) (b : Ps) (newTl : Nat) (portMove waits : Bool) : List Seg :=
  match boundaryIn segs b with
  | none => segs
  | some (g, _) =>
    let mk (old : Nat) (cnt : Nat) (pm w : Bool) : Seg :=
      let e := b + old
      { drainFrom := b, start := if pm then e + cdiv 50000000000 newTl * newTl else e, count := cnt, tl := newTl,
        portMove := pm, waits := w }
    if g.waits then segs.map (fun h => if h.waits then { h with portMove := portMove || h.portMove } else h)
    else if segs.any (fun h => h.drainFrom = b && g.start < h.start) then
      segs.map (fun h => if h.drainFrom = b then mk (h.start - b - (if h.portMove then cdiv 50000000000 h.tl * h.tl else 0))
        h.count (portMove || h.portMove) (waits || h.waits) else h)
    else segs ++ [mk g.tl (g.countAt b) portMove waits]

end Sys2Proof.Machine
end

