-- ==== Sys2Proof/Machine/Held.lean ====
section
/-! DEFINITION. Machine/Held.lean: the limits of the light drive and what its pumps support: derating, the sharing of pump power,
held power and the reach held (R64-R72). -/

namespace Sys2Proof.Machine

open Sys2Proof

/-! ### Limits (R68, R71) -/

/-- The limit of a channel, uA (R71). -/
def ldcLimit (n : Nat) : Nat :=
  ([250000, 20000, 400000, 1200000, 1200000, 1200000, 300000, 2500000][n]?).getD 0

/-- F of R68. -/
def derateOf (knee : Nat) (tCase : Int) : Rat :=
  if tCase ≤ 100 * knee then 1 else max (1 / 2) (1 - ((tCase - 100 * knee : Int) : Rat) / (2 * ((12500 - 100 * knee : Int) : Rat)))

/-- `CEILING` of a channel after derating, uA. -/
def ldcCeiling (s : State) (n : Nat) : Nat :=
  if n = 0 || inR n 3 5 then ((ldcLimit n : Rat) * s.light.derate).floor.toNat else ldcLimit n

/-- Compliance limit of a channel, mV: 4.0 V for the pumps (R71). -/
def complianceOf (n : Nat) : Nat := if inR n 3 5 then 4000 else Config.complianceMv n

/-! ### Loop, pumps and wishes (R64-R67) -/

/-- Does Gambit launch (R35)? From the acceptance of its run until the last port is surveyed. -/
def surveying (s : State) : Bool := (s.fibre.gambit.map (fun g => g.item.isNone)).getD false

/-- The trial period of a survey (R35), ps, and the length of its launches: the 100 ns pulse or the 2 us chirp. -/
def surveyPeriod : Nat := 1250000000
def surveyTp (pulse : Bool) : Nat := if pulse then 100000 else 2000000

/-- The 1 dB steps of step 2 of R35: while near-end backscatter holds, up to `CEILING` (log 202). -/
def surveyUp (s : State) (g : Gambit) : Nat :=
  min (Config.surveySteps g.idx) (cdiv (s.light.cfg.aprCeil - s.light.cfg.aprLevel).toNat 10)
/-- Lines of the 100 ns pulse: 16 at each power, then 4,096 (R35 steps 2 and 3). -/
def surveyPulses (s : State) (g : Gambit) : Nat := 16 * (surveyUp s g + 1) + 4096
/-- The next launch of a survey (R35): pulse or chirp, and power; none once the linearity test has passed. -/
def surveyNext (s : State) (g : Gambit) : Option (Bool × Int) :=
  let c := s.light.cfg
  let level (k : Nat) : Int := min c.aprCeil (c.aprLevel + 10 * k)
  let fall := (g.made - surveyPulses s g) / (Config.surveyLines g.idx + 1)
  if g.made < surveyPulses s g then some (true, level (min (g.made / 16) (surveyUp s g)))
  else if fall ≤ Config.surveyFalls g.idx then some (false, max (-100) (level (surveyUp s g) - fall))
  else none

/-- What the device would launch were its own pumps no limit: its request, in a formed pair no more than the partner's held
power (R67). `POWER_LIMITED` and the reach held compare with it (R69, R70). -/
def powerWish (s : State) : Int :=
  match s.pair.phase with
  | .paired | .linkLost => min s.light.plan.power s.pair.partnerHeld
  | _ => s.light.plan.power

/-- The power target after R67: the lower of the request and, in a formed pair, the two held powers. -/
def powerTarget (s : State) : Int :=
  if s.pair.phase = .paired then min (powerWish s) s.light.held else powerWish s

/-- The loop that holds the power (R65, R67); Gambit always uses the closed one. -/
def loopClosed (s : State) : Bool := s.light.cfg.closed || s.inPair || surveying s

/-- An enabled pump with no binning (R66, R73). -/
def binMissing (s : State) (i : Nat) : Bool :=
  s.light.cfg.pumpEn.getLsbD i && vget s.light.cfg.slope i = 0

def anyBinMissing (s : State) : Bool := (List.range 3).any (binMissing s)

/-- A pump that may be driven: healthy, enabled, and binned in open loop (R64, R66, R72). -/
def pumpUsable (s : State) (i : Nat) : Bool :=
  s.light.cfg.pumpEn.getLsbD i && !(vget s.light.ldc (3 + i)).retired && (loopClosed s || !binMissing s i)

/-- What the slots of the mode that runs would launch: the DAS wish, Ochre's request in SURVEY, and both in FULL (R51, R69). -/
def wishNow (s : State) : Int :=
  match s.runMode with
  | .survey => s.ochre.cfg.power
  | .full => max (powerWish s) s.ochre.cfg.power
  | _ => powerWish s

/-- Slots that launch (R51, R505): those of the plan that the device owns, with Ochre's on slot 7 in FULL. -/
def launches (s : State) (k : Nat) : Bool :=
  match s.runMode with
  | .survey => k = 7
  | _ => k < s.light.plan.nSlots && (!s.inPair || s.pair.owned.getLsbD k)

/-- `POWER_LIMITED` (R69): the pumps support less than what would be launched. -/
def powerLimited (s : State) : Bool := s.light.held < wishNow s

/-! ### Pump power (R64, R70) -/

/-- The optical power, uW, of pump A, B or C (0-2) at a current in uA: slope times what lies above the threshold (R65); with no
binning it is a free value. -/
def pumpAt (s : State) (i c : Nat) : Nat :=
  let slope := vget s.light.cfg.slope i
  if slope = 0 then Config.pumpPower i c else slope * (c - 100 * vget s.light.cfg.thresh i) / 1000

/-- The pumps that are not retired. -/
def healthyPumps (s : State) : List Nat := [3, 4, 5].filter (fun n => !(vget s.light.ldc n).retired)

/-- The pumps that may be driven, A to C as 0 to 2. -/
def usablePumps (s : State) : List Nat := (List.range 3).filter (pumpUsable s)

/-- The highest launch power, 0.1 dBm, for which a total pump power in uW suffices. -/
def launchFrom (uw : Nat) : Int :=
  ((((List.range 371).map (fun k => (k : Int) - 100)).filter (fun p => Config.ampPump p ≤ uw)).getLast?).getD (-100)

/-- The launch power, dBm, that a total pump power supports. The fuse table has an entry each 0.1 dB; between two entries the
launched power goes in proportion to the pump power (DESIGN CHOICE, log 191). -/
def launchDbm (uw : Nat) : Rat :=
  let k := launchFrom uw
  let a := Config.ampPump k
  let b := Config.ampPump (k + 1)
  let p : Rat := ratioOfDb ((k : Rat) / 10)
  let q : Rat := ratioOfDb ((k + 1 : Int) / 10)
  if k = 270 || b ≤ a || uw ≤ a then (k : Rat) / 10 else db10 (p + (q - p) * ((uw - a : Nat) : Rat) / ((b - a : Nat) : Rat))

/-- The launch power, dBm, that so many pumps support at ceilings that give them a total power: two at 1.2 A give the launch at
`CEILING`, and one gives at most 3 dB less than two of its kind (R64). -/
def supports (s : State) (pumps uw : Nat) : Rat :=
  let two (x : Nat) : Rat := if s.light.derate = 1 then max ((s.light.cfg.aprCeil : Rat) / 10) (launchDbm x) else launchDbm x
  match pumps with
  | 0 => -10
  | 1 => max (launchDbm uw) (two (2 * uw) - 3)
  | _ => two uw

/-- P_held (R70), dBm: the highest launch power that the healthy, enabled pumps support at their present ceilings. -/
def heldNow (s : State) : Rat :=
  let ps := (List.range 3).filter (fun i => s.light.cfg.pumpEn.getLsbD i && !(vget s.light.ldc (3 + i)).retired)
  supports s ps.length (ps.map (fun i => pumpAt s i (ldcCeiling s (3 + i)))).sum

/-- L_ref of R70, cm. -/
def lRef (v : Survey) : Nat := min v.endCm 10000000

/-- The surveyed one-way loss from the reference plane to a sample, dB: half of the drop of the smoothed backscatter since
sample 0 (R40; log 11). -/
def Survey.lossTo (v : Survey) (sample : Nat) : Rat := db10 ((at0 v.profile 0 : Rat) / at0 v.profile sample) / 2

/-- The reach held (R70), cm; 0 with no valid survey. -/
def reachHeld (s : State) : Nat :=
  match (s.portOf s.light.port).survey with
  | none => 0
  | some v =>
    let gap := (powerWish s : Rat) / 10 - s.light.heldDbm
    if gap ≤ 0 then lRef v
    else
      let loss := v.lossTo (cmSample v.gi (lRef v))
      if loss ≤ 0 then lRef v
      else ((lRef v : Rat) - gap * lRef v / (2 * loss)).floor.toNat

/-- The derating and the held power taken anew, after a case sample and after every change of what they rest on (R68, R70, R95);
`POWER_HELD` in 0.1 dBm, rounded down. -/
def retakeHeld (s : State) : State :=
  let s := { s with light.derate := derateOf s.light.cfg.knee s.power.tCase }
  let h := heldNow s
  { s with light.heldDbm := h, light.held := (10 * h).floor }

/-- `POWER_LIMITED` queues an item on a change of held power of 0.5 dB or more (R69, R84). -/
def tellHeld (s : State) : State :=
  let now := powerLimited s
  let h := s.light.held
  let s' := { s with light.limited := now }
  if (s.light.limited || now) && 5 ≤ (h - s.light.heldTold).natAbs then
    raise { code := 0x0208, a0 := (h % 4294967296).toNat, a1 := reachHeld s } { s' with light.heldTold := h }
  else s'

/-- The held power taken anew and told. -/
def newHeld (s : State) : State := tellHeld (retakeHeld s)

end Sys2Proof.Machine
end

