-- ==== Sys2Proof/Machine/Drive.lean ====
section
/-! DEFINITION. Machine/Drive.lean: the light-drive channels: setpoints by mode, pump currents, samples (R64, R65, R71-R76). -/

namespace Sys2Proof.Machine

open Sys2Proof

/-! ### Setpoints (R65, R71, R72, R525) -/

/-- Is a channel driven in a mode? A survey launches in WARM, or on the way from STANDBY (R35, R38). -/
def drives (m : Mode) (s : State) (n : Nat) : Bool :=
  let lit := m.measures || surveying s
  !(vget s.light.ldc n).retired && (match n with
    | 2 => lit
    | 6 => s.ochreFitted && (m = .survey || m = .full)
    | 3 | 4 | 5 => lit && pumpUsable s (n - 3)
    | _ => lit || (!m.asleep && m ≠ .standby))

/-- The level that the amplifier serves, 0.1 dBm: that of the DAS slots, in SURVEY Ochre's. -/
def levelNow (m : Mode) (s : State) : Int := if m = .survey then s.ochre.level else s.light.level

/-- The total pump power, uW: in open loop that of the fuse table (R64), in closed loop what the loop makes of the photodiode's
reading in this launch period, which the spec does not state (R65; log 20). -/
def pumpTotal (m : Mode) (s : State) : Nat :=
  if loopClosed s then Config.loopPower s.freeIdx else Config.ampPump (levelNow m s)

/-- The current of a pump, uA: the total is shared equally among the pumps that may be driven (R64); threshold plus share over
slope (R65). In closed loop a pump may have no binning: then its current for a power is a free value (log 20). -/
def pumpCurrent (m : Mode) (s : State) (i : Nat) : Int :=
  let share : Rat := (pumpTotal m s : Rat) / (usablePumps s).length
  let slope := vget s.light.cfg.slope i
  if slope = 0 then Config.pumpDrive i share.floor.toNat
  else 100 * vget s.light.cfg.thresh i + (1000 * share / slope).floor

/-- What a channel's loop asks for, uA. A channel that is driven already keeps its current, but for the pumps, which follow the
level each launch period, and the TEC. -/
def demandOf (m : Mode) (s : State) (n : Nat) : Int :=
  let d := vget s.light.ldc n
  if inR n 3 5 then pumpCurrent m s (n - 3)
  else if d.enabled && n ≠ 7 then d.demand
  else Config.driveCurrent n s.freeIdx

/-- A demand held within the ceiling; only LDC7 goes below 0 (R71). -/
def clampTo (s : State) (n : Nat) (v : Int) : Int :=
  let c : Int := ldcCeiling s n
  if n = 7 then max (-c) (min c v) else max 0 (min c v)

/-- A channel set for a mode; one that is not driven is at 0 A. -/
def driveChannel (m : Mode) (s : State) (n : Nat) : Ldc :=
  let d := vget s.light.ldc n
  if drives m s n then
    let v := demandOf m s n
    { d with enabled := true, demand := v, setpoint := clampTo s n v, atCeil := ldcCeiling s n < v.natAbs }
  else { d with enabled := false, setpoint := 0, demand := 0, iAnode := 0, iReturn := 0, vOut := 0, headroom := 0, atCeil := false,
                pOpt := 0 }

/-- The channels set for a mode. -/
def setDrives (m : Mode) (s : State) : State :=
  { s.took with light.ldc := Vector.ofFn (fun i => driveChannel m s i.val) }

/-- The drive as the mode in force asks. -/
def refreshDrives (s : State) : State := setDrives s.runMode s

/-- New currents of channels that a calibration step has trimmed (R71). -/
def redrive (ns : List Nat) (s : State) : State :=
  refreshDrives { s with light.ldc := ns.foldl (fun v n => vmod v n (fun d => { d with enabled := false })) s.light.ldc }

/-! ### Samples (R73, R76) -/

/-- The limit of a difference between anode and return current, uA: 2 % of the setpoint or 5 mA, whichever is larger (R76). -/
def shortLimit (d : Ldc) : Rat := max 5000 ((d.setpoint.natAbs : Rat) / 50)

/-- The samples of a channel between two case readings, one each microsecond for 10 ms (R68, R76). -/
def samplesOf (n idx : Nat) : List (Int × Int × Nat) := (List.range 10000).map (Config.driveSample n idx)

/-- The launches of a launch period: probe lengths in ps (R51, R54, R150); of a survey, its pulse of 100 ns (R35). -/
def pulsesNow (s : State) : List Nat :=
  if surveying s then [100000]
  else ((List.range 8).filter (launches s)).map (fun k =>
    if k = 7 && (s.runMode = .survey || s.runMode = .full) then s.ochre.cfg.pulseLen * 1000 else s.light.plan.probe)

/-- The pulses of LDC2 between two case readings: the launches of 10 ms. -/
def gateTimes (s : State) : List Nat :=
  let tl := if surveying s then 1250000000 else periodOf s s.runMode
  (List.replicate (10000000000 / max 1 tl) (pulsesNow s)).flatten

/-- The samples of LDC2, pulse by pulse: one each microsecond while the gate is open, and at least one (R73, R76). -/
def soaSamples (s : State) (idx : Nat) : List (Nat × List (Int × Int × Nat)) :=
  let ps := gateTimes s
  ((List.range ps.length).zip ps).map (fun x =>
    (x.2, (List.range (max 1 (x.2 / 1000000))).map (fun j => Config.driveSample 2 idx (1000 * x.1 + j))))

/-- The mean of a list, rounded down. -/
def meanInt (l : List Int) : Int := if l.isEmpty then 0 else l.sum / l.length

/-- The readings of a channel from its samples (R73): currents as means over `ms`, those of the last 1 ms; voltage and headroom of
the last sample; the counter of samples beyond the limit of R76, and `full` more pulses or samples at the compliance limit. -/
def readFrom (s : State) (n : Nat) (d : Ldc) (xs ms : List (Int × Int × Nat)) (full : Nat) : Ldc :=
  let v := ((xs.getLast?).map (fun x => x.2.2)).getD d.vOut
  let a := meanInt (ms.map (·.1))
  { d with
    iAnode := a, iReturn := meanInt (ms.map (fun x => x.2.1)), vOut := v, headroom := complianceOf n - v,
    pOpt := if inR n 3 5 then pumpAt s (n - 3) a.toNat else 0,
    mismatch := satAdd d.mismatch (xs.filter (fun x => shortLimit d < ((x.1 - x.2.1).natAbs : Rat))).length,
    comply := satAdd d.comply full }

/-- A channel's readings (R73). LDC2 is read while its gate is open: means over the gate-open time of the last 1 ms, and one count
per pulse of 20 ns or longer that reaches the compliance limit (R78). -/
def readChannel (s : State) (n : Nat) : Ldc :=
  let d := vget s.light.ldc n
  let full (x : Int × Int × Nat) : Bool := complianceOf n ≤ x.2.2
  if !d.enabled then d
  else if n = 2 then
    let ps := soaSamples s s.freeIdx
    let xs := ps.flatMap (·.2)
    let last := (ps.drop (ps.length - max 1 (ps.length / 10))).flatMap (·.2)
    if xs.isEmpty then d else readFrom s n d xs last (ps.filter (fun p => 20000 ≤ p.1 && p.2.any full)).length
  else
    let xs := samplesOf n s.freeIdx
    readFrom s n d xs (xs.drop 9000) (xs.filter full).length

/-- Readings of the driven channels. -/
def measureDrives (s : State) : State :=
  { s.took with light.ldc := Vector.ofFn (fun i => readChannel s i.val) }

end Sys2Proof.Machine
end

