-- ==== Sys2Proof/Machine/Fit.lean ====
section
/-! DEFINITION. Machine/Fit.lean: the Lorentzian fit of a zone spectrum (R30, R148, R161, R162). The damping and the first
amplitude and width of the Levenberg-Marquardt method are free values (log 13). -/

namespace Sys2Proof.Machine

open Sys2Proof

/-- The shift of bin k, kHz (R148). -/
def binShift (lo : Nat) (k : Nat) : Rat := (lo : Rat) * 1000 + ((k : Rat) - 64) * 390625 / 100

/-- A bin of the fit: shift in kHz, power over the baseline, noise. -/
structure FitBin where
  f : Rat
  y : Rat
  s : Rat

/-- A Lorentzian: amplitude, centre and width in kHz (R30). -/
structure Lorentz where
  a  : Rat
  nu : Rat
  w  : Rat

/-- The index of the highest value. -/
def highest (l : List Rat) : Nat :=
  ((List.range l.length).foldl (fun b i => if at0 l b < at0 l i then i else b) 0)

/-- The highest bin, refined by a parabola through it and its neighbours, kHz (R161 step 2). -/
def peakShift (lo : Nat) (y : List Rat) : Rat :=
  let k := highest y
  let a := at0 y (k - 1)
  let b := at0 y k
  let c := at0 y (k + 1)
  let d := a - 2 * b + c
  let off := if k = 0 || y.length ≤ k + 1 || d = 0 then 0 else (a - c) / (2 * d)
  binShift lo k + off * 390625 / 100

/-- The Lorentzian's value and its derivatives by amplitude, centre and width. -/
def Lorentz.value (p : Lorentz) (f : Rat) : Rat := let u := 2 * (f - p.nu) / p.w; p.a / (1 + u * u)
def Lorentz.grad (p : Lorentz) (f : Rat) : Rat × Rat × Rat :=
  let u := 2 * (f - p.nu) / p.w
  let q := 1 / (1 + u * u)
  (q, p.a * q * q * 4 * u / p.w, p.a * q * q * 2 * u * u / p.w)

/-- The weighted sum of a product over the bins. -/
def wsum (bs : List FitBin) (h : FitBin → Rat) : Rat := (bs.map (fun b => h b / (b.s * b.s))).sum

/-- The normal matrix of the weighted least squares, upper triangle by rows (aa, an, aw, nn, nw, ww). -/
structure Normal where
  aa : Rat
  an : Rat
  aw : Rat
  nn : Rat
  nw : Rat
  ww : Rat

def normal (p : Lorentz) (bs : List FitBin) : Normal :=
  let g (b : FitBin) := p.grad b.f
  { aa := wsum bs (fun b => (g b).1 * (g b).1), an := wsum bs (fun b => (g b).1 * (g b).2.1),
    aw := wsum bs (fun b => (g b).1 * (g b).2.2), nn := wsum bs (fun b => (g b).2.1 * (g b).2.1),
    nw := wsum bs (fun b => (g b).2.1 * (g b).2.2), ww := wsum bs (fun b => (g b).2.2 * (g b).2.2) }

def Normal.det (m : Normal) : Rat :=
  m.aa * (m.nn * m.ww - m.nw * m.nw) - m.an * (m.an * m.ww - m.nw * m.aw) + m.aw * (m.an * m.nw - m.nn * m.aw)

/-- The diagonal raised by a damping factor. -/
def Normal.damped (m : Normal) (d : Rat) : Normal :=
  { m with aa := m.aa * (1 + d), nn := m.nn * (1 + d), ww := m.ww * (1 + d) }

/-- The solution of the normal equations, by Cramer's rule. -/
def Normal.solve (m : Normal) (x y z : Rat) : Rat × Rat × Rat :=
  let d := m.det
  if d = 0 then (0, 0, 0)
  else
    (fix80 ((x * (m.nn * m.ww - m.nw * m.nw) - m.an * (y * m.ww - m.nw * z) + m.aw * (y * m.nw - m.nn * z)) / d),
     fix80 ((m.aa * (y * m.ww - m.nw * z) - x * (m.an * m.ww - m.nw * m.aw) + m.aw * (m.an * z - y * m.aw)) / d),
     fix80 ((m.aa * (m.nn * z - y * m.nw) - m.an * (m.an * z - y * m.aw) + x * (m.an * m.nw - m.nn * m.aw)) / d))

/-- One iteration. -/
def fitStep (it : Nat) (bs : List FitBin) (p : Lorentz) : Lorentz :=
  let r (b : FitBin) := b.y - p.value b.f
  let d := ((normal p bs).damped (Config.fitDamping it)).solve (wsum bs (fun b => (p.grad b.f).1 * r b))
    (wsum bs (fun b => (p.grad b.f).2.1 * r b)) (wsum bs (fun b => (p.grad b.f).2.2 * r b))
  { a := p.a + d.1, nu := p.nu + d.2.1, w := p.w + d.2.2 }

def absR (x : Rat) : Rat := if x < 0 then -x else x

/-- Iterations until the centre moves less than 1 kHz, at most 8 (R161 step 5): converged, iterations, result. -/
def fitRun : Nat → Nat → List FitBin → Lorentz → Bool × Nat × Lorentz
  | 0, it, _, p => (false, it, p)
  | n + 1, it, bs, p =>
    let q := fitStep it bs p
    if absR (q.nu - p.nu) < 1 then (true, it + 1, q) else fitRun n (it + 1) bs q

/-- N_ind of R161 for a zone length and a pulse length in ns. -/
def nInd (len : Nat) (pulseNs : Nat) : Nat := max 1 (len * 4 / pulseNs)

/-- What a fit is made of: LO offset, `FIT_HALF`, `ACC_LINES`, N_ind, the zone's gates and those of the baseline. -/
structure FitSet where
  lo    : Nat
  half  : Nat
  acc   : Nat
  ind   : Nat
  gates : Nat
  base  : Nat

/-- The fit of R161: baseline scaled to the gate count and subtracted; starting centre; bins within `FIT_HALF` of it; weighted
least squares; the standard error of the centre and σ_CRB of R30 for the same bins. -/
def lorentzFit (c : FitSet) (spec base : List Rat) (start : Option Int) : FitOut :=
  let y := (List.range 128).map (fun k => at0 spec k - at0 base k * (c.gates : Rat) / (c.base : Rat))
  let sig (k : Nat) : Rat := at0 spec k / sqrtR (c.acc * c.ind : Nat)
  let st : Rat := match start with
    | some v => v
    | none => peakShift c.lo y
  let ks := (List.range 128).filter (fun k => decide (absR (binShift c.lo k - st) ≤ (c.half * 1000 : Nat)) && sig k ≠ 0)
  let bs := ks.map (fun k => { f := binShift c.lo k, y := at0 y k, s := sig k : FitBin })
  let first := Config.fitStart y
  let (ok, it, p) := fitRun 8 0 bs { a := first.1, nu := st, w := first.2 }
  let m := normal p bs
  let var := if m.det = 0 then 0 else (m.aa * m.ww - m.aw * m.aw) / m.det
  -- the peak bin: the highest of the bins used (log 165)
  let pk := (ks.foldl (fun (b : Option Nat) k => match b with
    | some j => if at0 y j < at0 y k then some k else some j
    | none => some k) none).getD 64
  { converged := ok, start := roundAway st, centre := roundAway p.nu, width := (roundAway p.w).toNat,
    snr := max (-32768) (min 32767 (roundAway (100 * db10 (p.a / sig pk)))), weak := decide (p.a < 2 * sig pk),
    sigma := (roundAway (sqrtR var)).toNat, crb := if m.nn = 0 then 65535 else (roundAway (sqrtR (1 / m.nn))).toNat, iter := it }

/-! ### The thermometer of the reference coil (R163, R180, R437) -/

/-- Coefficients of IEC 60751: A and B as in chapter 12's example; C, for temperatures below 0 °C, from the standard itself
(PRESUMED, log 14). -/
def rtdA : Rat := 39083 / 10000000
def rtdB : Rat := -5775 / 10000000000
def rtdC : Rat := -4183 / 10 ^ 15

/-- One step of Newton's method towards the temperature of a resistance ratio below 1. -/
def rtdStep (ratio t : Rat) : Rat :=
  let f := 1 + rtdA * t + rtdB * t * t + rtdC * (t - 100) * t * t * t - ratio
  let d := rtdA + 2 * rtdB * t + rtdC * (4 * t - 300) * t * t
  fix80 (t - f / d)

/-- The temperature, °C, of an element whose resistance is `ratio` times that at 0 °C. -/
def rtdDegrees (ratio : Rat) : Rat :=
  let q := (-rtdA + sqrtR (rtdA * rtdA - 4 * rtdB * (1 - ratio))) / (2 * rtdB)
  if 1 ≤ ratio then q else (List.range 8).foldl (fun t _ => rtdStep ratio t) (fix80 q)

/-- The resistance, ohm, of a mean result (R423, R435): full scale 1.250 V / 8, source current 1 mA or 0.1 mA, trimmed by the `COIL`
step: gain in 10^-9, offset in microohm. -/
def rtdOhm (mean : Rat) (rtd : Nat) (gain offset : Int) : Rat :=
  let volts := mean * (5 / 4) / (8 * 2 ^ 23)
  let amps : Rat := if rtd = 1 then 1 / 1000 else 1 / 10000
  volts / amps * (1 + gain / 10 ^ 9) + offset / 10 ^ 6

/-- The element's resistance at 0 °C, ohm: as configured in milliohm, else the nominal one (R180). -/
def rtdZero (rZero rtd : Nat) : Rat := if rZero = 0 then (if rtd = 1 then 100 else 1000) else (rZero : Rat) / 1000

/-- T_coil from a mean result code (R437). -/
def rtdTemperature (mean : Rat) (rZero rtd : Nat) (gain offset : Int) : Rat :=
  rtdDegrees (rtdOhm mean rtd gain offset / rtdZero rZero rtd)

end Sys2Proof.Machine
end

