-- ==== Sys2Proof/Machine/Bindings.lean ====
section
/-! DEFINITION. Machine/Bindings.lean: a watch context's settings (R240), the bindings of contexts on zone cores, their groups
and the burst condition (R289, R296, R299), and how cores halt (R308). -/

namespace Sys2Proof.Machine

open Sys2Proof

/-! ### Settings (R240) -/

namespace Ctx
def source (c : Ctx) : Nat := fld c.cfg 0 1
def streamEn (c : Ctx) : Bool := tst (fld c.cfg 1 1) 0
def trigEvents (c : Ctx) : Bool := tst (fld c.cfg 1 1) 1
def alarmIrq (c : Ctx) : Bool := tst (fld c.cfg 1 1) 2
def almsEn (c : Ctx) : Bool := tst (fld c.cfg 1 1) 3
def almMask (c : Ctx) : Nat := fld c.cfg 2 1
def persist (c : Ctx) : Nat := fld c.cfg 3 1
def first (c : Ctx) : Nat := fld c.cfg 4 4
def n (c : Ctx) : Nat := fld c.cfg 8 4
def spread (c : Ctx) : Nat := fld c.cfg 12 1
/-- Input selected (0 none, 1-4), falling edge, mode (0 OFF, 1 OR, 2 ONLY, 3 GATE) of the `TIN` field. -/
def tinPin (c : Ctx) : Nat := fld c.cfg 13 1 % 8
def tinFalls (c : Ctx) : Bool := tst (fld c.cfg 13 1) 3
def tinMode (c : Ctx) : Nat := fld c.cfg 13 1 / 16 % 4
def skipMask (c : Ctx) : Nat := fld c.cfg 14 2
def pre (c : Ctx) : Nat := fld c.cfg 16 4
def post (c : Ctx) : Nat := fld c.cfg 20 4
def detSrc (c : Ctx) (b : Nat) : Nat := fld c.cfg (24 + 8 * b) 1
def detMode (c : Ctx) (b : Nat) : Nat := fld c.cfg (25 + 8 * b) 1
def detTable (c : Ctx) (b : Nat) : Nat := fld c.cfg (26 + 8 * b) 1
def detConst (c : Ctx) (b : Nat) : Int := sfld c.cfg (28 + 8 * b) 4
/-- Does it record (R222)? -/
def records (c : Ctx) : Bool := c.pre ≠ 0 || c.post ≠ 0
/-- LS of R250. -/
def lineSize (c : Ctx) : Nat := cdiv (32 + (if c.source = 3 then 4 else 2) * c.n) 64 * 64
/-- Does some bit come from a zone core? -/
def usesCore (c : Ctx) : Bool := (List.range 4).any (fun b => c.detSrc b = 2)
/-- Is it in any state other than `DISARMED`? -/
def live (c : Ctx) : Bool := c.state ≠ .disarmed
/-- The states in which it is evaluated (R222). -/
def evaluates (c : Ctx) : Bool := c.state = .armed || c.state = .capture || c.state = .rearm
/-- Are its next lines evaluated, with the edges on them? Not once the point of a disarm has come (R226). -/
def takes (c : Ctx) : Bool := c.evaluates && c.stopping.isNone
/-- `LINE_SEQ` (R206): of the last line. -/
def lineSeq (c : Ctx) : Nat := (c.lines - 1) % 2 ^ 32
/-- Does a record of it take lines? -/
def capturing (c : Ctx) : Bool := c.state = .capture || c.state = .disarming
/-- The tables its bits name (R208). -/
def bitTables (c : Ctx) : List Nat :=
  (List.range 4).filterMap (fun b => if c.detSrc b = 1 && c.detTable b ≠ 0xFF then some (c.detTable b) else none)
/-- The state it shows: past the point of a disarm, the one it has taken there, though earlier lines still wait for zone-core bits
(R226; DESIGN CHOICE, log 229). -/
def shown (c : Ctx) : CtxState :=
  match c.stopping with
  | none => c.state
  | some ab => if c.capturing && !ab then .disarming else .disarmed
/-- The lines it shows as received. -/
def linesShown (c : Ctx) : Nat := if c.stopping.isSome && !c.capturing then c.stopLines else c.lines
end Ctx

/-- The codes of R222. -/
def CtxState.code : CtxState → Nat
  | .disarmed => 0 | .armed => 1 | .capture => 2 | .rearm => 3 | .disarming => 4

def ctx (s : State) (k : Nat) : Ctx := vget s.ctxs k
def modCtx (k : Nat) (f : Ctx → Ctx) (s : State) : State := { s with ctxs := vmod s.ctxs k f }

/-- The contexts that satisfy a test, ascending. -/
def ctxsWhere (s : State) (p : Ctx → Bool) : List Nat := (List.range 256).filter (fun k => p (ctx s k))

/-! ### Zone-core groups (R289, R296) -/

def core (s : State) (c : Nat) : Core := vget s.cores c
def modCore (c : Nat) (f : Core → Core) (s : State) : State := { s with cores := vmod s.cores c f }

/-- The codes of R277. -/
def CoreState.code : CoreState → Nat
  | .empty => 0 | .stopped => 1 | .running => 2 | .retired => 3

/-- A core's binding of a context, with its number. -/
def Core.binding (x : Core) (k : Nat) : Option Binding := x.bindings.find? (fun b => b.ctx = k)
def Core.bindIx (x : Core) (k : Nat) : Nat := (x.bindings.findIdx? (fun b => b.ctx = k)).getD 0

/-- The cores that hold a binding of a context, ascending. -/
def groupOf (s : State) (k : Nat) : List Nat := (List.range 32).filter (fun c => ((core s c).binding k).isSome)

/-- The core at a position of a context's group. -/
def coreAt (s : State) (k pos : Nat) : Option Nat :=
  (groupOf s k).find? (fun c => (((core s c).binding k).map (·.pos)) = some pos)

/-- The DAS entries of a span. -/
def spanDas (m : ZoneMap) (c : Ctx) : List DasEntry := ((m.das1 ++ m.das2).drop c.first).take c.n

/-- L_min, and the samples from the span's first to its last (R296). -/
def spanMin (m : ZoneMap) (c : Ctx) : Nat := (((spanDas m c).map (·.len)).min?).getD 1
def spanSamples (m : ZoneMap) (c : Ctx) : Nat :=
  match (spanDas m c).head?, (spanDas m c).getLast? with
  | some a, some b => b.first + b.len - a.first
  | _, _ => 0

/-- V_j at a slot spacing (R296). -/
def overlap (s : State) (k : Nat) (ts : Ps) : Nat :=
  let c := ctx s k
  if c.source = 1 then max 1 (cdiv (spanSamples s.indigo.map c * 4000) ts) else 1

/-- I_j, ps. -/
def zoneInterval (s : State) (k size : Nat) : Nat :=
  let c := ctx s k
  if c.source = 1 then size * spanMin s.indigo.map c * 4000 else size * 40000

/-- T_rnd of bindings at a slot spacing, in cycles. -/
def roundOf (s : State) (ts : Ps) (bs : List Binding) : Nat := (bs.map (fun b => b.budget * overlap s b.ctx ts)).sum

/-- The burst condition of bindings on one core at a slot spacing: T_rnd at most every I_j. A cycle is 2500/3 ps. -/
def burstOk (s : State) (ts : Ps) (bs : List Binding) : Bool :=
  bs.all (fun b => roundOf s ts bs * 2500 ≤ 3 * zoneInterval s b.ctx b.size)

/-- Program time of a context at a slot spacing, ps, rounded down (R299; log 40). -/
def progTime (s : State) (ts : Ps) (k : Nat) : Nat :=
  (((groupOf s k).map (fun c => roundOf s ts (core s c).bindings)).foldl max 0) * 2500 / 3

/-- Halfwords of a space (R280). -/
def spaceSize (unified : Bool) : Nat := if unified then 16384 else 8192

/-- Do a binding's areas fit (R290, R291)? -/
def Binding.fits (b : Binding) (unified : Bool) : Bool :=
  b.histBase + b.nLocal * b.histLen ≤ spaceSize unified && b.stateBase + b.nLocal * b.stateLen ≤ spaceSize unified
    && (b.histLen = 0 || b.histBase % b.histLen = 0)

/-- T_S of the plan in force. -/
def tsNow (s : State) : Ps := s.light.plan.tl / s.light.plan.nSlots

/-- `BURST_FAIL` of a core (R299, R310): its bindings break the burst condition under the plan in force. -/
def burstFails (s : State) (c : Nat) : Bool :=
  let bs := (core s c).bindings
  !bs.isEmpty && !burstOk s (tsNow s) bs

/-- `ZC_BURST` at a plan change, once for a core that begins to fail (R299). -/
def burstCheck (s : State) : State :=
  (List.range 32).foldl (fun s c =>
    let bad := burstFails s c
    let x := core s c
    let s := if bad && !x.burstTold then
        raise { code := 0x0605, unit := c, a1 := (x.bindings.head?.map (·.ctx)).getD 0 } s else s
    if bad ≠ x.burstTold then modCore c (fun x => { x with burstTold := bad }) s else s) s

/-! ### Cores that halt (R288, R308) -/

/-- The cores of a mask. -/
def maskCores (m : Nat) : List Nat := (List.range 32).filter (tst m)

/-- A RUNNING core becomes STOPPED, or is to at the end of the invocation in progress. -/
def haltCore (c : Nat) (s : State) : State :=
  let x := core s c
  if x.state ≠ .running then s
  else if x.inv.isSome then modCore c (fun x => { x with stopDue := true }) s
  else modCore c (fun x => { x with state := .stopped, stopDue := false, backAt := none, bus := [], buffer := [] }) s

/-- A context's binding removed from its whole group; an invocation in progress runs to its end. -/
def dropBinding (k : Nat) (s : State) : State :=
  (groupOf s k).foldl (fun s c => modCore c (fun x => { x with
    bindings := x.bindings.filter (fun b => b.ctx ≠ k), bus := x.bus.filter (fun m => m.ctx ≠ k),
    buffer := x.buffer.filter (fun m => m.ctx ≠ k) }) s) s

/-- The contexts bound on some cores. -/
def boundOn (s : State) (cs : List Nat) : List Nat := (cs.flatMap (fun c => (core s c).bindings.map (·.ctx))).eraseDups

/-- The bindings on some cores go, each from its whole group. -/
def dropBindings (cs : List Nat) (s : State) : State := (boundOn s cs).foldl (fun s k => dropBinding k s) s

/-- A core left RUNNING with no binding halts (R277, R308). -/
def haltBare (s : State) : State :=
  (List.range 32).foldl (fun s c => if (core s c).bindings.isEmpty then haltCore c s else s) s

/-- The cores of a mask halt; with `UNBIND` their bindings go, and a core left RUNNING without one halts too (R308). -/
def haltCores (m : Nat) (unbind : Bool) (s : State) : State :=
  let cs := maskCores m
  let s := if unbind then dropBindings cs s else s
  let s := cs.foldl (fun s c => haltCore c s) s
  if unbind then haltBare s else s

/-- N_local of a context's binding follows its N_ZONES (R289). -/
def resizeBinding (k : Nat) (s : State) : State :=
  let n := (ctx s k).n
  (groupOf s k).foldl (fun s c => modCore c (fun x => { x with
    bindings := x.bindings.map (fun b => if b.ctx = k then { b with nLocal := cdiv n b.size } else b) }) s) s

end Sys2Proof.Machine
end

