-- ==== Sys2Proof/Machine/Changes.lean ====
section
/-! DEFINITION. Machine/Changes.lean: the application of each change that alters the plan, and the scheduling of changes at
their boundaries (R56-R59). -/

namespace Sys2Proof.Machine

open Sys2Proof

/-! ### The front end and the monitor outputs (R438, R442, R444) -/

namespace AuxCh
def charge (c : AuxCh) : Bool := fld c.cfg 2 1 = 2
def odr (c : AuxCh) : Nat := fld c.cfg 4 1
def caMode (c : AuxCh) : Nat := fld c.cfg 6 1
def burnout (c : AuxCh) : Nat := fld c.cfg 7 1
def resetPeriod (c : AuxCh) : Nat := fld c.cfg 8 2
def wakeCount (c : AuxCh) : Nat := fld c.cfg 10 1
def wakeEn (c : AuxCh) : Bool := tst (fld c.cfg 11 1) 0
def wakeLevel (c : AuxCh) : Nat := fld c.cfg 12 4
end AuxCh

def aux (s : State) (n : Nat) : AuxCh := vget s.aux.chans n
def modAux (n : Nat) (f : AuxCh → AuxCh) (s : State) : State := { s with aux.chans := vmod s.aux.chans n f }

/-- Does a channel convert in the mode in force (R438)? -/
def converts (s : State) (n : Nat) : Bool :=
  (aux s n).enabled && s.power.vddAon && !(s.power.sleeping && (s.power.mode = .dormant || !(aux s n).wakeEn))

namespace Amon
def source (a : Amon) : Nat := fld a.cfg 0 1
def process (a : Amon) : Nat := fld a.cfg 1 1
def tau (a : Amon) : Nat := fld a.cfg 2 1
def index (a : Amon) : Nat := fld a.cfg 3 4
def lo (a : Amon) : Int := sfld a.cfg 7 4
def hi (a : Amon) : Int := sfld a.cfg 11 4
def safe (a : Amon) : Nat := fld a.cfg 15 2
end Amon

/-- Does an output's source produce nothing (R442)? -/
def amonIdle (s : State) (a : Amon) : Bool :=
  let m := s.runMode
  match a.source with
  | 1 => !(s.light.running && (m = .acoustic || m = .full) && s.indigo.map.dasBase s.light.port ≤ a.index
      && a.index < s.indigo.map.dasBase s.light.port + (s.indigo.map.das s.light.port).length)
  | 2 => !(s.light.running && (m = .survey || m = .full) && s.indigo.map.dtsBase s.light.port ≤ a.index
      && a.index < s.indigo.map.dtsBase s.light.port + (s.indigo.map.dts s.light.port).length)
  | 3 => !converts s a.index
  | _ => false

/-- An output whose source produces nothing is driven to `SAFE_CODE` (R442), and keeps that code when the source comes back until a
value sets another. -/
def amonLatch (s : State) : State :=
  { s with aux.amon := s.aux.amon.map (fun a =>
      if amonIdle s a then { a with code := a.safe, holding := false, atSafe := true } else a) }

/-! ### Applying a change -/

/-- A field, unless it carries its keep value. -/
def keepN (keep v old : Nat) : Nat := if v = keep then old else v
def keepI (keep v old : Int) : Int := if v = keep then old else v

/-- `LAUNCH_CFG` fields applied (R90). -/
def applyLaunchCfg (p : List Byte) (s : State) : State :=
  let o := s.light.plan
  let carrier := keepN 0 (fld p 14 2) o.carrier
  let n : Plan := { o with
    tl := if fld p 0 4 = 0 then o.tl else fld p 0 4 * 10000
    pulse := if fld p 4 1 = 0 then o.pulse else fld p 4 1 = 2
    taper := keepN 0xFF (fld p 5 1) o.taper
    chirpBw := keepN 0 (fld p 6 2) o.chirpBw
    chirpLen := keepN 0 (fld p 8 2) o.chirpLen
    pulseLen := keepN 0 (fld p 10 2) o.pulseLen
    power := keepI 0x7FFF (sfld p 12 2) o.power
    carrier := carrier }
  { s with light.plan := n, light.locked := s.light.locked && carrier = o.carrier }

/-- `SLOT_CFG` fields applied (R91). -/
def applySlotCfg (p : List Byte) (s : State) : State :=
  let o := s.light.plan
  let fl := fld p 2 1
  let n := { o with
    nSlots := keepN 0 (fld p 0 1) o.nSlots
    dirMask := if tst fl 0 then by8 (fld p 1 1) else o.dirMask
    trim := if tst fl 1 then Vector.ofFn (fun i => sfld p (4 + i.val) 1) else o.trim }
  { s with light.plan := n }

/-- `LIGHT_CFG` fields applied (R92). -/
def applyLightCfg (p : List Byte) (s : State) : State :=
  let o := s.light.cfg
  let n := { o with
    closed := if fld p 0 1 = 0 then o.closed else fld p 0 1 = 2
    pumpEn := if fld p 1 1 = 0xFF then o.pumpEn else BitVec.ofNat 3 (fld p 1 1)
    rampStep := keepN 0 (fld p 2 1) o.rampStep
    knee := keepN 0 (fld p 3 1) o.knee
    slope := Vector.ofFn (fun i => keepN 0 (fld p (4 + 4 * i.val) 2) (vget o.slope i.val))
    thresh := Vector.ofFn (fun i => keepN 0xFFFF (fld p (6 + 4 * i.val) 2) (vget o.thresh i.val)) }
  retakeHeld { s with light.cfg := n }

/-- `APR_CFG` configure (R94) and restore (R88): the level stays at `APR_LEVEL` until the reference has been taken. A trip of
the same instant wins. A new ceiling below the power request lowers the request. -/
def applyAprCfg (p : List Byte) (s : State) : State :=
  if fld p 0 1 = 1 then
    if s.light.aprTrip && s.light.aprAt ≠ s.now then
      { s with light.aprTrip := false, light.aprArmed := true, light.aprFrom := s.now, light.aprSum := [], light.aprN := 0 }
    else s
  else
    let o := s.light.cfg
    let n := { o with
      aprLevel := keepI 0x7FFF (sfld p 2 2) o.aprLevel
      aprCeil := keepI 0x7FFF (sfld p 4 2) o.aprCeil
      reflLimit := keepI 0x7FFF (sfld p 6 2) o.reflLimit
      lossDrop := if fld p 8 1 = 0 then o.lossDrop else fld p 8 1 }
    retakeHeld { s with light.cfg := n, light.plan.power := min s.light.plan.power n.aprCeil,
                        ochre.cfg.power := min s.ochre.cfg.power n.aprCeil }

/-- `PORT_SELECT` applied (R93). A reference that was being taken on the old port begins anew (R85). -/
def applyPortSelect (p : List Byte) (s : State) : State :=
  let fl := fld p 1 1
  let s := if tst fl 0 then { s with fibre.s1.groupIndex := fld p 2 2 } else s
  let s := if tst fl 1 then { s with fibre.s2.groupIndex := fld p 4 2 } else s
  if fld p 0 1 = 0 then s
  else if fld p 0 1 = s.light.port then s
  else { s with light.port := fld p 0 1, light.aprSum := [], light.aprN := 0 }

/-- The accumulation in progress discarded; it restarts at the next Ochre launch (R159). No centre and no coil reference of
before counts any more (R161, R165), and the scrambler's cycle starts anew (R149). -/
def restartAcc (s : State) : State :=
  { s with
    ochre.acc := { since := s.now }
    ochre.coil := s.ochre.coilDue
    ochre.coilNext := none
    ochre.ready := s.ochre.ready.map (fun r => { r with past := true })
    ochre.zones := s.ochre.zones.map (fun z => { z with centre := none })
    ochre.refSeen := false
    ochre.coilStart := none
    ochre.launched := 0
    ochre.skipped := 0 }

/-- `OCHRE_CFG` fields applied (R177); a change of R159 restarts the accumulation. -/
def applyOchreCfg (p : List Byte) (s : State) : State :=
  let o := s.ochre.cfg
  let n := { o with
    pulseLen := keepN 0 (fld p 0 2) o.pulseLen
    power := keepI 0x7FFF (sfld p 2 2) o.power
    lo := keepN 0 (fld p 4 2) o.lo
    pitch := keepN 0 (fld p 6 1) o.pitch
    fitHalf := keepN 0 (fld p 7 1) o.fitHalf
    acc := keepN 0 (fld p 8 4) o.acc
    period := keepN 0 (fld p 12 4) o.period
    settle := if tst (fld p 17 1) 0 then tst (fld p 16 1) 0 else o.settle }
  let fresh := n.pulseLen ≠ o.pulseLen ∨ n.lo ≠ o.lo ∨ n.pitch ≠ o.pitch ∨ n.acc ≠ o.acc
  let s1 := { s with ochre.cfg := n }
  if fresh then restartAcc s1 else s1

/-- The filters of some aux channels restart (R422). -/
def restartFilters (p : Nat → Bool) (s : State) : State :=
  { s with aux.chans := Vector.ofFn (fun i =>
      let c := vget s.aux.chans i.val
      if p i.val then { c with unsettled := 3 } else c) }

/-- A current source set; a change restarts the filters of the channels in its old and new `CHMASK` (R429). -/
def setSource (i : Nat) (e : Exc) (s : State) : State :=
  let o := vget s.aux.exc i
  if o = e then s
  else restartFilters (fun c => o.chmask.getLsbD c || e.chmask.getLsbD c) { s with aux.exc := vset s.aux.exc i e }

/-- The coil's claim of its channel and of source 0 (R435). Other fields of the channel's settings stay as they are. -/
def claimChannel (ch rtd : Nat) (s : State) : State :=
  let c := vget s.aux.chans ch
  let cfg := [by8 ch, 1, 1, 3, 1] ++ (c.cfg.drop 5).take 2 ++ [2] ++ c.cfg.drop 8
  setSource 0 { current := if rtd = 1 then 100 else 10, dest := 16, chmask := by8 (2 ^ ch) }
    { s with aux.chans := vset s.aux.chans ch { c with cfg := cfg, enabled := true, unsettled := 3 } }

/-- The coil's channel measures the on-die reference resistor: its next four results repeat the last value (R436). -/
def measureRef (s : State) : State :=
  match s.ochre.coilDue with
  | some q => { s with aux.chans := vmod s.aux.chans q.auxCh (fun c => { c with refLeft := 4, refHold := (c.last.map (·.r)).getD 0 }) }
  | none => s

/-- `REF_COIL_CFG` applied: a new coil waits for the next accumulation start (R180); its channel is claimed (R435). -/
def applyRefCoil (p : List Byte) (s : State) : State :=
  if fld p 0 1 = 0xFF then s
  else if fld p 0 1 = 0 then { s with ochre.coilNext := some none }
  else
    let c : Coil := { port := fld p 0 1, auxCh := fld p 1 1, rtd := fld p 2 1, first := fld p 4 4, len := fld p 8 2,
                      rZero := fld p 12 4 }
    { (claimChannel c.auxCh c.rtd s) with ochre.coilNext := some (some c) }

/-- The zone map of a decoded image (R128-R131). -/
def unchain (w : Nat) : Nat → List Byte → List Byte → List (List Byte)
  | 0, _, _ => []
  | n + 1, prev, img =>
    let e := (img.take w).zipWith (· ^^^ ·) (prev ++ zeros w)
    e :: unchain w n e (img.drop w)

/-- Entries with their first samples (R132). -/
def dasOf : Nat → List (List Byte) → List DasEntry
  | _, [] => []
  | at_, e :: es =>
    let w0 := fld e 0 4
    let w1 := fld e 4 4
    let first := at_ + w0 % 2 ^ 18
    let len := w0 / 2 ^ 18 % 512 + 1
    { first := first, len := len, gauge := w1 % 512 + 1, xi := w1 / 65536 } :: dasOf (first + len) es

def dtsOf : Nat → List (List Byte) → List DtsEntry
  | _, [] => []
  | at_, e :: es =>
    let w0 := fld e 0 4
    let first := at_ + w0 % 2 ^ 18
    let len := w0 / 2 ^ 18 % 512 + 1
    { first := first, len := len, ct := fld e 4 2, cStrain := fld e 6 2, nuRef := fld e 8 4, tRef := fld e 12 2 }
      :: dtsOf (first + len) es

/-- The raw entries of an image's four groups: DAS on S1, S2, DTS on S1, S2. -/
def imageGroups (img : List Byte) : List (List Byte) × List (List Byte) × List (List Byte) × List (List Byte) :=
  let a := fld img 4 4
  let b := fld img 8 4
  let c := fld img 12 4
  let d := fld img 16 4
  let body := img.drop 64
  (unchain 8 a [] body, unchain 8 b [] (body.drop (8 * a)), unchain 16 c [] (body.drop (8 * (a + b))),
   unchain 16 d [] (body.drop (8 * (a + b) + 16 * c)))

def mapOfImage (img : List Byte) : ZoneMap :=
  let g := imageGroups img
  { das1 := dasOf 0 g.1, das2 := dasOf 0 g.2.1, dts1 := dtsOf 0 g.2.2.1, dts2 := dtsOf 0 g.2.2.2, crc := crc32c img }

/-- Every slot restarts together (R114). -/
def restartAllSlots (s : State) : State := { s with indigo.restart := 0xFF, indigo.restartAll := true }

/-- Zones of a new map; those of the port not selected are without measurement in this second (R33). -/
def freshZones (m : ZoneMap) (port : Nat) : List DasZone :=
  List.replicate m.das1.length { spoilt := port ≠ 1 } ++ List.replicate m.das2.length { spoilt := port ≠ 2 }

/-- A zone map applied (R134). The change's payload is the decoded image. A finished accumulation whose update is still due was fitted
for the zones of the old map: its update is dropped, which the spec does not settle (DESIGN CHOICE, log 201). -/
def applyMap (img : List Byte) (s : State) : State :=
  let m := mapOfImage img
  restartAcc (restartAllSlots
    { s with indigo.map := m, indigo.zones := freshZones m s.light.port, ochre.zones := List.replicate m.nDts {},
             ochre.specs := [], ochre.desc := [], ochre.base := [], ochre.ready := none })

/-- `INDIGO_CFG` fields applied (R138, R139). -/
def applyIndigoCfg (p : List Byte) (s : State) : State :=
  let o := s.indigo
  let en := fld p 2 1
  let mk := fld p 3 1
  let b (k : Nat) (old : Bool) : Bool := if tst mk k then tst en k else old
  let att := if fld p 6 1 = 0 then o.atten else (fld p 6 1 - 1) * 6
  let n := { o with
    subbands := keepN 0 (fld p 0 1) o.subbands
    pol := keepN 0 (fld p 1 1) o.pol
    pns := b 0 o.pns
    unwrap := b 1 o.unwrap
    bridge := b 2 o.bridge
    spareCheck := b 3 o.spareCheck
    fade := keepN 0 (fld p 4 1) o.fade
    align := keepN 0 (fld p 5 1) o.align
    atten := att
    zones := if att = o.atten then o.zones
      else o.zones.map (fun z => { z with meanAmp := z.meanAmp * pow10 (-(((att : Int) - o.atten : Int) : Rat) / 10) }) }
  let re := n.subbands ≠ o.subbands ∨ n.pol ≠ o.pol ∨ n.pns ≠ o.pns ∨ n.unwrap ≠ o.unwrap
  if re then restartAllSlots { s with indigo := n } else { s with indigo := n }

/-- T_L of a plan whose lock is released (R411): `DIVIDER` × P̄ on the grid of R18. An acquisition sets nothing of the plan until
its first launch (R408). -/
def freeTl (s : State) : Nat :=
  let g := s.light.plan.nSlots * 10000
  if s.lock.owns then cdiv (s.lock.divider * s.lock.pBar) g * g else s.light.plan.tl

/-- The lock released with a period (R411). -/
def freeLock (tl : Nat) (s : State) : State :=
  { s with lock.phase := 0, lock.owns := false, lock.place := none, light.plan.tl := tl }

/-- `LAUNCH_SYNC` release applied: with the period that its command found, which the payload carries behind the request (DESIGN
CHOICE: P̄ is that of the command, log 219). -/
def applySync (p : List Byte) (s : State) : State :=
  if fld p 0 1 = 2 && 2 ≤ s.lock.phase then freeLock (if s.lock.owns then fld p 16 8 else s.light.plan.tl) s else s

/-- A change that alters the plan applied, by the opcode that brought it. Other opcodes leave the plan as it is. -/
def applyPlan (c : Change) (s : State) : State :=
  match c.opcode.toNat with
  | 0x10 => applyLaunchCfg c.payload s
  | 0x11 => applySlotCfg c.payload s
  | 0x12 => applyLightCfg c.payload s
  | 0x13 => applyPortSelect c.payload s
  | 0x16 => applyAprCfg c.payload s
  | 0x20 => applyIndigoCfg c.payload s
  | 0x21 => applyMap c.payload s
  | 0x28 => applyOchreCfg c.payload s
  | 0x2A => applyRefCoil c.payload s
  | 0x66 => applySync c.payload s
  | _ => s

/-- The state every accepted change has been applied to: what a check of R59 is made against. -/
def projected (s : State) : State := s.light.changes.foldl (fun st c => applyPlan c st) s

/-- T_S of the plan accepted (R59). -/
def planTs (s : State) : Ps :=
  let j := projected s
  acceptedTl j / j.light.plan.nSlots

/-- Does a change alter the timing of the plan in force (R57, R152)? -/
def altersTiming (m : Mode) (a b : State) : Bool :=
  a.light.port ≠ b.light.port ||
  (if m = .survey then a.ochre.cfg.period ≠ b.ochre.cfg.period || a.ochre.cfg.pulseLen ≠ b.ochre.cfg.pulseLen
   else a.light.plan.tl ≠ b.light.plan.tl || a.light.plan.nSlots ≠ b.light.plan.nSlots
     || a.light.plan.pulse ≠ b.light.plan.pulse || a.light.plan.probe ≠ b.light.plan.probe)

/-- A change applied with no launches running: light settings act on the drive at once (R68, R71, R72). -/
def applyNow (c : Change) (s : State) : State :=
  amonLatch (if c.opcode = 0x12 || c.opcode = 0x16 then refreshDrives (applyPlan c s) else applyPlan c s)

/-- Does no launch come until a marker edge (R408)? -/
def waitsForEdge (s : State) : Bool := (s.light.segs.head?.map (·.waits)).getD false

/-- The switch starts for the port accepted: launches wait for a marker edge, and their drain is over (R89, R408). -/
def moveNow (s : State) : State := { s with light.switching := some ((projected s).light.port, s.now + 50000000000) }

/-- An accepted change scheduled at the boundary of R56, or applied at once when no launches run. `before`, `after`: the
projected states without and with it. -/
def schedule (f : Fetched) (payload : List Byte) (timing waits : Bool) (newTl : Nat) (portMove : Bool) (s : State) :
    State × Bound :=
  let c : Change := { due := 0, opcode := f.opcode, target := f.target, payload := payload, src := f.src, seq := f.seq }
  let b := boundFor s s.now
  if b.now_ then (burstCheck (tellHeld (applyNow c s)), b)
  else
    let s1 := { s with light.changes := s.light.changes ++ [{ c with due := b.due }] }
    let s1 := if portMove && waitsForEdge s && !s.light.draining then moveNow s1 else s1
    if timing && b.named then
      let s2 := { s1 with light.segs := addSeg s1.light.segs b.due newTl portMove waits }
      (s2, boundFor s2 s.now)
    else (s1, b)

/-- `APPLY_LAUNCH` and `APPLY_STAMP` (R95). -/
def applyFields (b : Bound) : List Byte :=
  if b.named then le8 b.count ++ le4 b.stamp else le8 (2 ^ 64 - 1) ++ le4 (2 ^ 32 - 1)

/-- The answer's due instant. -/
def Bound.dueOf (b : Bound) : Option Ps := if b.now_ then none else some b.due

end Sys2Proof.Machine
end

