-- ==== Sys2Proof/Machine/Light.lean ====
section
/-! DEFINITION. Machine/Light.lean: the five launch commands and the launch-state reply (R46-R73, R85-R96). -/

namespace Sys2Proof.Machine

open Sys2Proof

/-! ### Launch state (R61-R70, R95) -/

/-- Is the port switch moving, or its drain under way (R89 steps 1-3)? -/
def switchMoving (s : State) : Bool :=
  s.light.switching.isSome || (s.light.draining && (s.light.segs.head?.map (·.portMove)).getD false)

/-- Alias detection and end tracking are suspended for a line launched at an instant (R44). Until the reference of a restore
has been taken, automatic power reduction still holds the reduced level (R88). -/
def suspendedAt (s : State) (t : Ps) : Bool :=
  s.light.aprTrip || s.light.aprArmed || s.light.ramping || s.ochre.ramping || switchMoving s
    || s.indigo.staleFrom.any (· ≤ t)

def suspended (s : State) : Bool := suspendedAt s s.now

/-- `POWER_AVG` (R95): the peak plus 10·log10 of the share of time lit, 0.1 dB, to the nearest (log 12). R95 has one peak and one
T_p: DESIGN CHOICE for FULL, where slot 7 carries Ochre's probe: the DAS level for all 8 slots and the larger of the two probe
lengths (log 167). Its plan is the accepted one (R59). -/
def powerAvg (s : State) : Int :=
  let l := s.light
  let j := projected s
  let n := ((List.range 8).filter (fun k => launches j k)).length
  let m := s.runMode
  match l.powerNow with
  | some p =>
    match s.fibre.gambit.filter (fun _ => surveying s) with
    | some g => p + roundAway (10 * db10 ((surveyTp (g.made ≤ surveyPulses s g) : Nat) / (surveyPeriod : Rat)))
    | none => if l.running && !s.indigo.staleFrom.any (· ≤ s.now) then
      (if m = .full then l.level else p)
          + roundAway (10 * db10 ((n * probeOf j m : Nat) / ((if m = .survey then periodOf j m else acceptedTl j : Nat) : Rat)))
    else -32768
  | none => -32768

/-- The launch-state payload (R95). -/
def launchState (b : Option Bound) (s : State) : List Byte :=
  let l := s.light
  (match b with | some x => applyFields x | none => le8 (2 ^ 64 - 1) ++ le4 (2 ^ 32 - 1))
    ++ leInt 2 (l.powerNow.getD (-32768)) ++ leInt 2 (powerTarget s) ++ leInt 2 l.held ++ leInt 2 (powerAvg s)
    ++ le4 (reachHeld s) ++ le1 (if l.aprTrip then 1 else if suspended s then 2 else 0)
    ++ le1 (flags [(vget l.ldc 3).enabled, (vget l.ldc 4).enabled, (vget l.ldc 5).enabled])
    ++ le1 (if loopClosed s then 2 else 1) ++ le1 (bit l.locked) ++ le1 (l.derate * 100).floor.toNat
    ++ le1 (flags [powerLimited s, l.ramping || s.ochre.ramping, anyBinMissing s, 1 < l.segs.length || l.draining]) ++ zeros 2

def State.calibrating (s : State) : Bool := s.power.mode = .calibrate

/-- A launch command's answer (R56, R59, R95, R96): a request of keep values reads; otherwise the checks, made against
the projected state `b` before and `a` after, then the change at its boundary. -/
def launchCmd (f : Fetched) (keeps : Bool) (early : List (Bool × Nat)) (ranges : Bool) (rules : State → State → Bool)
    (degraded : Bool) (s : State) : Ans :=
  if keeps then { status := St.ok, payload := launchState none s, st := s }
  else
    let c : Change := { due := 0, opcode := f.opcode, target := f.target, payload := f.payload, src := f.src, seq := f.seq }
    let b := projected s
    let a := applyPlan c b
    checked (early ++ [(s.calibrating, St.wrongMode), (!ranges, St.badParam), (!rules b a, St.badParam)]) s
      fun _ =>
        let r := schedule f f.payload (altersTiming s.planMode b a) false (periodOf a s.planMode)
          (a.light.port ≠ b.light.port) s
        { status := if degraded then St.degraded else St.ok, payload := launchState (some r.2) r.1,
          names := r.2.named, due := r.2.dueOf, st := r.1 }

/-- The plan rules for the state after a change, where it alters the plan's geometry (R17-R20, R24, R54, R155, R158). In SURVEY
the fibre that a port or group index brings is held to `SURVEY_PERIOD` (R152). -/
def planRules (s : State) (b a : State) : Bool :=
  let m := s.planMode
  let fibre := a.light.port = b.light.port
    ∧ (a.portOf a.light.port).groupIndex = (b.portOf b.light.port).groupIndex
  let same := a.light.plan.tl = b.light.plan.tl ∧ a.light.plan.nSlots = b.light.plan.nSlots
    ∧ a.light.plan.probe = b.light.plan.probe ∧ a.light.plan.pulse = b.light.plan.pulse
  decide (same ∧ fibre) || (okR54 a.light.plan
    && (if m = .survey ∧ same then okSurvey a && okGrid a m else okPlan a m)
    && ((m ≠ .full && m ≠ .survey) || okOchre a m))

/-! ### LAUNCH_CFG (R46, R90) -/

def launchCfgSpec : CmdSpec := { opcode := 0x10, target := .device, mirror := true, len := fixedLen 16 }

/-- Fields the leader of a pair sets for both devices (R504). -/
def leaderField (p : List Byte) : Bool :=
  fld p 0 4 ≠ 0 || fld p 4 1 ≠ 0 || fld p 5 1 ≠ 0xFF || fld p 6 2 ≠ 0 || fld p 8 2 ≠ 0 || fld p 10 2 ≠ 0 || fld p 14 2 ≠ 0

/-- A follower of the pair may not set what the leader sets (R504). -/
def follows (f : Fetched) (s : State) : Bool := s.inPair && !s.leads && f.src ≠ .partner

/-- What the leader changes is forwarded to the partner, one that is YIELDED too (R504, R514); a request with `MIRROR` is
forwarded as R372 has it. -/
def forwardPlan (f : Fetched) (touch : Bool) (a : Ans) : Ans :=
  let p := a.st.pair
  let forwards := (p.phase = .paired && !f.has flMirror) || (p.phase = .solo && p.partnerState = 4)
  if a.status = St.ok && touch && forwards && a.st.leads && f.src ≠ .partner then
    { a with st := send (.mirror f) a.st } else a

def cmdLaunchCfg (f : Fetched) (s : State) : Ans :=
  let p := f.payload
  let pw := sfld p 12 2
  let car := fld p 14 2
  let keeps := !leaderField p && pw = 0x7FFF
  let cur := (projected s).light.plan.carrier
  forwardPlan f (leaderField p) (launchCmd f keeps
    [(car ≠ 0 && car ≠ cur && !s.inMode [.warm, .standby], St.wrongMode), (follows f s && leaderField p, St.wrongMode)]
    ((fld p 0 4 = 0 || inR (fld p 0 4) 1000 200000) && fld p 4 1 ≤ 2 && (fld p 5 1 ≤ 25 || fld p 5 1 = 0xFF)
      && (fld p 6 2 = 0 || inR (fld p 6 2) 20 160) && (fld p 8 2 = 0 || inR (fld p 8 2) 2 2000)
      && (fld p 10 2 = 0 || inR (fld p 10 2) 5 200) && (pw = 0x7FFF || inI pw (-100) (projected s).light.cfg.aprCeil)
      && (car = 0 || inR car 1600 5900) && ((projected s).lock.phase = 0 || fld p 0 4 = 0))
    (planRules s) false s)

def execLaunchCfg (r : Req) (s : State) : Res := .next (perform launchCfgSpec cmdLaunchCfg r s)

/-! ### SLOT_CFG (R48, R51, R52, R91) -/

def slotCfgSpec : CmdSpec := { opcode := 0x11, target := .device, mirror := true, len := fixedLen 12 }

/-- The slots an applied field names (R91). -/
def namedSlots (p : List Byte) : List Nat :=
  (List.range 8).filter (fun k => (tst (fld p 2 1) 0 && tst (fld p 1 1) k) || (tst (fld p 2 1) 1 && sfld p (4 + k) 1 ≠ 0))

def cmdSlotCfg (f : Fetched) (s : State) : Ans :=
  let p := f.payload
  let n := fld p 0 1
  let fl := fld p 2 1
  let after := if n = 0 then (projected s).light.plan.nSlots else n
  forwardPlan f (tst fl 0) (launchCmd f (n = 0 && fl = 0 && fld p 3 1 = 0)
    [(s.slotsMax < n || (namedSlots p).any (fun k => s.slotsMax ≤ k), St.notFitted),
     (s.planMode = .full && n ≠ 0 && n ≠ 8, St.wrongMode), (follows f s && tst fl 0, St.wrongMode)]
    ([0, 1, 2, 4, 8].contains n && fl ≤ 3 && fld p 3 1 = 0
      && (!tst fl 1 || (List.range 8).all (fun k => inI (sfld p (4 + k) 1) (-20) 20))
      && (namedSlots p).all (fun k => k < after) && (!s.inPair || n = 0 || n = 8))
    (planRules s) false s)

def execSlotCfg (r : Req) (s : State) : Res := .next (perform slotCfgSpec cmdSlotCfg r s)

/-! ### LIGHT_CFG (R65-R68, R72, R92) -/

def lightCfgSpec : CmdSpec := { opcode := 0x12, target := .device, mirror := true, len := fixedLen 16 }

def cmdLightCfg (f : Fetched) (s : State) : Ans :=
  let p := f.payload
  let en := fld p 1 1
  let keeps := fld p 0 1 = 0 && en = 0xFF && fld p 2 1 = 0 && fld p 3 1 = 0
    && (List.range 3).all (fun i => fld p (4 + 4 * i) 2 = 0 && fld p (6 + 4 * i) 2 = 0xFFFF)
  let retired := en ≠ 0xFF && (List.range 3).any (fun i => tst en i && (vget s.light.ldc (3 + i)).retired)
  launchCmd f keeps []
    (fld p 0 1 ≤ 2 && (en = 0xFF || inR en 1 7) && fld p 2 1 ≤ 30 && (fld p 3 1 = 0 || inR (fld p 3 1) 70 110)
      && (List.range 3).all (fun i => fld p (4 + 4 * i) 2 ≤ 2000 && (fld p (6 + 4 * i) 2 ≤ 2000 || fld p (6 + 4 * i) 2 = 0xFFFF))
      && !(s.inPair && fld p 0 1 = 1))
    (fun _ _ => true) retired s

def execLightCfg (r : Req) (s : State) : Res := .next (perform lightCfgSpec cmdLightCfg r s)

/-! ### PORT_SELECT (R89, R93) -/

def portSelectSpec : CmdSpec := { opcode := 0x13, target := .device, mirror := true, len := fixedLen 8 }

/-- With no launches the switch starts at once and settles after 50 ms (R89). -/
def startSwitch (before : Nat) (a : Ans) : Ans :=
  if a.status = St.ok && !a.st.light.running && a.st.light.port ≠ before then
    { a with st := { a.st with light.switching := some (a.st.light.port, a.st.now + 50000000000) } } else a

def cmdPortSelect (f : Fetched) (s : State) : Ans :=
  let p := f.payload
  let port := fld p 0 1
  let fl := fld p 1 1
  let cur := (projected s).light.port
  startSwitch s.light.port (launchCmd f (port = 0 && fl = 0 && fld p 6 2 = 0)
    [(s.planMode.measures && (port = 1 || port = 2) && port ≠ cur && (s.portOf port).survey.isNone, St.wrongMode)]
    (port ≤ 2 && fl ≤ 3 && (!tst fl 0 || inR (fld p 2 2) 14000 15500) && (!tst fl 1 || inR (fld p 4 2) 14000 15500)
      && fld p 6 2 = 0)
    (planRules s) false s)

def execPortSelect (r : Req) (s : State) : Res := .next (perform portSelectSpec cmdPortSelect r s)

/-! ### APR_CFG (R88, R94) -/

def aprCfgSpec : CmdSpec := { opcode := 0x16, target := .device, mirror := true, len := fixedLen 12 }

def cmdAprCfg (f : Fetched) (s : State) : Ans :=
  let p := f.payload
  let restore := fld p 0 1 = 1
  let lv := sfld p 2 2
  let ce := sfld p 4 2
  let re := sfld p 6 2
  let ld := fld p 8 1
  let keeps := fld p 0 1 = 0 && lv = 0x7FFF && ce = 0x7FFF && re = 0x7FFF && ld = 0 && fld p 1 1 = 0 && fld p 9 3 = 0
  -- a restore when no trip is in force changes nothing (R88)
  let idle := restore && !s.light.aprTrip && !s.fault.latch && !s.calibrating
  launchCmd f (keeps || idle) [(restore && s.fault.latch, St.wrongMode)]
    (restore || (fld p 0 1 = 0 && fld p 1 1 = 0 && fld p 9 3 = 0 && (lv = 0x7FFF || inI lv (-100) 200)
      && (ce = 0x7FFF || inI ce (-100) 270) && (re = 0x7FFF || inI re (-450) (-140)) && (ld = 0 || inR ld 10 100)))
    (fun _ a => restore || a.light.cfg.aprLevel ≤ a.light.cfg.aprCeil) false s

def execAprCfg (r : Req) (s : State) : Res := .next (perform aprCfgSpec cmdAprCfg r s)

end Sys2Proof.Machine
end

