-- ==== Sys2Proof/Machine/Survey.lean ====
section
/-! DEFINITION. Machine/Survey.lean: Gambit (R34-R40, R45). -/

namespace Sys2Proof.Machine

open Sys2Proof

/-- A `FIBRE_CHANGE` item (R45). -/
def fibreChange (cause port status slots tag : Nat) (endCm first : Nat) (s : State) : State :=
  -- those that answer a GAMBIT_RUN carry the epoch of its answer (R368, R374)
  let answers := cause ≤ 1 && (s.fibre.gambit.map (fun g => !g.entry)).getD false
  evtItemE 0x09 (if answers then s.answerEpoch else s.cmd.epoch)
    (le1 cause ++ le1 port ++ le1 status ++ le1 slots ++ le2 tag ++ zeros 2 ++ le4 endCm ++ le4 first) s

/-- `END` of a port, under its present group index. -/
def endNow (s : State) (port : Nat) : Nat :=
  let p := s.portOf port
  atIndex p.currentEnd p.endGi p.groupIndex

/-- An end-related `FIBRE_CHANGE`, with the first zone flagged `NO_FIBRE`. -/
def fibreEnd (cause port status tag : Nat) (s : State) : State :=
  fibreChange cause port status 0 tag (endNow s port) ((firstNoFibre s port).getD 0xFFFFFFFF) s

/-! ### GAMBIT_RUN -/

/-- The switch moves to another port, which takes 50 ms (R35, R89). -/
def moveSwitch (from_ to_ : Nat) (s : State) : State :=
  if from_ = to_ then s else { s with light.switching := some (to_, s.now + 50000000000) }

/-- A port's survey starts now (R34, R35): its first launch once the switch has settled. -/
def startPort (s : State) (g : Gambit) : Gambit :=
  { g with since := s.now, nextAt := (s.light.switching.map (·.2)).getD s.now, made := 0, idx := s.freeIdx }

/-- A survey run begins: the light source is driven for it, but not yet from STANDBY, where the leakage test comes before any
channel is enabled (R75). -/
def beginSurvey (g : Gambit) (s : State) : State :=
  let s := { s.took with fibre.gambit := some (startPort s g) }
  if s.power.mode = .standby then s else refreshDrives s

def gambitRunSpec : CmdSpec := { opcode := 0x14, target := .device, mirror := false, len := fixedLen 4 }

def cmdGambitRun (f : Fetched) (s : State) : Ans :=
  let ports := fld f.payload 0 1
  let range := fld f.payload 2 2
  checked [(s.power.mode ≠ .warm || s.power.trans.isSome || !s.light.locked, St.wrongMode),
      (s.longBusy 0x14 || s.fibre.gambit.isSome, St.busy),
      (ports = 0 || 3 < ports || fld f.payload 1 1 ≠ 0 || !(range = 0 || inR range 10 1250), St.badParam)] s
    fun _ =>
      let ps := (if tst ports 0 then [1] else []) ++ (if tst ports 1 then [2] else [])
      let to_ := (ps.head?).getD s.light.port
      { status := St.accepted,
        st := beginSurvey { ports := ps, range := if range = 0 then 1250 else range, tag := f.tag, back := s.light.port,
                            entry := false, on := to_ } (moveSwitch s.light.port to_ s) }

def execGambitRun (r : Req) (s : State) : Res := .next (perform gambitRunSpec cmdGambitRun r s)

/-! ### Results -/

/-- The smallest T_L that meets R17 and R18 for an end, in 10 ns units (R37). -/
def proposedTl (s : State) (prod : Nat) : Nat :=
  let g := s.light.plan.nSlots
  max 1000 (cdiv (rtPs prod + s.light.plan.probe + Config.guardTime) (g * 10000) * g)

/-- N_DAS of R24 for a candidate count (R37): in a configured pair that of the pair, whatever the count (R505). -/
def candidateDas (s : State) (n : Nat) : Nat := if s.inPair then nDas s s.power.mode s.light.plan else n

/-- The largest slot count that keeps the loaded map within R24 under the proposed T_L (R37). R24 counts the zones of the
selected port; which R37 means when another port is surveyed is open: DESIGN CHOICE, the surveyed port's (log 168). -/
def proposedSlots (s : State) (port tl : Nat) : Nat :=
  if s.indigo.map.nDas = 0 then s.slotsMax
  else (([8, 4, 2, 1].filter (fun n => n ≤ s.slotsMax)).find?
    (fun n => okR24 (s.indigo.map.das port).length (candidateDas s n) (tl * 10000))).getD 0

/-! #### What the trace shows (R36) -/

/-- The end a survey finds, cm, with its flags. -/
structure EndFound where
  cm      : Nat
  isFloor : Bool
  noBack  : Bool
  isRange : Bool

/-- A list sorted so that a key falls, by insertion. -/
def insertBy {α : Type} (key : α → Int) (x : α) : List α → List α
  | [] => [x]
  | y :: ys => if key y < key x then x :: y :: ys else y :: insertBy key x ys
def sortBy {α : Type} (key : α → Int) (l : List α) : List α := l.foldr (insertBy key) []

/-- The reflections of a trace out to a sample: at least 6 dB above the local level, strongest first. -/
def reflectionsOf (far : Nat) (ps : List TracePeak) : List TracePeak :=
  sortBy (·.refl) (ps.filter (fun x => 60 ≤ x.height && x.sample ≤ far))

/-- The last sample up to a limit that is above a level and followed by at least `n` samples below it. -/
def lastAbove (prof : List Nat) (level : Rat) (n : Nat) (limit : Nat) : Option Nat :=
  let above (i : Nat) : Bool := decide (level < (at0 prof i : Rat))
  ((List.range (limit + 1)).reverse).find? (fun i => above i && (List.range n).all (fun j => !above (i + 1 + j)))

/-- The end of the fibre (R36); `range` in cm. A reflection, or a step of 6 dB between 50 m before and after it, is an end
signature (log 11). -/
def findEnd (prof : List Nat) (floor : Nat) (peaks : List TracePeak) (gi range : Nat) : EndFound :=
  let level := above3dB floor
  let above (i : Nat) : Bool := decide (level < (at0 prof i : Rat))
  let far := cmSample gi range
  let m50 := cmSample gi 5000
  if !(List.range (cmSample gi 200000 + 1)).any above then { cm := 0, isFloor := false, noBack := true, isRange := false }
  else if above far then { cm := range, isFloor := false, noBack := false, isRange := true }
  else
    let e := (lastAbove prof level (cmSampleUp gi 20000) far).getD
      ((((List.range (far + 1)).reverse).find? above).getD 0)
    let refl := peaks.any (fun x => x.sample ≤ e + m50 && e ≤ x.sample + m50)
    let step := decide (ratioOfDb 6 * (at0 prof (e + m50) : Rat) ≤ (at0 prof (e - m50) : Rat))
    { cm := sampleCm gi e, isFloor := !refl && !step, noBack := false, isRange := false }

/-- The power of step 2 of R35: 1 dB steps from `APR_LEVEL` while near-end backscatter holds, up to `CEILING`. -/
def stepPower (c : LightCfg) (nearAbove : List Bool) : Int :=
  min c.aprCeil (c.aprLevel + 10 * (nearAbove.takeWhile id).length)

/-- The power at which the linearity test passes: 0.1 dB steps down until the deviation is within 0.5 dB (R35 step 4, R37). -/
def linearPower (from_ : Int) (deviation : List Nat) : Int :=
  max (-100) (from_ - (deviation.takeWhile (50 < ·)).length)

/-! #### The reference of automatic power reduction (R85) -/

/-- Samples of a 250 m bin over 50 m to 2,000 m, which is no whole number of them: DESIGN CHOICE, the eighth bin is the 200 m
from 1,800 m on (log 217). -/
def aprBin (gi k : Nat) : Nat × Nat :=
  (cmSampleUp gi (5000 + 25000 * k), cmSample gi (min 200000 (5000 + 25000 * (k + 1))))

/-- Bins that lie short of the surveyed end; one whose far edge is the end itself does not (DESIGN CHOICE, log 217). -/
def aprBins (endCm : Nat) : Nat :=
  ((List.range 8).filter (fun k => min 200000 (5000 + 25000 * (k + 1)) < endCm)).length

/-- The mean level of each bin, relative to the power launched (0.1 dBm): lines launched at other powers compare with it
(log 169). -/
def binLevels (gi endCm : Nat) (level : Int) (p : List Rat) : List Rat :=
  (List.range (aprBins endCm)).map (fun k =>
    let b := aprBin gi k
    meanOver p b.1 b.2 / ratioOfDb ((level : Rat) / 10))

/-- A survey stored on a port (R36, R37, R42, R85): up to 64 reflections, the strongest; every reflection counts for the end's
signature. -/
def storeSurvey (port range : Nat) (d : SurveyIn) (s : State) : State :=
  let p := s.portOf port
  let prof := Config.smooth d.trace
  let peaks := reflectionsOf (cmSample p.groupIndex (range * 10000)) d.peaks
  let e := findEnd prof d.floor peaks p.groupIndex (range * 10000)
  let tl := proposedTl s (p.groupIndex * e.cm)
  let pw := linearPower (stepPower s.light.cfg d.nearAbove) d.deviation
  let ref := binLevels p.groupIndex e.cm pw (d.refTrace.map (fun (x : Nat) => (x : Rat)))
  let v : Survey :=
    { endCm := e.cm, gi := p.groupIndex, isFloor := e.isFloor, noBack := e.noBack, isRange := e.isRange, profile := prof,
      floor := d.floor,
      refls := (peaks.take 64).map (fun x =>
        { position := BitVec.ofNat 32 (sampleCm p.groupIndex x.sample), refl := BitVec.ofInt 16 x.refl,
          width := BitVec.ofNat 16 x.width }),
      propTl := tl, propSlots := proposedSlots s port tl, propPower := min pw s.light.cfg.aprCeil,
      time := BitVec.ofNat 32 (s.devSec s.now), refLevels := ref }
  setPort port { p with survey := some v, currentEnd := e.cm, endGi := p.groupIndex,
                        aprRef := ref } s

/-- The status of a completed survey (R36). -/
def surveyStatus (p : Port) : Nat :=
  if (p.survey.map (fun v => v.noBack || v.isRange)).getD false then St.degraded else St.ok

/-- The survey of R38 on the selected port, run by a mode entry. -/
def entrySurvey (tag : U16) (s : State) : State :=
  beginSurvey { ports := [s.light.port], range := 1250, tag := tag, back := s.light.port, entry := true, on := s.light.port } s

/-- Does a mode entry under way still need a survey (R38)? A YIELDED device defers it (R513). -/
def needsSurvey (s : State) (to_ : Mode) : Bool :=
  to_.measures && (s.portOf s.light.port).survey.isNone && s.pair.phase ≠ .yielded

/-- Gambit stops: no run, and the drive as the mode asks. -/
def leaveSurvey (s : State) : State := refreshDrives { s with fibre.gambit := none }

/-- A `GAMBIT_RUN` is over. A mode entry that waited for it runs its own survey if the port still has none (R38). -/
def runOver (s : State) : State :=
  let s := endLong 0x14 { s with cmd.cmdsDone := s.cmd.cmdsDone + 1 }
  match s.power.trans with
  | some t => if needsSurvey s t.to_ then entrySurvey t.tag { s with power.trans := some { t with survey := true } } else s
  | none => s

/-- The entry time of R535 after which a held lock gives the first launch (R412): 5 ms, the most the table allows (log 220). -/
def lockEntry (s : State) (to_ : Mode) : Ps :=
  if s.lock.phase ≠ 0 && (to_ = .acoustic || to_ = .full) then 5000000000 else 0

/-- The run's last item is queued: the run ends (R35, R368) or the mode entry goes on. -/
def surveyOver (g : Gambit) (port cause status : Nat) (s : State) : State :=
  let s := leaveSurvey (fibreEnd cause port status g.tag.toNat s)
  if g.entry then { s with power.trans := s.power.trans.map (fun t => { t with due := max t.due (s.now + lockEntry s t.to_) }) }
  else runOver s

/-- A port's part of a survey run is over (R35): its item is queued and the switch goes on to the next port; after the last
port the switch first goes back to the selected one (step 6). -/
def portSurveyed (g : Gambit) (port : Nat) (cause status : Nat) (s : State) : State :=
  match g.ports.drop 1 with
  | [] =>
    if g.back = port then surveyOver g port cause status s
    else refreshDrives
      (moveSwitch port g.back { s with fibre.gambit := some { g with item := some (cause, status), on := g.back } })
  | q :: rest =>
    beginSurvey { g with ports := q :: rest, on := q } (moveSwitch port q (fibreEnd cause port status g.tag.toNat s))

/-- The switch of a survey run is back on the selected port: the last item (R35 step 6). -/
def surveyBack (s : State) : State :=
  match s.fibre.gambit with
  | some g =>
    match g.item, g.ports with
    | some (cause, status), port :: _ => surveyOver g port cause status s
    | _, _ => s
  | none => s

/-- Does entry fail because the surveyed end needs a longer T_L (R38)? -/
def entryRefused (s : State) : Bool :=
  match s.power.trans with
  | some t =>
    !okR17 (s.portOf s.light.port) (if t.to_ = .survey then s.ochre.cfg.period * 10000 else reachTl s)
      (probeOf s t.to_)
  | none => false

/-- The transition stops with a status. -/
def failEntry (status : Nat) (s : State) : State :=
  { s with power.trans := s.power.trans.map (fun t => { t with fail := some status }) }

/-- The instant by which a survey must have completed: 30 s after it started (R34). -/
def Gambit.limit (g : Gambit) : Ps := g.since + 30000000000000

/-- `SURVEY_DONE`: the survey of the first port left completes; not while the switch to it still moves (R35 step 1), and not
later than 30 s after it started (R34). -/
def execSurveyDone (t : Ps) (d : SurveyIn) (s : State) : Res :=
  let s := s.adv t
  .next (match s.fibre.gambit with
    | some g =>
      match g.item, g.ports with
      | none, port :: _ =>
        if s.light.switching.isSome || g.limit < s.now then s else
        let s := storeSurvey port g.range d s
        let s := portSurveyed g port 0x00 (surveyStatus (s.portOf port)) s
        if g.entry && entryRefused s then failEntry St.badParam s else s
      | _, _ => s
    | none => s)

/-- `SURVEY_TIMEOUT`: a survey not complete 30 s after it started (R34); the earlier survey stays in force. -/
def execSurveyTimeout (t : Ps) (s : State) : Res :=
  let s := s.adv t
  .next (match s.fibre.gambit with
    | some g =>
      match g.item, g.ports with
      | none, port :: _ =>
        if s.now < g.limit then s else
        let s := portSurveyed g port 0x01 St.timeout s
        if g.entry then failEntry St.timeout s else s
      | _, _ => s
    | none => s)

/-! ### GAMBIT_READ (R40) -/

def gambitReadSpec : CmdSpec := { opcode := 0x15, target := .device, mirror := false, len := fixedLen 4 }

/-- A position of the survey under the present group index. -/
def surveyPos (v : Survey) (p : Port) (cm : Nat) : Nat := atIndex cm v.gi p.groupIndex

/-- `LOSS[k]`: the loss to the end of bin k, (k + 1) × 500 m under the group index in force, 0.01 dB; 0xFFFF beyond the end. -/
def lossBin (v : Survey) (p : Port) (k : Nat) : Nat :=
  let cm := 50000 * (k + 1)
  if surveyPos v p v.endCm < cm then 0xFFFF
  else (max 0 (min 65534 (roundAway (100 * v.lossTo (cmSample p.groupIndex cm))))).toNat

def gambitReply (port : Nat) (s : State) : List Byte :=
  let p := s.portOf port
  let cur := le4 (endNow s port)
  let sticky := le1 p.aliasSticky.toNat ++ le1 p.aliasLive.toNat
  match p.survey with
  | none => le4 0 ++ cur ++ le1 0 ++ le1 0 ++ sticky ++ zeros 528
  | some v =>
    le4 (surveyPos v p v.endCm) ++ cur ++ le1 (flags [true, v.isFloor, v.noBack, v.isRange]) ++ le1 v.refls.length
      ++ sticky ++ le4 v.propTl ++ le1 v.propSlots ++ zeros 1 ++ leInt 2 v.propPower ++ le2 p.groupIndex ++ zeros 2
      ++ le4 v.time.toNat
      ++ (List.range 256).flatMap (fun k => le2 (lossBin v p k))
      ++ v.refls.flatMap (fun x => le4 (surveyPos v p x.position.toNat) ++ le2 x.refl.toNat ++ le2 x.width.toNat)

def cmdGambitRead (f : Fetched) (s : State) : Ans :=
  let port := fld f.payload 0 1
  let fl := fld f.payload 1 1
  checked [(!(port = 1 || port = 2) || 1 < fl || fld f.payload 2 2 ≠ 0, St.badParam)] s fun _ =>
    { status := St.ok, payload := gambitReply port s,
      st := if fl = 1 then setPort port { s.portOf port with aliasSticky := 0 } s else s }

def execGambitRead (r : Req) (s : State) : Res := .next (perform gambitReadSpec cmdGambitRead r s)

end Sys2Proof.Machine
end

