-- ==== Sys2Proof/Machine/Indigo.lean ====
section
/-! DEFINITION. Machine/Indigo.lean: lane management and the making of a DAS line (R97-R127). -/

namespace Sys2Proof.Machine

open Sys2Proof

/-! ### A line -/

/-- What Indigo or Ochre hands to the consumers for one line: descriptor (R118, R167), values of the port's zones with
their flag bytes, and the figures consumers read. -/
structure Line where
  slot   : Nat
  port   : Nat
  base   : Nat
  desc   : List Byte
  values : List Int
  zflags : List Byte
  lflags : Nat
  nfFirst : Nat
  count  : Nat
  at_    : Ps
  /-- device time of its launch instant, ns (R388) -/
  dev    : Nat
  stale  : Bool
  valid  : Bool
deriving Repr

/-- A flag byte that is not 0 gives an exception entry (R120). -/
def excEntry (zone : Nat) (fb : Byte) : List Byte := le4 (zone % 2 ^ 17 + fb.toNat * 2 ^ 24)

/-- The zones with a non-zero flag byte, ascending (R120). -/
def exceptions (base : Nat) (fl : List Byte) : List (Nat × Byte) :=
  ((List.range fl.length).zip fl).filterMap (fun x => if x.2 = 0 then none else some (base + x.1, x.2))

/-- The DAS descriptor (R118). -/
def dasDesc (stamp count nf slot port lflags nExc : Nat) : List Byte :=
  le4 stamp ++ le4 count ++ leBytes 3 nf ++ le1 (slot % 8 + port * 16) ++ le2 lflags ++ le2 nExc

/-! ### Phase arithmetic (R111), in turns -/

/-- An alignment angle in turns. -/
def thetaT (t : BitVec 22) : Rat := (t.toNat : Rat) / 4194304

/-- An angle in turns as `theta` holds it: the nearest of its 2^22 values. -/
def thetaSet (x : Rat) : BitVec 22 := BitVec.ofInt 22 (roundAway (x * 4194304))

/-- `theta` moved by an update: to the nearest value, but by one LSB where the update is smaller and not 0, since every update
moves it however small the update is (R111; log 10). -/
def thetaMove (t : BitVec 22) (d : Rat) : BitVec 22 :=
  let k := roundAway (d * 4194304)
  t + BitVec.ofInt 22 (if k ≠ 0 then k else if 0 < d then 1 else if d < 0 then -1 else 0)

/-- The angle rounded to 10 bits for the rotation (R111). -/
def theta10 (t : BitVec 22) : BitVec 10 := BitVec.ofNat 10 ((t.toNat + 2048) / 4096)

/-- The sum of the gauge phasors, each turned back by its alignment angle (R111). -/
def alignedSum (gs : List Cplx) (th : List (BitVec 22)) : Cplx :=
  Cplx.sum (((List.range gs.length).zip gs).map (fun x =>
    Cplx.mul x.2 (cis (-((theta10 (at0 th x.1)).toNat : Rat) / 1024))))

/-- What a zone does on one line. -/
structure ZoneOut where
  z    : DasZone
  out  : Int
  flag : Nat

/-- The restart line of R114 (or R116) for one zone; `fresh`: every slot restarts together. -/
def zoneRestart (k : Nat) (gs : List Cplx) (fresh : Bool) (z : DasZone) : DasZone :=
  let z := if fresh then { z with phi := 0, dprev := 0, n := 0 } else z
  let pred := z.phi + (z.n + 1) * z.dprev
  let th := gs.map (fun g => thetaSet (argTurns g - pred))
  { z with theta := vset z.theta k th, phi := pred, n := 0, taint := false,
           meanAmp := if fresh then (alignedSum gs th).abs else z.meanAmp }

/-- R111 for one zone-line. -/
def zoneLine (i : IndigoState) (k : Nat) (gs : List Cplx) (afterDark : Bool) (z : DasZone) : ZoneOut :=
  let n := z.n + 1
  let pred := z.phi + n * z.dprev
  let th := vget z.theta k
  let sum := alignedSum gs th
  let amp := sum.abs
  let faded := decide (amp < (i.fade : Rat) / 256 * z.meanAmp)
  if faded && i.bridge then
    { z := { z with n := n, taint := false, fades := min 65535 (z.fades + 1) }, out := 0, flag := 2 }
  else
    let meas := argTurns sum
    let est := if i.unwrap then pred + wrapT (meas - pred) else z.phi + wrapT (meas - z.phi)
    let dphi := est - z.phi
    let o := roundAway (dphi * 65536)
    let sat := 32767 < o.natAbs
    let o := if sat then o.sign * 32767 else o
    let fd := faded || z.taint
    let fl := flags [sat, fd, 1 < n && !afterDark]
    let th' := ((List.range gs.length).zip gs).map (fun x =>
      let t := at0 th x.1
      thetaMove t (wrapT (argTurns x.2 - thetaT t - pred) / (2 ^ i.align : Nat)))
    { z := { z with phi := est, dprev := dphi / n, n := 0, meanAmp := z.meanAmp + (amp - z.meanAmp) / 256,
                    theta := vset z.theta k th', taint := faded, fades := min 65535 (z.fades + bit fd),
                    sats := min 65535 (z.sats + bit sat) },
      out := o, flag := fl }

/-- The conditions of one line that the zones share. -/
structure LineCond where
  slot     : Nat
  restart  : Bool
  fresh    : Bool
  dark     : Bool
  afterDark : Bool
  processed : Byte

/-- One zone of one line (R111-R117). `nf`: flagged NO_FIBRE (R43). -/
def zoneStep (i : IndigoState) (c : LineCond) (e : DasEntry) (nf : Bool) (gs : List Cplx) (z : DasZone) : ZoneOut :=
  let short := if e.first + e.len - 1 < e.gauge then 8 else 0
  let slotBit := BitVec.ofNat 8 (2 ^ c.slot)
  if nf then
    { z := { z with frozen := true, missed := if c.restart then z.missed ||| slotBit else z.missed }, out := 0, flag := 0 }
  else if c.dark then
    -- treated as faded and bridged in every zone (R117); its flag bytes stay without `FADED`, and `FADES` counts flagged lines (log 48)
    { z := { z with n := z.n + 1, taint := false }, out := 0, flag := short }
  else if c.restart then
    { z := zoneRestart c.slot gs c.fresh { z with frozen := false, missed := z.missed &&& ~~~slotBit }, out := 0,
      flag := short }
  else if (z.missed &&& slotBit) ≠ 0 then
    let all := z.frozen && (c.processed &&& ~~~z.missed) = 0
    { z := zoneRestart c.slot gs all { z with frozen := false, missed := z.missed &&& ~~~slotBit }, out := 0,
      flag := 16 + short }
  else
    let r := zoneLine i c.slot gs c.afterDark { z with frozen := false }
    { r with flag := r.flag + short }

/-- The DAS slots of the plan that this device owns: those a lane carries (R99, R101). -/
def dasSlots (s : State) : List Nat :=
  (List.range 8).filter (fun k =>
    k < s.light.plan.nSlots && (!s.inPair || s.pair.owned.getLsbD k) && !(s.runMode = .full && k = 7))

/-- The slots this device processes (R99), as a mask: in ACOUSTIC and FULL, and in a calibration run from them. -/
def processedSlots (s : State) : Byte :=
  if s.runMode = .acoustic || s.runMode = .full then BitVec.ofNat 8 ((dasSlots s).map (2 ^ ·)).sum else 0

/-! ### Dark slots (R122-R124) -/

/-- Does the detector run for a port (R123)? -/
def darkRuns (port : Nat) (s : State) : Bool :=
  let p := s.portOf port
  10000 ≤ endNow s port && p.survey.isSome && s.light.switching.isNone

/-- Is a line dark (R122)? The mean power over 50 m to 2,000 m, or to 50 m short of a closer end, lies below the floor of the
port's last survey plus 3 dB. -/
def lineDark (p : Port) (power : List Rat) : Bool :=
  let e := atIndex p.currentEnd p.endGi p.groupIndex
  let b := if e < 200000 then e - 5000 else 200000
  decide (meanOver power (cmSampleUp p.groupIndex 5000) (cmSample p.groupIndex b)
    < above3dB ((p.survey.map (fun v => (v.floor : Rat))).getD 0))

/-- The detector's counts after a line of slot `k`, and whether the line is of a dark slot. R122 does not say whether the second
lit line, which makes the slot lit, still carries `DARK_SLOT`: DESIGN CHOICE, it does; its next line is the restart
(log 170). -/
def darkStep (k : Nat) (dark : Bool) (i : IndigoState) : IndigoState × Bool :=
  let was := i.dark.getLsbD k
  let dc := if dark then vget i.darkCnt k + 1 else 0
  let lc := if dark then 0 else vget i.litCnt k + 1
  let nowDark := if was then !(2 ≤ lc) else 2 ≤ dc
  let b := BitVec.ofNat 8 (2 ^ k)
  ({ i with darkCnt := vset i.darkCnt k dc, litCnt := vset i.litCnt k lc,
            dark := if nowDark then i.dark ||| b else i.dark &&& ~~~b,
            darkTold := if nowDark then i.darkTold else i.darkTold &&& ~~~b,
            restart := if was && !nowDark then i.restart ||| b else i.restart },
   was || nowDark)

/-! ### Lanes (R101-R104, R124) -/

/-- The lanes that carry the slots of the plan. -/
def carryingLanes (s : State) : List Nat := (dasSlots s).map (fun k => vget s.indigo.laneOf k)

/-- The lane that carries a slot; 255 for a slot that no lane carries (R140). -/
def carriedBy (s : State) (k : Nat) : Nat := if (dasSlots s).contains k then vget s.indigo.laneOf k else 255

/-- The highest-numbered healthy lane that carries no slot, a lane under test apart (R101). -/
def freeLane (s : State) : Option Nat :=
  [8, 7, 6, 5, 4, 3, 2, 1, 0].find? (fun l => !s.indigo.laneRetired.getLsbD l && !(carryingLanes s).contains l
    && !((s.indigo.suspect.map (fun q => decide (q.old = l))).getD false)
    && !((s.indigo.darkTest.map (fun q => decide (q.old = l))).getD false))

/-- The spare of R101: a spare that is gone, retired or has taken a slot is replaced. -/
def settleSpare (s : State) : State :=
  let ok := match s.indigo.spare with
    | some l => !s.indigo.laneRetired.getLsbD l && !(carryingLanes s).contains l
    | none => false
  if ok then s else { s with indigo.spare := freeLane s }

/-- A lane retired (R102, R104, R124). -/
def retireLane (l : Nat) (s : State) : State :=
  settleSpare { s with indigo.laneRetired := s.indigo.laneRetired ||| BitVec.ofNat 9 (2 ^ l) }

/-- Slot `k` moved to lane `l`. A slot outside the plan that had lane `l` gets the lane that becomes free, so no two slots ever have
one lane. -/
def giveLane (k l : Nat) (i : IndigoState) : IndigoState :=
  let old := vget i.laneOf k
  { i with laneOf := Vector.ofFn (fun j =>
      if j.val = k then l else if l < 9 && vget i.laneOf j.val = l then old else vget i.laneOf j.val) }

/-- A slot of the plan whose lane was retired while it carried no slot takes a free lane; where none is healthy and free, it gets none
and no item is queued for it: `IND_LANE_NO_SPARE` tells of a lane that fails (DESIGN CHOICE, log 221). -/
def relane (s : State) (k : Nat) : State :=
  let l := vget s.indigo.laneOf k
  if l < 9 && s.indigo.laneRetired.getLsbD l then { s with indigo := giveLane k ((freeLane s).getD 255) s.indigo }
  else s

/-- The slots in the order in which the spare shadows them (R102): ascending lanes. -/
def shadowOrder (s : State) : List Nat :=
  (List.range 9).filterMap (fun l => (dasSlots s).find? (fun q => vget s.indigo.laneOf q = l))

/-- Lanes at a boundary, after changes of the plan (R101, R102). -/
def settleLanes (s : State) : State :=
  let s := settleSpare ((dasSlots s).foldl relane s)
  if (shadowOrder s).contains s.indigo.shadow then s
  else { s with indigo.shadow := ((shadowOrder s).head?).getD 0, indigo.shadowLines := 0 }

/-- The next slot to shadow (R102): slots whose lanes carry them, in ascending lane order. -/
def nextShadow (s : State) (k : Nat) : Nat :=
  let lanes := shadowOrder s
  match (lanes.dropWhile (· ≠ k)).drop 1 ++ lanes with
  | x :: _ => x
  | [] => 0

/-- The instant of the first boundary at least 25 us away, for a lane move. -/
def moveAt (s : State) : Ps := (boundFor s s.now).due

/-- A shadow comparison on a line of slot `k` (R102). -/
def shadowStep (k : Nat) (mismatch : Bool) (s : State) : State :=
  let i := s.indigo
  match i.spare with
  | some sp =>
    if i.spareCheck && i.suspect.isNone && i.darkTest.isNone && i.shadow = k then
      if mismatch then
        { s with indigo.suspect := some { slot := k, old := vget i.laneOf k, spare := sp, stage := .spareTest } }
      else if i.shadowLines + 1 < 4096 then { s with indigo.shadowLines := i.shadowLines + 1 }
      else { s with indigo.shadowLines := 0, indigo.shadow := nextShadow s k }
    else s
  | none => s

/-- The lane fault item: slot and the lane that carries it afterwards (R482). -/
def laneFault (code lane slot : Nat) (ev : Nat) (retired : Bool) (s : State) : State :=
  let l := vget s.indigo.laneOf slot
  raise { code := code, unit := 0x110 + lane, evidence := ev, a0 := slot, a1 := if l = 255 then 0xFF else l,
          retired := retired, spare := code = 0x0300 && l ≠ 255 && l ≠ lane && slot < 8, noSpare := code = 0x0304 } s

/-- `LANE_SELF_TEST_DONE` (R102, R104). R102 does not say which step resolves a mismatch: DESIGN CHOICE, `LANE_SUSPECT` lasts
until the spare has failed its self-test or the old lane's is done (log 171). -/
def laneTested (lane : Nat) (pass : Bool) (s : State) : State :=
  match s.indigo.suspect with
  | some q =>
    if q.stage = .spareTest && lane = q.spare then
      if pass then
        let at_ := moveAt s
        { s with indigo.suspect := some { q with stage := .moving },
                 indigo.moves := s.indigo.moves ++ [{ slot := q.slot, lane := q.spare, at_ := at_ }] }
      else laneFault 0x0301 lane q.slot 0 true (retireLane lane { s with indigo.suspect := none })
    else if q.stage = .oldTest && lane = q.old then
      if pass then
        laneFault 0x0302 lane q.slot 0 false { s with indigo.suspect := none, indigo.spare := some lane }
      else laneFault 0x0300 lane q.slot 0 true (retireLane lane { s with indigo.suspect := none })
    else s
  | none =>
    if pass then s
    else
      match (dasSlots s).find? (fun k => vget s.indigo.laneOf k = lane) with
      | some k =>
        -- a lane that carries a slot fails: the spare takes it, or no lane does (R104)
        match s.indigo.spare with
        | some sp =>
          laneFault 0x0300 lane k 0 true (retireLane lane { s with indigo := giveLane k sp s.indigo })
        | none =>
          laneFault 0x0304 lane k 0 true (retireLane lane { s with indigo.laneOf := vset s.indigo.laneOf k 255 })
      | none => raise { code := 0x0300, unit := 0x110 + lane, a0 := 0xFF, a1 := 0xFF, retired := true } (retireLane lane s)

def execLaneSelfTestDone (t : Ps) (lane : Fin 9) (pass : Bool) (s : State) : Res := .next (laneTested lane.val pass (s.adv t))

/-- Lane moves due at a boundary (R102, R103, R124). -/
def applyMoves (t : Ps) (s : State) : State :=
  (s.indigo.moves.filter (fun m => m.at_ ≤ t)).foldl (fun s m =>
    let old := vget s.indigo.laneOf m.slot
    let i := giveLane m.slot m.lane s.indigo
    match i.suspect, i.darkTest with
    | some q, _ => settleSpare { s with indigo := { i with suspect := some { q with stage := .oldTest } } }
    | none, some d =>
      if d.back then { s with indigo := { i with darkTest := none, spare := some old } }
      else settleSpare { s with indigo := { i with darkTest := some { d with moved := true } } }
    | none, none => { s with indigo := i })
    { s with indigo.moves := s.indigo.moves.filter (fun m => ¬ m.at_ ≤ t) }

/-- Dark slots on some slots only: the lane of each is tested, one slot at a time (R124). Only lines launched on the spare
count; a slot that stays dark goes back at the next boundary. A slot that no lane carries has none to test (R104). -/
def darkTests (k lane : Nat) (s : State) : State :=
  let i := s.indigo
  let proc := processedSlots s
  match i.darkTest with
  | some d =>
    if d.slot = k && d.moved && !d.back && lane = d.spare then
      if !i.dark.getLsbD k then
        laneFault 0x0300 d.old k 0 true (retireLane d.old { s with indigo.darkTest := none })
      else if 2 ≤ d.lines + 1 then
        laneFault 0x0303 d.old k 0 false
          { s with indigo := { i with darkTest := some { d with back := true }, darkTold := i.darkTold ||| BitVec.ofNat 8 (2 ^ k),
                                      moves := i.moves ++ [{ slot := k, lane := d.old, at_ := s.now }] } }
      else { s with indigo.darkTest := some { d with lines := d.lines + 1 } }
    else s
  | none =>
    if lane ≠ 255 && (i.dark &&& proc) ≠ proc && i.dark.getLsbD k && !i.darkTold.getLsbD k && i.suspect.isNone then
      match i.spare with
      | some sp =>
        let at_ := moveAt s
        { s with indigo := { i with darkTest := some { slot := k, old := vget i.laneOf k, spare := sp },
                                    moves := i.moves ++ [{ slot := k, lane := sp, at_ := at_ }] } }
      | none =>
        laneFault 0x0303 (vget i.laneOf k) k 1 false { s with indigo.darkTold := i.darkTold ||| BitVec.ofNat 8 (2 ^ k) }
    else s

/-! ### Geometry checks (R41, R42, R44) -/

def bump (c : Nat × Nat) (hit : Option Nat) : Nat × Nat :=
  match hit with
  | some p => (c.1 + 1, p)
  | none => (0, 0)

/-- The item of a slot that went live (R41, R45). -/
def aliasItem (port slots : Nat) (s : State) : State :=
  fibreChange 0x04 port 0 slots 0 0xFFFFFFFF ((firstNoFibre s port).getD 0xFFFFFFFF) s

/-- The samples of the guard window of a plan (R41): round-trip times from T_L - T_p - 5 us to T_L - T_p. -/
def guardWindow (tl tp : Nat) : Nat × Nat := (cdiv (tl - tp - Config.guardTime) 4000, (tl - tp) / 4000)

/-- `ALIAS` of a slot after a line whose mean guard-window power is given (R41): live when the mean over 16 lines exceeds the
level, clear after 16 lines below it. R41 says only "the noise floor": DESIGN CHOICE, that of the port's last survey
(log 196). -/
def aliasStep (port k : Nat) (mean : Rat) (s : State) : State :=
  let p := s.portOf port
  let level := above3dB ((p.survey.map (fun v => (v.floor : Rat))).getD 0)
  let up := (mean :: vget p.aliasUp k).take 16
  let dn := if mean < level then vget p.aliasDown k + 1 else 0
  let b := BitVec.ofNat 8 (2 ^ k)
  let p' := { p with aliasUp := vset p.aliasUp k up, aliasDown := vset p.aliasDown k dn }
  if !p.aliasLive.getLsbD k && up.length = 16 && decide (16 * level < up.sum) then
    let s1 := setPort port { p' with aliasLive := p'.aliasLive ||| b, aliasSticky := p'.aliasSticky ||| b } s
    if p.aliasSticky.getLsbD k then s1 else aliasItem port (2 ^ k) s1
  else if 16 ≤ dn then setPort port { p' with aliasLive := p'.aliasLive &&& ~~~b } s
  else setPort port p' s

/-- The current end moved, with its item (R42). -/
def moveEnd (port cause : Nat) (cm : Nat) (s : State) : State :=
  let p := s.portOf port
  fibreEnd cause port 0 0 (setPort port { p with currentEnd := cm, endGi := p.groupIndex, closer := (0, 0), farther := (0, 0) } s)

/-- What a power profile says of the end (R42). Closer: all samples from p_cut to the end lie below the level, p_cut at least
50 samples short of it. Farther: all samples from the end to one at least 50 past it lie above, within the coverage of
R17. In cm. -/
def endHits (prof : List Rat) (level : Rat) (endAt tl tp gi : Nat) : Option Nat × Option Nat :=
  let above (i : Nat) : Bool := decide (level < at0 prof i)
  let cut := match ((List.range (endAt + 1)).reverse).find? above with
    | some i => i + 1
    | none => 0
  let run := ((List.range (prof.length - endAt)).takeWhile (fun j => above (endAt + j))).length
  let far := endAt + run - 1
  (if cut + 50 ≤ endAt then some (sampleCm gi cut) else none,
   if 51 ≤ run && 4000 * far + tp + Config.guardTime ≤ tl then some (sampleCm gi far) else none)

/-- The end tracker after a line (R42): 32 lines in a row move the end to where the last of them shows it (log 172). -/
def endStep (port : Nat) (h : Option Nat × Option Nat) (s : State) : State :=
  let p := s.portOf port
  let c := bump p.closer h.1
  let f := bump p.farther h.2
  let s := setPort port { p with closer := c, farther := f } s
  if 32 ≤ c.1 then moveEnd port 0x02 c.2 s else if 32 ≤ f.1 then moveEnd port 0x03 f.2 s else s

/-- Suspended checks restart their counts (R44), and so does a detector that stood still (R123). -/
def resetChecks (s : State) : State :=
  let f (p : Port) : Port :=
    { p with aliasUp := Vector.replicate 8 [], aliasDown := Vector.replicate 8 0, closer := (0, 0), farther := (0, 0) }
  { s with fibre.s1 := f s.fibre.s1, fibre.s2 := f s.fibre.s2 }
def resetDark (s : State) : State :=
  { s with indigo.darkCnt := Vector.replicate 8 0, indigo.litCnt := Vector.replicate 8 0 }

/-- The geometry checks of one DAS line (R41-R44). R42's "noise floor near the current end" is the one floor of the port's last
survey (DESIGN CHOICE, log 196). -/
def geometry (r : LaunchRec) (power : List Rat) (s : State) : State :=
  if suspendedAt s r.at_ then resetChecks s
  else
    let p := s.portOf r.port
    match p.survey with
    | none => s
    | some v =>
      let g := guardWindow r.tl r.wave.tp
      endStep r.port (endHits power (above3dB v.floor) p.endSample r.tl r.wave.tp p.groupIndex)
        (aliasStep r.port r.slot (meanOver power g.1 g.2) s)

/-! ### Automatic power reduction (R86-R88) -/

/-- What a return shows (R86): evidence (loss or reflection), position in cm, excess over the limit in 0.1 dB (R482). -/
structure AprHit where
  loss     : Bool
  position : Nat
  excess   : Int

/-- The reflectance that the survey recorded at a position (R86): the entry whose width reaches it (log 169). -/
def recordedPeak (p : Port) (x : Peak) : Option Int :=
  match p.survey with
  | none => none
  | some v =>
    (v.refls.find? (fun q =>
      let c := surveyPos v p q.position.toNat
      x.position ≤ c + q.width.toNat && c ≤ x.position + q.width.toNat)).map (fun q => q.refl.toInt)

/-- A reflection within the first 2 km above `REFL_LIMIT`; one the survey recorded must have grown by more than 3 dB. -/
def reflHit (c : LightCfg) (p : Port) (peaks : List Peak) : Option AprHit :=
  (peaks.find? (fun x => x.position ≤ 200000 && c.reflLimit < x.refl
    && (match recordedPeak p x with | some q => decide (q + 30 < x.refl) | none => true))).map
    (fun x => { loss := false, position := x.position, excess := x.refl - c.reflLimit })

/-- A reference bin more than `LOSS_DROP` below its reference. -/
def lossHit (c : LightCfg) (p : Port) (levels : List Rat) : Option AprHit :=
  ((List.range p.aprRef.length).find? (fun k => decide (at0 levels k * ratioOfDb ((c.lossDrop : Rat) / 10) < at0 p.aprRef k))).map
    (fun k => { loss := true, position := 5000 + 25000 * k,
                excess := roundAway (10 * db10 (at0 p.aprRef k / at0 levels k)) - c.lossDrop })

/-- A trip: the launch falls to `APR_LEVEL` in one step, and every ramp is abandoned (R87). -/
def aprTrip (h : AprHit) (s : State) : State :=
  if s.light.aprTrip then s
  else raise { code := 0x0207, evidence := bit h.loss, a0 := h.position, a1 := (h.excess % 4294967296).toNat }
    { s with light.aprTrip := true, light.aprArmed := false, light.ramping := false, light.level := s.light.cfg.aprLevel,
             ochre.level := s.light.cfg.aprLevel, ochre.ramping := false, light.aprAt := s.now }

/-- The reference of a restore: 64 lines launched since it (R85, R88); the ramp to the target starts after them. -/
def takeRef (r : LaunchRec) (levels : List Rat) (s : State) : State :=
  if r.at_ < s.light.aprFrom || r.port ≠ s.light.port then s
  else
    let sum := addSpec s.light.aprSum levels
    if s.light.aprN + 1 < 64 then { s with light.aprSum := sum, light.aprN := s.light.aprN + 1 }
    else
      setPort r.port { s.portOf r.port with aprRef := sum.map (· / 64) }
        { s with light.aprArmed := false, light.aprSum := [], light.aprN := 0, light.ramping := true }

/-- Automatic power reduction on the return of one launch, DAS or Ochre (R85-R89). Where one return shows both conditions, which
R86 does not settle, the item names the reflection (DESIGN CHOICE, log 197). A bin level is compressed power over launched power,
compared as it is with a reference taken with another waveform, sub-band or polarisation set or attenuation, Ochre's with a DAS
one too: R86 states no scaling (DESIGN CHOICE, log 169). -/
def aprCheck (r : LaunchRec) (power : List Rat) (peaks : List Peak) (s : State) : State :=
  if switchMoving s then s
  else
    let p := s.portOf r.port
    let levels := binLevels p.groupIndex ((p.survey.map (·.endCm)).getD 0) r.level power
    if s.light.aprArmed then takeRef r levels s
    else match reflHit s.light.cfg p peaks with
      | some h => aprTrip h s
      | none => match lossHit s.light.cfg p levels with
        | some h => aprTrip h s
        | none => s

/-! ### One DAS line (R105-R122) -/

/-- What the receiver makes of the return of a launch (R97-R110): clipping, the branches of its slot with the laser phase taken
out, the power trace, whether the correction is complete, and the phase history. -/
structure Received where
  clip     : Bool
  branches : List (List Cplx)
  power    : List Rat
  full     : Bool
  psi      : List Rat
  psiAt    : Ps

/-- The lanes' settings for a port and a waveform: one sub-band in direct-pulse mode (R107). -/
def laneCfg (s : State) (port : Nat) (w : Wave) : LaneCfg :=
  { subbands := if w.pulse then 1 else s.indigo.subbands, pol := s.indigo.pol, delay := delaySteps (s.portOf port).dlyRx }

/-- The compressed branches of a return, before the laser phase. -/
def lanes (s : State) (r : LaunchRec) (codes : List RxSample) : List (List Cplx) :=
  laneOut (laneCfg s r.port r.wave) r.wave (channel r.slot (codes.map (fun x => ⟨x.xi, x.xq⟩)))
    (channel r.slot (codes.map (fun x => ⟨x.yi, x.yq⟩)))

def rxCodes (s : State) (rx : List RxSample) : List RxSample := rx.map (fun x => RxSample.codes x (attenGain s.indigo.atten))

/-- The middle of a chirp (R109), ps after the launch instant. -/
def Wave.middle (w : Wave) : Nat := if w.pulse then 0 else w.tp / 2

/-- The phase history carried on by the reference samples that a line brings, and the instant of its newest value (R108). -/
def psiNext (i : IndigoState) (now : Ps) (refs : List RefSample) : List Rat × Ps :=
  (psiRun i.tau i.psi refs, if i.psi.isEmpty then now else i.psiAt + 4000 * refs.length)

def receiveReturn (r : LaunchRec) (d : LineIn) (s : State) : Received :=
  let i := s.indigo
  let codes := rxCodes s d.rx
  let raw := lanes s r codes
  let (psi, newest) := psiNext i s.now d.refs
  let mid := r.wave.middle
  let on := i.pns && !i.refLost && !r.refLost
  let n := (raw.map List.length).foldl max 0
  { clip := codes.any RxSample.clips, branches := if on then raw.map (correct psi newest r.at_ mid) else raw,
    power := powerTrace raw, full := on && (n = 0 || psiCovers psi newest r.at_ mid n), psi := psi, psiAt := newest }

/-- A held line (R115): last values and flag bytes, line flag `STALE`, no zone state changes. The spec does not say which other
line flags a held line carries: DESIGN CHOICE, `EXC_OVERFLOW` where its list overflows and no other (log 173); nor which
launch count, since no launch is made: DESIGN CHOICE, the count of the last launch of slot 0 (log 44). -/
def heldLine (r : LaunchRec) (s : State) : Line :=
  let port := r.port
  let base := s.indigo.map.dasBase port
  let zs := (s.indigo.zones.drop base).take (s.indigo.map.das port).length
  let fl := zs.map (·.flag)
  let ex := exceptions base fl
  let lf := 2 + (if 1024 < ex.length then 2048 else 0)
  let nf := vget s.indigo.nfFirst (port - 1)
  { slot := r.slot, port := port, base := base, values := zs.map (·.out), zflags := fl, lflags := lf,
    desc := dasDesc (r.dev % 2 ^ 32) r.count nf r.slot port lf (min 1024 ex.length),
    nfFirst := nf, count := r.count, at_ := r.at_, dev := r.dev, stale := true, valid := true }

/-- The zones of the selected port carried one line on. -/
def runZones (i : IndigoState) (c : LineCond) (es : List DasEntry) (nfIx : Nat) (bs : List (List Cplx))
    (zs : List DasZone) : List ZoneOut :=
  ((List.range es.length).zip (es.zip zs)).map (fun x =>
    zoneStep i c x.2.1 (nfIx ≤ x.1) (gaugePhasors bs x.2.1) x.2.2)

/-- What one line adds to a zone's second (R33, R121). R121's power "at the zone" is that of its last sample (DESIGN CHOICE,
log 199). -/
def noteSecond (power : List Rat) (e : DasEntry) (nf : Bool) (o : ZoneOut) : ZoneOut :=
  let last := e.first + e.len - 1
  { o with z := { o.z with
      out := o.out, flag := by8 o.flag, sec := o.out :: o.z.sec, powEnd := o.z.powEnd + at0 power last,
      powGauge := o.z.powGauge + at0 power (last - gaugeOf last e.gauge), powN := o.z.powN + 1,
      spoilt := o.z.spoilt || nf } }

/-- Part of a list changed, from an index on. -/
def splice {α : Type} (l : List α) (at_ : Nat) (new : List α) : List α := l.take at_ ++ new ++ l.drop (at_ + new.length)

/-- The zones a held line reaches are without measurement in this second (R33). -/
def spoilZones (port : Nat) (s : State) : State :=
  let base := s.indigo.map.dasBase port
  let zs := (s.indigo.zones.drop base).take (s.indigo.map.das port).length
  { s with indigo.zones := splice s.indigo.zones base (zs.map (fun z => { z with spoilt := true })) }

/-- A held line: no zone changes, and the checks and the detector start their counts anew; the reference interferometer goes on
(R108, R115). -/
def dasHeld (r : LaunchRec) (d : LineIn) (s : State) : Line × State :=
  let p := psiNext s.indigo s.now d.refs
  (heldLine r s, resetDark (resetChecks (spoilZones r.port { s with indigo.psi := p.1, indigo.psiAt := p.2 })))

/-- A DAS line processed: lane checks, dark-slot detector, zones, geometry checks. The slot's first line after a restart carries
`RESTART` (R58, R114), a dark one too, whose zones are treated as R117 says; whether such a line also sets the angles of R114 is
open: DESIGN CHOICE, it does not, and the slot restarts again once it is lit (log 174). The line that makes `ALIAS` live carries the
flag as it was before (DESIGN CHOICE, log 198). Where every slot restarts together, the first restart line of any slot sets `mean_amp`
and the others do not (DESIGN CHOICE, log 222). The line of a slot that no lane carries has no compressed output in the device: the
power that the dark-slot detector, the checks and automatic power reduction see is what a lane would have made of it (DESIGN CHOICE,
log 223). -/
def dasProcess (r : LaunchRec) (d : LineIn) (s : State) : Line × State :=
  if r.stale then dasHeld r d s
  else
    let k := r.slot
    let port := r.port
    let base := s.indigo.map.dasBase port
    let es := s.indigo.map.das port
    let noLane := r.lane = 255
    let x := receiveReturn r d s
    let first := s.indigo.restart.getLsbD k
    let (i, isDark) := if darkRuns port s then darkStep k (lineDark (s.portOf port) x.power) s.indigo
      else ((resetDark s).indigo, s.indigo.dark.getLsbD k)
    let lit := s.indigo.dark.getLsbD k && !i.dark.getLsbD k
    let s := { s with indigo := { i with psi := x.psi, psiAt := x.psiAt } }
    let dark := isDark || noLane
    let s := shadowStep k d.mismatch s
    let i := s.indigo
    let re := first && !dark
    let mine : BitVec 2 := BitVec.ofNat 2 port
    let after := (i.afterDark &&& mine) ≠ 0
    let c : LineCond := { slot := k, restart := re, fresh := re && i.restartAll, dark := dark, afterDark := after,
                          processed := processedSlots s }
    let nf := firstNoFibre s port
    let nfIx := match nf with | some z => z - base | none => es.length
    let outs := runZones i c es nfIx x.branches ((i.zones.drop base).take es.length)
    let outs := ((List.range es.length).zip (es.zip outs)).map (fun y => noteSecond x.power y.2.1 (nfIx ≤ y.1) y.2.2)
    let fl := outs.map (·.z.flag)
    let ex := exceptions base fl
    let lf := flags [first, false, (s.portOf port).aliasLive.getLsbD k, r.ramp, r.reduced, dark, after && !dark,
      (i.suspect.map (fun q => decide (q.slot = k))).getD false, !x.full, x.clip, r.coarse,
      1024 < ex.length]
    let nfv := nf.getD 0xFFFFFF
    let line : Line :=
      { slot := k, port := port, base := base, values := outs.map (·.out), zflags := fl, lflags := lf,
        desc := dasDesc (r.dev % 2 ^ 32) r.count nfv k port lf (min 1024 ex.length), nfFirst := nfv, count := r.count,
        at_ := r.at_, dev := r.dev, stale := false, valid := true }
    let i' := { i with
      zones := splice i.zones base (outs.map (·.z))
      -- a slot that this line has lit restarts on its next one (R117, R122)
      restart := if lit then i.restart else i.restart &&& ~~~(BitVec.ofNat 8 (2 ^ k))
      restartAll := i.restartAll && !re
      afterDark := if dark then i.afterDark ||| mine else i.afterDark &&& ~~~mine
      nfFirst := vset i.nfFirst (port - 1) nfv }
    let s := geometry r x.power { s with indigo := i' }
    (line, darkTests k r.lane (aprCheck r x.power d.peaks s))

/-! ### INDIGO_CFG (R138-R140) -/

def indigoCfgSpec : CmdSpec := { opcode := 0x20, target := .device, mirror := true, len := fixedLen 8 }

/-- The state that `INDIGO_CFG` replies (R140). Between a boundary and the processing of the lines still in flight it gives the
settings those lines are processed with (DESIGN CHOICE, log 128). -/
def indigoReply (b : Option Bound) (s : State) : List Byte :=
  let i := s.indigo
  (match b with | some x => applyFields x | none => le8 (2 ^ 64 - 1) ++ le4 (2 ^ 32 - 1))
    ++ le1 (if s.light.plan.pulse then 1 else i.subbands) ++ le1 i.pol
    ++ le1 (flags [i.pns, i.unwrap, i.bridge, i.spareCheck]) ++ le1 i.fade ++ le1 i.align ++ le1 i.atten
    ++ le2 i.laneRetired.toNat ++ (List.range 8).flatMap (fun k => le1 (carriedBy s k)) ++ le1 i.dark.toNat
    ++ le1 (processedSlots s).toNat ++ zeros 2

def cmdIndigoCfg (f : Fetched) (s : State) : Ans :=
  let p := f.payload
  let keeps := fld p 0 2 = 0 && fld p 3 1 = 0 && fld p 4 3 = 0 && fld p 2 1 ≤ 15 && fld p 7 1 = 0
  let sb := fld p 0 1
  checked [(s.calibrating, St.wrongMode),
      (!([0, 1, 4].contains sb && fld p 1 1 ≤ 3 && fld p 2 1 ≤ 15 && fld p 3 1 ≤ 15
        && (fld p 4 1 = 0 || inR (fld p 4 1) 4 64) && (fld p 5 1 = 0 || inR (fld p 5 1) 4 12) && fld p 6 1 ≤ 4
        && fld p 7 1 = 0), St.badParam)] s fun _ =>
    if keeps then { status := St.ok, payload := indigoReply none s, st := s }
    else
      let r := schedule f p false false 1 false s
      { status := St.ok, payload := indigoReply (some r.2) r.1, names := r.2.named, due := r.2.dueOf, st := r.1 }

def execIndigoCfg (r : Req) (s : State) : Res := .next (perform indigoCfgSpec cmdIndigoCfg r s)

/-! ### ZONE_MAP_READ (R137) -/

def zoneMapReadSpec : CmdSpec := { opcode := 0x22, target := .device, mirror := false, len := fixedLen 12 }

def dasPlain (e : DasEntry) : List Byte := le4 (e.first + (e.len - 1) * 2 ^ 18) ++ le4 (e.gauge - 1 + e.xi * 65536)
def dtsPlain (e : DtsEntry) : List Byte :=
  le4 (e.first + (e.len - 1) * 2 ^ 18) ++ le2 e.ct ++ le2 e.cStrain ++ le4 e.nuRef ++ le2 e.tRef ++ zeros 2

def cmdZoneMapRead (f : Fetched) (s : State) : Ans :=
  let p := f.payload
  let m := s.indigo.map
  let tab := fld p 0 1
  let first := fld p 4 4
  let n := fld p 8 2
  let size := if tab = 1 then m.nDts else m.nDas
  checked [(1 < tab || fld p 1 3 ≠ 0 || fld p 10 2 ≠ 0 || !(inR n 1 (if tab = 1 then 250 else 500))
      || (size ≠ 0 && size ≤ first), St.badParam)] s fun _ =>
    let es := if tab = 1 then (((m.dts1 ++ m.dts2).drop first).take n).map dtsPlain
      else (((m.das1 ++ m.das2).drop first).take n).map dasPlain
    { status := St.ok, st := s,
      payload := le4 m.nDas ++ le4 m.nDts ++ le4 m.das1.length ++ le4 m.dts1.length ++ le4 m.crc.toNat ++ le4 first
        ++ le2 es.length ++ zeros 6 ++ es.flatten }

def execZoneMapRead (r : Req) (s : State) : Res := .next (perform zoneMapReadSpec cmdZoneMapRead r s)

end Sys2Proof.Machine
end

