-- ==== Sys2Proof/Machine/Ochre.lean ====
section
/-! DEFINITION. Machine/Ochre.lean: the Brillouin temperature path (R147-R181). -/

namespace Sys2Proof.Machine

open Sys2Proof

/-! ### Accumulation (R154-R160) -/

/-- Ochre's part of a launch (R149, R160): the scrambler steps once per Ochre launch and its cycle restarts with the
accumulation; launches that wait for thermal settling count towards none. Launches held, or not made because Ochre is retired, count
towards the accumulation's lines (R170, R173). -/
def ochreLaunched (made waits : Bool) (s : State) : State :=
  let o := s.ochre
  let last := o.cfg.acc ≤ o.launched + o.skipped + 1
  if !made then { s with ochre.launched := if last then 0 else o.launched, ochre.skipped := if last then 0 else o.skipped + 1 }
  else
    let next := (o.scrambler + 1) % 16
    if waits then { s with ochre.scrambler := next }
    else
      { s with ochre.scrambler := if o.launched = 0 then 0 else next, ochre.launched := if last then 0 else o.launched + 1,
               ochre.skipped := if last then 0 else o.skipped }

/-- What one Ochre line brings (R154-R156): per DTS zone its spectrum, the coil's, the baseline's, the power profile and
clipping. -/
structure OchreLine where
  zones    : List (List Rat)
  coil     : List Rat
  base     : List Rat
  profile  : List Rat
  clip     : Bool

/-- Does a code of Ochre's converters lie at full scale? -/
def Phasor.clips (p : Phasor) : Bool := fullScale p.re || fullScale p.im

def ochreReceive (r : LaunchRec) (d : OchreIn) (s : State) : OchreLine :=
  let o := s.ochre
  let z := decimate d.iq
  let nw := r.wave.tp / 2000
  let coil := match o.coil with
    | some c => if c.port = r.port then rangeSpectrum z nw c.first c.len o.cfg.pitch else []
    | none => []
  { zones := (s.indigo.map.dts r.port).map (fun e => rangeSpectrum z nw e.first e.len o.cfg.pitch), coil := coil,
    base := guardSpectrum z nw r.tl r.wave.tp, profile := gateProfile z nw, clip := d.iq.any Phasor.clips }

/-- A line added to the accumulation (R158, R160, R170, R173, R174). -/
def ochreAdd (r : LaunchRec) (d : OchreIn) (s : State) : State :=
  let a := { s.ochre.acc with port := r.port, lastAt := r.at_, lastDev := r.dev }
  if r.at_ < a.since then s
  else if r.stale then { s with ochre.acc := { a with done := a.done + 1, held := true } }
  else if s.ochre.retired then { s with ochre.acc := { a with done := a.done + 1, absent := true } }
  else if r.waits then s
  else
    let x := ochreReceive r d s
    { s with ochre.acc := { a with
        done := a.done + 1, zones := addSpecs a.zones x.zones, coil := addSpec a.coil x.coil, base := addSpec a.base x.base,
        profile := addSpec a.profile x.profile, coarse := a.coarse || r.coarse, reduced := a.reduced || r.reduced,
        ramp := a.ramp || r.ramp, clip := a.clip || x.clip, lost := a.lost || r.sideLost } }

/-- The fit of a range of so many samples with the settings in force. -/
def fitSet (s : State) (len : Nat) : FitSet :=
  let c := s.ochre.cfg
  { lo := c.lo, half := c.fitHalf, acc := c.acc, ind := nInd len c.pulseLen, gates := cdiv len c.pitch,
    base := guardGates (c.pulseLen * 1000) }

/-- The accumulation is complete: zones are fitted in ascending order (R161), and the next one starts with the coil that
waited (R180). -/
def endAccumulation (s : State) : State :=
  let o := s.ochre
  if o.acc.done < o.cfg.acc then s
  else
    let port := o.acc.port
    let base := s.indigo.map.dtsBase port
    let es := s.indigo.map.dts port
    let starts := (List.range es.length).map (fun i => ((o.zones[base + i]?).getD {}).centre)
    let fits := ((List.range es.length).zip es).map (fun x =>
      lorentzFit (fitSet s x.2.len) ((o.acc.zones[x.1]?).getD []) o.acc.base ((starts[x.1]?).getD none))
    let coilFit := o.coil.map (fun c => lorentzFit (fitSet s c.len) o.acc.coil o.acc.base o.coilStart)
    { s with ochre := { o with
        ready := some { acc := o.acc, fits := fits, starts := starts, coilFit := coilFit, coil := o.coil, cfg := o.cfg }, acc := {},
        coil := o.coilDue, coilNext := none,
        -- a new coil's first fit starts at the highest bin (R161)
        coilStart := if o.coilDue = o.coil then o.coilStart else none } }

def execAccumulationEnd (s : State) : Res := .next (endAccumulation s)

/-! ### Update (R162-R172) -/

/-- `FIT_FAIL` of R162. -/
def fitFails (f : FitOut) : Bool := !f.converged || f.weak || f.width < 10000 || 250000 < f.width

/-- `EDGE` of R162: within `FIT_HALF` of either end of the span of R148. In quarters of a kHz. -/
def atEdge (lo half : Nat) (centre : Int) : Bool :=
  let l : Int := (lo * 1000 - 250000) * 4
  let h : Int := lo * 4000 + 984375
  centre * 4 - l ≤ half * 4000 || h - centre * 4 ≤ half * 4000

/-- The coil reference used at an update: ν_coil, T_coil, and whether it is held. -/
structure CoilRef where
  nu   : Int
  t    : Rat
  held : Bool

/-- The output code before clamping (R164). -/
def tempCode (e : DtsEntry) (c : Option CoilRef) (nu : Int) : Int :=
  if e.nuRef ≠ 0 then roundAway ((e.tRef : Rat) + 100 * ((nu : Rat) - e.nuRef) / e.ct)
  else match c with
    | some r => roundAway (100 * r.t + 20000 + 100 * ((nu : Rat) - r.nu) / e.ct)
    | none => 0

/-- The upper limit of R157 in kHz: ν_min + 200 MHz − B_D/2 − 15 MHz. -/
def overlapAt (p : Plan) (nuMin : Int) : Rat :=
  let bd : Rat := if p.pulse then 2000000 / (p.pulseLen : Rat) else (p.chirpBw * 1000 : Nat)
  nuMin + 200000 - bd / 2 - 15000

/-- One DTS zone at an update (R162-R165), with the settings its fit was made with. `absent`: Ochre is retired and there is nothing
to fit (R173); `lost`: the sideband was lost (R174), `INVALID` beside the flags of the fit. -/
def dtsZone (s : State) (r : OchreReady) (e : DtsEntry) (f : FitOut) (c : Option CoilRef) (nuMin : Option Int)
    (absent nf : Bool) (z : DtsZone) : DtsZone :=
  let fail := fitFails f
  let centre := if fail || r.past then z.centre else some f.centre
  let lost := r.acc.lost
  if absent then { z with fit := f, centre := centre, temp := 0, flag := 64 }
  else if nf then { z with fit := f, centre := centre, temp := 0, flag := by8 (64 * bit lost) }
  else
    let code := tempCode e c f.centre
    let range := code < 0 || 65535 < code
    let edge := atEdge r.cfg.lo r.cfg.fitHalf f.centre
    let half : Rat := (r.cfg.fitHalf * 1000 : Nat)
    let ovl := s.runMode = .full && (match nuMin with
      | some m => decide (overlapAt s.light.plan m ≤ (f.start : Rat) + half)
      | none => false)
    let needs := e.nuRef = 0
    let noRef := needs && c.isNone
    let held := needs && (c.map (·.held)).getD false
    let v := if fail || noRef || lost then 0 else (max 0 (min 65535 code)).toNat
    { fit := f, centre := centre, temp := v, flag := by8 (flags [fail, edge, range, ovl, held, noRef, lost]) }

/-- The lowest of a list. -/
def lowest : List Int → Option Int
  | [] => none
  | x :: xs => some (xs.foldl min x)

/-- Is the coil reference of an accumulation valid (R163)? Not where no thermometer result fell into it, and not in one of a retired
Ochre, which has no spectrum to fit (DESIGN CHOICE, logs 224 and 225). -/
def coilValid (r : OchreReady) (c : Coil) (s : State) : Bool :=
  !r.acc.absent && (match r.coilFit with | some f => !fitFails f | none => false) && !r.acc.tBad && r.acc.tCount ≠ 0
    && c.port = r.acc.port && !beyondEnd (s.portOf c.port) (c.first + c.len - 1)

/-- The reference that is held: the last valid one since the last restart (R165). -/
def heldRef (o : OchreState) : Option CoilRef :=
  match o.refSeen, o.nuCoil, o.tCoil with
  | true, some nu, some t => some { nu := nu, t := t, held := true }
  | _, _, _ => none

/-- The coil's part of an update (R163, R165), with the coil of its accumulation (R180): validity, the reference in use. -/
def coilStep (r : OchreReady) (s : State) : State × Option CoilRef :=
  let o := s.ochre
  match (r.coil.filter (fun c => coilValid r c s)) with
  | some c =>
    let nu := (r.coilFit.map (·.centre)).getD 0
    let t := rtdTemperature ((r.acc.tSum : Rat) / r.acc.tCount) c.rZero c.rtd o.coilGain o.coilOffset
    ({ s with ochre := { o with nuCoil := some nu, tCoil := some t, refWas := true, refSeen := o.refSeen || !r.past,
                                refAt := some s.now, coilStart := if r.past || r.coil ≠ o.coil then o.coilStart else some nu,
                                rtdOpen := r.acc.tOpen } },
     some { nu := nu, t := t, held := false })
  | none =>
    let start := match r.coilFit with
      | some f => if fitFails f || r.past || r.coil ≠ o.coil then o.coilStart else some f.centre
      | none => o.coilStart
    let s1 := { s with ochre := { o with refWas := false, coilStart := start, rtdOpen := r.acc.tOpen } }
    let fl := flags [false, (heldRef o).isSome, r.acc.tOpen, r.coil.isSome]
    (if o.refWas then raise { code := 0x0400, unit := 0x0101, a0 := fl } s1 else s1, heldRef o)

/-- The update descriptor (R167). -/
def dtsDesc (stamp n nf port uf nExc : Nat) : List Byte :=
  le4 stamp ++ le4 n ++ leBytes 3 nf ++ le1 port ++ le2 uf ++ le2 nExc

/-- N_W of a probe (R154). -/
def gateLen (c : OchreCfg) : Nat := c.pulseLen / 2

/-- The receiver's noise floor, power of one gate summed over bins: as the last `SIDEBAND` step measured it (R171), for the window
of a probe. Noise power goes with the window's length. -/
def ochreFloor (s : State) (c : OchreCfg) : Rat := s.ochre.floor.getD Config.ochreFloor * gateLen c

/-- Ochre's range check (R171): the baseline, summed over bins, exceeds the floor by more than 0.5 dB over the
accumulation. -/
def ochreAlias (a : OchreAcc) (c : OchreCfg) (s : State) : Bool × State :=
  let port := a.port
  let p := s.portOf port
  let gates := a.done * guardGates (c.pulseLen * 1000)
  if suspendedAt s a.lastAt || a.held then (p.aliasLive.getLsbD 7, s)
  else if decide (ochreFloor s c * gates * ratioOfDb (1 / 2) < a.base.sum) then
    let s1 := setPort port { p with aliasLive := p.aliasLive ||| 0x80, aliasSticky := p.aliasSticky ||| 0x80 } s
    (true, if p.aliasSticky.getLsbD 7 then s1 else aliasItem port 0x80 s1)
  else (false, setPort port { p with aliasLive := p.aliasLive &&& 0x7F } s)

/-- In SURVEY the end moves at updates, by the power profile against the floor plus 3 dB; the distances are those of R42
(R172). -/
def ochreEnd (a : OchreAcc) (c : OchreCfg) (s : State) : State :=
  let port := a.port
  let p := s.portOf port
  if s.runMode ≠ .survey || suspendedAt s a.lastAt || a.held || a.absent || p.survey.isNone then s
  else
    match endHits a.profile (above3dB (ochreFloor s c * a.done)) p.endSample (c.period * 10000) (c.pulseLen * 1000) p.groupIndex with
    | (some x, _) => moveEnd port 0x02 x s
    | (none, some x) => moveEnd port 0x03 x s
    | (none, none) => s

/-- The update made ready by the last accumulation: the line consumers see and the state with its results (R162-R172). -/
def ochreIssue (r : OchreReady) (s : State) : Line × State :=
  let port := r.acc.port
  let base := s.indigo.map.dtsBase port
  let es := s.indigo.map.dts port
  let held := r.acc.held
  let was := s.ochre.overlap
  let (alias_, s) := ochreAlias r.acc r.cfg s
  let s := ochreEnd r.acc r.cfg s
  let (s, coil) := if held then (s, none) else coilStep r s
  let nf := firstBeyond (s.portOf port) base (es.map (fun e => e.first + e.len - 1))
  let nfIx := match nf with | some z => z - base | none => es.length
  let olds := (s.ochre.zones.drop base).take es.length
  let cents := ((List.range es.length).map (fun i =>
    let f := (r.fits[i]?).getD default
    if fitFails f then ((olds[i]?).getD {}).centre else some f.centre)).filterMap id
  let absent := r.acc.absent || s.ochre.retired
  let zs := if held then olds else ((List.range es.length).zip (es.zip olds)).map (fun x =>
    dtsZone s r x.2.1 ((r.fits[x.1]?).getD default) coil (lowest cents) absent (nfIx ≤ x.1) x.2.2)
  let fl := zs.map (·.flag)
  let ex := exceptions base fl
  -- a held update repeats the flags of the last one (R170)
  let uf := if held then s.ochre.lastUf % 64 / 2 * 2 + flags [true, false, false, false, false, false, 1024 < ex.length]
    else flags [false, alias_, r.acc.coarse, r.acc.reduced, r.acc.ramp, r.acc.clip, 1024 < ex.length]
  let n := if held || r.acc.absent then 0 else r.acc.done
  let desc := dtsDesc (r.acc.lastDev % 2 ^ 32) n (nf.getD 0xFFFFFF) port uf (min 1024 ex.length)
  let ovl := zs.any (fun z => z.flag.getLsbD 3)
  let first := (((List.range zs.length).zip zs).find? (fun x => x.2.flag.getLsbD 3)).map (fun x => base + x.1)
  let s := { s with ochre := { s.ochre with
      zones := splice s.ochre.zones base zs, desc := desc, ready := none, lastUf := uf,
      specs := if held then s.ochre.specs else r.acc.zones, base := if held then s.ochre.base else r.acc.base,
      specBase := base, overlap := ovl, refUse := if held then s.ochre.refUse else coil.map (fun c => (c.nu, c.t)) } }
  ({ slot := 7, port := port, base := base, desc := desc, values := zs.map (fun z => (z.temp : Int)), zflags := fl,
     lflags := uf, nfFirst := nf.getD 0xFFFFFF, count := n, at_ := r.acc.lastAt, dev := r.acc.lastDev, stale := held, valid := true },
   -- the first flagged update of an episode (R157)
   if ovl && !was && !held then
     raise { code := 0x0402, unit := 0x0101, a0 := first.getD 0, a1 := (((lowest cents).getD 0) % 4294967296).toNat } s
   else s)

/-! ### Sideband (R174) -/

def execSidebandLost (t : Ps) (percent : Nat) (s : State) : Res :=
  let s := s.adv t
  -- the loss began 10 us before it was decided
  let from_ := s.now - 10000000
  .next (if s.ochre.sideLost then s
    else raise { code := 0x0401, unit := 0x0101, a0 := percent }
      { s with
        ochre.sideLost := true
        ochre.ready := s.ochre.ready.map (fun r =>
          { r with acc := { r.acc with lost := r.acc.lost || from_ ≤ r.acc.lastAt } })
        ochre.acc.lost := s.ochre.acc.lost || (s.ochre.acc.done ≠ 0 && from_ ≤ s.ochre.acc.lastAt)
        light.inflight := s.light.inflight.map (fun r => if r.ochre && from_ ≤ r.at_ then { r with sideLost := true } else r) })

def execSidebandRecovered (t : Ps) (s : State) : Res :=
  let s := s.adv t
  .next (if s.ochre.sideLost then restartAcc { s with ochre.sideLost := false } else s)

/-! ### OCHRE_CFG (R176-R178) -/

def ochreCfgSpec : CmdSpec := { opcode := 0x28, target := .device, mirror := true, len := fixedLen 20 }

/-- Is Ochre waiting for thermal settling (R160)? -/
def ochreWaiting (s : State) : Bool := s.ochre.cfg.settle && s.power.thermalCoarse

def ochreStateCode (s : State) : Nat :=
  if s.ochre.retired then 3
  else if !(s.light.running && (s.runMode = .full || s.runMode = .survey) && launches s 7) then 0
  else if s.indigo.staleFrom.any (· ≤ s.now) then 2
  else if ochreWaiting s then 4 else 1

/-- The state that `OCHRE_CFG` replies (R178). `ACC_DONE` counts the launches of the accumulation that runs on the launch side. -/
def ochreReply (b : Option Bound) (s : State) : List Byte :=
  let c := s.ochre.cfg
  (match b with | some x => applyFields x | none => le8 (2 ^ 64 - 1) ++ le4 (2 ^ 32 - 1))
    ++ le2 c.pulseLen ++ leInt 2 (s.ochre.powerNow.getD (-32768)) ++ le2 c.lo ++ le1 c.pitch ++ le1 c.fitHalf ++ le4 c.acc
    ++ le4 c.period ++ le4 (gateRate (projected s) s.planMode) ++ le1 (ochreStateCode s) ++ le1 (bit c.settle) ++ zeros 2
    ++ le4 s.ochre.launched

/-- R17 and R19 as R151 and R152 put them for Ochre, for the state before and after a change. The spec does not say in which
modes `SURVEY_PERIOD` must meet R17: DESIGN CHOICE, in every mode, for a command that changes the period or the pulse
(log 175). -/
def ochreRules (m : Mode) (b a : State) : Bool :=
  let same := a.ochre.cfg.period = b.ochre.cfg.period ∧ a.ochre.cfg.pulseLen = b.ochre.cfg.pulseLen
  (decide same || okSurvey a) && (m ≠ .full || okPlan a m) && okOchre a m

def cmdOchreCfg (f : Fetched) (s : State) : Ans :=
  let p := f.payload
  let pw := sfld p 2 2
  let keeps := fld p 0 2 = 0 && pw = 0x7FFF && fld p 4 2 = 0 && fld p 6 2 = 0 && fld p 8 8 = 0 && fld p 17 1 = 0
    && fld p 16 1 ≤ 1 && fld p 18 2 = 0
  let b := projected s
  let a := applyOchreCfg p b
  checked [(!s.ochreFitted, St.notFitted), (s.calibrating, St.wrongMode),
      (!((fld p 0 2 = 0 || (inR (fld p 0 2) 10 200 && fld p 0 2 % 2 = 0))
        && (pw = 0x7FFF || inI pw (-100) b.light.cfg.aprCeil) && (fld p 4 2 = 0 || inR (fld p 4 2) 10300 11300)
        && fld p 6 1 ≤ 16 && (fld p 7 1 = 0 || inR (fld p 7 1) 20 120)
        && (fld p 8 4 = 0 || (inR (fld p 8 4) 16 16777216 && fld p 8 4 % 16 = 0))
        && (fld p 12 4 = 0 || inR (fld p 12 4) 1000 200000) && fld p 16 1 ≤ 1 && fld p 17 1 ≤ 1 && fld p 18 2 = 0),
        St.badParam),
      (!keeps && !ochreRules s.planMode b a, St.badParam)] s fun _ =>
    if keeps then { status := St.ok, payload := ochreReply none s, st := s }
    else
      let r := schedule f p (altersTiming s.planMode b a) false (periodOf a s.planMode) false s
      { status := St.ok, payload := ochreReply (some r.2) r.1, names := r.2.named, due := r.2.dueOf, st := r.1 }

def execOchreCfg (r : Req) (s : State) : Res := .next (perform ochreCfgSpec cmdOchreCfg r s)

/-! ### OCHRE_READ (R179) -/

def ochreReadSpec : CmdSpec := { opcode := 0x29, target := .device, mirror := false, len := fixedLen 12 }

def dtsEntryBytes (z : DtsZone) : List Byte :=
  le4 (z.fit.centre % 4294967296).toNat ++ le2 (min 65535 (z.fit.width / 10)) ++ leInt 2 z.fit.snr
    ++ le2 (min 65535 z.fit.sigma) ++ le2 (min 65535 z.fit.crb) ++ le2 z.temp ++ le1 z.flag.toNat ++ le1 z.fit.iter

/-- The smallest shift that fits every value in 32 bits. -/
def specScale : Nat → List Nat → Nat → Nat
  | 0, _, k => k
  | n + 1, l, k => if l.all (fun v => v / 2 ^ k < 2 ^ 32) then k else specScale n l (k + 1)

/-- Accumulated power as whole numbers (R179). -/
def wholeSpec (l : List Rat) : List Nat := l.map (fun x => x.floor.toNat)

/-- A temperature as a DTS code (R27). -/
def degCode (t : Rat) : Nat := (max 0 (min 65535 (roundAway (100 * t + 20000)))).toNat

/-- `OCHRE_READ`. With no DTS zone in the map R179 does not say which of 'beyond the last zone' and 'no update exists' wins:
DESIGN CHOICE, any `FIRST` is accepted (log 176). -/
def cmdOchreRead (f : Fetched) (s : State) : Ans :=
  let p := f.payload
  let what := fld p 0 1
  let first := fld p 4 4
  let n := fld p 8 2
  let o := s.ochre
  checked [(!s.ochreFitted, St.notFitted),
      (1 < what || fld p 1 3 ≠ 0 || fld p 10 2 ≠ 0 || !(if what = 1 then n = 1 else inR n 1 250)
        || (s.indigo.map.nDts ≠ 0 && s.indigo.map.nDts ≤ first), St.badParam)] s fun _ =>
    let head (k scale : Nat) : List Byte :=
      padTo 4 (o.desc.take 4) ++ padTo 4 ((o.desc.drop 4).take 4) ++ le4 (((o.refUse.map (·.1)).getD 0) % 4294967296).toNat
        ++ le2 ((o.refUse.map (fun x => degCode x.2)).getD 0) ++ padTo 2 ((o.desc.drop 12).take 2) ++ le4 first ++ le2 k ++ le1 what
        ++ le1 scale ++ zeros 8
    if o.desc.isEmpty then { status := St.ok, payload := head 0 0, st := s }
    else if what = 0 then
      let zs := (o.zones.drop first).take n
      { status := St.ok, payload := head zs.length 0 ++ zs.flatMap dtsEntryBytes, st := s }
    else
      let sp := wholeSpec (if o.specBase ≤ first then (o.specs[first - o.specBase]?).getD [] else [])
      let ba := wholeSpec o.base
      let k := specScale 256 (sp ++ ba) 0
      let row (l : List Nat) := (List.range 128).flatMap (fun i => le4 ((l[i]?).getD 0 / 2 ^ k))
      { status := St.ok, payload := head 1 k ++ row sp ++ row ba, st := s }

def execOchreRead (r : Req) (s : State) : Res := .next (perform ochreReadSpec cmdOchreRead r s)

/-! ### REF_COIL_CFG (R180, R181) -/

def refCoilCfgSpec : CmdSpec := { opcode := 0x2A, target := .device, mirror := false, len := fixedLen 16 }

def coilReply (s : State) : List Byte :=
  let o := s.ochre
  let age := match o.refAt with
    | some t => min 0xFFFFFFFE ((s.now - t) / 1000000000000)
    | none => 0xFFFFFFFF
  le4 ((o.nuCoil.getD 0) % 4294967296).toNat ++ le2 ((o.tCoil.map degCode).getD 0)
    ++ le1 (flags [o.refWas, !o.refWas && o.refSeen, o.rtdOpen, o.coilDue.isSome]) ++ zeros 1 ++ le4 age

def cmdRefCoilCfg (f : Fetched) (s : State) : Ans :=
  let p := f.payload
  let port := fld p 0 1
  let sets := port = 1 || port = 2
  let b := projected s
  let a := applyRefCoil p b
  checked [(!s.ochreFitted, St.notFitted), (s.calibrating, St.wrongMode),
      (!(port = 0 || ((sets || port = 0xFF) && fld p 1 1 ≤ 7 && definedOr0 sets (fld p 2 1) (inR (fld p 2 1) 1 2) && fld p 3 1 = 0
        && definedOr0 sets (fld p 8 2) (inR (fld p 8 2) 16 2048) && fld p 4 4 + fld p 8 2 ≤ 262144 && fld p 10 2 = 0)), St.badParam),
      (sets && !okOchre a s.planMode, St.badParam)] s fun _ =>
    if port = 0xFF then { status := St.ok, payload := coilReply s, st := s }
    else
      let r := schedule f p false false 1 false s
      { status := St.ok, payload := coilReply r.1, due := r.2.dueOf, st := r.1 }

def execRefCoilCfg (r : Req) (s : State) : Res := .next (perform refCoilCfgSpec cmdRefCoilCfg r s)

end Sys2Proof.Machine
end

