-- ==== Sys2Proof/Machine/Cal.lean ====
section
/-! DEFINITION. Machine/Cal.lean: Mordant (R182-R203), and the reference loss that asks for a step (R110, R197). -/

namespace Sys2Proof.Machine

open Sys2Proof

/-- Is a step not applicable (R182)? -/
def stepNA (s : State) (k : Nat) : Bool :=
  match k with
  | 4 => !s.ochreFitted || s.ochre.retired
  | 6 => !s.ochreFitted || s.ochre.retired || s.ochre.coilDue.isNone
  | _ => false

/-- Is a step's dependency met (R182)? -/
def stepReady (s : State) (k : Nat) : Bool := [0, 1, 6].contains k || s.light.locked

def mask7 (k : Nat) : BitVec 7 := BitVec.ofNat 7 (2 ^ k)

/-- The steps that are not applicable, as a mask. -/
def naMask (s : State) : Nat := flags ((List.range 7).map (stepNA s))

/-! ### Drift (R197, R198) -/

/-- Does an indicator's value pass its limit (R197)? Units: die temperatures 0.01 K (`ADC`, `DELAY`), 0.1 Hz (`LOCK`), episodes
(`REFSCALE`), 0.1 dB (`RXIQ`), 0.1 kHz (`SIDEBAND`), 0.1 mK (`COIL`). The three that measure a change since their step need
one to have completed (log 177). -/
def driftPasses (k : Nat) (value : Int) (s : State) : Bool :=
  let moved (limit : Nat) : Bool := (vget s.cal.steps k).st ≠ 0 && limit < (value - vget s.cal.ref k).natAbs
  !stepNA s k && (match k with
    | 0 => moved 1500
    | 1 => decide (200 < value)
    | 2 => decide (1 ≤ value)
    | 3 => decide (value < 300)
    | 4 => decide (1000 < value)
    | 5 => moved 2000
    | _ => moved 200)

/-- `CAL_DRIFT` with the whole mask (R198). -/
def driftItem (s : State) : State := raise { code := 0x0500, a0 := s.cal.requested.toNat, a1 := s.cal.gen.toNat } s

/-- An indicator is evaluated: passing its limit sets its bit and queues `CAL_DRIFT`, unless the bit is set already. -/
def drift (k : Nat) (value : Int) (s : State) : State :=
  if !s.inMode [.warm, .acoustic, .survey, .full] || !driftPasses k value s then s
  else
    let was := s.cal.requested.getLsbD k
    let told := !was || vget s.cal.crossed k = (s.cycle + 1, true)
    let s := { s with cal.requested := s.cal.requested ||| mask7 k, cal.crossed := vset s.cal.crossed k (s.cycle + 1, told) }
    if was then s else driftItem s

/-- The bits of some steps clear (R198); one crossed in this cycle stays set, and its item is queued. -/
def clearRequests (ks : List Nat) (s : State) : State :=
  ks.foldl (fun s k =>
    let c := vget s.cal.crossed k
    if c.1 = s.cycle + 1 then
      if c.2 then s else driftItem { s with cal.crossed := vset s.cal.crossed k (c.1, true) }
    else { s with cal.requested := s.cal.requested &&& ~~~(mask7 k) }) s

def execCalDrift (t : Ps) (step : Fin 7) (value : Int) (s : State) : Res := .next (drift step.val value (s.adv t))

/-- `REF_LOST` (R110): `IND_REF_LOST` once per episode; it counts as a drift indicator of `REFSCALE` (R197). -/
def execRefLost (t : Ps) (percent : Nat) (s : State) : Res :=
  let s := s.adv t
  .next (if s.indigo.refLost then s
    else drift 2 1 (raise { code := 0x0305, unit := 0x0100, a0 := percent } { s with indigo.refLost := true }))

/-- `REF_RESUME`: the reference has been good for t_rt(L_f) + T_p + 1 us; subtraction resumes. -/
def execRefResume (t : Ps) (s : State) : Res := .next { (s.adv t) with indigo.refLost := false }

/-! ### A run (R187-R196) -/

/-- Overall status of a run (R195). -/
def calStatus (r : CalRun) (aborted : Option Nat) : Nat :=
  match aborted with
  | some st => st
  | none => if r.late ≠ 0 then St.calTimeout else if r.skipped ≠ 0 || r.out ≠ 0 then St.degraded else St.ok

/-- `CAL_DONE` under an epoch (R196). -/
def calDone (r : CalRun) (aborted : Option Nat) (epoch : U16) (s : State) : State :=
  let dur := if r.started then (s.now - r.began) / 1000000 else 0
  evtItemE 0x06 epoch (le2 r.tag.toNat ++ le1 (calStatus r aborted) ++ le1 (bit r.startup) ++ le1 r.ok ++ le1 r.out
    ++ le1 r.late ++ le1 r.skipped ++ le1 r.na ++ zeros 3 ++ le4 s.cal.gen.toNat ++ le4 dur ++ zeros 4) s

/-- The boundary at which launches resume: the first of the plan in force at least 25 us ahead (R189 step 5); after a run that
a recovery ended, the first after the recovery (R194). -/
def resumeAt (aborted : Bool) (s : State) : Ps :=
  if aborted then ((boundaryIn s.light.segs (s.now + 1)).map (·.2)).getD s.now else (boundFor s s.now).due

/-- The run is over: `CAL_DONE`, and the way back to the mode left (R189 steps 4 and 5). -/
def finishRun (r : CalRun) (aborted : Option Nat) (epoch : U16) (s : State) : State :=
  let s := { s with cal.run := none }
  let back := s.power.calFrom
  let s :=
    if back = .warm then
      -- MODE_CHANGE goes before CAL_DONE in the same cycle (R333)
      calDone r aborted epoch (modeItem .calibrate .warm 6 0 0 0 { s with power.mode := .warm })
    else
      { (calDone r aborted epoch s) with
        indigo.staleUntil := some (resumeAt aborted.isSome s),
        power.trans := some { from_ := .calibrate, to_ := back, cause := 6, tag := 0, began := s.now,
                              due := resumeAt aborted.isSome s } }
  if r.startup then s else endLong 0x70 { s with cmd.cmdsDone := s.cmd.cmdsDone + 1 }

/-- The port switch starts for the other port, from where a move under way ends; in the `DELAY` step the power is at most `APR_LEVEL`
(R182, log 216). -/
def beginDelay (s : State) : State :=
  let from_ := (s.light.switching.map (·.2)).getD s.now
  { s.took with light.switching := some (3 - s.light.port, max s.now from_ + 50000000000),
                light.powerNow := some (min s.light.cfg.aprLevel (Config.delayPower s.freeIdx)) }

/-- The switch goes back to the port selected, from another one (R182). -/
def homeSwitch (at_ : Nat) (s : State) : State :=
  if at_ = s.light.port then s else { s with light.switching := some (s.light.port, s.now + 50000000000) }

/-- A step of a run begins: `DELAY` moves the port switch (R182), `COIL` measures through the coil's channel, whose results it marks
(R436). -/
def beginStep (k : Nat) (s : State) : State := if k = 5 then beginDelay s else if k = 6 then measureRef s else s

/-- A step has ended: after `DELAY` the switch is back on the port selected, or on its way (R182). -/
def leaveStep (k : Nat) (s : State) : State :=
  match s.light.switching with
  | some (p, _) => if k = 5 then homeSwitch p s else s
  | none => s

/-- Steps that do not run are passed: not applicable, or skipped for a dependency (R182). The run ends after the last. -/
def advanceRun : Nat → CalRun → State → State
  | 0, r, s => { s with cal.run := some r }
  | n + 1, r, s =>
    match r.todo with
    | [] => finishRun r none s.answerEpoch s
    | k :: rest =>
      if stepNA s k then advanceRun n { r with todo := rest, na := r.na + 2 ^ k } s
      else if !stepReady s k then
        advanceRun n { r with todo := rest, skipped := r.skipped + 2 ^ k }
          { s with cal.steps := vmod s.cal.steps k (fun c => { c with result := 2, refreshed := false }) }
      else beginStep k { s with cal.run := some r }

/-- The drain is complete: the first requested step begins (R189 step 3). -/
def beginSteps (t : Ps) (s : State) : State :=
  match s.cal.run with
  | some r =>
    if !r.started && s.cmd.recovery.isNone && s.indigo.staleFrom.any (· < t) then advanceRun 8 { r with started := true, began := t } s else s
  | none => s

/-- A run starts: CALIBRATE entered, outputs held from H on; with no launches the steps begin at once (R189). What the run's
commands report is held (R191). -/
def startRun (steps : List Nat) (tag : U16) (startup : Bool) (s : State) : State :=
  let from_ := s.power.mode
  let b := boundFor s s.now
  let s := modeItem from_ .calibrate 6 0 0 0 { s with power.mode := .calibrate, power.calFrom := from_ }
  let s := if b.now_ then s else { s with indigo.staleFrom := some b.due }
  let r : CalRun :=
    { todo := steps, tag := tag, startup := startup, began := s.now, held := s.cal.steps, heldGen := s.cal.gen,
      heldReq := s.cal.requested, heldNa := naMask s, heldLo := s.cal.loAt, heldCoil := (s.cal.coilCh, s.cal.coilRtd),
      started := b.now_ }
  if b.now_ then advanceRun 8 r s else { s with cal.run := some r }

/-- Is a figure within its step's limit, in the units of R203 (the step table of chapter 05)? -/
def stepInLimit (k : Nat) (figure : Int) : Bool :=
  match k with
  | 0 => figure ≤ -650
  | 1 => figure ≤ 200
  | 2 => figure ≤ 50
  | 3 => 350 ≤ figure
  | 4 => figure ≤ 1000
  | 5 => figure ≤ 10
  | _ => figure ≤ 200

/-- New values of a step in force: its generation counts (R186) and its request clears (R198). -/
def putStep (k : Nat) (c : CalStep) (ref : Int) (s : State) : State :=
  clearRequests [k]
    { s with cal.steps := vset s.cal.steps k c, cal.gen := s.cal.gen + 1, cal.ref := vset s.cal.ref k ref }

/-- What a step's section begins with (R199): the values that the model uses of it, 64-bit or 32-bit little-endian. The sections are
device data whose form the spec does not give: DESIGN CHOICE (log 16). `nw`: N_W of the probe the floor was measured with. -/
def sectionHead (nw k : Nat) (d : CalIn) : List Byte :=
  match k with
  | 2 => le8 d.tau
  | 4 => le8 d.floor ++ le2 nw
  | 5 => (d.delays.take 4).flatMap (leInt 4)
  | 6 => leInt 4 d.coilGain ++ leInt 4 d.coilOffset
  | _ => []

/-- Offset and length of each step's section. -/
def sectionAt (k : Nat) : Nat × Nat :=
  ([(64, 512), (576, 256), (832, 512), (1344, 6144), (7488, 1024), (8512, 256), (8768, 256)][k]?).getD (0, 0)

/-- The delays of R15, ps: TX_S1, TX_S2, RX_S1, RX_S2. -/
def putDelays (l : List Int) (s : State) : State :=
  let v (i : Nat) : Int := (l[i]?).getD 0
  { s with fibre.s1.dlyTx := v 0, fibre.s2.dlyTx := v 1, fibre.s1.dlyRx := v 2, fibre.s2.dlyRx := v 3 }

/-- What a completed step leaves in its entry (R183-R185). -/
def stepValues (k : Nat) (d : CalIn) (s : State) : CalStep :=
  { st := 1, result := 0, refreshed := true, out := !stepInLimit k d.figure, figure := d.figure,
    doneSec := BitVec.ofNat 32 (s.devSec s.now), data := some (sectionHead (gateLen s.ochre.cfg) k d ++ d.section_) }

/-- The values of a step's section in force, by what it begins with: lock and drive currents, tau_ref, the Ochre receiver's noise
floor, the delays of R15, the trim of the thermometer chain. -/
def useSection (k : Nat) (d : List Byte) (s : State) : State :=
  match k with
  | 1 => redrive [0, 1] { s with light.locked := true }
  | 2 => { s with indigo.tau := fld d 0 8 }
  | 4 => redrive [6] { s with ochre.floor := some ((fld d 0 8 : Rat) / fld d 8 2) }
  | 5 => putDelays ((List.range 4).map (fun i => sfld d (4 * i) 4)) s
  | 6 => { s with ochre.coilGain := sfld d 0 4, ochre.coilOffset := sfld d 4 4 }
  | _ => s

/-- The values of a completed step take force (R183-R186). -/
def applyStep (k : Nat) (d : CalIn) (s : State) : State :=
  let s := useSection k (sectionHead (gateLen s.ochre.cfg) k d) (putStep k (stepValues k d s) d.ref s)
  match k with
  | 4 => { s with cal.loAt := s.ochre.cfg.lo }
  | 6 => match s.ochre.coilDue with
    | some q => { s with cal.coilCh := q.auxCh, cal.coilRtd := q.rtd }
    | none => s
  | _ => s

/-- The run whose step is in progress; none once a recovery has ended it (R194). -/
def runningRun (s : State) : Option CalRun := s.cal.run.filter (fun r => r.started && s.cmd.recovery.isNone)

/-- Is the `DELAY` step in progress? -/
def delayRuns (s : State) : Bool := ((runningRun s).bind (·.todo.head?)) = some 5

/-- `CAL_STEP_DONE` (R183): the running step's values apply and the next step starts. -/
def execCalStepDone (t : Ps) (d : CalIn) (s : State) : Res :=
  let s := s.adv t
  .next (match runningRun s with
    | some r =>
      match r.todo with
      | k :: rest =>
        let fine := stepInLimit k d.figure
        let r := { r with todo := rest, ok := if fine then r.ok + 2 ^ k else r.ok,
                          out := if fine then r.out else r.out + 2 ^ k }
        advanceRun 8 r (leaveStep k (applyStep k d s))
      | [] => s
    | none => s)

/-- `CAL_STEP_TIMEOUT` (R193): the step's previous values stay in force; the run goes on. -/
def execCalStepTimeout (t : Ps) (s : State) : Res :=
  let s := s.adv t
  .next (match runningRun s with
    | some r =>
      match r.todo with
      | k :: rest =>
        advanceRun 8 { r with todo := rest, late := r.late + 2 ^ k }
          (leaveStep k { s with cal.steps := vmod s.cal.steps k (fun c => { c with result := 1, refreshed := false }) })
      | [] => s
    | none => s)

/-- A run cut short (R194): the step in progress keeps its previous values, the others were not reached, and the last run skipped
them (R203). -/
def cutRun (r : CalRun) (s : State) : CalRun × State :=
  let na := r.todo.filter (fun k => stepNA s k)
  let left := r.todo.filter (fun k => !stepNA s k)
  ({ r with skipped := r.skipped + (left.map (2 ^ ·)).sum, na := r.na + (na.map (2 ^ ·)).sum },
   let end_ (x : Byte) (k : Nat) (s : State) : State :=
     { s with cal.steps := vmod s.cal.steps k (fun c => { c with result := x, refreshed := false }) }
   match left with
   | k :: rest => rest.foldl (fun s k => end_ 2 k s) (end_ (if r.started then 3 else 2) k (if r.started then leaveStep k s else s))
   | [] => s)

/-- A run ended by a recovery: the device returns to the mode it left. -/
def abortRun (status : Nat) (epoch : U16) (s : State) : State :=
  match s.cal.run with
  | none => s
  | some r => finishRun (cutRun r s).1 (some status) epoch (cutRun r s).2

/-- A run ended by a fatal fault: `CAL_DONE` with `ABORTED_FAULT`; the device does not return. -/
def dropRun (s : State) : State :=
  match s.cal.run with
  | none => s
  | some r =>
    -- a run that a recovery has ended already reports the epoch before it (R194)
    let epoch := s.answerEpoch
    let s' := { (calDone (cutRun r s).1 (some St.abortedFault) epoch (cutRun r s).2) with cal.run := none }
    if r.startup then s' else endLong 0x70 { s' with cmd.cmdsDone := s'.cmd.cmdsDone + 1 }

def calRunSpec : CmdSpec := { opcode := 0x70, target := .device, mirror := false, len := fixedLen 4 }

/-- `CAL_RUN`. R188 does not say what it does while a mode transition is under way: DESIGN CHOICE, `WRONG_MODE`, as it would be
in a mode of neither end (log 178). -/
def cmdCalRun (f : Fetched) (s : State) : Ans :=
  let steps := fld f.payload 0 1
  checked [(!s.inMode [.warm, .acoustic, .survey, .full, .calibrate] || (s.power.trans.isSome && !s.calibrating), St.wrongMode),
      (s.calibrating, St.busy),
      (s.longBusy 0x70, St.busy), (steps = 0 || 127 < steps || fld f.payload 1 3 ≠ 0, St.badParam)] s fun _ =>
    { status := St.accepted, st := s, after := startRun ((List.range 7).filter (tst steps)) f.tag false }

def execCalRun (r : Req) (s : State) : Res := .next (perform calRunSpec cmdCalRun r s)

/-! ### The blob (R199-R201) -/

/-- A step's section as saved: what its run measured, else device data. -/
def sectionBytes (c : CalStep) (k : Nat) : List Byte :=
  let n := (sectionAt k).2
  match c.data with
  | some d => (padTo n d).take n
  | none => (List.range n).map (Config.blobByte k)

/-- The blob of some values (R199): steps, generation, steps not applicable, `LO_OFFSET` and coil. -/
def makeBlob (steps : Vector CalStep 7) (gen : U32) (na lo : Nat) (coil : Nat × Nat) (s : State) : List Byte :=
  let st := steps.toList
  let ix := (List.range 7).zip st
  let valid := flags (ix.map (fun x => x.2.st ≠ 0 && !tst na x.1))
  let head := le2 1 ++ le1 (s.part.caps.toNat % 256) ++ le1 (s.part.caps.toNat / 2 ^ 18 % 4) ++ le8 s.part.dieId.toNat
    ++ le4 gen.toNat ++ le2 s.light.plan.carrier ++ le2 lo ++ le1 valid ++ zeros 1 ++ le1 coil.1
    ++ le1 coil.2 ++ le4 (s.devSec s.now) ++ st.flatMap (fun c => le4 c.doneSec.toNat) ++ zeros 8
  let body := ix.flatMap (fun x => sectionBytes x.2 x.1)
  let q := st.flatMap (fun c => leInt 4 c.figure) ++ (List.range 3172).map (Config.blobByte 7)
  withCrc (head ++ body ++ q ++ zeros 60)

def calSaveSpec : CmdSpec := { opcode := 0x71, target := .device, mirror := false, len := fixedLen 8 }

/-- `CAL_SAVE` (R200): offset 0 takes the snapshot; in CALIBRATE it is of the state at the start of the run (R191). -/
def cmdCalSave (f : Fetched) (s : State) : Ans :=
  let off := fld f.payload 0 4
  let n := fld f.payload 4 2
  checked [(off % 4 ≠ 0 || !(inR n 4 4032) || n % 4 ≠ 0 || fld f.payload 6 2 ≠ 0 || 12288 < off + n
      || (off ≠ 0 && s.cal.snap.isNone), St.badParam)] s fun _ =>
    let s := if off = 0 then
      match s.cal.run with
      | some r => { s with cal.snap := some (makeBlob r.held r.heldGen r.heldNa r.heldLo r.heldCoil s, r.heldGen) }
      | none =>
        { s with cal.snap := some (makeBlob s.cal.steps s.cal.gen (naMask s) s.cal.loAt (s.cal.coilCh, s.cal.coilRtd) s, s.cal.gen) }
    else s
    let (b, g) := s.cal.snap.getD ([], 0)
    { status := St.ok, st := s,
      payload := le4 g.toNat ++ le4 off ++ le2 n ++ zeros 2 ++ le4 12288 ++ (b.drop off).take n }

def execCalSave (r : Req) (s : State) : Res := .next (perform calSaveSpec cmdCalSave r s)

def calRestoreSpec : CmdSpec := { opcode := 0x72, target := .device, mirror := false, len := fixedLen 12 }

/-- Why a section is not loaded (R201); 0: loaded. -/
def restoreReason (s : State) (blob : List Byte) (sections k : Nat) : Nat :=
  if !tst sections k then 1
  else if !tst (fld blob 20 1) k then 2
  else if (k = 1 || k = 4) && fld blob 16 2 ≠ s.light.plan.carrier then 3
  else if k = 4 && fld blob 18 2 ≠ s.ochre.cfg.lo then 4
  else if k = 6 && !(match s.ochre.coilDue with
      | some c => c.auxCh = fld blob 22 1 && c.rtd = fld blob 23 1 | none => false) then 5
  else if stepNA s k then 6
  else 0

/-- One section loaded, with the figure the quality region holds for it and the limit test of that figure (log 16). The drift
reference taken again (R197) is a reading of the device. -/
def loadSection (blob : List Byte) (k : Nat) (s : State) : State :=
  let (off, n) := sectionAt k
  let fig := sfld blob (9024 + 4 * k) 4
  let sec := (blob.drop off).take n
  let old := vget s.cal.steps k
  let c : CalStep :=
    { old with st := 2, figure := fig, out := !stepInLimit k fig, doneSec := BitVec.ofNat 32 (fld blob (28 + 4 * k) 4), data := some sec }
  let s := useSection k sec (putStep k c (Config.reading (70 + k) s.freeIdx).toInt s).took
  match k with
  | 4 => { s with cal.loAt := fld blob 18 2 }
  | 6 => { s with cal.coilCh := fld blob 22 1, cal.coilRtd := fld blob 23 1 }
  | _ => s

def cmdCalRestore (f : Fetched) (s : State) : Ans :=
  let p := f.payload
  let stg := fld p 0 1
  let secs := fld p 1 1
  let b := vget s.stages stg
  let img := b.decoded
  let whole := b.phase = 2
  checked [(!s.inMode [.standby, .warm], St.wrongMode),
      (3 < stg || secs = 0 || 127 < secs || fld p 2 2 ≠ 0, St.badParam),
      (fld p 4 4 ≠ 12288, St.checkFail),
      (whole && (img.length ≠ 12288 || fld p 8 4 ≠ (crc32c img).toNat
        || fld img 12284 4 ≠ (crc32c (img.take 12284)).toNat), St.checkFail),
      (!whole || fld img 0 2 ≠ 1 || fld img 2 1 ≠ s.part.caps.toNat % 256 || fld img 3 1 ≠ s.part.caps.toNat / 2 ^ 18 % 4
        || fld img 4 8 ≠ s.part.dieId.toNat, St.badParam)] s fun _ =>
    let rs := (List.range 7).map (restoreReason s img secs)
    let load := (List.range 7).filter (fun k => (rs[k]?).getD 1 = 0)
    let s' := load.foldl (fun st k => loadSection img k st) s
    let all := (List.range 7).all (fun k => !tst secs k || (rs[k]?).getD 1 = 0)
    { status := if all then St.ok else St.degraded, st := s',
      payload := rs.flatMap (fun x => le1 x) ++ le1 ((load.map (2 ^ ·)).sum) ++ le4 s'.cal.gen.toNat }

def execCalRestore (r : Req) (s : State) : Res := .next (perform calRestoreSpec cmdCalRestore r s)

/-! ### CAL_QUALITY (R203) -/

def calQualitySpec : CmdSpec := { opcode := 0x73, target := .device, mirror := false, len := fixedLen 4 }

def qualityStep (s : State) (na : Nat) (c : CalStep) (k : Nat) : List Byte :=
  let age := if c.st = 0 then 0xFFFFFFFF else (s.devSec s.now + 2 ^ 32 - c.doneSec.toNat) % 2 ^ 32
  le1 (if tst na k then 3 else c.st) ++ le1 c.result.toNat ++ le1 (flags [c.refreshed, c.out]) ++ zeros 1
    ++ leInt 4 c.figure ++ le4 age

def cmdCalQuality (f : Fetched) (s : State) : Ans :=
  let fl := fld f.payload 0 1
  checked [(1 < fl || fld f.payload 1 3 ≠ 0, St.badParam)] s fun _ =>
    let (steps, gen, req, na) := match s.cal.run with
      | some r => (r.held, r.heldGen, r.heldReq, r.heldNa)
      | none => (s.cal.steps, s.cal.gen, s.cal.requested, naMask s)
    { status := St.ok, st := if fl = 1 then clearRequests (List.range 7) s else s,
      payload := le4 gen.toNat ++ le1 req.toNat ++ zeros 3
        ++ ((List.range 7).zip steps.toList).flatMap (fun x => qualityStep s na x.2 x.1) }

def execCalQuality (r : Req) (s : State) : Res := .next (perform calQualitySpec cmdCalQuality r s)

end Sys2Proof.Machine
end

