-- ==== Sys2Proof/Machine/Flags.lean ====
section
/-! DEFINITION. Machine/Flags.lean: the status register of a zone core (R279): compares, conditions (R285), the limits of
accumulators (R286) and of narrowing stores and moves (R287). -/

namespace Sys2Proof.Machine

open Sys2Proof

/-- `st` with one bit set or cleared. -/
def stBit (st : U16) (i : Nat) (b : Bool) : U16 :=
  if b then st ||| BitVec.ofNat 16 (2 ^ i) else st &&& ~~~(BitVec.ofNat 16 (2 ^ i))

/-- `LT`, `EQ`, `GT` set by a compare of `a` against `b`. -/
def stCompare (st : U16) (a b : Int) : U16 := stBit (stBit (stBit st 5 (a < b)) 6 (a = b)) 7 (b < a)

/-- Does a condition hold (R285)? -/
def condHolds (st : U16) (cond : BitVec 4) : Bool :=
  let lt := st.getLsbD 5
  let eq := st.getLsbD 6
  let gt := st.getLsbD 7
  let ov := (st.extractLsb' 0 4) ≠ 0#4
  match cond.toNat with
  | 0 => eq
  | 1 => !eq
  | 2 => lt
  | 3 => gt || eq
  | 4 => gt
  | 5 => lt || eq
  | 6 => ov
  | 7 => !ov
  | 14 => true
  | _ => false

/-- A value limited to two's complement of `w` bits. -/
def limit (w : Nat) (v : Int) : Int := max (-(2 ^ (w - 1))) (min (2 ^ (w - 1) - 1) v)

/-- The value of an accumulator after an operation, and `st` with its `ACC_OV` bit set when the limit applied (R286). -/
def accResult (a : Fin 4) (v : Int) (st : U16) : BitVec 40 × U16 :=
  (BitVec.ofInt 40 (limit 40 v), if limit 40 v = v then st else stBit st a.val true)

/-- A narrowed value of `w` bits, and `st` with `ST_SAT` set when the limit applied (R287). -/
def narrow (w : Nat) (acc : BitVec 40) (sh : Nat) (st : U16) : Int × U16 :=
  let v := acc.toInt / (2 ^ sh : Nat)
  (limit w v, if limit w v = v then st else stBit st 4 true)

end Sys2Proof.Machine
end

