-- ==== Sys2Proof/Machine/Memory.lean ====
section
/-! DEFINITION. Machine/Memory.lean: the memories of a zone core (R276, R280, R304): bytes by address, in one canonical
form. An unlisted byte reads 0, which is what loading leaves there. -/

namespace Sys2Proof.Machine

open Sys2Proof

/-- Are the addresses above `lo` and rising, with no byte 0? -/
def Memory.wfFrom : Option Nat → Memory → Bool
  | _, [] => true
  | lo, c :: rest => (match lo with | some l => decide (l < c.1) | none => true) && c.2 ≠ 0 && Memory.wfFrom (some c.1) rest

/-- The canonical form: addresses rise strictly and no listed byte is 0. -/
def Memory.wf (m : Memory) : Bool := Memory.wfFrom none m

/-- The byte at an address. -/
def Memory.read (m : Memory) (a : Nat) : Byte :=
  match m with
  | [] => 0
  | c :: rest => if c.1 = a then c.2 else Memory.read rest a

/-- A byte written: the entry of its address replaced, or removed when it is 0. -/
def Memory.write (m : Memory) (a : Nat) (b : Byte) : Memory :=
  match m with
  | [] => if b = 0 then [] else [(a, b)]
  | c :: rest =>
    if c.1 < a then c :: Memory.write rest a b
    else if c.1 = a then (if b = 0 then rest else (a, b) :: rest)
    else if b = 0 then c :: rest
    else (a, b) :: c :: rest

/-- Consecutive bytes written from an address. -/
def Memory.writes : Memory → Nat → List Byte → Memory
  | m, _, [] => m
  | m, a, b :: bs => Memory.writes (Memory.write m a b) (a + 1) bs

/-- A memory that holds these bytes from an address and 0 elsewhere. -/
def Memory.ofBytes : Nat → List Byte → Memory
  | _, [] => []
  | a, b :: bs => if b = 0 then Memory.ofBytes (a + 1) bs else (a, b) :: Memory.ofBytes (a + 1) bs

/-- `n` bytes of zeros written from an address. -/
def Memory.clear (m : Memory) (a n : Nat) : Memory := Memory.writes m a (List.replicate n 0)

/-- The halfword at a halfword address. -/
def Memory.half (m : Memory) (h : Nat) : U16 := Memory.read m (2 * h + 1) ++ Memory.read m (2 * h)

/-- A halfword written. -/
def Memory.setHalf (m : Memory) (h : Nat) (v : U16) : Memory :=
  Memory.write (Memory.write m (2 * h) (v.extractLsb' 0 8)) (2 * h + 1) (v.extractLsb' 8 8)

/-- The instruction word at a word address. -/
def Memory.word (m : Memory) (w : Nat) : U32 :=
  Memory.read m (4 * w + 3) ++ Memory.read m (4 * w + 2) ++ Memory.read m (4 * w + 1) ++ Memory.read m (4 * w)

end Sys2Proof.Machine
end

