-- ==== Sys2Proof/Machine/Operands.lean ====
section
/-! DEFINITION. Machine/Operands.lean: pointers and memory operands of a zone core (R280, R281). -/

namespace Sys2Proof.Machine

open Sys2Proof

/-- ⌈log2 m⌉. -/
def clog2 (m : Nat) : Nat := if m ≤ 1 then 0 else Nat.log2 (m - 1) + 1

/-- A pointer `s` halfwords on, wrapping in a buffer of length `m` when `m` is not 0 (R281). -/
def wrapPtr (p : BitVec 14) (m : Nat) (s : Int) : BitVec 14 :=
  if m = 0 then BitVec.ofInt 14 ((p.toNat : Int) + s)
  else
    let b := p.toNat / 2 ^ clog2 m * 2 ^ clog2 m
    BitVec.ofNat 14 (b + (((p.toNat - b : Nat) : Int) + s).emod m |>.toNat)

/-- The modulo length of a pointer: `m0`-`m3` for `p0`-`p3`. -/
def Core.modLen (x : Core) (p : Fin 8) : Nat := if p.val < 4 then (vget x.m p.val).toNat else 0

def Core.ptr (x : Core) (p : Fin 8) : BitVec 14 := vget x.p p.val
def Core.setPtr (x : Core) (p : Fin 8) (v : BitVec 14) : Core := { x with p := vset x.p p.val v }

/-- A pointer moved by `s` halfwords with its wrap. -/
def Core.ptrAt (x : Core) (p : Fin 8) (s : Int) : BitVec 14 := wrapPtr (x.ptr p) (x.modLen p) s

/-- The direction of a modify code. -/
def modDir (m : BitVec 2) : Int := match m.toNat with | 1 => 1 | 2 => -1 | _ => 0

/-- The post-modify of an access with a step of `n` halfwords. -/
def Core.modify (x : Core) (p : Fin 8) (m : BitVec 2) (n : Nat) : Core :=
  if modDir m = 0 then x else x.setPtr p (x.ptrAt p (modDir m * n))

/-- The halfword address a pointer names: bit 13 ignored in split mode. -/
def Core.addr (x : Core) (p : BitVec 14) : Nat := if x.unified then p.toNat else p.toNat % 8192

/-- The memory of a space: one in unified mode. -/
def Core.space (x : Core) (y : Bool) : Memory := if y && !x.unified then x.ymem else x.xmem
def Core.setSpace (x : Core) (y : Bool) (m : Memory) : Core :=
  if y && !x.unified then { x with ymem := m } else { x with xmem := m }

/-- The halfword a pointer value names in a space, and writing it. -/
def Core.half (x : Core) (y : Bool) (p : BitVec 14) : U16 := (x.space y).half (x.addr p)
def Core.setHalf (x : Core) (y : Bool) (p : BitVec 14) (v : U16) : Core := x.setSpace y ((x.space y).setHalf (x.addr p) v)

/-- A 32-bit operand: low half at the pointer, high half one halfword on. -/
def Core.word (x : Core) (m : MemOp) : U32 :=
  x.half m.spaceY (x.ptrAt m.p 1) ++ x.half m.spaceY (x.ptr m.p)

/-- A 32-bit store, with its post-modify of two halfwords. -/
def Core.storeWord (x : Core) (m : MemOp) (v : U32) : Core :=
  ((x.setHalf m.spaceY (x.ptr m.p) (v.extractLsb' 0 16)).setHalf m.spaceY (x.ptrAt m.p 1) (v.extractLsb' 16 16)).modify
    m.p m.mod 2

/-- A 16-bit store, with its post-modify of one halfword. -/
def Core.storeHalf (x : Core) (m : MemOp) (v : U16) : Core := (x.setHalf m.spaceY (x.ptr m.p) v).modify m.p m.mod 1

/-- The cycles of a store: one more in unified mode (R280, R284). -/
def Core.storeCost (x : Core) : Nat := if x.unified then 2 else 1

/-- The second halfword of a `mac2` operand: one halfword on in the direction of its modify, forward for 0b00. -/
def Core.second (x : Core) (y : Bool) (p : Fin 8) (m : BitVec 2) : U16 :=
  x.half y (x.ptrAt p (if modDir m = 0 then 1 else modDir m))

/-- The post-modifies of a MAC: X, then Y (log 41). -/
def Core.macModify (x : Core) (m : MacOp) (n : Nat) : Core := (x.modify m.px m.xmod n).modify m.py m.ymod n

end Sys2Proof.Machine
end

