-- ==== Sys2Proof/Machine/EventQueue.lean ====
section
/-! DEFINITION. Machine/EventQueue.lean: the host side of the event queue (R334-R339). -/

namespace Sys2Proof.Machine

open Sys2Proof

/-- Can the host reach BAR0: link up, PD2 on (R554)? -/
def State.hostUp (s : State) : Bool :=
  s.link.pcieUp && !s.power.sleeping && !s.power.starting && s.power.supplyOut.isNone

/-- `EVT_TAG` (R334). -/
def evtTag (first last idle poison : Bool) (word unread : Nat) : U32 :=
  BitVec.ofNat 32 (flags [first, last, idle, poison] + (word % 8) * 16 + (unread % 128) * 256)

/-- The complete unread word at the read point, at a cycle: item and its word index. -/
def EvqState.front (q : EvqState) (cyc : Nat) : Option EvtItem :=
  match q.items[q.rdItem]? with
  | some it => if it.doneAt ≤ cyc then some it else none
  | none => none

/-- The read point one word on. -/
def EvqState.advance (q : EvqState) (it : EvtItem) : EvqState :=
  if q.rdWord + 1 < it.words.length then { q with rdWord := q.rdWord + 1 }
  else { q with rdItem := q.rdItem + 1, rdWord := 0 }

/-- A word that fails parity fails again when read again (R336). -/
def EvqState.poisonAt (q : EvqState) (item word : Nat) : EvqState :=
  { q with items := q.items.modify item (fun it => { it with poison := it.poison.set word true }) }

/-- A read of `EVT_DATA_LO` (R334, R336, R340). -/
def evtRead (parityFails : Bool) (s : State) : State :=
  let q := s.evq
  match if q.fwdOn then none else q.front s.cycle with
  | some it =>
    let w := (it.words[q.rdWord]?).getD 0
    let bad := parityFails || (it.poison[q.rdWord]?).getD false
    let q1 := (if parityFails then q.poisonAt q.rdItem q.rdWord else q).advance it
    let tag := evtTag (q.rdWord = 0) (q.rdWord + 1 = it.words.length) false bad q.rdWord (q1.unreadAt s.cycle)
    send (.regRead 0x0400 (w.extractLsb' 0 32))
      { s with evq := { q1 with dataHi := w.extractLsb' 32 32, tag := tag } }
  | none =>
    let hdr := s.cmd.epoch.toNat * 65536
    send (.regRead 0x0400 (BitVec.ofNat 32 hdr))
      { s with evq := { q with dataHi := BitVec.ofNat 32 (s.stamp s.now), tag := evtTag true true true false 0 0 } }

def execEvtDataLoRead (t : Ps) (parityFails : Bool) (s : State) : Res :=
  let s := s.adv t
  .next (if s.hostUp then evtRead parityFails s else s)

/-- A read of `EVT_LOST` (RC, R334, R559): a drop in the cycle of the read counts in the value that follows. -/
def execEvtLostRead (dropInCycle : Bool) (s : State) : Res :=
  .next (if s.hostUp then
    send (.regRead 0x0424 s.evq.lost) { s with evq.lost := if dropInCycle then 1 else 0 } else s)

/-- `EVT_MARK` (R335): the mark to the start of the item that holds the read point. -/
def execEvtMark (s : State) : Res :=
  .next (if s.hostUp && !s.evq.fwdOn then { s with evq.mark := s.evq.rdItem } else s)

/-- `EVT_REWIND` (R335, R337): the read point to the mark. -/
def execEvtRewind (s : State) : Res :=
  .next (if s.hostUp && !s.evq.fwdOn then
    riseCheck s.evq.unread { s with evq := { s.evq with rdItem := s.evq.mark, rdWord := 0 } } else s)

/-- The words before the item that holds the read point freed (R335); they count as free from the next cycle (R333). -/
def evtRelease (s : State) : State :=
  let q := s.evq
  let n := ((q.items.take q.rdItem).map (·.words.length)).sum
  let prior := if q.relCycle = s.cycle then q.relWords else 0
  { s with evq := { q with items := q.items.drop q.rdItem, rdItem := 0, mark := q.mark - q.rdItem,
                           relCycle := s.cycle, relWords := prior + n } }

def execEvtRelease (s : State) : Res :=
  .next (if s.hostUp && !s.evq.fwdOn then evtRelease s else s)

/-- `EVT_FLUSH` (R338): complete items discarded, incomplete ones admitted before it dropped, `FLUSH_MARK` the first item; what was
decided in the flush cycle follows it. -/
def evtFlush (s : State) : State :=
  let q := s.evq
  let late := q.items.filter (fun it => it.cyc = s.cycle)
  let old := q.items.filter (fun it => it.cyc ≠ s.cycle)
  let whole := (old.filter (fun it => it.doneAt ≤ s.cycle)).length + q.forward.length
  let part := (old.filter (fun it => ¬ it.doneAt ≤ s.cycle)).length
  let body := le2 whole ++ le1 part ++ zeros 1 ++ le4 q.lost.toNat
  let s := evtItem 0x0A body
    { s with evq := { q with items := [], rdItem := 0, rdWord := 0, mark := 0, forward := [], relWords := 0 } }
  riseCheck s.evq.unread { s with evq.items := late.foldl (fun l it => placeItem it l) s.evq.items }

def execEvtFlush (t : Ps) (s : State) : Res :=
  let s := s.adv t
  .next (if s.hostUp then evtFlush s else s)

end Sys2Proof.Machine
end

