-- ==== Sys2Proof/Machine/Alms.lean ====
section
/-! DEFINITION. Machine/Alms.lean: what an `ALMS` frame puts on the wire (R229, R230): the word, its check, 8b/10b coding.
PRESUMED (log 181): the code groups, the disparity rule and the negative disparity at power-up are those of IEEE 802.3
Clause 36, which R230 names and does not print. -/

namespace Sys2Proof.Machine

open Sys2Proof

/-! ### The word and its check (R229, R230) -/

/-- The alarm word of a trigger. -/
def alarmWord (ctx zone seq : Nat) : U32 := BitVec.ofNat 32 (ctx + zone % 2 ^ 17 * 2 ^ 8 + seq % 128 * 2 ^ 25)

/-- One bit of the CRC-8 register, polynomial 0x07, most significant bit first. -/
def crc8Bit (c : Byte) : Byte := if c.getLsbD 7 then (c <<< 1) ^^^ 0x07#8 else c <<< 1

/-- CRC-8 of R230: initial value 0, not reflected, no final XOR. -/
def crc8 (l : List Byte) : Byte := l.foldl (fun c b => (List.range 8).foldl (fun x _ => crc8Bit x) (c ^^^ b)) 0

/-! ### 8b/10b -/

/-- The six-bit groups `abcdei` of D.0 to D.31 at negative disparity. -/
def sixBits : List (BitVec 6) :=
  [0b100111#6, 0b011101#6, 0b101101#6, 0b110001#6, 0b110101#6, 0b101001#6, 0b011001#6, 0b111000#6,
   0b111001#6, 0b100101#6, 0b010101#6, 0b110100#6, 0b001101#6, 0b101100#6, 0b011100#6, 0b010111#6]
  ++ [0b011011#6, 0b100011#6, 0b010011#6, 0b110010#6, 0b001011#6, 0b101010#6, 0b011010#6, 0b111010#6,
   0b110011#6, 0b100110#6, 0b010110#6, 0b110110#6, 0b001110#6, 0b101110#6, 0b011110#6, 0b101011#6]

/-- The four-bit groups `fghj` of x.0 to x.7 at negative disparity; x.7 in its primary form. -/
def fourBits : List (BitVec 4) := [0b1011#4, 0b1001#4, 0b0101#4, 0b1100#4, 0b1101#4, 0b1010#4, 0b0110#4, 0b1110#4]

/-- The ones of a group. -/
def ones {n : Nat} (g : BitVec n) : Nat := ((List.range n).filter (fun i => g.getLsbD i)).length

/-- A group given at negative disparity, at the disparity in force: complemented where it is unbalanced or one of the two
balanced groups that have two forms. The disparity after it. -/
def atDisparity {n : Nat} (g : BitVec n) (twoForms plus : Bool) : BitVec n × Bool :=
  let odd : Bool := decide (2 * ones g ≠ n)
  (if plus && (odd || twoForms) then ~~~g else g, plus != odd)

/-- The code group of a data byte, and the disparity after it. -/
def dataGroup (b : Byte) (plus : Bool) : BitVec 10 × Bool :=
  let x := b.toNat % 32
  let y := b.toNat / 32
  let (six, p) := atDisparity ((sixBits[x]?).getD 0) (x = 7) plus
  let alt := y = 7 && (if p then x ∈ [11, 13, 14] else x ∈ [17, 18, 20])
  let (four, q) := atDisparity (if alt then 0b0111#4 else (fourBits[y]?).getD 0) (y = 3) p
  (six ++ four, q)

/-- The code group of /K27.7/ or /K29.7/. -/
def frameGroup (x : Nat) (plus : Bool) : BitVec 10 × Bool :=
  let (six, p) := atDisparity ((sixBits[x]?).getD 0) false plus
  let (four, q) := atDisparity 0b0111#4 false p
  (six ++ four, q)

/-- The groups of some bytes in their order, and the disparity after them. -/
def dataGroups : List Byte → Bool → List (BitVec 10) × Bool
  | [], p => ([], p)
  | b :: rest, p =>
    let (g, q) := dataGroup b p
    let (gs, r) := dataGroups rest q
    (g :: gs, r)

/-- A frame (R230): /K27.7/, the word's bytes from the lowest, their check, /K29.7/; the disparity after it. -/
def almsGroups (w : U32) (plus : Bool) : List (BitVec 10) × Bool :=
  let bytes := le4 w.toNat
  let (a, p) := frameGroup 27 plus
  let (gs, q) := dataGroups (bytes ++ [crc8 bytes]) p
  let (z, r) := frameGroup 29 q
  (a :: gs ++ [z], r)

/-- The idle pair /K28.5/ /D16.2/ (R230) and the disparity after it. -/
def idlePair (plus : Bool) : List (BitVec 10) × Bool :=
  let (six, p) := atDisparity 0b001111#6 false plus
  let (four, q) := atDisparity 0b0101#4 true p
  let (d, r) := dataGroup 0x50#8 q
  ([six ++ four, d], r)

/-- The disparity after some idle characters: /K28.5/ and /D16.2/ each turn it over. -/
def idleDisparity (chars : Nat) (plus : Bool) : Bool := plus != decide (chars % 2 = 1)

end Sys2Proof.Machine
end

