-- ==== Sys2Proof/Machine/Lock.lean ====
section
/-! DEFINITION. Machine/Lock.lean: the launch lock (R60, R408-R412, R419). -/

namespace Sys2Proof.Machine

open Sys2Proof

/-- A fault item of the lock (R420). -/
def lockFault (code : Nat) (s : State) : State :=
  raise { code := code, unit := 0x01A0 + s.lock.tin, a0 := s.lock.pBar % 2 ^ 32 } s

/-- Mean of the last 256 periods (R409), once 257 edges are in. -/
def meanPeriod (edges : List Ps) : Option Nat :=
  match edges.head?, edges[256]? with
  | some a, some b => some ((a - b) / 256)
  | _, _ => none

/-- Is a period inside `P_MIN`-`P_MAX`? -/
def LockState.inRange (l : LockState) (p : Nat) : Bool := l.pMin * 1000 ≤ p && p ≤ l.pMax * 1000

/-- The waiting segment starts at an instant with a period (R408). -/
def startWaiting (at_ : Ps) (tl : Nat) (s : State) : State :=
  let l := s.light
  let segs := l.segs.map (fun g => if g.waits then { g with start := at_, tl := tl, waits := false } else g)
  let headWas := (l.segs.head?.map (·.waits)).getD false
  { s with light.segs := segs, light.nextAt := if headWas then at_ else l.nextAt,
           light.nextSlot := if headWas then 0 else l.nextSlot }

/-- An acquisition ends without a lock: a free-running plan restarts after the drain, and after the port switch has settled
(R89, R408). -/
def endWaiting (tl : Nat) (s : State) : State :=
  let s := burstCheck (freeLock tl s)
  match s.light.segs with
  | g :: _ =>
    if g.waits then
      let e := max s.now s.light.nextAt
      -- a switch that is still to start at the end of the drain takes 50 ms from there
      let settled := if s.light.draining && g.portMove then s.light.nextAt + 50000000000 else (s.light.switching.map (·.2)).getD 0
      startWaiting (max e settled) tl s
    else
      let ends := (s.light.segs.find? (·.waits)).map (fun h =>
        h.drainFrom + g.tl + (if h.portMove then cdiv 50000000000 tl * tl else 0))
      match ends with
      | some e => startWaiting e tl s
      | none => s
  | [] => s

/-- An acquisition fails: the previous free-running plan comes back (R408), its T_L on the grid of R18 for the slot count now in
force. -/
def dropLock (s : State) : State :=
  let g := s.light.plan.nSlots * 10000
  endWaiting (if s.lock.owns then cdiv s.lock.prevTl g * g else s.light.plan.tl) s

/-- Step 3 fails (R408, R412). -/
def syncFail (s : State) : State := dropLock (lockFault 0x0806 s)

/-- `TIM_SYNC_FAIL`: 256 periods not measured within 1 s. -/
def execTimSyncFail (t : Ps) (s : State) : Res :=
  let s := s.adv t
  .next (if s.lock.phase = 1 && s.lock.nEdges ≤ 256 && s.lock.since + 1000000000000 ≤ s.now then syncFail s else s)

/-- The lock enters flywheel (R410). -/
def flywheel (code : Nat) (s : State) : State :=
  let s := if s.lock.lostTold then s else lockFault code s
  { s with lock.phase := 3, lock.lostTold := true }

/-- `TIM_MARKER_LOST`: no selected edge within 1.5 periods of its expected time (R410). -/
def execTimMarkerLost (t : Ps) (s : State) : Res :=
  let s := s.adv t
  let late := match s.lock.edges with
    | e :: _ => decide (2 * e + 5 * s.lock.pBar ≤ 2 * s.now)
    | [] => false
  .next (if s.lock.phase = 2 && late then flywheel 0x0804 s else s)

/-- A boundary that a marker edge moves takes with it all that was to happen at it and at later ones (R189, R409): what is due so
many periods after it stays so many periods after it, up to the drain that ends the segment, which moves likewise. `oldTl`, `newTl`:
the period before and from now on. -/
def shiftDue (old new oldTl newTl : Nat) (s : State) : State :=
  let f (x : Ps) : Ps :=
    if x < old then x else new + (x - old) / max 1 oldTl * newTl + min ((x - old) % max 1 oldTl) (newTl - 1)
  let stop := (s.light.segs[1]?).map (·.drainFrom)
  -- what comes after the segment keeps its distance from the drain
  let g (x : Ps) : Ps := match stop with
    | some e => if e < x then f e + (x - e) else f x
    | none => f x
  { s with
    light.stopAt := s.light.stopAt.map g
    light.changes := s.light.changes.map (fun c => { c with due := g c.due })
    light.segs := s.light.segs.map (fun q => { q with drainFrom := g q.drainFrom, start := g q.start })
    indigo.staleFrom := s.indigo.staleFrom.map g
    indigo.staleUntil := s.indigo.staleUntil.map g
    indigo.moves := s.indigo.moves.map (fun m => { m with at_ := g m.at_ })
    power.trans := s.power.trans.map (fun x => { x with due := g x.due })
    cmd.unsettled := s.cmd.unsettled.map (fun u => (u.1, u.2.1, g u.2.2)) }

/-- An instant on the 10 ps grid of the launches (R409), to the nearest. -/
def tenPs (t : Ps) : Ps := (t + 5) / 10 * 10

/-- A launch has been placed for an edge: its residual is the launch instant less the edge and `DELAY` (R409). -/
def noteResid (edge at_ : Ps) (s : State) : State :=
  { s with lock.resid := (((at_ : Int) - edge - s.lock.delay) :: s.lock.resid).take 4096 }

/-- The boundary to come moved to an instant, with the period in force. -/
def placeBoundary (at_ : Ps) (s : State) : State :=
  let tl := s.light.plan.tl
  let old := ((s.light.segs.head?).map (·.tl)).getD tl
  let s := shiftDue s.light.nextAt at_ old tl s
  { s with light.nextAt := at_, lock.place := none,
           light.segs := match s.light.segs with
             | g :: rest => { g with start := at_, count := s.light.launches, tl := tl } :: rest
             | [] => [] }

/-- Has the port switch settled by an instant (R89)? -/
def settledBy (at_ : Ps) (s : State) : Bool := (s.light.switching.map (fun w => decide (w.2 ≤ at_))).getD true

/-- The launches of a boundary edge, or of the edge of slot k (R409): placed at the edge plus `DELAY`, less what flywheel left. A
boundary whose period has slots still to launch is placed once they are. -/
def placeEdge (n : Nat) (s : State) : State :=
  let l := s.lock
  let i := n - l.baseN
  let ns := s.light.plan.nSlots
  let at_ := tenPs ((s.now : Int) + l.delay - l.pull).toNat
  let near (x : Ps) : Bool := (at_ - x) + (x - at_) < l.pBar
  if i % l.divider = 0 then
    let pull := l.pull - l.pull.sign * min l.pull.natAbs 1000
    let s := { s with lock.base := s.now, lock.baseN := n, lock.pull := pull, lock.owns := true,
                      light.plan.tl := l.divider * l.pBar }
    -- a drain ends when it ends, and the port switch settles before the first launch (R57, R89)
    if !s.light.draining && settledBy at_ s then
      if s.light.nextSlot = 0 then if near s.light.nextAt then placeBoundary at_ (noteResid s.now at_ s) else s
      else { (noteResid s.now at_ s) with lock.place := some at_ }
    else s
  else if l.divider % ns = 0 && i % (l.divider / ns) = 0 then
    if s.light.nextSlot = (i % l.divider) / (l.divider / ns) && near s.light.nextAt then
      { (noteResid s.now at_ s) with light.nextAt := at_ } else s
  else s

/-- Is the lock kept with no launches for it to place: in WARM (R412), and in SURVEY, where it is not used (R411)? -/
def lockIdle (s : State) : Bool := !s.light.running || s.runMode = .survey

/-- The launches leave the lock and acquire it anew, with no command (R410). -/
def reacquire (s : State) : State :=
  let s := { s with lock := { s.lock with phase := 1, nEdges := 0, edges := [], since := s.now, pull := 0, place := none } }
  if !lockIdle s then
    let b := boundFor s s.now
    { s with light.segs := addSeg s.light.segs b.due s.light.plan.tl false true }
  else s

/-- The edge that ends flywheel, or starts a new acquisition (R410). The mean of the periods starts anew: the outage is none of
them. -/
def flywheelEdge (n : Nat) (s : State) : State :=
  let l := s.lock
  let j := (s.now - l.base + l.pBar / 2) / l.pBar
  let err : Int := (s.now : Int) - (l.base + j * l.pBar)
  if err.natAbs ≤ 100000 then
    { s with lock.phase := 2, lock.lostTold := false, lock.baseN := n - j, lock.edges := [s.now],
             lock.pull := if lockIdle s then 0 else err }
  else reacquire s

/-- Expected edges not seen since the last one (R410, R419): each is missed half a period after it was due. -/
def LockState.missing (l : LockState) (now : Ps) : Nat :=
  match l.edges with
  | e :: _ => if l.pBar = 0 || l.phase < 2 then 0 else (now - e + l.pBar / 2) / l.pBar - 1
  | [] => 0

/-- The waiting plan starts at an edge: the first E_n with n - 256 ≡ 1 (mod `DIVIDER`) after the drain, once the port switch has
settled (R89, R408). -/
def startLocked (n : Nat) (s : State) : State :=
  let l := s.lock
  let at_ := tenPs (s.now + l.delay)
  if (n - 256) % l.divider = 1 % l.divider && !s.light.draining && waitsForEdge s && settledBy at_ s then
    let s := noteResid s.now at_ (startWaiting at_ (l.divider * l.pBar) s)
    burstCheck { s with lock.phase := 2, lock.base := s.now, lock.baseN := n, lock.owns := true, lock.place := none,
                        light.plan.tl := l.divider * l.pBar }
  else s

/-- The lock goes on with no launches to place: the edge is noted (R412). -/
def noteEdge (n : Nat) (s : State) : State := { s with lock.base := s.now, lock.baseN := n }

/-- A selected edge of the marker (R408-R410, R412). -/
def lockEdge (s : State) : State :=
  let l := s.lock
  let n := l.nEdges
  let gap := l.missing s.now
  let es := (s.now :: l.edges).take 257
  let s := { s with lock := { l with nEdges := n + 1, edges := es, missed := satAdd l.missed gap } }
  let mean := (meanPeriod es).getD l.pBar
  match l.phase with
  | 1 =>
    if n < 256 then s
    else if n = 256 && !l.inRange mean then syncFail { s with lock.pBar := mean }
    else
      let s := { s with lock.pBar := mean }
      if lockIdle s then noteEdge n { s with lock.phase := 2 }
      else if n = 256 then s
      else startLocked n s
  | 2 =>
    if gap ≠ 0 then flywheelEdge n (flywheel 0x0804 s)
    else if !l.inRange mean then flywheel 0x0805 s
    else
      let s := { s with lock.pBar := mean }
      if lockIdle s then noteEdge n s
      else if waitsForEdge s then startLocked n s
      else placeEdge n s
  | 3 =>
    let last := match es with
      | a :: b :: _ => a - b
      | _ => 0
    if l.inRange last || l.inRange mean then flywheelEdge n s else s
  | _ => s

/-- A `TIN` edge as the lock sees it. -/
def lockTin (pin : Nat) (rising : Bool) (s : State) : State :=
  if s.lock.phase ≠ 0 && s.lock.tin = pin && s.lock.falling = !rising then lockEdge s else s

/-- Entry to STANDBY, SLEEP_WATCH or DORMANT releases the lock (R411). -/
def releaseLock (s : State) : State := burstCheck (freeLock (freeTl s) s)

/-! ### LAUNCH_SYNC -/

def launchSyncSpec : CmdSpec := { opcode := 0x66, target := .device, mirror := false, len := fixedLen 16 }

/-- The residual figures, fs (R409, R419): mean, root mean square and peak over the last 4,096 launches placed at an edge; 0 before
the first. What the spec allows the launches beyond their planned instants is no part of the model (log 22). -/
def residuals (l : LockState) : List Byte :=
  let n := l.resid.length
  let peak := l.resid.foldl (fun a x => if a.natAbs < x.natAbs then x else a) 0
  if n = 0 then zeros 12
  else leInt 4 (1000 * l.resid.sum / n) ++ le4 (Nat.sqrt (1000000 * (l.resid.map (fun x => x.natAbs * x.natAbs)).sum / n))
    ++ leInt 4 (1000 * peak)

def syncReply (launch stamp : Nat) (s : State) : List Byte :=
  le8 launch ++ le4 stamp ++ le1 s.lock.phase ++ zeros 3 ++ le4 s.lock.pBar ++ le4 s.light.plan.tl ++ residuals s.lock
    ++ le4 (satAdd s.lock.missed (s.lock.missing s.now)).toNat

/-- The checks of R408 against the expected period range, with the range of T_L (R17). -/
def syncRules (p : List Byte) (s : State) : Bool :=
  let d := fld p 3 1
  let pmin := fld p 8 4 * 1000
  let pmax := fld p 12 4 * 1000
  let m := s.planMode
  let plan := s.light.plan
  10000000 ≤ d * pmax && d * pmax ≤ 2000000000
    && okR17 (s.portOf s.light.port) (d * pmax) (planProbe s m) && planProbe s m * plan.nSlots ≤ d * pmin
    && okR24 (s.indigo.map.das s.light.port).length (nDas s m plan) (d * pmin) && fld p 4 4 < pmin

/-- The state of an accepted lock: the marker is measured from now on (R408). The plan that a failure brings back is the accepted
one. -/
def beginLock (p : List Byte) (s : State) : State :=
  { s with lock := { s.lock with
      phase := 1, tin := fld p 1 1, falling := fld p 2 1 = 1, divider := fld p 3 1, delay := fld p 4 4, pMin := fld p 8 4,
      pMax := fld p 12 4, since := s.now, nEdges := 0, edges := [], lostTold := false, pull := 0, pBar := 0,
      place := none, prevTl := if s.lock.owns then s.lock.prevTl else (projected s).light.plan.tl } }

def cmdLaunchSync (f : Fetched) (s : State) : Ans :=
  let p := f.payload
  let act := fld p 0 1
  let b := projected s
  checked [(act = 1 && (s.power.mode = .standby || s.inPair), St.wrongMode),
      (2 < act || 3 < fld p 1 1 || 1 < fld p 2 1 || 1999999999 < fld p 4 4 || !definedOr0 (act = 1) (fld p 3 1) (fld p 3 1 ≠ 0)
        || !definedOr0 (act = 1) (fld p 8 4) (inR (fld p 8 4) 5000 2000000) || fld p 12 4 < fld p 8 4, St.badParam),
      (act = 1 && !syncRules p b, St.badParam)] s fun _ =>
    match act with
    | 0 => { status := St.ok, st := s, payload := syncReply (2 ^ 64 - 1) (2 ^ 32 - 1) s }
    | 1 =>
      let s := beginLock p s
      -- in SURVEY no boundary is named: which launch will be the first locked one is not known there (R411; log 211)
      if s.light.running && s.runMode = .survey then
        { status := St.ok, st := s, payload := syncReply (2 ^ 64 - 1) (2 ^ 32 - 1) s }
      else if s.light.running then
        let r := schedule f p true true (fld p 3 1 * fld p 8 4 * 1000) false s
        { status := St.ok, st := r.1, names := r.2.named, due := r.2.dueOf,
          payload := syncReply (if r.2.named then r.2.count else s.light.launches) (2 ^ 32 - 1) r.1 }
      else { status := St.ok, st := s, names := true, payload := syncReply s.light.launches (2 ^ 32 - 1) s }
    | _ =>
      if s.lock.phase = 1 then
        let s := endWaiting (freeTl s) s
        { status := St.ok, st := s, payload := syncReply (2 ^ 64 - 1) (2 ^ 32 - 1) s }
      else
        let p := p.take 16 ++ le8 (freeTl b)
        let r := schedule f p (s.lock.phase ≠ 0 && s.planMode ≠ .survey) false
          (applySync p b).light.plan.tl false s
        { status := St.ok, st := r.1, names := r.2.named, due := r.2.dueOf,
          payload := syncReply (if r.2.named then r.2.count else 2 ^ 64 - 1)
            (if r.2.named then r.2.stamp else 2 ^ 32 - 1) r.1 }

def execLaunchSync (r : Req) (s : State) : Res := .next (perform launchSyncSpec cmdLaunchSync r s)

end Sys2Proof.Machine
end

