-- ==== Sys2Proof/Machine/Tim.lean ====
section
/-! DEFINITION. Machine/Tim.lean: the interval unit (R402-R407, R417, R418). -/

namespace Sys2Proof.Machine

open Sys2Proof

namespace TimChan
def mode (c : TimChan) : Nat := fld c.cfg 1 1
def startSrc (c : TimChan) : Nat := fld c.cfg 2 1
def stopSrc (c : TimChan) : Nat := fld c.cfg 3 1
def startFalls (c : TimChan) : Bool := tst (fld c.cfg 4 1) 0
def stopFalls (c : TimChan) : Bool := tst (fld c.cfg 4 1) 1
/-- The prescaler's ratio (R405). -/
def ratio (c : TimChan) : Nat := match fld c.cfg 5 1 with | 1 => 8 | 2 => 64 | _ => 1
/-- `WINDOW`, ps. -/
def window (c : TimChan) : Nat := fld c.cfg 8 4 * 1000
/-- The end of the running gate of `GATE` (R403). -/
def gateEnd (c : TimChan) : Ps := c.gateAt + fld c.cfg 12 4 * 1000000
end TimChan

/-- The source codes of R402. -/
def timSource (code : Nat) : Bool :=
  code ≤ 3 || (0x10 ≤ code && code ≤ 0x18) || (0x20 ≤ code && code ≤ 0x27) || code = 0x30

/-- A result into the 1,024-entry buffer (R407). -/
def pushResult (r : TimResult) (c : TimChan) : TimChan :=
  if c.results.length < 1024 then { c with results := c.results ++ [r] } else { c with dropped := satInc c.dropped }

/-- The result of a paired interval (R404). -/
def intervalOf (start stop : Ps) : TimResult :=
  let d : Int := (stop : Int) - start
  if d.natAbs < 3 then { value := 0, at_ := start, flags := 1 }
  else { value := d, at_ := start, flags := if d < -3 then 2 else 0 }

/-- A stop edge: the oldest start within the window takes it; otherwise it waits (R404). `same`: start and stop share a
source, and a stop pairs with the start before it or with none. -/
def stopEdge (t : Ps) (same : Bool) (c : TimChan) : TimChan :=
  let near := c.starts.filter (fun s => (t - s) + (s - t) ≤ c.window)
  match if same then near.getLast? else near.head? with
  | some s => pushResult (intervalOf s t) { c with starts := c.starts.erase s }
  | none => if same then c else { c with stops := (c.stops.filter (fun x => t - x ≤ c.window)) ++ [t] }

/-- An edge into the prescaler, and whether it comes out of it (R405): the unit's dead time (R402) is then that of the divided
edges. -/
def prescale (t : Ps) (c : TimChan) : Bool × TimChan :=
  let c := { c with pre := c.pre + 1 }
  if c.pre % c.ratio ≠ 0 then (false, c)
  else if c.ratio ≠ 1 && (c.lastHit.map (fun x => decide (t < x + 4000))).getD false then (false, { c with missed := satInc c.missed })
  else (true, { c with lastHit := some t })

/-- A start edge in the channel's mode (R403, R404). -/
def startEdge (t : Ps) (c : TimChan) : TimChan :=
  let scaled := if c.ratio = 1 then 0 else 8
  let x := if c.mode = 2 || c.mode = 3 then prescale t c else (true, c)
  let hit := x.1
  let c := x.2
  match c.mode with
  | 1 =>
    match c.stops.find? (fun x => (t - x) + (x - t) ≤ c.window) with
    | some x => pushResult (intervalOf t x) { c with stops := c.stops.erase x }
    | none => { c with starts := c.starts ++ [t] }
  | 2 =>
    if !hit then c
    else match c.starts with
      | p :: _ => pushResult { value := ((t : Int) - p) / c.ratio, at_ := p, flags := scaled } { c with starts := [t] }
      | [] => { c with starts := [t] }
  | 3 => if hit then { c with starts := c.starts ++ [t] } else c
  | 4 => pushResult { value := 0, at_ := t, flags := 0 } c
  | _ => c

/-- One channel's part of an edge. -/
def chanEdge (code : Nat) (falling : Bool) (t : Ps) (missed : Bool) (c : TimChan) : TimChan :=
  let isStop := c.mode = 1 && c.stopSrc = code && c.stopFalls = falling
  let isStart := c.mode ≠ 0 && c.startSrc = code && c.startFalls = falling
  if !(isStart || isStop) then c
  -- a prescaler takes the edges before the unit does
  else if missed && c.ratio = 1 then { c with missed := satInc c.missed }
  else
    let same := c.startSrc = c.stopSrc
    let c := if isStop then stopEdge t same c else c
    if isStart then (if same && c.mode = 1 then { c with starts := c.starts ++ [t] } else startEdge t c) else c

/-- An edge of a source reaches the unit, which stamps it with device time (R402): one within 4 ns of the edge the source accepted
last, of either polarity, is ignored. The board delays of a `TIN` input are added (R406). -/
def timFeed (code : Nat) (falling : Bool) (t : Ps) (s : State) : State :=
  let missed := s.tim.last.any (fun x => x.1 = code && t < x.2 + 4000)
  let adj := if code ≤ 3 then ((t : Int) + vget s.tim.trim code).toNat else t
  let last := if missed then s.tim.last else (code, t) :: s.tim.last.filter (fun x => x.1 ≠ code)
  { s with tim := { s.tim with chans := s.tim.chans.map (chanEdge code falling (s.devPs adj) missed), last := last } }

/-- An edge that no other row brings. -/
def execTimEdge (t : Ps) (code : Byte) (falling : Bool) (s : State) : Res :=
  let s := s.adv t
  .next (if s.power.sleeping || !timSource code.toNat then s else timFeed code.toNat falling t s)

/-- Starts whose window has passed complete with `NO_STOP` (R404). -/
def expire (t : Ps) (c : TimChan) : TimChan :=
  if c.mode ≠ 1 then c
  else
    (c.starts.filter (fun s => s + c.window ≤ t)).foldl (fun c s => pushResult { value := 0, at_ := s, flags := 4 } c)
      { c with starts := c.starts.filter (fun s => ¬ s + c.window ≤ t), stops := c.stops.filter (fun x => t - x ≤ c.window) }

def execTimWindowExpiry (t : Ps) (ch : Fin 4) (s : State) : Res :=
  let s := s.adv t
  .next { s with tim.chans := vmod s.tim.chans ch.val (expire (s.devPs s.now)) }

/-- The end of a frequency gate (R403): a result in uHz over the gate's edges; the next gate follows. A gate with fewer than two
edges has no result (log 70). -/
def gateOut (t : Ps) (c : TimChan) : TimChan :=
  if c.mode ≠ 3 || t < c.gateEnd then c
  else
    let es := c.starts.filter (· < c.gateEnd)
    let c' := { c with starts := c.starts.filter (c.gateEnd ≤ ·), gateAt := c.gateEnd }
    match es, es.getLast? with
    | t1 :: _ :: _, some tn =>
      let v : Nat := (es.length - 1) * c.ratio * 1000000000000000000 / (tn - t1)
      pushResult { value := v, at_ := t1, flags := if c.ratio = 1 then 0 else 8 } c'
    | _, _ => c'

def execTimGateEnd (t : Ps) (ch : Fin 4) (s : State) : Res :=
  let s := s.adv t
  .next { s with tim.chans := vmod s.tim.chans ch.val (gateOut (s.devPs s.now)) }

/-- Entry to sleep: channels off, buffers empty (R407). -/
def timSleep (s : State) : State :=
  { s with tim := { s.tim with chans := s.tim.chans.map (fun c => { c with cfg := c.cfg.set 1 0, results := [], starts := [],
                                                                           stops := [], pre := 0 }) } }

/-! ### TIM_CFG (R405, R417) -/

def timCfgSpec : CmdSpec := { opcode := 0x64, target := .device, mirror := false, len := fixedLen 24 }

/-- Ranges of R417, R402 and R405. -/
def timCfgBad (p : List Byte) : Bool :=
  let mode := fld p 1 1
  let pre := fld p 5 1
  3 < fld p 0 1 || 4 < mode || !timSource (fld p 2 1) || (mode = 1 && !timSource (fld p 3 1)) || 3 < fld p 4 1
    || 2 < pre || (pre ≠ 0 && !((mode = 2 || mode = 3) && fld p 2 1 ≤ 3)) || 1 < fld p 6 1 || fld p 7 1 ≠ 0
    || fld p 8 4 = 0 || 1000000000 < fld p 8 4 || (mode = 3 && fld p 12 4 = 0) || 10000000 < fld p 12 4
    || (List.range 4).any (fun i => 10000 < (sfld p (16 + 2 * i) 2).natAbs)

def cmdTimCfg (f : Fetched) (s : State) : Ans :=
  let p := f.payload
  let ch := fld p 0 1
  checked [(timCfgBad p, St.badParam)] s fun _ =>
    let c : TimChan := { cfg := (p.take 16).set 6 0, gateAt := s.devPs s.now }
    let trim := if tst (fld p 6 1) 0 then Vector.ofFn (fun i => sfld p (16 + 2 * i.val) 2) else s.tim.trim
    let s' := { s with tim := { s.tim with chans := vset s.tim.chans ch c, trim := trim } }
    { status := St.ok, st := s', payload := c.cfg ++ trim.toList.flatMap (leInt 2) }

def execTimCfg (r : Req) (s : State) : Res := .next (perform timCfgSpec cmdTimCfg r s)

/-! ### TIM_READ (R418) -/

def timReadSpec : CmdSpec := { opcode := 0x65, target := .device, mirror := false, len := fixedLen 4 }

def timEntry (mode : Nat) (r : TimResult) : List Byte :=
  (if mode = 4 then le8 (r.at_ / 1000000000000) else leInt 8 r.value) ++ le4 (r.at_ / 1000 % 2 ^ 32) ++ le2 (r.at_ % 1000)
    ++ le2 r.flags

def cmdTimRead (f : Fetched) (s : State) : Ans :=
  let ch := fld f.payload 0 1
  let n := fld f.payload 2 2
  checked [(3 < ch || fld f.payload 1 1 ≠ 0 || n = 0 || 250 < n, St.badParam)] s fun _ =>
    let c := vget s.tim.chans ch
    let rs := c.results.take n
    { status := St.ok, st := { s with tim.chans := vset s.tim.chans ch { c with results := c.results.drop n } },
      payload := le1 ch ++ le1 c.mode ++ le2 rs.length ++ le4 c.dropped.toNat ++ le4 c.missed.toNat ++ zeros 4
        ++ rs.flatMap (timEntry c.mode) }

def execTimRead (r : Req) (s : State) : Res := .next (perform timReadSpec cmdTimRead r s)

end Sys2Proof.Machine
end

