-- ==== Sys2Proof/Machine/Ctx.lean ====
section
/-! DEFINITION. Machine/Ctx.lean: a watch context's settings and its points (R204-R226, R240), the alarm outputs
(R227-R231, R557). -/

namespace Sys2Proof.Machine

open Sys2Proof

/-- Port of a DAS or DTS span: 1, 2, or none when it does not lie within one port (R205). -/
def spanPort (m : ZoneMap) (c : Ctx) : Option Nat :=
  let n1 := if c.source = 2 then m.dts1.length else m.das1.length
  let n2 := if c.source = 2 then m.dts2.length else m.das2.length
  if c.first + c.n ≤ n1 then some 1
  else if n1 ≤ c.first && c.first + c.n ≤ n1 + n2 then some 2
  else none

/-- The ODR code a span's aux channels share, when they are enabled at one rate (R205). -/
def spanOdr (s : State) (c : Ctx) : Option Nat :=
  let chs := (List.range c.n).map (fun i => vget s.aux.chans (c.first + i))
  match chs with
  | x :: _ =>
    if chs.all (fun y => y.enabled && fld y.cfg 4 1 = fld x.cfg 4 1) then some (fld x.cfg 4 1) else none
  | [] => none

/-- The output data rate of a code, samples per second (R421). -/
def odrRate (code : Nat) : Nat := ([5, 10, 20, 25, 50, 100, 200, 400, 500, 1000, 2000, 4000, 8000][code]?).getD 5

/-- A context's lines per second under the projected plan (R59, R225). -/
def lineRate (s j : State) (c : Ctx) : Rat :=
  match c.source with
  | 1 => (nDas j j.planMode j.light.plan * 1000000000000 : Nat) / (acceptedTl j : Rat)
  | 2 => 1000000000000 / ((ochrePeriod j j.planMode * j.ochre.cfg.acc : Nat) : Rat)
  | _ => (((spanOdr s c).map odrRate).getD 0 : Nat)

/-- The ring write rate of the contexts that record among some (R25). -/
def ringRate (s : State) (cs : List Ctx) : Rat :=
  let j := projected s
  ((cs.filter Ctx.records).map (fun c => (c.lineSize : Rat) * lineRate s j c)).sum

/-- Live memory channels (R450), and the reserved real-time bandwidth in force, bytes per second. -/
def nLive (s : State) : Nat := (s.mem.ch.toList.filter (·.live)).length
def rtReserve (s : State) : Nat := nLive s * 3000000000
/-- The sum of armed ring write rates (R25). -/
def rtArmed (s : State) : Rat := ringRate s ((ctxsWhere s Ctx.live).map (ctx s))
/-- `RT_OVER` (R462). -/
def rtOver (s : State) : Bool := decide (((rtReserve s : Nat) : Rat) < rtArmed s)

/-- The write rate of a capture of taps 1 to 3 (R142). -/
def rawRate (s : State) : Rat :=
  match s.indigo.raw with
  | some c => if c.tap = 0 || c.tap = 4 then 0 else (c.bytes : Rat) / c.lines * 1000000000000 / acceptedTl (projected s)
  | none => 0

/-- Is the real-time load beyond the reservation in force (R461)? -/
def rtLoadOver (s : State) : Bool := decide (((rtReserve s : Nat) : Rat) < rtArmed s + rawRate s)

/-- Are lines of a DAS or DTS context being launched? -/
def linesLaunched (s : State) (c : Ctx) : Bool :=
  s.light.running && spanPort s.indigo.map c = some s.light.port
    && s.inMode (if c.source = 1 then [.acoustic, .full, .calibrate] else [.survey, .full, .calibrate])

/-- Does the context receive lines, those in flight among them? Otherwise its points take effect at once. -/
def linesRun (s : State) (c : Ctx) : Bool :=
  match c.source with
  | 1 => linesLaunched s c || s.light.inflight.any (fun r => !r.ochre && spanPort s.indigo.map c = some r.port)
  | 2 => linesLaunched s c || s.ochre.ready.any (fun r => spanPort s.indigo.map c = some r.acc.port)
  | 3 => !s.power.sleeping && (spanOdr s c).isSome
  | _ => false

/-! ### Restarts and waiting points (R218, R234, R244) -/

/-- The run restarts at an instant; what lines launched before it still decide before it follows the run it had (R218). -/
def restartRun (k : Nat) (t : Ps) (recovery : Bool) (s : State) : State :=
  modCtx k (fun c => { c with
    runC := 0, cuts := ({ at_ := t, runC := c.runC, runW := c.runW, recovery := recovery } :: c.cuts).take 8 }) s

def stream (s : State) (k : Nat) : Stream := vget s.streams k
def modStream (k : Nat) (f : Stream → Stream) (s : State) : State := { s with streams := vmod s.streams k f }

/-- Does a stream run: configured, not paused, and enabled (R311)? -/
def streamRuns (s : State) (k : Nat) : Bool :=
  let x := stream s k
  x.configured && !x.paused && (if k < 256 then (ctx s k).streamEn && (ctx s k).live else x.run)

/-- Does an armed context use a table: by a bit, or as the suppression table of its running stream (R234, R313)? -/
def usesTable (s : State) (k n : Nat) : Bool :=
  (ctx s k).live && ((ctx s k).bitTables.contains n || (streamRuns s k && (stream s k).suppTable = n))

/-- Copies no context uses or has still to switch to are freed (R234). -/
def freeCopies (s : State) : State :=
  let s := (ctxsWhere s (fun c => !c.tabs.isEmpty)).foldl (fun s k =>
    modCtx k (fun c => { c with tabs := c.tabs.filter (fun t => usesTable s k t.1) }) s) s
  let waits (k id : Nat) : Bool := (ctx s k).points.any (fun p => match p.act with
    | .table n i => i = id && usesTable s k n
    | _ => false)
  let used (c : ThreshCopy) : Bool :=
    s.thresh.newest.any (fun t => t.2 = c.id)
      || (List.range 256).any (fun k => (ctx s k).tabs.any (fun t => t.2 = c.id) || waits k c.id)
  { s with thresh.copies := s.thresh.copies.filter used }

/-- A pattern takes effect at an instant. -/
def setPattern (k w : Nat) (v m : BitVec 256) (t : Ps) (s : State) : State :=
  restartRun k t false (modCtx k (fun c => { c with patW := w, patValue := v, patCare := m }) s)

/-- A context that is `DISARMED` takes a pattern that still waits (R244), cores that were to halt at its point do; its other
points lapse. -/
def lapsePoints (k : Nat) (s : State) : State :=
  if (ctx s k).live then s
  else
    let ps := (ctx s k).points
    let s := modCtx k (fun c => { c with points := [] }) s
    freeCopies (ps.foldl (fun s p => match p.act with
      | .pattern w v m => setPattern k w v m s.now s
      | .halt m u => haltCores m u s
      | _ => s) s)

/-! ### The point of R224 -/

/-- Where a context change accepted now takes effect: the instant 25 us ahead, the launch count the reply names for a DAS
context, the launch at which it is settled. -/
structure CtxWhen where
  due    : Ps
  count  : Nat
  settle : Option Ps

/-- The first DAS launch at or after an instant: its period's launch count and its instant. -/
def firstLaunch (s : State) (x : Ps) : Option (Nat × Ps) :=
  if !s.light.running then none
  else match boundaryIn s.light.segs x with
    | none => none
    | some (g, b) =>
      let p := (projected s).light.plan
      let ks := (List.range 8).filter (fun k => (processedSlots s).getLsbD k)
      let inPeriod := if g.start < b then
          (ks.map (fun k => b - g.tl + k * (g.tl / p.nSlots))).find? (fun t => x ≤ t) else none
      match inPeriod with
      | some t => some (g.countAt b - 1, t)
      | none =>
        match s.light.stopAt with
        | some e => if e ≤ b then none else some (g.countAt b, b)
        | none =>
          match s.light.segs.find? (fun h => h.drainFrom = b && g.start < h.start) with
          | some h => some (h.count, h.start)
          | none => some (g.countAt b, b)

/-- The point for a context (R224, R242); it names a launch where DAS lines of the context are being launched. -/
def ctxWhen (s : State) (c : Ctx) : CtxWhen :=
  let due := s.now + Config.leadTime
  if c.source = 1 && linesLaunched s c then
    match firstLaunch s due with
    | some (n, t) => { due := due, count := n, settle := some t }
    | none => { due := due, count := 2 ^ 64 - 1, settle := none }
  else { due := due, count := 2 ^ 64 - 1, settle := none }

/-! ### Alarm outputs (R227-R231, R246, R557) -/

def pin (s : State) (k : Nat) : AlmPin := vget s.alarm.pins k
def setPin (k : Nat) (p : AlmPin) (s : State) : State := { s with alarm.pins := vset s.alarm.pins k p }

/-- The level of a pin at an instant, 1 for asserted. -/
def AlmPin.level (p : AlmPin) (t : Ps) : Bool := (p.asserted && p.edgeAt ≤ t) || t < p.endedAt

/-- A trigger asserts a pin under its mode, its edge at an instant (R126 step 9, R227). -/
def assertPin (k : Nat) (t : Ps) (s : State) : State :=
  let p := pin s k
  let q : AlmPin := { p with
    asserted := true, edgeAt := if p.asserted then p.edgeAt else t,
    setAt := if p.setAt.any (fun x => decide (s.now < x)) then p.setAt else some t }
  let edge (s : State) : State :=
    if p.asserted then s else timFeed (0x20 + k) false t (send (.almPin k true t) s)
  match p.mode with
  | 1 => edge (setPin k { q with endAt := t + p.pulseW * 10000 } s)
  | 2 => edge (setPin k q s)
  | _ => s

/-- A pin is deasserted, not before its edge. -/
def releasePin (k : Nat) (t : Ps) (s : State) : State :=
  let p := pin s k
  let e := max t p.edgeAt
  if p.asserted then send (.almPin k false e) (setPin k { p with asserted := false, endedAt := e } s) else s

/-- A pulse that has run its width by an instant ends (R227). -/
def endPulse (k : Nat) (t : Ps) (s : State) : State :=
  let p := pin s k
  if p.mode = 1 && p.asserted && p.endAt ≤ t then releasePin k p.endAt s else s

/-- A frame of 280 ns begins at an instant (R230): the idle characters since the last one set its running disparity. -/
def startFrame (w : U32) (t : Ps) (s : State) : State :=
  let (gs, plus) := almsGroups w (idleDisparity ((t - s.alarm.idleFrom) / 40000) s.alarm.rdPlus)
  send (.almsFrame w t gs)
    { s with alarm.frame := some (t + 280000), alarm.idleFrom := t + 280000, alarm.rdPlus := plus,
             alarm.sent := satInc s.alarm.sent }

/-- Idle resumes at an instant, with a whole pair (R230). -/
def startIdle (t : Ps) (s : State) : State :=
  send (.almsIdle t (idlePair s.alarm.rdPlus).1) { s with alarm.idleFrom := t }

/-- The frame being sent ends; the next word follows at once (R231), or idle. -/
def nextFrame (e : Ps) (s : State) : State :=
  match s.alarm.queue with
  | w :: rest => startFrame w e { s with alarm.frame := none, alarm.queue := rest }
  | [] => startIdle e { s with alarm.frame := none }

/-- The frames that end by an instant, each followed by the next word that waits: at most so many. -/
def framesTo : Nat → Ps → State → State
  | 0, _, s => s
  | n + 1, t, s =>
    match s.alarm.frame with
    | none => s
    | some e => if e ≤ t then framesTo n t (nextFrame e s) else s

/-- What the pins and the `ALMS` pair do of themselves by an instant: pulses and frames end. -/
def alarmsTo (t : Ps) (s : State) : State :=
  framesTo 65 t ((List.range 8).foldl (fun s k => endPulse k t s) s)

/-- An alarm word starts at an instant, waits in the 64-word queue, or is lost (R231). -/
def almsWord (w : U32) (t : Ps) (s : State) : State :=
  if s.alarm.frame.isNone then startFrame w t s
  else if s.alarm.queue.length < 64 then { s with alarm.queue := s.alarm.queue ++ [w] }
  else { s with alarm.lost := satInc s.alarm.lost }

/-- The alarm-summary interrupt of a trigger decided at an instant (R228, R557). -/
def alarmIrq (k : Nat) (t : Ps) (s : State) : State :=
  let s := { s with link.alarmSum := vmod s.link.alarmSum (k / 32) (fun w => w ||| BitVec.ofNat 32 (2 ^ (k % 32))) }
  match s.link.holdoffEnd with
  | some _ => { s with link.holdoffHit := true }
  | none =>
    let s := reqVector 2 s
    if s.link.holdoff = 0 then s
    else { s with link.holdoffEnd := some (t + s.link.holdoff.toNat * 1000000), link.holdoffHit := false }

/-- `ALARM_HOLDOFF_END` (R557). -/
def execAlarmHoldoffEnd (s : State) : Res :=
  .next (match s.link.holdoffEnd with
    | none => s
    | some e =>
      let s := { (s.adv e) with link.holdoffEnd := none }
      if s.link.holdoffHit then
        let s := reqVector 2 { s with link.holdoffHit := false }
        if s.link.holdoff = 0 then s
        else { s with link.holdoffEnd := some (s.now + s.link.holdoff.toNat * 1000000) }
      else s)

/-- The pins and the `ALMS` word of a decided trigger, after what ended before them. -/
def sendAlarm (a : AlarmDue) (s : State) : State :=
  let c := ctx s a.ctx
  let s := ((List.range 8).filter (tst c.almMask)).foldl (fun s i => assertPin i a.out s) (alarmsTo a.out s)
  if c.almsEn then almsWord (alarmWord a.ctx a.zone a.seq) a.out s else s

/-- Does a decision of one context come before another's: in an earlier cycle, or in ascending context (R231, R603)? -/
def decidedFirst (s : State) (t k u j : Nat) : Bool := s.devNs t < s.devNs u || (s.devNs t = s.devNs u && k ≤ j)

/-- The waiting alarms that satisfy a test, in the order of their decisions (R231). -/
def driveDue (ready : AlarmDue → Bool) (s : State) : State :=
  let now_ := (s.alarm.due.filter ready).mergeSort (fun a b => decidedFirst s a.dec a.ctx b.dec b.ctx)
  now_.foldl (fun s a => sendAlarm a s) { s with alarm.due := s.alarm.due.filter (fun a => !ready a) }

/-- The DAS lines of a context that wait for zone-core bits, as far as something of them is left to decide: their launches. -/
def Ctx.openJobs (c : Ctx) : List Ps :=
  if c.source = 1 then (c.jobs.filter (fun j => !j.settled)).map (·.line.at_) else []

/-- The instant before which nothing is decided any more: no line in flight or waiting for zone-core bits decides one earlier
(R126), no `TIN` trigger waits; none when nothing is open. -/
def firstDecision (s : State) : Option Ps :=
  let launched : List Ps := (s.light.inflight.filter (fun r => !r.ochre)).map (·.at_)
  let edges : List Ps := s.ctxs.toList.flatMap (fun c => c.edges.map (·.at_))
  ((launched ++ s.ctxs.toList.flatMap Ctx.openJobs).map (· + 700000) ++ edges).min?

/-- The alarms decided before any line in flight can decide one. -/
def flushAlarms (s : State) : State := driveDue (fun a => (firstDecision s).all (fun t => decide (a.dec ≤ t))) s

/-- Every alarm output as it stands at an instant: what is due has left, pulses and frames that have run out have ended. -/
def alarmsBy (t : Ps) (s : State) : State := alarmsTo t (driveDue (fun a => decide (a.out ≤ t)) s)

/-- `ALM_PULSE_END` (R227). -/
def execAlmPulseEnd (k : Fin 8) (s : State) : Res :=
  let p := pin s k.val
  .next (if p.mode = 1 && p.asserted then alarmsBy p.endAt (s.adv p.endAt) else s)

/-- `ALMS_FRAME_END` (R230, R231). -/
def execAlmsFrameEnd (s : State) : Res :=
  .next (match s.alarm.frame with
    | none => s
    | some e => alarmsBy e (s.adv e))

/-- Everything a trigger of context `k` decided at an instant drives (R223): pins, `ALMS` word (R229), interrupt. The alarms of a
DAS pattern follow 100 ns after the decision (R126 steps 8 and 9), those of any other within the 350 ns of R232 (log 182). They
wait until no line in flight can decide one before them, for the words' order (R231). -/
def driveAlarms (k : Nat) (dasPattern : Bool) (zone17 lineSeq : Nat) (dec : Ps) (s : State) : State :=
  let lag := if dasPattern then 100000 else Config.alarmLag s.freeIdx % 350001
  let a : AlarmDue := { dec := dec, out := dec + lag, ctx := k, seq := lineSeq, zone := zone17 }
  let s := flushAlarms { (if dasPattern then s else s.took) with alarm.due := s.alarm.due ++ [a] }
  if (ctx s k).alarmIrq then alarmIrq k dec s else s

/-- The alarms still to be driven of a trigger that a pattern joins take the pattern's zone (R221). -/
def joinAlarm (k zone lineSeq : Nat) (s : State) : State :=
  let old := alarmWord k 0x1FFFF lineSeq
  { s with
    alarm.due := s.alarm.due.map (fun a => if a.ctx = k && a.seq = lineSeq && a.zone = 0x1FFFF then { a with zone := zone } else a),
    alarm.queue := s.alarm.queue.map (fun w => if w = old then alarmWord k zone lineSeq else w) }

/-! ### ALARM_ROUTE (R246) -/

def alarmRouteSpec : CmdSpec := { opcode := 0x36, target := .device, mirror := true, len := fixedLen 8 }

/-- Action 0 on one pin: a change of mode deasserts it first (R227). -/
def configPin (mode pol width : Nat) (k : Nat) (s : State) : State :=
  let s := if (pin s k).mode ≠ mode then releasePin k s.now s else s
  setPin k { pin s k with mode := mode, nAboveP := pol = 1, pulseW := width } s

/-- Action 1 on one pin that is latched: a trigger in the same cycle keeps it asserted, one still ahead asserts it anew. -/
def clearPin (k : Nat) (s : State) : State :=
  let p := pin s k
  if p.mode ≠ 2 || !p.level s.now then s
  else match p.setAt with
    | none => releasePin k s.now s
    | some x =>
      if s.devNs x = s.cycle then s
      else if s.now < x then assertPin k x (releasePin k s.now s) else releasePin k s.now s

def alarmReply (s : State) : List Byte :=
  let ps := s.alarm.pins.toList
  let up := ps.map (fun p => p.level s.now)
  le1 (flags up) ++ le1 (flags (ps.map (fun p => p.level s.now && p.mode = 2))) ++ zeros 2
    ++ le4 s.alarm.sent.toNat ++ le4 s.alarm.lost.toNat ++ ps.flatMap (fun p => le1 (p.mode + 4 * bit p.nAboveP))
    ++ ps.flatMap (fun p => le2 p.pulseW)

def cmdAlarmRoute (f : Fetched) (s : State) : Ans :=
  let p := f.payload
  let act := fld p 0 1
  let mode := fld p 2 1
  checked [(2 < act || fld p 6 2 ≠ 0
      || (act = 0 && (2 < mode || 1 < fld p 3 1 || (mode = 1 && fld p 4 2 = 0))), St.badParam)] s fun _ =>
    let ks := (List.range 8).filter (tst (fld p 1 1))
    let s := alarmsBy s.now s
    let s' := match act with
      | 0 => ks.foldl (fun s k => configPin mode (fld p 3 1) (fld p 4 2) k s) s
      | 1 => ks.foldl (fun s k => clearPin k s) s
      | _ => s
    { status := St.ok, st := s', payload := alarmReply s' }

def execAlarmRoute (r : Req) (s : State) : Res := .next (perform alarmRouteSpec cmdAlarmRoute r s)

/-- Entry to STANDBY or sleep (R235): every pin deasserted, the `ALMS` queue emptied into `ALMS_LOST`. -/
def quietAlarms (s : State) : State :=
  let s := (List.range 8).foldl (fun s k => releasePin k s.now s) (alarmsTo s.now (driveDue (fun _ => true) s))
  { s with alarm.lost := satAdd s.alarm.lost s.alarm.queue.length, alarm.queue := [] }

end Sys2Proof.Machine
end

