-- ==== Sys2Proof/Machine/Coder.lean ====
section
/-! DEFINITION. Machine/Coder.lean: threshold tables as they are read (R233), and the single-pass coder that turns stream
lines into blocks (R311-R321). -/

namespace Sys2Proof.Machine

open Sys2Proof

/-! ### Threshold tables (R233, R234) -/

/-- The copy of a table a context reads: the one it holds, otherwise the newest. -/
def tableFor (s : State) (k n : Nat) : Option ThreshCopy :=
  let id := ((ctx s k).tabs.find? (fun t => t.1 = n)).orElse (fun _ => s.thresh.newest.find? (fun t => t.1 = n))
  id.bind (fun t => s.thresh.copies.find? (fun c => c.id = t.2))

/-- The entry of a zone. -/
def ThreshCopy.entry (c : ThreshCopy) (zone : Nat) : Option U16 :=
  if zone < c.first then none else c.entries[zone - c.first]?

/-- Does a copy cover a span? -/
def ThreshCopy.covers (c : ThreshCopy) (first n : Nat) : Bool := c.first ≤ first && first + n ≤ c.first + c.entries.length

/-! ### Lines on the zone bus -/

/-- Is a stream run-length coded? Only a DAS context's is (R311). -/
def codesRle (s : State) (k : Nat) : Bool := (stream s k).rle && k < 256 && (ctx s k).source = 1

/-- The line of a DAS context that is passing the zone bus, if the stream takes it: its number, and the values of it that have passed
(R126, R327). -/
def lineInProgress (s : State) (k : Nat) : Option (Nat × Nat) :=
  let c := ctx s k
  let taken (r : LaunchRec) : Bool := c.startAt ≤ r.at_ && (stream s k).resumeAt.all (fun t => decide (t ≤ r.at_))
  if 256 ≤ k || c.source ≠ 1 then none
  else match s.light.inflight.find? (fun r => !r.ochre && spanPort s.indigo.map c = some r.port) with
    | none => none
    | some r =>
      if !taken r then none
      else
      let lag := (if r.wave.pulse then 0 else r.wave.tp) + 450000
      let n := ((spanDas s.indigo.map c).filter (fun e => r.at_ + (e.first + e.len - 1) * 4000 + lag ≤ s.now)).length
      if n = 0 then none else some (c.lines, n)

/-! ### Tokens (R314, R315) -/

/-- The zeros at the front of a list. -/
def zeroRun (us : List U16) : Nat := (us.takeWhile (· = 0)).length

/-- Tokens of a block whose first `pos` units an earlier run supplies; `us`: the units from `pos` on. Answers the tokens,
the zeros that reach beyond the block, and whether a full escape's run goes on. -/
def tokens : Nat → Nat → Bool → List U16 → List U16 × Nat × Bool
  | 0, pos, long, _ => ([], pos - 4096, long)
  | fuel + 1, pos, long, us =>
    if 4096 ≤ pos then ([], pos - 4096, long)
    else match us with
      | [] => ([], 0, false)
      | u :: rest =>
        if u ≠ 0 then
          let r := tokens fuel (pos + 1) false rest
          (u :: r.1, r.2)
        else
          let l := zeroRun us
          if long || 3 ≤ l then
            let c := min l 65535
            let r := tokens fuel (pos + c) (65535 < l) (us.drop c)
            (0x8000 :: BitVec.ofNat 16 c :: r.1, r.2)
          else
            let r := tokens fuel (pos + 1) false rest
            (0 :: r.1, r.2)

def unitBytes (us : List U16) : List Byte := us.flatMap (fun u => le2 u.toNat)

/-! ### Blocks (R316-R320) -/

/-- Length of a block (R316). -/
def Block.len (b : Block) : Nat := 48 + b.table.length + b.tokens.length

/-- Bytes waiting in the shared stream output buffer (R324). -/
def waitingBytes (s : State) : Nat := (s.streams.toList.map (fun x => (x.waiting.map Block.len).sum)).sum

/-- The next block of a stream, and the stream without it. -/
def takeBlock (rle : Bool) (epoch : U16) (node : BitVec 14) (padFrom : Nat) (x : Stream) : Block × Stream :=
  let us := x.units.take 4096
  let own := x.lines.filter (fun l => l.1 < 4096)
  let r := if rle then tokens 4097 (min x.carry 4096) x.longRun (x.units.drop x.carry)
           else (us.take padFrom, 0, false)
  let carry := if rle && 4096 ≤ x.carry then x.carry - 4096 else r.2.1
  ({ seq := x.nextSeq, epoch := epoch, flags := flags [x.resync, padFrom < 4096, false, x.resumed, !rle], carry := x.carry,
     nLines := own.length, table := own.flatMap (fun l => l.2.take 20 ++ le2 l.1 ++ l.2.drop 20), tokens := unitBytes r.1,
     sampleCrc := crc32c (unitBytes us), padFrom := padFrom, node := node, after := x.gap },
   { x with units := x.units.drop 4096, lines := (x.lines.filter (fun l => 4096 ≤ l.1)).map (fun l => (l.1 - 4096, l.2)),
            opened := x.opened.drop 1, carry := carry, longRun := r.2.2, nextSeq := x.nextSeq + 1, resync := false,
            resumed := false, gap := false })

/-- The next block is coded: it waits for delivery, or is dropped when the shared buffer of 4 MiB has no room. -/
def putBlock (k padFrom : Nat) (s : State) : State :=
  let (b, x) := takeBlock (codesRle s k) s.cmd.epoch s.cmd.node padFrom (stream s k)
  if 4194304 < waitingBytes s + b.len then modStream k (fun _ => { x with drops := satInc x.drops, gap := true }) s
  else modStream k (fun _ => { x with waiting := x.waiting ++ [b] }) s

/-- Are all units of the next block known, and has a run that it meets ended (R315)? -/
def blockReady (rle : Bool) (x : Stream) : Bool :=
  4096 ≤ x.units.length && (!rle || x.units[4095]? ≠ some 0 || (x.units.drop 4096).any (· ≠ 0))

/-- Every block that is complete is coded. -/
def putReady : Nat → Nat → State → State
  | 0, _, s => s
  | n + 1, k, s => if blockReady (codesRle s k) (stream s k) then putReady n k (putBlock k 4096 s) else s

/-- Every open block is coded; the last one's padding ends at its last unit (R320). -/
def putAll : Nat → Nat → Nat → State → State
  | 0, _, _, s => s
  | n + 1, k, padFrom, s =>
    let l := (stream s k).units.length
    if l = 0 then s
    else putAll n k padFrom (putBlock k (if l ≤ 4096 then padFrom else 4096) s)

/-- The block in progress closed with padding (R320). -/
def closeBlock (k : Nat) (s : State) : State :=
  let n := (stream s k).units.length
  let fill := (4096 - n % 4096) % 4096
  let s := putAll (n / 4096 + 1) k (4096 - fill) (modStream k (fun x => { x with units := x.units ++ List.replicate fill 0 }) s)
  modStream k (fun x => { x with carry := 0, longRun := false, closeDue := false }) s

/-- The configuration a request gives a stream (R341). -/
def newCfg (p : List Byte) (x : Stream) : Stream :=
  { x with
    configured := true, rle := if fld p 1 1 = 0 then x.rle else fld p 1 1 = 1,
    transport := keepN 0 (fld p 2 1) x.transport, vector := keepN 0 (fld p 3 1) x.vector,
    irqBlocks := keepN 0 (fld p 4 1) x.irqBlocks, auth := tst (fld p 5 1) 0, run := tst (fld p 5 1) 1,
    maxAge := keepN 0 (fld p 6 2) x.maxAge, suppTable := fld p 8 1, suppConst := fld p 10 2, ringSlots := fld p 12 4,
    ringBase := BitVec.ofNat 64 (fld p 16 8), destAddr := (p.drop 24).take 16, destPort := fld p 40 2, fragLen := fld p 42 2 }

/-- A stream configured: one that was not, or was paused, starts with `RESYNC` (R321, R327). -/
def configure (p : List Byte) (x : Stream) : Stream :=
  let fresh := !x.configured || x.paused
  { newCfg p x with
    paused := false, resync := x.resync || fresh, resumed := x.resumed && !fresh,
    resumeAt := if fresh then none else x.resumeAt }

/-- The block of a saved stream closed with what has come of the line the save fell in (R326); configurations accepted meanwhile take
effect. -/
def endSave (k : Nat) (s : State) : State :=
  if (stream s k).owed.isNone then s
  else
    let s := closeBlock k (modStream k (fun x => { x with owed := none }) s)
    modStream k (fun x => { x.renew.foldl (fun y p => configure p y) x with renew := [] }) s

/-- A stream that no longer runs closes its block; it starts again with `RESYNC` (R320, R321). -/
def streamStopped (k : Nat) (s : State) : State :=
  if (stream s k).paused then endSave k s
  else if streamRuns s k || !(stream s k).configured then s
  else modStream k (fun x => { x with resync := true, resumed := false }) (closeBlock k s)

/-! ### Lines (R312, R313, R318) -/

/-- A line for a stream: its instant, sequence number, descriptor, exception entries of its span, units. -/
structure StreamLine where
  at_   : Ps
  seq   : Nat
  desc  : List Byte
  exc   : List (List Byte)
  units : List U16
  /-- when each unit is coded -/
  unitAt : Nat → Ps

/-- A DAS value as coded: suppressed below the limit of its zone, and clamped (R313, R314). -/
def suppressed (s : State) (k : Nat) (zone : Nat) (v : Int) : Int :=
  let x := stream s k
  let limit : Int :=
    if x.suppTable = 0xFF then x.suppConst
    else (((tableFor s k x.suppTable).bind (fun c => c.entry zone)).map BitVec.toInt).getD 0
  if 0 < limit && (v.natAbs : Int) < limit then 0 else max v (-32767)

/-- The units of a context's line (R311). -/
def lineUnits (s : State) (k : Nat) (l : CtxLine) : List U16 :=
  let c := ctx s k
  match c.source with
  | 3 => l.values.flatMap (fun v => [BitVec.ofInt 16 v, BitVec.ofInt 16 (v / 65536)])
  | 1 =>
    if codesRle s k then
      ((List.range l.values.length).zip l.values).map (fun x => BitVec.ofInt 16 (suppressed s k (c.first + x.1) x.2))
    else l.values.map (BitVec.ofInt 16)
  | _ => l.values.map (BitVec.ofInt 16)

/-- A stream's counters at a `RESYNC` block (R321, R324, R341). -/
def resyncStart (x : Stream) : Stream :=
  if x.resync && x.units.isEmpty then
    { x with nextSeq := 0, carry := 0, longRun := false, drops := 0, unitsIn := 0, bytesOut := 0, secs := 0,
             waiting := x.waiting.map (fun b => { b with pastDrops := some (b.pastDrops.getD x.drops) }) }
  else x

/-- A stream's coder state lost: its block in progress with it; it starts again with `RESYNC` (R321). -/
def loseState (x : Stream) : Stream :=
  let x := x.renew.foldl (fun y p => configure p y) x
  { x with renew := [], units := [], lines := [], opened := [], carry := 0, longRun := false, owed := none, closeDue := false,
           resync := x.resync || !x.paused, resumed := x.resumed && x.paused }

/-- The parity of the coder state checked as a line begins (R321): `STR_STATE_PARITY`. -/
def coderCheck (k : Nat) (s : State) : State :=
  if Config.coderParity s.freeIdx then raise { code := 0x0700, unit := 0x0103, a0 := k } (modStream k loseState s.took) else s.took

/-- Has the line table of the block in progress no room for an entry of so many bytes (R316, R320)? -/
def Stream.tableFull (x : Stream) (n : Nat) : Bool :=
  let blk := x.units.length / 4096
  24528 < ((x.lines.filter (fun e => e.1 / 4096 = blk)).map (fun e => e.2.length + 2)).sum + n

/-- The instants at which the blocks open that the units of a line begin, the stream holding `have_` units before it. -/
def blockOpens (have_ : Nat) (l : StreamLine) : List Ps :=
  let b := cdiv have_ 4096
  (List.range (cdiv (have_ + l.units.length) 4096 - b)).map (fun i => l.unitAt ((b + i) * 4096 - have_))

/-- A line coded into a stream that runs (R312, R320). -/
def codeLine (k : Nat) (l : StreamLine) (s : State) : State :=
  let early := match (stream s k).resumeAt with | some t => decide (l.at_ < t) | none => false
  if !streamRuns s k || early then s
  else
    let s := coderCheck k s
    let x := stream s k
    let entry := padTo 16 l.desc ++ le4 l.seq ++ le2 l.exc.length ++ l.exc.flatten
    let s := if x.tableFull (entry.length + 2) then closeBlock k s else s
    let s := modStream k resyncStart s
    let add (x : Stream) : Stream :=
      let us := x.units ++ l.units
      { x with
        units := us, lines := x.lines ++ [(x.units.length, entry)],
        opened := x.opened ++ blockOpens x.units.length l,
        unitsIn := x.unitsIn + BitVec.ofNat 64 l.units.length, lineSeq := BitVec.ofNat 32 l.seq,
        unitsDone := l.units.length, resumeAt := none }
    let s := modStream k add s
    let s := putReady ((stream s k).units.length / 4096 + 1) k s
    if (stream s k).closeDue then closeBlock k s else s

/-- The part of a line that a save left to be sent is coded, and the save's block closed (R326). -/
def codeOwed (k : Nat) (l : StreamLine) (s : State) : State :=
  match (stream s k).owed with
  | some (q, n) =>
    if l.seq ≠ q % 2 ^ 32 then s
    else
      let s := modStream k (fun x => { x with paused := false }) s
      let s := codeLine k { l with units := l.units.take n } s
      endSave k (modStream k (fun x => { x with paused := true }) s)
  | none => s

/-- A context's line to its stream. -/
def streamLine (k : Nat) (l : CtxLine) (s : State) : State :=
  if !streamRuns s k && (stream s k).owed.isNone then s
  else
    let c := ctx s k
    let exc := ((List.range l.flags.length).zip l.flags).filterMap (fun x =>
      if x.2 = 0 || c.source = 3 || l.excTo < c.first + x.1 then none else some (le4 ((c.first + x.1) % 2 ^ 17 + x.2.toNat * 2 ^ 24)))
    let ends := (spanDas s.indigo.map c).map (fun e => l.at_ + (e.first + e.len - 1) * 4000 + l.bus)
    let x : StreamLine :=
      { at_ := l.at_, seq := l.seq % 2 ^ 32, desc := l.desc, exc := exc, units := lineUnits s k l,
        unitAt := fun i => if c.source = 1 then (ends[i]?).getD s.now else s.now }
    if (stream s k).owed.isSome then codeOwed k x s else codeLine k x s

end Sys2Proof.Machine
end

