-- ==== Sys2Proof/Machine/Records.lean ====
section
/-! DEFINITION. Machine/Records.lean: the record pool, rings, records and their measurements (R247-R275). -/

namespace Sys2Proof.Machine

open Sys2Proof

/-! ### Pool accounting (R247-R249, R252) -/

/-- Blocks of 1 MiB for so many bytes. -/
def blocksOf (bytes : Nat) : Nat := cdiv bytes 1048576

/-- R_B and P_B of a context (R252). -/
def Ctx.rB (c : Ctx) : Nat := blocksOf (c.pre * c.lineSize)
def Ctx.pB (c : Ctx) : Nat := blocksOf (128 + c.post * c.lineSize)

/-- Blocks a record holds. -/
def Record.blocks (r : Record) : Nat := r.preBlocks + r.postBlocks
/-- A record's handle (R248). -/
def Record.handle (r : Record) : Nat := r.entry + r.gen * 2 ^ 14

/-- Blocks in use, and free. -/
def blocksUsed (s : State) : Nat :=
  ((s.ctxs.toList.map (fun c => c.ringBlocks + c.resBlocks)).sum) + (s.pool.recs.map Record.blocks).sum
def blocksFree (s : State) : Nat := s.pool.blocks - blocksUsed s
/-- Free entries of the record table. A reserve holds the entry of its next record (DEDUCED from R252, log 204). -/
def tableFree (s : State) : Nat :=
  16384 - (s.pool.recs.length + (s.ctxs.toList.filter (fun c => c.reserve && c.cutDue.isNone)).length)

/-- A context's claim (R249). -/
def claimOf (s : State) (k : Nat) : Nat :=
  (ctx s k).ringBlocks + (ctx s k).resBlocks + ((s.pool.recs.filter (·.ctx = k)).map Record.blocks).sum

/-- Why so many more blocks cannot be claimed (R269): 1 pool, 2 quota; none when they can. -/
def blocksFail (s : State) (k need : Nat) : Option Nat :=
  if blocksFree s < need then some 1
  else if (ctx s k).quota ≠ 0 && (ctx s k).quota < claimOf s k + need then some 2
  else none

/-- Why a claim that needs an entry of the record table fails: 3 for the table. -/
def claimFails (s : State) (k need : Nat) : Option Nat :=
  (blocksFail s k need).orElse (fun _ => if tableFree s = 0 then some 3 else none)

/-- The reserve claimed, or the reason why not (R257, R258). -/
def claimReserve (k : Nat) (s : State) : State :=
  let c := ctx s k
  match claimFails s k (c.pB + c.rB) with
  | none => modCtx k (fun c => { c with reserve := true, resBlocks := c.pB + c.rB }) s
  | some w => modCtx k (fun c => { c with why := w }) s

/-- Reserves claimed again for contexts without one, in ascending order (R258). -/
def retryReserves (s : State) : State :=
  (ctxsWhere s (fun c => c.state = .armed && c.records && !c.reserve)).foldl (fun s k => claimReserve k s) s

/-- Ring and reserve claimed at arming (R252). -/
def claimAtArm (k : Nat) (s : State) : State :=
  modCtx k (fun c =>
    if c.records then { c with ringBlocks := c.rB, resBlocks := c.pB + c.rB, reserve := true, ring := [], s0 := 0 } else c) s

/-- Ring and reserve returned (R260). -/
def dropClaims (k : Nat) (s : State) : State :=
  modCtx k (fun c => { c with ringBlocks := 0, resBlocks := 0, reserve := false, ring := [], cutDue := none, rearmLeft := 0 }) s

/-! ### Records held -/

/-- The record of a handle, unless it is stale. -/
def findRec (h : Nat) (s : State) : Option Record := s.pool.recs.find? (fun r => r.handle = h)

/-- One record changed. -/
def modRec (h : Nat) (f : Record → Record) (s : State) : State :=
  { s with pool.recs := s.pool.recs.map (fun r => if r.handle = h then f r else r) }

/-- A record freed, its BAR4 pages unmapped (R271). -/
def freeRec (h : Nat) (s : State) : State :=
  { s with pool.recs := s.pool.recs.filter (fun r => r.handle ≠ h),
           pool.pages := s.pool.pages.filter (fun p => p.2.1 ≠ h) }

/-- An entry of the record table and its next generation (R248). -/
def newEntry (s : State) : Nat × Nat :=
  let free := (List.range 16384).filter (fun e => !s.pool.recs.any (·.entry = e))
  let e := (free[Config.entryPick s.freeIdx % free.length]?).getD 0
  let g := ((s.pool.gens.find? (fun x => x.1 = e)).map (·.2)).getD 0
  (e, if g = 0x3FFFE then 1 else g + 1)

/-- A record entered in the table. -/
def addRec (r : Record) (s : State) : State :=
  { s.took with
    pool.recs := r :: s.pool.recs,
    pool.gens := (r.entry, r.gen) :: s.pool.gens.filter (fun x => x.1 ≠ r.entry) }

/-! ### Measurements (R266) -/

/-- The operands of one line: per zone the included value. -/
def lineOps (source : Nat) (base : List (Option Int)) (p : Place) : List (Option Int) :=
  match p.held with
  | none => []
  | some l =>
    if l.mark.getLsbD 0 then []
    else ((List.range l.values.length).zip l.values).map (fun x =>
      if source ≠ 3 && l.nfRel ≤ x.1 then none
      else if source = 2 then ((base[x.1]?).getD none).map (fun b => x.2 - b)
      else some x.2)

/-- DTS: each zone's code on its first included line. -/
def dtsBases (n : Nat) (ls : List Place) : List (Option Int) :=
  (List.range n).map (fun z => ls.findSome? (fun p =>
    match p.held with
    | none => none
    | some l => if l.mark.getLsbD 0 || l.nfRel ≤ z then none else l.values[z]?))

/-- The largest magnitude with its line and zone; ties to the earliest line, then the lowest zone. -/
def peakOf (ops : List (List (Option Int))) : Option (Nat × Nat × Nat) :=
  let flat := ((List.range ops.length).zip ops).flatMap (fun x =>
    ((List.range x.2.length).zip x.2).filterMap (fun y => y.2.map (fun v => (v.natAbs, x.1, y.1))))
  flat.foldl (fun best x => match best with
    | none => some x
    | some b => if b.1 < x.1 then some x else best) none

/-- The lines at which one zone's operand changes its strict sign. -/
def crossings (xs : List (Nat × Int)) : List Nat :=
  (xs.foldl (fun (acc : List Nat × Int) x =>
    if x.2 = 0 then acc
    else if acc.2 ≠ 0 && acc.2.sign ≠ x.2.sign then (x.1 :: acc.1, x.2) else (acc.1, x.2)) ([], 0)).1.reverse

/-- Intervals between successive stamps, mod 2^32. -/
def stampGaps : List Nat → List Nat
  | a :: b :: rest => (b + 2 ^ 32 - a) % 2 ^ 32 :: stampGaps (b :: rest)
  | _ => []

/-- The rounded square root: √v to the nearest integer of `num / den`. -/
def roundSqrt (num den : Nat) : Nat :=
  let r := Nat.sqrt (num / den)
  if (2 * r + 1) * (2 * r + 1) * den ≤ 4 * num then r + 1 else r

/-- The stamp of a line, from its descriptor. -/
def Place.stamp (p : Place) : Nat := (p.held.map (fun l => fld l.desc 0 4)).getD 0

/-- A ring line with the values of uncorrectable words replaced by 0: line `i` of a record whose values have `w` bytes. -/
def RingLine.zeroed (r : Record) (i w : Nat) (l : RingLine) : RingLine :=
  let v := fun (x : Nat × Int) => if r.bad.contains ((160 + i * r.lineSize + w * x.1) / 8) then 0 else x.2
  { l with values := ((List.range l.values.length).zip l.values).map v }

/-- Values of the pre part that the read-back met in an uncorrectable word enter as 0 (R463): line `i` of a record. -/
def zeroBad (r : Record) (i : Nat) (p : Place) : Place :=
  if r.bad.isEmpty then p
  else { p with held := p.held.map (RingLine.zeroed r i (if r.source = 3 then 4 else 2)) }

/-- The measurements of a record. -/
def measure (r : Record) : Measures :=
  let ls := ((List.range r.pre.length).zip r.pre).map (fun x => zeroBad r x.1 x.2) ++ r.post
  let base := if r.source = 2 then dtsBases r.nZones ls else []
  let ops := ls.map (lineOps r.source base)
  let all := ops.flatMap (fun l => l.filterMap id)
  match peakOf ops with
  | none => { noneIn := true, onsetNone := true }
  | some (pk, pl, pz) =>
    let energy := (all.map (fun x => x.natAbs * x.natAbs)).sum
    let series := ((List.range ops.length).zip ops).filterMap (fun x => ((x.2[pz]?).getD none).map (fun v => (x.1, v)))
    let cr := crossings series
    let stamps := cr.map (fun i => ((ls[i]?).map Place.stamp).getD 0)
    let gaps := stampGaps stamps
    let over_ (l : List (Option Int)) : Bool := l.any (fun v => match v with | some x => decide (r.thresh ≤ x.natAbs) | none => false)
    let trig := r.pre.length - 1
    let holds := !r.pre.isEmpty
    let trigHas := holds && ((ops[trig]?).map over_).getD false
    -- the last included line up to the trigger line with no zone at the threshold
    let fails := ((List.range (trig + 1)).filter (fun i =>
      let l := (ops[i]?).getD []
      l.any (·.isSome) && !over_ l)).getLast?
    let onset := if !holds then 0 else if !trigHas then trig else match fails with | some i => i + 1 | none => 0
    let row := (ops[pl]?).getD []
    let hot := (List.range row.length).filter (fun z => over_ [(row[z]?).getD none])
    { peak := pk, peakZone := r.firstZone + pz, peakLine := pl,
      energy := energy % 2 ^ 64, rms := min (2 ^ 32 - 1) (roundSqrt (256 * energy) all.length),
      nCross := cr.length, period := if cr.length < 3 then 0 else min (2 ^ 32 - 1) (2 * gaps.sum / gaps.length),
      onset := onset, atStart := holds && trigHas && fails.isNone, onsetNone := !holds || !trigHas,
      extent := (match hot.head?, hot.getLast? with | some a, some b => b - a + 1 | _, _ => 0),
      extFirst := (match hot.head? with | some a => r.firstZone + a | none => 0xFFFFFFFF) }

/-! ### Layout (R250, R263-R265) -/

/-- A ring line's bytes (R250). -/
def ringBytes (source ls : Nat) (l : RingLine) : List Byte :=
  padTo ls (padTo 16 l.desc ++ le4 l.seq ++ le2 l.epoch.toNat ++ [l.spanFlags, l.mark] ++ le4 l.first ++ le4 l.nFlagged
    ++ l.values.flatMap (leInt (if source = 3 then 4 else 2)))

/-- `REC_FLAGS` (R265). -/
def Record.flagWord (r : Record) : Nat :=
  flags [r.ctx < 256 && r.isCut && r.pre.length < r.preReq, r.abandoned, r.gap, r.lost, r.ctx = 256, r.meas.atStart, r.meas.onsetNone,
    r.meas.noneIn]

/-- The header of a record (R264), ending with its CRC. -/
def Record.header (r : Record) : List Byte :=
  let m := r.meas
  withCrc (le4 r.handle ++ le2 r.ctx ++ le2 r.flagWord ++ le2 r.epoch.toNat ++ le1 r.source ++ le1 r.cause ++ le4 r.firstZone
    ++ le4 r.nZones ++ le4 r.lineSize ++ le4 r.preReq ++ le4 r.pre.length ++ le4 r.postReq ++ le4 r.post.length
    ++ le4 r.missedBefore.toNat ++ le4 r.zone ++ le4 r.seq ++ le4 r.stamp ++ le8 r.sec ++ le4 r.nsec ++ le4 r.preHead
    ++ le4 r.preBlocks ++ le4 r.postBlocks ++ le4 m.peak ++ le4 m.peakZone ++ le4 m.peakLine ++ le4 m.rms ++ le8 m.energy
    ++ le4 m.period ++ le4 m.nCross ++ le4 m.onset ++ le4 m.extent ++ le4 m.extFirst)

/-- The length of the logical image (R263). -/
def Record.imageLen (r : Record) : Nat :=
  if r.ctx = 256 then 128 + r.raw.length else 128 + (r.pre.length + r.post.length) * r.lineSize

/-- The logical image (R263). -/
def Record.logical (r : Record) : List Byte :=
  if r.ctx = 256 then r.header ++ r.raw
  else r.header ++ ((List.range (r.pre.length + r.post.length)).zip (r.pre ++ r.post)).flatMap (fun x =>
    match x.2.held with
    | some l => ringBytes r.source r.lineSize l
    | none => (List.range r.lineSize).map (fun i => Config.poolByte r.handle (128 + x.1 * r.lineSize + i)))

/-! ### Completion (R226, R257, R267) -/

/-- The `RECORD_DONE` item (R268). -/
def recordDone (r : Record) (s : State) : State :=
  evtItem 0x02 (le2 r.ctx ++ le2 r.flagWord ++ le4 r.handle ++ le4 r.pre.length ++ le4 r.post.length ++ le8 r.imageLen) s

/-- A record is complete: measured, reported; a `DISARMING` context becomes `DISARMED`. -/
def completeRec (h : Nat) (s : State) : State :=
  match findRec h s with
  | none => s
  | some r =>
    let r := { r with phase := if r.lost then .lost else .done, meas := if r.ctx = 256 || r.lost then {} else measure r }
    let s := recordDone r (modRec h (fun _ => r) s)
    if r.ctx < 256 && (ctx s r.ctx).capture = some h then
      streamStopped r.ctx (lapsePoints r.ctx
        (modCtx r.ctx (fun c => { c with capture := none, recent := some h, state := if c.state = .disarming then .disarmed else c.state }) s))
    else s

/-- `REARM` ends: the reserve is claimed and the context returns to `ARMED` (R257). -/
def endRearm (k : Nat) (s : State) : State :=
  if (ctx s k).state = .rearm then
    modCtx k (fun c => { c with state := .armed, rearmLeft := 0, armedAt := s.now }) (claimReserve k s)
  else s

/-- `REARM` begins; without launches it ends at once for DAS and DTS contexts (R257). -/
def beginRearm (k : Nat) (s : State) : State :=
  let s := modCtx k (fun c => { c with state := .rearm, rearmLeft := 2 }) s
  if !s.light.running && (ctx s k).source ≠ 3 then endRearm k s else s

/-- One boundary, or conversion end, of those `REARM` waits for. -/
def tickRearm (k : Nat) (s : State) : State :=
  if (ctx s k).state ≠ .rearm then s
  else if (ctx s k).rearmLeft ≤ 1 then endRearm k s
  else modCtx k (fun c => { c with rearmLeft := c.rearmLeft - 1 }) s

/-- A launch-period boundary ends re-arm windows. -/
def rearmBoundary (s : State) : State := (ctxsWhere s (fun c => c.state = .rearm)).foldl (fun s k => tickRearm k s) s

/-- The last launch has been made: re-arm windows of DAS and DTS contexts end (R257). -/
def rearmStopped (s : State) : State :=
  (ctxsWhere s (fun c => c.state = .rearm && c.source ≠ 3)).foldl (fun s k => endRearm k s) s

/-- The last post-trigger line is committed (R257). -/
def captured (k h : Nat) (s : State) : State :=
  let s := modRec h (fun r => { r with phase := .measuring }) s
  let s := if (ctx s k).state = .capture then beginRearm k s else s
  match findRec h s with
  | some r => if r.readBack then completeRec h s else s
  | none => s

/-- `READBACK_DONE` (R267): the pre part is read back. -/
def execReadbackDone (t : Ps) (handle : U32) (s : State) : Res :=
  let s := s.adv t
  let h := handle.toNat
  .next (match findRec h s with
    | none => s
    | some r =>
      if r.readBack || !(r.phase = .capture || r.phase = .measuring) || r.ctx = 256 then s
      else
        let s := modRec h (fun r => { r with readBack := true }) s
        if r.phase = .measuring then completeRec h s else s)

/-! ### Rings (R250-R256) -/

/-- A line of a context as a ring line. -/
def toRing (c : Ctx) (l : CtxLine) (epoch : U16) : RingLine :=
  let idx := (List.range l.flags.length).filter (fun i => (l.flags[i]?).getD 0 ≠ 0)
  let marks := (c.marks.filter (fun m => m.1 = l.seq)).foldl (fun a m => a ||| m.2) (bit l.skipped)
  { desc := l.desc, seq := l.seq, epoch := epoch, spanFlags := l.flags.foldl (· ||| ·) 0, mark := by8 marks,
    first := idx.head?.getD 0xFFFFFFFF, nFlagged := idx.length, nfRel := l.nfRel, values := l.values }

/-- How many of a ring's newest places are kept: the `PRE_LINES` that end at the oldest line whose decision is out, and the lines
after it. -/
def ringKeep (c : Ctx) : Nat :=
  c.pre + (match c.jobs with | j :: _ => c.lines - j.line.seq | [] => 0)

/-- A line written to the ring, or its place left as it was (R253, R254). -/
def ringPlace (c : Ctx) (l : CtxLine) (epoch : U16) (drop : Bool) : Place :=
  if drop then { seq := l.seq, held := if c.pre = 0 then none else (c.ring[c.pre - 1]?).bind (·.held) }
  else { seq := l.seq, held := some (toRing c l epoch) }

/-- Real-time bytes written, shared by the live channels (R456, R474). -/
def rtWrite (bytes : Nat) (s : State) : State :=
  let n := (s.mem.ch.toList.filter (·.live)).length
  let over_ := rtLoadOver s
  { s with mem.ch := s.mem.ch.map (fun c =>
      if c.live && n ≠ 0 then { c with rtBytes := c.rtBytes + bytes / n, overSeen := c.overSeen || over_ } else c) }

/-- A line that the memory cannot accept (R459): counted, and the first of an episode reported. -/
def rtDropped (chan : Nat) (s : State) : State :=
  let s := { s with mem.ch := vmod s.mem.ch chan (fun c => { c with rtDrop := satInc c.rtDrop }) }
  let s := if s.mem.dropAt.isNone then raise { code := 0x0A03, unit := 0x0120 + chan } s else s
  { s with mem.dropAt := some s.now }

/-- The drop of a line that the memory is said not to accept: within the reservation none is dropped (R461). -/
def realDrop (drop : Option Nat) (s : State) : Option Nat := if rtLoadOver s then drop else none

/-- A line, or the gap of a lost one, in the post area of the record in capture or in the ring (R253-R255); `DISARMING` writes
for its record only (R222). -/
def storeLine (k : Nat) (l : CtxLine) (lost : Bool) (s : State) : State :=
  let c := ctx s k
  match (c.capture.bind (fun h => findRec h s)).filter (fun r => c.cutDue.isNone && r.phase = .capture) with
  | some r =>
    modRec r.handle (fun r => { r with
      post := r.post ++ [{ seq := l.seq, held := if lost then none else some (toRing c l s.cmd.epoch) }],
      gap := r.gap || lost }) s
  | none =>
    if c.state = .disarming then s
    else modCtx k (fun c => { c with ring := (ringPlace c l s.cmd.epoch lost :: c.ring).take (ringKeep c) }) s

/-- A line of a context with the channel that cannot accept it, if any: counted as dropped or written, then stored. -/
def writeLine (k : Nat) (l : CtxLine) (drop : Option Nat) (s : State) : State :=
  match drop with
  | some ch => storeLine k l true (rtDropped ch (modCtx k (fun c => { c with ringDrop := satInc c.ringDrop }) s))
  | none =>
    if s.mem.ch.toList.all (fun m => !m.live) then storeLine k l true s
    else storeLine k l false (rtWrite (ctx s k).lineSize s)

/-- A context's line goes to the record memory, if the context records; marks that waited for it are spent. -/
def placeLine (k : Nat) (l : CtxLine) (drop : Option Nat) (s : State) : State :=
  if !(ctx s k).records then s
  else modCtx k (fun c => { c with marks := c.marks.filter (fun m => m.1 ≠ l.seq) }) (writeLine k l (realDrop drop s) s)

/-- A mark on a line: on the place that holds it, or kept until it is written (R250). -/
def markLine (k seq bits : Nat) (s : State) : State :=
  let c := ctx s k
  let put (p : Place) : Place :=
    if p.seq = seq then { p with held := p.held.map (fun l => if l.seq = seq then { l with mark := l.mark ||| by8 bits } else l) }
    else p
  if c.lines ≤ seq then modCtx k (fun c => { c with marks := (seq, bits) :: c.marks }) s
  else
    let s := modCtx k (fun c => { c with ring := c.ring.map put }) s
    match c.capture.orElse (fun _ => c.recent) with
    | some h => modRec h (fun r => { r with post := r.post.map put, pre := r.pre.map put }) s
    | none => s

/-- The blocks of a ring, ascending, that hold some of `n` lines from place `a` on (R253, R255). -/
def blocksHolding (rB pre ls a n : Nat) : List Nat :=
  let parts := if n = 0 then [] else if a + n ≤ pre then [(a * ls, (a + n) * ls)] else [(a * ls, pre * ls), (0, (a + n - pre) * ls)]
  (List.range rB).filter (fun b => parts.any (fun p => b * 1048576 < p.2 && p.1 < (b + 1) * 1048576))

/-- The cut at the end of the trigger line (R255, R256): pre part, post area, replacement ring. Places that nothing was ever
written to hold no line. -/
def cut (k h : Nat) (s : State) : State :=
  let c := ctx s k
  match findRec h s with
  | none => s
  | some r =>
    let pre := ((c.ring.filter (fun p => p.seq ≤ r.seq)).take c.pre).reverse.dropWhile (fun p => p.held.isNone)
    let later := (c.ring.filter (fun p => r.seq < p.seq)).reverse
    let post := later.take r.postReq
    let rest := (later.drop r.postReq).reverse
    let n := pre.length
    let place := match pre.head? with
      | some p => if c.pre = 0 then 0 else (p.seq - c.s0) % c.pre
      | none => 0
    let kept := blocksHolding c.rB c.pre c.lineSize place n
    let before := (kept.filter (fun b => (b + 1) * 1048576 ≤ place * c.lineSize)).length
    let gap := (pre ++ post).any (fun p => match p.held with | some l => l.seq ≠ p.seq | none => true)
    let s := modRec h (fun r => { r with
      pre := pre, post := post, thresh := c.measThresh, missedBefore := c.missedBefore, isCut := true,
      preHead := if n = 0 then 0 else before * 1048576 + place * c.lineSize % 1048576, preKept := kept,
      preBlocks := kept.length, postBlocks := c.pB, gap := gap, readBack := n = 0 }) s
    let s := modCtx k (fun c => { c with ring := rest, s0 := r.seq + r.postReq + 1, ringBlocks := c.rB, resBlocks := 0,
                                         reserve := false, cutDue := none, missedBefore := 0 }) s
    if post.length = r.postReq then captured k h s else s

/-- The end of a context's line: a cut that waited for it, the last post-trigger line (R255, R257). -/
def lineEnd (k seq : Nat) (s : State) : State :=
  let c := ctx s k
  match c.capture with
  | none => s
  | some h =>
    match c.cutDue with
    | some q => if q ≤ seq then cut k h s else s
    | none =>
      match findRec h s with
      | some r => if r.phase = .capture && r.postReq ≤ r.post.length then captured k h s else s
      | none => s

/-! ### Triggers (R220-R223, R259) -/

/-- A record of a context begins (R255, R264). -/
def startRecord (k : Nat) (l : TrigLine) (cause zone : Nat) (s : State) : Nat × State :=
  let c := ctx s k
  let (e, g) := newEntry s
  let r : Record :=
    { entry := e, gen := g, ctx := k, source := c.source, cause := cause, epoch := l.epoch, firstZone := c.first,
      nZones := c.n, lineSize := c.lineSize, preReq := c.pre, postReq := c.post, missedBefore := 0, zone := zone,
      seq := l.seq, stamp := stampOf l.dev, sec := l.dev / 1000000000, nsec := l.dev % 1000000000 }
  let s := addRec r s
  (r.handle, modCtx k (fun c => { c with capture := some r.handle, cutDue := some l.seq, state := .capture }) s)

/-- A missed trigger (R259, R269). -/
def missTrigger (k : Nat) (l : TrigLine) (zone reason : Nat) (dec : Ps) (s : State) : State :=
  let s := markLine k l.seq 8 (modCtx k (fun c => { c with missed := satInc c.missed, missedBefore := satInc c.missedBefore }) s)
  evtItemAt dec 0x03 s.cmd.epoch (le1 k ++ le1 reason ++ zeros 2 ++ le4 (ctx s k).missed.toNat ++ le4 l.seq
    ++ le4 (stampOf l.dev) ++ le4 zone ++ zeros 4) s

/-- A `TRIGGER` item (R239). -/
def triggerItem (k : Nat) (l : TrigLine) (cause zone : Nat) (handle : Option Nat) (dec : Ps) (s : State) : State :=
  evtItemAt dec 0x01 s.cmd.epoch (le1 k ++ le1 cause ++ le1 (if handle.isSome then 0 else 1)
    ++ le1 (if (ctx s k).source = 1 then l.slot else 0xFF) ++ le4 zone ++ le4 l.seq ++ le4 (stampOf l.dev)
    ++ le4 (handle.getD 0xFFFFFFFF) ++ zeros 4) s

/-- The state of a context in which a trigger is decided at an instant: before the end of a `REARM` it is that one (R223, R257). -/
def Ctx.stateAt (c : Ctx) (dec : Ps) : CtxState := if c.state = .armed && dec < c.armedAt then .rearm else c.state

/-- What follows a trigger by the state in which it is decided (R223); the handle of a record it started. -/
def dispose (k : Nat) (l : TrigLine) (cause zone : Nat) (dec : Ps) (s : State) : Option Nat × State :=
  let c := ctx s k
  match c.stateAt dec with
  | .armed =>
    if !c.records then
      let s := modCtx k (fun c => { c with trigCnt := satInc c.trigCnt }) s
      (none, if c.trigEvents then triggerItem k l cause zone none dec s else s)
    else if c.reserve then
      let (h, s) := startRecord k l cause zone (markLine k l.seq 2 s)
      (some h, triggerItem k l cause zone (some h) dec (modCtx k (fun c => { c with trigCnt := satInc c.trigCnt }) s))
    else (none, missTrigger k l zone c.why dec s)
  | .capture => (none, markLine k l.seq 4 (modCtx k (fun c => { c with absorbed := satInc c.absorbed }) s))
  | .rearm => (none, missTrigger k l zone 0 dec s)
  | _ => (none, s)

/-- A word with some of its 32-bit halves replaced. -/
def setHalf (w : U64) (high : Bool) (v : Nat) : U64 :=
  if high then BitVec.ofNat 32 v ++ w.extractLsb' 0 32 else w.extractLsb' 32 32 ++ BitVec.ofNat 32 v

/-- A `TRIGGER` or `RECORD_MISSED` item of a line, known by its number and its stamp, takes both causes and the pattern's zone
(R221, R239, R269). -/
def joinItem (k seq stamp : Nat) (zone : Option Nat) (ws : List U64) : List U64 :=
  match ws with
  | [h, a, b, c] =>
    let type := (h.extractLsb' 0 8).toNat
    if (a.extractLsb' 0 8).toNat ≠ k || b ≠ BitVec.ofNat 64 (seq % 2 ^ 32 + 2 ^ 32 * stamp) then ws
    else if type = 1 then
      let a := (a &&& ~~~0xFF00#64) ||| 0x300#64
      [h, match zone with | some z => setHalf a true z | none => a, b, c]
    else if type = 3 then
      [h, a, b, match zone with | some z => setHalf c false z | none => c]
    else ws
  | _ => ws

/-- A trigger joins the one already made on its line (R221): its status, its record, its item and its `ALMS` word where they
are still in the device (log 65). -/
def joinTrigger (k : Nat) (t : LastTrig) (cause zone : Nat) (s : State) : State :=
  let z17 := if zone = 0xFFFFFFFF then 0x1FFFF else zone
  let last (c : Ctx) : Bool := (c.trigs.head?.map (·.seq)) = some t.seq
  let s := modCtx k (fun c => { c with
    lastCause := if last c then 3 else c.lastCause,
    trigs := c.trigs.map (fun x => if x.seq = t.seq then { x with cause := 3 } else x),
    lastZone := if cause = 1 && last c then BitVec.ofNat 17 z17 else c.lastZone }) s
  let s := amendItems (joinItem k t.seq t.stamp (if cause = 1 then some zone else none)) s
  let s := if cause = 1 then joinAlarm k z17 t.seq s else s
  match t.handle with
  | some h => modRec h (fun r => { r with cause := 3, zone := if cause = 1 then zone else r.zone }) s
  | none => s

/-- The lines on which a trigger may still be joined: those whose pattern or edges are not all in (R221). -/
def Ctx.openFrom (c : Ctx) : Nat := match c.jobs with | j :: _ => j.line.seq | [] => c.lines - 1

/-- A trigger of context `k` decided at an instant (R221-R223): `cause` 1 pattern, 2 `TIN`; `zone` 0xFFFF_FFFF for none. -/
def trigger (k : Nat) (l : TrigLine) (cause zone : Nat) (dec : Ps) (s : State) : State :=
  let c := ctx s k
  let prior := c.trigs.find? (fun t => t.seq = l.seq && t.cause ≠ cause && t.cause ≠ 3)
  match prior with
  | some t => joinTrigger k t cause zone s
  | none =>
    let z17 := if zone = 0xFFFFFFFF then 0x1FFFF else zone
    let s := driveAlarms k (c.source = 1 && cause = 1) z17 l.seq dec s
    let (h, s) := dispose k l cause zone dec s
    modCtx k (fun c => { c with
      lastZone := BitVec.ofNat 17 z17, lastCause := BitVec.ofNat 2 cause, lastSeq := BitVec.ofNat 32 l.seq,
      lastStamp := BitVec.ofNat 32 (stampOf l.dev),
      trigs := { seq := l.seq, stamp := stampOf l.dev, cause := cause, handle := h }
        :: c.trigs.filter (fun t => c.openFrom ≤ t.seq) }) s

/-! ### Disarming and recovery of a context's record (R226, R237, R260, R262) -/

/-- A record in capture closed at the last line captured (R226, R260). -/
def abandonRec (k : Nat) (s : State) : State :=
  let c := ctx s k
  match c.capture with
  | none => s
  | some h =>
    let s := if c.cutDue.isSome then cut k h s else s
    match findRec h s with
    | some r =>
      if r.phase = .capture then
        let s := modRec h (fun r => { r with abandoned := true, phase := .measuring,
                                             postBlocks := blocksOf (128 + r.post.length * r.lineSize) }) s
        if r.readBack then completeRec h s else s
      else s
    | none => s

/-- A context disarmed at its point (R226). -/
def disarmNow (k : Nat) (abandon : Bool) (s : State) : State :=
  let c := ctx s k
  let capturing := c.state = .capture || c.state = .disarming
  if !c.live || (c.state = .disarming && !abandon) then s
  else if capturing && !abandon then
    let s := modCtx k (fun c => { c with state := .disarming, jobs := [], edges := [], runC := 0, tabs := [] }) s
    retryReserves (modCtx k (fun c => { c with ringBlocks := 0, resBlocks := 0, reserve := false, ring := [] })
      (match c.cutDue, c.capture with | some _, some h => cut k h s | _, _ => s))
  else
    let s := if capturing then abandonRec k s else s
    let s := modCtx k (fun c => { c with state := .disarmed, jobs := [], edges := [], runC := 0, tabs := [], capture := none }) s
    retryReserves (dropClaims k (streamStopped k s))

/-- A record in capture discarded (R237, R260): the context enters `REARM` with its ring empty. -/
def discardRec (k : Nat) (s : State) : State :=
  let c := ctx s k
  match c.capture with
  | none => s
  | some h =>
    match findRec h s with
    | some r =>
      if r.phase ≠ .capture then s
      else
        let s := freeRec h s
        let s := modCtx k (fun c => { c with capture := none, cutDue := none, discarded := satInc c.discarded, ring := [],
                                             s0 := c.lines, ringBlocks := c.rB, resBlocks := 0, reserve := false }) s
        if c.state = .disarming then
          streamStopped k (lapsePoints k (modCtx k (fun c => { c with state := .disarmed, ringBlocks := 0 }) s))
        else beginRearm k s
    | none => s

/-! ### REC_LIST (R272) -/

def recListSpec : CmdSpec := { opcode := 0x40, target := .device, mirror := false, len := fixedLen 8 }

/-- Held records in ascending table-entry order. -/
def recsSorted (s : State) : List Record := s.pool.recs.mergeSort (fun a b => a.entry ≤ b.entry)

/-- `STATE` of a listed record. -/
def Record.stateCode (r : Record) : Nat :=
  match r.phase with
  | .capture | .measuring => 0
  | .done => 1
  | .lost => 2

def recEntry (r : Record) : List Byte :=
  le4 r.handle ++ le2 r.ctx ++ le2 r.flagWord ++ le4 (r.pre.length + r.post.length) ++ le4 r.blocks ++ le4 r.stamp
    ++ le2 r.epoch.toNat ++ le1 r.stateCode ++ zeros 1

def cmdRecList (f : Fetched) (s : State) : Ans :=
  let c := fld f.payload 0 2
  let n := fld f.payload 2 2
  let start := fld f.payload 4 4
  checked [(!(c ≤ 256 || c = 0xFFFF) || !(inR n 1 160) || 16383 < start, St.badParam)] s fun _ =>
    let all := (recsSorted s).filter (fun r => c = 0xFFFF || r.ctx = c)
    let from_ := all.filter (fun r => start ≤ r.entry)
    let got := from_.take n
    { status := St.ok, st := s,
      payload := le4 all.length ++ le4 (((from_.drop n).head?.map (·.entry)).getD 0xFFFFFFFF) ++ le4 (blocksFree s)
        ++ le2 got.length ++ zeros 2 ++ got.flatMap recEntry }

def execRecList (r : Req) (s : State) : Res := .next (perform recListSpec cmdRecList r s)

/-! ### REC_FETCH (R271, R273, R463) -/

def recFetchSpec : CmdSpec := { opcode := 0x41, target := .device, mirror := false, len := fixedLen 20 }

/-- The ranges of R273 that the request alone decides; a read names no pages (R348). -/
def fetchForm (p : List Byte) : Bool :=
  let mode := fld p 4 1
  let len := fld p 6 2
  let pg := fld p 16 2
  let np := fld p 18 2
  mode ≤ 1 && fld p 5 1 = 0
    && (if mode = 0 then inR len 4 4032 && len % 4 = 0 && fld p 8 8 % 4 = 0 && pg = 0 && np = 0
        else len = 0 && pg ≤ 255 && inR np 1 256 && pg + np ≤ 256)

/-- The range checks of R273, against the lines and blocks held so far (log 205). -/
def fetchBad (r : Record) (p : List Byte) : Bool :=
  !fetchForm p || (if fld p 4 1 = 0 then r.imageLen < fld p 8 8 + fld p 6 2 else r.blocks < fld p 8 8 + fld p 18 2)

/-- Bytes of uncorrectable words read 0xFF. -/
def maskBad (bad : List Nat) (off : Nat) (d : List Byte) : List Byte :=
  ((List.range d.length).zip d).map (fun x => if bad.contains ((off + x.1) / 8) then 0xFF else x.2)

def cmdRecFetch (f : Fetched) (s : State) : Ans :=
  let p := f.payload
  let h := fld p 0 4
  let off := fld p 8 8
  let len := fld p 6 2
  match findRec h s with
  | none => reject St.badParam s
  | some r =>
    checked [(fetchBad r p, St.badParam), (r.phase = .capture || r.phase = .measuring, St.busy),
        (r.lost, St.checkFail)] s fun _ =>
      let s := if s.power.mode = .standby then { s with mem.ch := s.mem.ch.map (fun c => { c with selfRefresh := false }) } else s
      if fld p 4 1 = 0 then
        let hit := r.bad.any (fun w => off / 8 ≤ w && w ≤ (off + len - 1) / 8)
        { status := if hit then St.degraded else St.ok, st := s,
          payload := le4 h ++ le8 off ++ le2 len ++ zeros 2 ++ le8 r.imageLen
            ++ maskBad r.bad off ((r.logical.drop off).take len) }
      else
        let pg := fld p 16 2
        let np := fld p 18 2
        let new := (List.range np).map (fun i => (pg + i, h, off + i))
        { status := St.ok,
          st := { s with pool.pages := new ++ s.pool.pages.filter (fun x => x.1 < pg || pg + np ≤ x.1) },
          payload := le4 h ++ le4 r.preBlocks ++ le4 r.postBlocks ++ le2 np ++ zeros 2 }

def execRecFetch (r : Req) (s : State) : Res := .next (perform recFetchSpec cmdRecFetch r s)

/-! ### REC_RELEASE (R274) -/

def releaseLen (p : List Byte) : Bool := 8 ≤ p.length && p.length = 8 + 4 * fld p 4 2

def recReleaseSpec : CmdSpec := { opcode := 0x42, target := .device, mirror := false, len := releaseLen }

/-- Result of releasing one handle (R274): 0 released, 1 stale, 2 in capture. -/
def releaseOne (h : Nat) (s : State) : Nat × State :=
  match findRec h s with
  | none => (1, s)
  | some r => if r.phase = .capture || r.phase = .measuring then (2, s) else (0, freeRec h s)

def releaseAll : List Nat → State → List Nat × State
  | [], s => ([], s)
  | h :: hs, s =>
    let (x, s) := releaseOne h s
    let (xs, s) := releaseAll hs s
    (x :: xs, s)

def cmdRecRelease (f : Fetched) (s : State) : Ans :=
  let p := f.payload
  let fl := fld p 0 1
  let c := fld p 2 2
  let n := fld p 4 2
  checked [(1 < fl || fld p 1 1 ≠ 0 || 64 < n || fld p 6 2 ≠ 0 || (n = 0 && fl = 0) || (fl = 1 && 256 < c)
      || (fl = 0 && c ≠ 0), St.badParam)] s fun _ =>
    let hs := (List.range n).map (fun i => fld p (8 + 4 * i) 4)
    let (res, s1) := releaseAll hs s
    let own := if fl = 1 then ((s1.pool.recs.filter (fun r => r.ctx = c && r.phase ≠ .capture && r.phase ≠ .measuring)).map
      Record.handle) else []
    let s2 := retryReserves (own.foldl (fun s h => freeRec h s) s1)
    let released := (res.filter (· = 0)).length + own.length
    { status := if res.all (· = 0) then St.ok else St.degraded, st := s2,
      payload := le2 released ++ zeros 2 ++ le4 (blocksFree s2) ++ padTo (cdiv n 4 * 4) (res.flatMap le1) }

def execRecRelease (r : Req) (s : State) : Res := .next (perform recReleaseSpec cmdRecRelease r s)

/-! ### POOL_CFG (R247, R275, R450) -/

/-- The largest `POOL_BLOCKS` for so many live channels (R450). -/
def poolMaxOf (n : Nat) : Nat := if n = 0 then 0 else n * 3584 - 1024

def poolMax (s : State) : Nat := poolMaxOf (nLive s)

def poolCfgSpec : CmdSpec := { opcode := 0x43, target := .deviceOrContext, mirror := false, len := fixedLen 16 }

def cmdPoolCfg (f : Fetched) (s : State) : Ans :=
  let p := f.payload
  let fl := fld p 0 1
  let t := f.target.toNat
  let dev := t = 0xFFFF
  let setPool := tst fl 0
  checked [(setPool && dev && (s.ctxs.toList.any Ctx.live || s.indigo.raw.isSome), St.ctxArmed),
      (setPool && dev && !s.pool.recs.isEmpty, St.busy),
      (7 < fl || fld p 1 3 ≠ 0 || (setPool && !dev) || (dev && (tst fl 1 || tst fl 2))
        || !definedOr0 setPool (fld p 4 4) (inR (fld p 4 4) 1024 13312) || (setPool && poolMax s < fld p 4 4)
        || 13312 < fld p 8 4 || !definedOr0 (tst fl 2) (fld p 12 4) (inI (sfld p 12 4) 1 8388607), St.badParam)] s fun _ =>
    let s := if setPool then { s with pool.blocks := fld p 4 4 } else s
    let s := if tst fl 1 then modCtx t (fun c => { c with quota := fld p 8 4 }) s else s
    let s := if tst fl 2 then modCtx t (fun c => { c with measThresh := fld p 12 4 }) s else s
    let s := retryReserves s
    { status := St.ok, st := s,
      payload := le4 s.pool.blocks ++ le4 (blocksFree s) ++ le4 (tableFree s)
        ++ (if dev then zeros 12 else le4 (ctx s t).quota ++ le4 (claimOf s t) ++ le4 (ctx s t).measThresh) }

def execPoolCfg (r : Req) (s : State) : Res := .next (perform poolCfgSpec cmdPoolCfg r s)

end Sys2Proof.Machine
end

