-- ==== Sys2Proof/Machine/Streams.lean ====
section
/-! DEFINITION. Machine/Streams.lean: bulk loads and the zone map they bring (R128-R136, R328-R330, R344), stream
configuration, saving and delivery (R311, R322-R327, R341-R343), event forwarding (R340). -/

namespace Sys2Proof.Machine

open Sys2Proof

/-! ### Bulk loads (R328-R330, R344) -/

/-- Where decoding a piece ends: bytes decoded and an unfinished token, or beyond the declared length. -/
inductive Decoded where
  | more (out : List Byte) (part : List Byte)
  | beyond
deriving DecidableEq, Repr

/-- Tokens of R314 and R329 decoded into at most `left` bytes; `out` in reverse. -/
def decodeUnits : Nat → List Byte → Nat → List Byte → Decoded
  | fuel + 1, lo :: hi :: rest, left, out =>
    if left < 2 then .beyond
    else if lo = 0 ∧ hi = 0x80 then
      match rest with
      | cl :: ch :: rest' =>
        let c := leVal [cl, ch]
        if c = 0 then decodeUnits fuel rest' (left - 2) (0x80 :: 0 :: out)
        else if left < 2 * c then .beyond
        else decodeUnits fuel rest' (left - 2 * c) (List.replicate (2 * c) 0 ++ out)
      | part => .more out.reverse (lo :: hi :: part)
    else decodeUnits fuel rest (left - 2) (hi :: lo :: out)
  | _, part, _, out => .more out.reverse part

def stageOf (s : State) (k : Nat) : StageBuf := vget s.stages k
def setStage (k : Nat) (b : StageBuf) (s : State) : State := { s with stages := vset s.stages k b }

/-- The image of a complete buffer (R328). -/
def staged (s : State) (k : Nat) : Option (List Byte) :=
  if k < 4 && (stageOf s k).phase = 2 then some (stageOf s k).decoded else none

/-- Do the declared length and check of an apply command fail (R133, R245, R306)? -/
def stageMismatch (img : List Byte) (len crc : Nat) : Bool := img.length ≠ len || (crc32c img).toNat ≠ crc

/-- With `FREE` no field but the buffer's number counts, `N_BYTES` with its data included. -/
def bulkLen (p : List Byte) : Bool :=
  20 ≤ p.length && (if tst (fld p 1 1) 2 then p.length % 4 = 0 else p.length = 20 + cdiv (fld p 16 2) 4 * 4)

def bulkLoadSpec : CmdSpec := { opcode := 0x5B, target := .device, mirror := true, len := bulkLen }

def bulkReply (k : Nat) (s : State) : List Byte :=
  let b := stageOf s k
  le1 k ++ le1 b.phase ++ zeros 2 ++ le4 b.accepted ++ le4 b.decoded.length

/-- A piece decoded into a buffer: the status and the buffer after it (R330). -/
def bulkPiece (b : StageBuf) (data : List Byte) (last : Bool) (crc : Nat) : Nat × StageBuf :=
  match decodeUnits (b.part.length + data.length + 1) (b.part ++ data) (b.declared - b.decoded.length) [] with
  | .beyond => (St.limitExceeded, {})
  | .more out part =>
    let d := b.decoded ++ out
    let b' : StageBuf := { b with decoded := d, part := part, accepted := b.accepted + data.length, phase := 1 }
    if !last then (St.ok, b')
    else if d.length < b.declared || !part.isEmpty || (crc32c d).toNat ≠ crc then (St.checkFail, {})
    else (St.ok, { b' with phase := 2, imageCrc := BitVec.ofNat 32 crc })

def cmdBulkLoad (f : Fetched) (s : State) : Ans :=
  let p := f.payload
  let k := fld p 0 1
  let fl := fld p 1 1
  let first := tst fl 0
  let last := tst fl 1
  let n := fld p 16 2
  let dl := fld p 8 4
  let b := stageOf s k
  let bad := 3 < k || 7 < fl
  let range := fld p 2 2 ≠ 0 || fld p 18 2 ≠ 0 || n % 2 ≠ 0 || !(inR n 2 4056) || (!last && fld p 12 4 ≠ 0)
    || (if first then fld p 4 4 ≠ 0 || dl % 2 ≠ 0 || !(inR dl 2 Config.stageBytes)
        else dl ≠ 0 || b.phase ≠ 1 || fld p 4 4 ≠ b.accepted)
  let reply (st : Nat) (s : State) : Ans := { status := st, st := s, payload := bulkReply k s }
  if bad then reply St.badParam s
  else if tst fl 2 then reply St.ok (setStage k {} s)
  else if range then reply St.badParam s
  else
    let b0 : StageBuf := if first then { phase := 1, declared := dl } else b
    let r := bulkPiece b0 ((p.drop 20).take n) last (fld p 12 4)
    reply r.1 (setStage k r.2 s)

def execBulkLoad (r : Req) (s : State) : Res := .next (perform bulkLoadSpec cmdBulkLoad r s)

/-- Staging at a recovery: loading buffers empty, complete ones kept (R328). -/
def recoverStages (s : State) : State :=
  { s with stages := s.stages.map (fun b => if b.phase = 1 then {} else b) }

/-! ### The zone map (R128-R136) -/

/-- The first field of a DAS entry that breaks R129 or R132, as an offset in the entry. -/
def dasBad (e : DasEntry) (raw : List Byte) : Option Nat :=
  if Config.maxSample < e.first + e.len - 1 then some 0
  else if fld raw 3 1 / 8 ≠ 0 then some 3
  else if fld raw 5 1 / 2 ≠ 0 then some 5
  else if e.xi < 32768 then some 6 else none

/-- The first field of a DTS entry that breaks R130 or R132. -/
def dtsBad (e : DtsEntry) (raw : List Byte) : Option Nat :=
  if Config.maxSample < e.first + e.len - 1 then some 0
  else if fld raw 3 1 / 8 ≠ 0 then some 3
  else if !(inR e.ct 100 5000) then some 4
  else if 2000 < e.cStrain then some 6
  else if e.nuRef ≠ 0 && !(inR e.nuRef 10000000 12000000) then some 8
  else if fld raw 14 2 ≠ 0 then some 14 else none

/-- The first bad entry of a group, as an offset in the image. -/
def groupBad {α : Type} (bad : α → List Byte → Option Nat) (w base : Nat) (es : List α) (raws : List (List Byte)) : Option Nat :=
  ((List.range es.length).zip (es.zip raws)).findSome? (fun x => (bad x.2.1 x.2.2).map (fun o => base + w * x.1 + o))

/-- The offset of the first field that breaks R132; none when no field does. DESIGN CHOICE (log 183): a length that does not
match names the lesser of the two lengths, the sum of the DAS counts over its bound names byte 4, a zone whose last sample
lies past the limit names the `GAP` of its entry. -/
def mapBad (img : List Byte) : Option Nat :=
  let a := fld img 4 4
  let b := fld img 8 4
  let c := fld img 12 4
  let d := fld img 16 4
  let need := 64 + 8 * (a + b) + 16 * (c + d)
  if img.length < 64 then some img.length
  else if fld img 0 2 ≠ 1 then some 0
  else if fld img 2 2 ≠ 0 then some 2
  else if Config.maxDasZones < a + b then some 4
  else if Config.maxDtsZones < c + d then some 12
  else if !((img.drop 20).take 44).all (· = 0) then some 20
  else if img.length ≠ need then some (min img.length need)
  else
    let g := imageGroups img
    let m := mapOfImage img
    (groupBad dasBad 8 64 m.das1 g.1).orElse fun _ =>
    (groupBad dasBad 8 (64 + 8 * a) m.das2 g.2.1).orElse fun _ =>
    (groupBad dtsBad 16 (64 + 8 * (a + b)) m.dts1 g.2.2.1).orElse fun _ =>
    groupBad dtsBad 16 (64 + 8 * (a + b) + 16 * c) m.dts2 g.2.2.2

/-- The aggregate rate of R24 for a map under the projected plan (R59, R136), per second, rounded down (log 40). -/
def mapRate (m : ZoneMap) (s : State) : Nat :=
  let j := projected s
  min (2 ^ 32 - 1) ((m.das j.light.port).length * nDas j j.planMode j.light.plan * 1000000000000 / acceptedTl j)

/-- The same rate for an image whose fields may break R132, from its header's counts (R136). -/
def imageRate (img : List Byte) (s : State) : Nat :=
  let j := projected s
  min (2 ^ 32 - 1) (fld img (4 * j.light.port) 4 * nDas j j.planMode j.light.plan * 1000000000000 / acceptedTl j)

def zoneMapLoadSpec : CmdSpec := { opcode := 0x21, target := .device, mirror := true, len := fixedLen 12 }

def mapReply (b : Option Bound) (img : List Byte) (rate : Nat) (bad : Option Nat) : List Byte :=
  (match b with | some x => applyFields x | none => le8 (2 ^ 64 - 1) ++ le4 (2 ^ 32 - 1))
    ++ le4 (fld img 4 4 + fld img 8 4) ++ le4 (fld img 12 4 + fld img 16 4) ++ le4 rate ++ le4 (bad.getD 0xFFFFFFFF)

/-- Is any context armed, or any stream running or paused (R133)? -/
def mapBlocked (s : State) : Bool :=
  s.ctxs.toList.any Ctx.live || (List.range 258).any (fun k => streamRuns s k || (stream s k).paused)

def cmdZoneMapLoad (f : Fetched) (s : State) : Ans :=
  let p := f.payload
  let img := staged s (fld p 0 1)
  let dts := match img with | some i => 64 ≤ i.length && fld i 12 4 + fld i 16 4 ≠ 0 | none => false
  checked [(dts && !s.ochreFitted, St.notFitted), (s.inMode [.calibrate], St.wrongMode), (mapBlocked s, St.ctxArmed)] s fun _ =>
    match img with
    | none => { status := St.badParam, st := s, payload := mapReply none [] 0 none }
    | some i =>
      let j := projected s
      let m := mapOfImage i
      let bad := mapBad i
      let rate := if bad.isSome then imageRate i s else mapRate m s
      let jm := { j with indigo.map := m }
      let range := fld p 0 1 > 3 || 1 < fld p 1 1 || fld p 2 2 ≠ 0
      if range then { status := St.badParam, st := s, payload := mapReply none i rate bad }
      else if bad.isSome || !okR24 (m.das j.light.port).length (nDas j j.planMode j.light.plan) (acceptedTl j)
          || !okOchre jm j.planMode then
        { status := St.badParam, st := s, payload := mapReply none i rate bad }
      else if stageMismatch i (fld p 4 4) (fld p 8 4) then reject St.checkFail s
      else if fld p 1 1 = 1 then { status := St.ok, st := s, payload := mapReply none i rate none }
      else
        let (s', b) := schedule f i false false 0 false s
        { status := St.ok, st := s', payload := mapReply (if b.now_ then none else some b) i rate none, names := b.named,
          due := b.dueOf }

def execZoneMapLoad (r : Req) (s : State) : Res := .next (perform zoneMapLoadSpec cmdZoneMapLoad r s)

/-! ### STREAM_CFG (R341) -/

def streamCfgSpec : CmdSpec := { opcode := 0x58, target := .stream, mirror := false, len := fixedLen 44 }

/-- Do the fields that must not change while the stream runs stay? -/
def cfgSame (a b : Stream) : Bool :=
  a.rle = b.rle && a.transport = b.transport && a.ringSlots = b.ringSlots && a.ringBase = b.ringBase
    && a.destAddr = b.destAddr && a.destPort = b.destPort && a.fragLen = b.fragLen && a.suppTable = b.suppTable
    && a.suppConst = b.suppConst

/-- A number of slots (R341). -/
def slotsOk (n : Nat) : Bool := inR n 16 65536 && (List.range 17).any (fun i => n = 2 ^ i)

/-- A fragment length (R323). -/
def fragOk (n : Nat) : Bool := inR n 256 8960 && n % 64 = 0

/-- Reserved bytes, and values that no field defines, whatever the action (R348). -/
def streamForm (p : List Byte) : Bool :=
  let used := fld p 0 1 = 1
  fld p 0 1 ≤ 2 && fld p 1 1 ≤ 2 && fld p 2 1 ≤ 3 && (fld p 3 1 = 0 || inR (fld p 3 1) 5 15) && fld p 5 1 ≤ 3
    && fld p 6 2 ≤ 1000 && (fld p 8 1 ≤ 63 || fld p 8 1 = 0xFF) && fld p 9 1 = 0 && fld p 10 2 ≤ 32767
    && definedOr0 used (fld p 12 4) (slotsOk (fld p 12 4)) && fld p 16 8 % 4096 = 0
    && definedOr0 used (fld p 42 2) (fragOk (fld p 42 2))

/-- What else R341 refuses of a configuration. -/
def streamBad (k : Nat) (das : Bool) (n : Stream) : Bool :=
  n.transport = 0 || (n.rle && !das) || (k < 256 && n.run) || (k = 257 && n.transport = 1)

/-- `STATE` of a stream. -/
def streamState (s : State) (k : Nat) : Nat :=
  let x := stream s k
  if !x.configured then 0 else if x.paused && x.renew.isEmpty then 3 else if streamRuns s k then 2 else 1

def streamReply (k : Nat) (s : State) : List Byte :=
  let x := stream s k
  le1 (streamState s k) ++ zeros 3 ++ le4 (if k = 257 then s.evq.fwdSeq.toNat else (x.nextSeq - 1).toNat) ++ le4 x.sent.toNat
    ++ le4 x.drops.toNat ++ le8 x.unitsIn.toNat ++ le8 x.bytesOut.toNat

/-- Event forwarding starts or ends with stream 0x0101 (R340): what is queued already is forwarded too, and what is complete when it
ends is still sent. -/
def forwardSync (s : State) : State :=
  let on_ := streamRuns s 257
  if on_ && !s.evq.fwdOn then
    { s with evq := { s.evq with fwdOn := true, mark := 0, rdItem := 0, rdWord := 0 } }
  else { s with evq := { (if on_ then s.evq else s.evq.forwarded (s.cycle + 1)) with fwdOn := on_ } }

/-- A stream unconfigured; what of stream 0x0100's seconds a restore may need stays. -/
def Stream.bare (x : Stream) : Stream := { tick := x.tick, saved := x.saved }

def cmdStreamCfg (f : Fetched) (s : State) : Ans :=
  let p := f.payload
  let k := f.target.toNat
  let x := stream s k
  let das := k < 256 && (ctx s k).source = 1
  let act := fld p 0 1
  let n := newCfg p x
  let runs := streamRuns s k
  checked [((act = 1 && runs && !cfgSame n x) || (act = 2 && runs), St.ctxArmed),
      (!streamForm p || (act = 1 && streamBad k das n), St.badParam)] s fun _ =>
    let s' := match act with
      | 1 =>
        if x.owed.isSome then modStream k (fun x => { x with renew := x.renew ++ [p] }) s
        else forwardSync (streamStopped k (modStream k (configure p) s))
      | 2 => forwardSync (modStream k Stream.bare s)
      | _ => s
    { status := St.ok, st := s', payload := streamReply k s' }

def execStreamCfg (r : Req) (s : State) : Res := .next (perform streamCfgSpec cmdStreamCfg r s)

/-! ### STREAM_SAVE, STREAM_RESTORE (R326, R327, R342, R343) -/

/-- The span a stream carries: first zone and count. -/
def streamSpan (s : State) (k : Nat) : Nat × Nat :=
  if k < 256 then ((ctx s k).first, (ctx s k).n)
  else (s.indigo.map.dasBase s.light.port, (s.indigo.map.das s.light.port).length)

/-- Where a stream's coding stands: `BLOCK_SEQ` of the last block, `LINE_SEQ` and units of the last line coded. -/
structure SavePoint where
  block : Nat
  line  : Nat
  units : Nat

/-- The save point of a stream whose block is closed. -/
def savedAt (x : Stream) : SavePoint := { block := (x.nextSeq - 1).toNat, line := x.lineSeq.toNat, units := x.unitsDone }

/-- The save point inside a line: so many values of it have come, which the blocks up to there will hold. A line table that has no
room for the line's entry closes its block first (R320); exceptions of the line are not known yet (log 74). -/
def savedIn (x : Stream) (line units : Nat) : SavePoint :=
  let next := if x.resync && x.units.isEmpty then 0 else x.nextSeq.toNat
  let blocks := if x.tableFull 24 then cdiv x.units.length 4096 + cdiv units 4096 else cdiv (x.units.length + units) 4096
  { block := (next + blocks + 2 ^ 32 - 1) % 2 ^ 32, line := line % 2 ^ 32, units := units }

/-- The saved coder state without its check (R326). -/
def coderState (k : Nat) (p : SavePoint) (s : State) : List Byte :=
  let x := stream s k
  let sp := streamSpan s k
  le1 1 ++ le1 (if codesRle s k then 1 else 2) ++ le2 k ++ le4 p.block ++ le4 p.line ++ le4 p.units
    ++ le4 x.drops.toNat ++ le2 s.cmd.epoch.toNat ++ le1 x.suppTable ++ zeros 1 ++ le4 sp.1 ++ le4 sp.2
    ++ (List.range 28).map (fun i => Config.coderByte k i s.freeIdx)

def streamSaveSpec : CmdSpec := { opcode := 0x59, target := .stream, mirror := false, len := fixedLen 0 }

/-- A save inside a line (R126) pauses the stream at once; the values that have come by then are coded with their row (log 74). -/
def cmdStreamSave (f : Fetched) (s : State) : Ans :=
  let k := f.target.toNat
  checked [(k = 257 || !streamRuns s k, St.wrongMode)] s fun _ =>
    match lineInProgress s k with
    | some (q, n) =>
      { status := St.ok, st := (modStream k (fun x => { x with paused := true, owed := some (q, n) }) s).took,
        payload := withCrc (coderState k (savedIn (stream s k) q n) s) }
    | none =>
      let s1 := closeBlock k s
      { status := St.ok,
        st := (modStream k (fun x => { x with paused := true, saved := some (x.lineSeq.toNat, x.secs, x.tick) }) s1).took,
        payload := withCrc (coderState k (savedAt (stream s1 k)) s1) }

def execStreamSave (r : Req) (s : State) : Res := .next (perform streamSaveSpec cmdStreamSave r s)

/-- The seconds of stream 0x0100 since the start that a saved `LINE_SEQ` belongs to (R318, R327). Those between a save that is not the
last one and now are not known: none are counted (log 74). -/
def Stream.secsAfter (x : Stream) (line : Nat) : Nat :=
  match x.saved with
  | some (l, secs, tick) => if l = line then secs + (x.tick - tick) else line + 1
  | none => line + 1

def streamRestoreSpec : CmdSpec := { opcode := 0x5A, target := .stream, mirror := false, len := fixedLen 64 }

def cmdStreamRestore (f : Fetched) (s : State) : Ans :=
  let p := f.payload
  let k := f.target.toNat
  let x := stream s k
  let sp := streamSpan s k
  checked [(streamRuns s k, St.ctxArmed),
      (k = 257 || !x.configured || fld p 0 1 ≠ 1 || fld p 2 2 ≠ k || fld p 1 1 ≠ (if codesRle s k then 1 else 2)
        || fld p 24 4 ≠ sp.1 || fld p 28 4 ≠ sp.2, St.badParam),
      (fld p 60 4 ≠ (crc32c (p.take 60)).toNat, St.checkFail)] s fun _ =>
    let w := if k < 256 then ctxWhen s (ctx s k) else { due := s.now + Config.leadTime, count := 2 ^ 64 - 1, settle := none }
    { status := St.ok, names := w.count ≠ 2 ^ 64 - 1, due := w.settle, payload := le8 w.count,
      st := modStream k (fun x => { x with
        paused := false, resync := false, resumed := true, resumeAt := some w.due, carry := 0, longRun := false,
        nextSeq := BitVec.ofNat 32 (fld p 4 4) + 1, drops := BitVec.ofNat 32 (fld p 16 4),
        secs := if x.paused then x.secs else x.secsAfter (fld p 8 4) }) (endSave k s) }

def execStreamRestore (r : Req) (s : State) : Res := .next (perform streamRestoreSpec cmdStreamRestore r s)

/-! ### Delivery (R320, R322-R325) -/

/-- `BLOCK_AGE_EXPIRY` (R320): the oldest open block has been open for `MAX_AGE`. It closes at the end of the line in progress. -/
def execBlockAgeExpiry (k : Nat) (s : State) : Res :=
  let x := stream s k
  .next (match x.opened.head? with
    | some t =>
      let s := s.adv (t + x.maxAge * 1000000000)
      if (lineInProgress s k).isSome then modStream k (fun x => { x with closeDue := true }) s else closeBlock k s
    | none => s)

/-- A block's bytes as it is delivered (R316-R319). -/
def Block.bytes (b : Block) (k : Nat) (afterDrop : Bool) (drops : U32) : List Byte :=
  let h := le2 k ++ le2 b.node.toNat ++ le4 b.seq.toNat ++ le2 b.epoch.toNat ++ le2 (b.flags + 4 * bit afterDrop) ++ le4 b.carry
    ++ le2 b.nLines ++ zeros 2 ++ le4 b.table.length ++ le4 b.tokens.length
  withCrc h ++ b.table ++ b.tokens ++ le4 b.sampleCrc.toNat ++ le2 b.padFrom ++ zeros 2 ++ le4 drops.toNat ++ zeros 4

/-- A datagram from port 39401 (R323), signed when `auth`. -/
def streamDatagram (key : Option (List Byte)) (auth : Bool) (h body : List Byte) : List Byte :=
  h ++ body ++ (if auth then hmac (key.getD []) (h ++ body) else [])

/-- The datagrams of a block. -/
def fragments (k : Nat) (node : BitVec 14) (seq : U32) (x : Stream) (key : Option (List Byte)) (bytes : List Byte) : List (List Byte) :=
  let n := cdiv bytes.length x.fragLen
  (List.range n).map (fun i =>
    streamDatagram key x.auth
      (le2 k ++ le2 node.toNat ++ le4 seq.toNat ++ le1 i ++ le1 n ++ le1 (bit x.auth) ++ zeros 1 ++ le4 bytes.length)
      ((bytes.drop (i * x.fragLen)).take x.fragLen))

/-- A block's drop (R324), counted from the `RESYNC` it belongs to. -/
def dropBlock (k : Nat) (b : Block) (s : State) : State :=
  modStream k (fun x =>
    if b.pastDrops.isSome then
      { x with afterDrop := true, waiting := x.waiting.map (fun y => { y with pastDrops := y.pastDrops.map satInc }) }
    else { x with drops := satInc x.drops, afterDrop := true }) s

/-- The slot a block goes to, as an address in host memory (R322). -/
def slotAddr (x : Stream) : U64 := x.ringBase + BitVec.ofNat 64 (4096 + x.producer.toNat % x.ringSlots * 32768)

/-- A block written to its slot, and `PRODUCER` behind it (R322). -/
def writeToRing (k : Nat) (bytes : List Byte) (s : State) : State :=
  let x := stream s k
  send (.hostWrite k (x.ringBase + 4) (le4 (x.producer + 1).toNat)) (send (.hostWrite k (slotAddr x) bytes) s)

/-- A datagram sent to a stream's destination (R323). -/
def sendDatagram (k : Nat) (bytes : List Byte) (s : State) : State :=
  let x := stream s k
  send (.datagram k (x.transport - 2) x.destAddr x.destPort bytes) s

/-- The interrupt of R325. -/
def blockIrq (k : Nat) (padded : Bool) (s : State) : State :=
  let x := stream s k
  let n := x.sinceIrq + 1
  if padded || x.irqBlocks ≤ n then
    let s := modStream k (fun x => { x with sinceIrq := 0 }) s
    if x.vector = 0 then s else reqVector x.vector s
  else modStream k (fun x => { x with sinceIrq := n }) s

/-- Does a port carry IP traffic: link up, and the board record gives it an address (R561, R562)? -/
def ipUp (port : Nat) (s : State) : Bool :=
  let b := s.link.board
  (if port = 0 then s.link.eth0 else s.link.eth1) && !s.link.boardBad
    && !(fld b 0 2 = 1 && fld b (26 + 48 * port) 4 = 0 && (b.drop (36 + 48 * port)).take 16 = zeros 16)

/-- The Ethernet link of a transport. -/
def ethUp (s : State) (transport : Nat) : Bool := ipUp (transport - 2) s

/-- `BLOCK_SEND`: the oldest complete block is written or sent, or dropped. `consumer`: what a read of `CONSUMER` shows. -/
def execBlockSend (t : Ps) (k : Nat) (consumer : U32) (room : Bool) (s : State) : Res :=
  let s := s.adv t
  .next (if 256 < k then s
  else match (stream s k).waiting with
    | [] => s
    | b :: rest =>
      let x := stream s k
      let s := modStream k (fun x => { x with waiting := rest }) s
      let bytes := b.bytes k (x.afterDrop || b.after) (b.pastDrops.getD x.drops)
      let sent (x : Stream) : Stream :=
        { x with afterDrop := false, sent := x.sent + 1,
                 bytesOut := if b.pastDrops.isSome then x.bytesOut else x.bytesOut + BitVec.ofNat 64 bytes.length }
      if x.transport = 1 then
        let full (c : U32) : Bool := x.ringSlots ≤ (x.producer - c).toNat
        let c := if full x.consumer then consumer else x.consumer
        let s := modStream k (fun x => { x with consumer := c }) s
        if !s.hostUp || full c then dropBlock k b s
        else
          let s := writeToRing k bytes s
          blockIrq k (b.padFrom < 4096) (modStream k (fun x => { sent x with producer := x.producer + 1 }) s)
      else if !room || !ethUp s x.transport then dropBlock k b s
      else
        (fragments k b.node b.seq x s.cmd.key bytes).foldl (fun s d => sendDatagram k d s) (modStream k sent s))

/-! ### Event forwarding (R340) -/

def itemBytes (ws : List U64) : List Byte := ws.flatMap (fun w => le8 w.toNat)

/-- `EVT_FORWARD_SEND`: a datagram of up to 16 complete items; items the transmit queue cannot take are dropped. -/
def execEvtForwardSend (t : Ps) (room : Bool) (s : State) : Res :=
  let s := s.adv t
  let s := { s with evq := s.evq.forwarded (s.cycle + 1) }
  let items := s.evq.forward.take 16
  .next (if items.isEmpty then s
  else
    let x := stream s 257
    let s := { s with evq.forward := s.evq.forward.drop 16 }
    if !room || !ethUp s x.transport then { s with evq.lost := satAdd s.evq.lost items.length }
    else
      let body := items.flatMap (fun i => itemBytes i.words)
      let h := le2 257 ++ le2 s.cmd.node.toNat ++ le4 s.evq.fwdSeq.toNat ++ le1 0 ++ le1 1 ++ le1 (bit x.auth) ++ zeros 1
        ++ le4 body.length
      sendDatagram 257 (streamDatagram s.cmd.key x.auth h body) { s with evq.fwdSeq := s.evq.fwdSeq + 1 })

/-! ### Recovery and sleep (R321, R339, R375, R554) -/

/-- Coder states lost: blocks not yet sent are discarded, and running streams start again with `RESYNC` (R321). -/
def resyncStream (x : Stream) : Stream :=
  { loseState x with waiting := [] }

def recoverStreams (s : State) : State := { s with streams := s.streams.map resyncStream }

/-- Streams on PCIe return to unconfigured (R554). -/
def unconfigurePcie (s : State) : State :=
  { s with streams := s.streams.map (fun x => if x.transport = 1 then x.bare else x) }

end Sys2Proof.Machine
end

