-- ==== Sys2Proof/Machine/Watch.lean ====
section
/-! DEFINITION. Machine/Watch.lean: how a line reaches a watch context, its ring, its stream and the zone cores (R204-R218,
R289-R299), and how its pattern is evaluated (R207-R217). -/

namespace Sys2Proof.Machine

open Sys2Proof

/-! ### Contexts served by zone cores (R209, R291) -/

/-- Can a core take samples of a line of a context (R209, R300, R301, R307)? -/
def coreTakes (x : Core) (k : Nat) (at_ : Ps) : Bool :=
  x.state = .running && !x.stopDue && x.backAt.all (fun t => decide (t ≤ at_))
    && (x.binding k).any (fun b => decide (b.from_ ≤ at_))

/-- Do the cores of the group deliver bits for a line at an instant (R209)? -/
def coreServes (s : State) (k : Nat) (at_ : Ps) : Bool :=
  let g := groupOf s k
  !g.isEmpty && g.all (fun c => coreTakes (core s c) k at_ && ((core s c).binding k).any (fun b => b.size = g.length))

/-- Does a `CORE_STOP` of a core wait for some context's point? -/
def haltWaits (s : State) (c : Nat) : Bool :=
  s.ctxs.toList.any (fun x => x.points.any (fun p => match p.act with | .halt m _ => tst m c | _ => false))

/-- Is a context served (R291)? -/
def served (s : State) (k : Nat) : Bool :=
  let g := groupOf s k
  !g.isEmpty && g.all (fun c =>
    let x := core s c
    x.state = .running && !x.stopDue && !haltWaits s c && x.backAt.all (fun t => decide (t ≤ s.now))
      && burstOk s (planTs s) x.bindings
      && (match x.binding k with
          | some b => b.size = g.length && { b with nLocal := cdiv (ctx s k).n b.size }.fits x.unified
          | none => false))

/-! ### Detector bits (R207-R210) -/

/-- The fixed-threshold test of bit `b` on one zone (R208). A zone no table entry covers gives 0. -/
def fixedBit (s : State) (k : Nat) (c : Ctx) (b zone : Nat) (v : Int) : Bool :=
  let op : Int := if tst (c.detMode b) 0 then (v.natAbs : Int) else v
  let th : Option Int :=
    if c.detTable b = 0xFF then some (c.detConst b)
    else ((tableFor s k (c.detTable b)).bind (fun t => t.entry zone)).map
      (fun e => if c.source = 1 then e.toInt else (e.toNat : Int))
  match th with
  | some t => if tst (c.detMode b) 1 then op ≤ t else t ≤ op
  | none => false

/-- Is a zone value valid (R210)? -/
def zoneValid (source : Nat) (nfRel r : Nat) (flag : Byte) : Bool :=
  match source with
  | 1 => !flag.getLsbD 1 && !flag.getLsbD 4 && r < nfRel
  | 2 => (flag &&& 0x61#8) = 0 && r < nfRel
  | _ => true

/-- The four bits of every zone of a line; `core`: what the zone cores delivered. -/
def detBits (s : State) (k : Nat) (l : CtxLine) (fromCore : List (BitVec 4)) : List Nat :=
  let c := ctx s k
  (List.range l.values.length).map (fun r =>
    if !zoneValid c.source l.nfRel r ((l.flags[r]?).getD 0) then 0
    else
      flags ((List.range 4).map (fun b =>
        match c.detSrc b with
        | 1 => fixedBit s k c b (c.first + r) ((l.values[r]?).getD 0)
        | 2 => ((fromCore[r]?).getD 0).getLsbD b
        | _ => false)))

/-! ### Pattern and run (R213-R217) -/

/-- Nibble `j` of a mask. -/
def nibble (m : BitVec 256) (j : Nat) : Nat := m.toNat / 16 ^ j % 16

/-- Does the window at the front of a list of nibbles match (R213)? -/
def windowMatch (c : Ctx) (bits : List Nat) : Bool :=
  ((List.range c.patW).zip bits).all (fun x => (x.2 &&& nibble c.patCare x.1) = (nibble c.patValue x.1 &&& nibble c.patCare x.1))

/-- The matching positions, ascending. -/
def matches_ (c : Ctx) (bits : List Nat) : List Nat :=
  (List.range (bits.length + 1 - c.patW)).filter (fun w => windowMatch c (bits.drop w))

/-- One evaluated line of the run (R215): the context after it, and the position that triggers. -/
def runLine (ms : List Nat) (gate : Bool) (c : Ctx) : Ctx × Option Nat :=
  let near (w : Nat) : Bool := c.spread = 255 || ((w : Int) - c.runW).natAbs ≤ c.spread
  let hit (n w : Nat) : Ctx × Option Nat :=
    if n = c.persist && gate then ({ c with runC := 0, runW := w }, some w) else ({ c with runC := n, runW := w }, none)
  match if c.runC = 0 then none else ms.find? near with
  | some w => hit (min (c.runC + 1) c.persist) w
  | none =>
    match ms.head? with
    | some w => hit 1 w
    | none => ({ c with runC := 0 }, none)

/-- A decided trigger: context, line, cause and zone (R239), instant; whether a recovery followed it. -/
structure Decision where
  ctx   : Nat
  line  : TrigLine
  cause : Nat
  zone  : Nat
  at_   : Ps
  past  : Bool := false

/-- A line as a trigger names it. -/
def CtxLine.trig (l : CtxLine) : TrigLine := { seq := l.seq, at_ := l.at_, dev := l.dev, epoch := l.epoch, slot := l.slot }

/-- When the decision on a position falls (R126, R127, R211): for DAS counted from the launch; otherwise now. -/
def decisionAt (s : State) (k : Nat) (l : CtxLine) (w : Nat) : Ps :=
  let c := ctx s k
  if c.source = 1 then
    let last := match (s.indigo.map.das1 ++ s.indigo.map.das2)[c.first + w + c.patW - 1]? with
      | some e => e.first + e.len - 1
      | none => 0
    l.at_ + last * 4000 + l.lag
  else s.now

/-- Where the first point of some kind that waits in a DAS context takes effect: the first launch in flight at or after it
(R224). -/
def pointAt (s : State) (c : Ctx) (kind : CtxAct → Bool) : Option Ps :=
  if c.source ≠ 1 then none
  else
    let at_ (p : CtxPoint) : Option Ps := (s.light.inflight.find? (fun r => !r.ochre && p.due ≤ r.at_)).map (·.at_)
    ((c.points.filter (fun p => kind p.act)).filterMap at_).min?

/-- Does a point restart the run (R218)? -/
def CtxAct.restarts : CtxAct → Bool
  | .pattern .. | .table .. => true
  | .disarm _ | .halt .. => false

/-- The restart that cuts a line short (R218): one made since its launch, with its place in `cuts`. -/
def cutOf (c : Ctx) (l : CtxLine) : Option (Nat × RunCut) :=
  (((List.range c.cuts.length).zip c.cuts).filter (fun x => l.at_ < x.2.at_)).getLast?

/-- The context as it judges a line: one in progress at a restart follows the run it had (R218). -/
def judging (c : Ctx) (l : CtxLine) : Ctx :=
  match cutOf c l with
  | some (_, x) => { c with runC := x.runC, runW := x.runW }
  | none => c

/-- The run after a line, put where it belongs: the context's, or that of the restart the line preceded. -/
def keepRun (d : Ctx) (l : CtxLine) (c : Ctx) : Ctx :=
  match cutOf c l with
  | some (i, x) => { c with cuts := c.cuts.set i { x with runC := d.runC, runW := d.runW } }
  | none => { c with runC := d.runC, runW := d.runW }

/-- Do some matching positions settle a line before its end (R215): a run that goes on, or `PERSIST` 1 with no run? -/
def settles (c : Ctx) (ms : List Nat) : Bool :=
  if c.runC = 0 then c.persist = 1 && !ms.isEmpty
  else ms.any (fun w => c.spread = 255 || ((w : Int) - c.runW).natAbs ≤ c.spread)

/-- A line evaluated for the pattern, as far as bits are in (R211, R212, R215, R218, R219): the trigger it makes, if any, and
whether all is decided. Of a line in progress at a restart only the positions decided before it count. -/
def evaluate (k : Nat) (l : CtxLine) (fromCore : List (BitVec 4)) (zones : Nat) (s : State) : Option Decision × Bool × State :=
  let c := ctx s k
  let whole : Bool := l.values.length ≤ zones
  if l.skipped || c.tinMode = 2 || !c.evaluates then (none, whole, s)
  else
    let ends := ((cutOf c l).map (·.2.at_)).toList ++ (pointAt s c CtxAct.restarts).toList
    let ms := (matches_ c ((detBits s k l fromCore).take zones)).filter (fun w =>
      ends.all (fun e => decide (decisionAt s k l w < e)))
    if !whole && !settles (judging c l) ms then (none, false, s)
    else
      let (d, t) := runLine ms l.gate (judging c l)
      let past := ((cutOf c l).map (·.2.recovery)).getD false
      (t.map (fun w => { ctx := k, line := l.trig, cause := 1, zone := c.first + w, at_ := decisionAt s k l w, past := past }), true,
        modCtx k (keepRun d l) s)

/-- The record a trigger decided before a recovery started is discarded by it (R218, R237). -/
def discardPast (d : Decision) (was : Option Nat) (s : State) : State :=
  if d.past && (ctx s d.ctx).capture ≠ was then discardRec d.ctx s else s

/-- A decided trigger takes effect (R223); one on a line that has ended makes its cut at once. -/
def decide_ (d : Decision) (s : State) : State :=
  let s := discardPast d (ctx s d.ctx).capture (trigger d.ctx d.line d.cause d.zone d.at_ (s.adv d.at_))
  if d.cause = 2 && d.line.seq < (ctx s d.ctx).lines then lineEnd d.ctx d.line.seq s else s

/-- Decisions take effect in their order (R231). -/
def decideAll (ds : List Decision) (s : State) : State :=
  (ds.mergeSort (fun a b => decidedFirst s a.at_ a.ctx b.at_ b.ctx)).foldl (fun s d => decide_ d s) s

/-! ### `TIN` triggers in their turn (R214, R220) -/

/-- Can no line that a DAS context has still to judge decide anything by an instant (R126)? -/
def decidedBy (s : State) (c : Ctx) (t : Ps) : Bool :=
  c.source ≠ 1
    || (s.light.inflight.all (fun r => r.ochre || spanPort s.indigo.map c ≠ some r.port || decide (t < r.at_ + 700000))
      && c.openJobs.all (fun a => decide (t < a + 700000)))

/-- A waiting `TIN` trigger as a decision. -/
def TinWait.decision (k : Nat) (e : TinWait) : Decision := { ctx := k, line := e.line, cause := 2, zone := 0xFFFFFFFF, at_ := e.at_ }

/-- The waiting `TIN` triggers of a context that satisfy a test leave their list. -/
def takeEdges (k : Nat) (p : TinWait → Bool) (s : State) : List Decision × State :=
  (((ctx s k).edges.filter p).map (TinWait.decision k), modCtx k (fun c => { c with edges := c.edges.filter (fun e => !p e) }) s)

/-- Those before which nothing is decided any more. -/
def dueEdges (k : Nat) (s : State) : List Decision × State := takeEdges k (fun e => decidedBy s (ctx s k) e.at_) s

/-- All of them are decided. -/
def releaseEdges (k : Nat) (s : State) : State :=
  let (ds, s) := takeEdges k (fun _ => true) s
  decideAll ds s

/-- A line evaluated, its trigger decided, the line ended. -/
def finishLine (k : Nat) (l : CtxLine) (fromCore : List (BitVec 4)) (s : State) : State :=
  let (d, _, s) := evaluate k l fromCore l.values.length s
  lineEnd k l.seq (decideAll d.toList s)

/-! ### The context's points (R224) -/

/-- Nothing more of the lines that wait for zone-core bits is decided (R218). -/
def settleJobs (k : Nat) (s : State) : State :=
  modCtx k (fun c => { c with jobs := c.jobs.map (fun j => { j with settled := true }) }) s

/-- One point takes effect at an instant. A disarm waits for earlier lines whose zone-core bits are not in (R226). -/
def applyPoint (k : Nat) (a : CtxAct) (t : Ps) (s : State) : State :=
  match a with
  | .disarm ab =>
    if (ctx s k).jobs.isEmpty then lapsePoints k (disarmNow k ab (releaseEdges k s))
    else modCtx k (fun c => { c with stopping := some (ab || c.stopping.getD false),
                                     stopLines := if c.stopping.isSome then c.stopLines else c.lines }) s
  | .pattern w v m => setPattern k w v m t (settleJobs k s)
  | .halt m u => haltCores m u s
  | .table n i =>
    freeCopies (restartRun k t false (modCtx k (fun c => { c with tabs := (n, i) :: c.tabs.filter (fun t => t.1 ≠ n) })
      (settleJobs k s)))

/-- A context disarmed at once as with `ABANDON`; what waits for zone-core bits is dropped. -/
def stopNow (k : Nat) (s : State) : State :=
  applyPoint k (.disarm true) s.now (modCtx k (fun c => { c with jobs := [], stopping := none }) s)

/-- A disarm that waited for earlier lines takes effect once none is left; lines that followed only in case one of them started a
record do not count (log 229). -/
def endStop (k : Nat) (s : State) : State :=
  match (ctx s k).stopping with
  | some ab =>
    if !(ctx s k).jobs.isEmpty then s
    else
      let s := applyPoint k (.disarm ab) s.now (modCtx k (fun c => { c with stopping := none }) s)
      if (ctx s k).live then s else modCtx k (fun c => { c with lines := c.stopLines }) s
  | none => s

/-- Contexts at a recovery (R218, R237): `TIN` triggers that wait are decided, runs restart, lines that wait for zone cores count in `CORE_GAP`, records in capture are
discarded, a disarm that waited takes effect, `DISARMING` becomes `DISARMED`. Every alarm decided has been driven. -/
def recoverContexts (s : State) : State :=
  (ctxsWhere s Ctx.live).foldl (fun s k =>
    let s := releaseEdges k s
    let gap := (ctx s k).jobs.length
    let s := restartRun k s.now true (modCtx k (fun c => { c with jobs := [], coreGap := satAdd c.coreGap gap }) s)
    let s := endStop k (discardRec k s)
    if (ctx s k).state = .disarming then
      lapsePoints k (modCtx k (fun c => { c with state := .disarmed, capture := none }) s) else s) (driveDue (fun _ => true) s)

/-! ### Lines that wait for zone cores (R209, R211, R298) -/

/-- The oldest waiting line is evaluated as far as its bits are in, window by window (R211, R214); once all are in, the line has
ended and the next one follows. -/
def finishJobs : Nat → Nat → State → State
  | 0, _, s => s
  | n + 1, k, s =>
    match (ctx s k).jobs with
    | j :: rest =>
      let bits := (j.bits.takeWhile Option.isSome).filterMap id
      let (d, done, s) := if j.settled then (none, true, s) else evaluate k j.line bits bits.length s
      let whole : Bool := j.bits.all Option.isSome
      let (es, s) := dueEdges k
        (modCtx k (fun c => { c with jobs := if whole then rest else { j with settled := done } :: rest }) s)
      let s := decideAll (d.toList ++ es) s
      if whole then finishJobs n k (lineEnd k j.line.seq s) else s
    | [] => endStop k s

/-- A zone's bits reach the trigger engine (R294); bits of a line no longer waited for are discarded (R298). -/
def deliver (m : Sample) (bits : BitVec 4) (s : State) : State :=
  let put (j : CtxJob) : CtxJob :=
    if j.line.seq = m.seq && (j.bits[m.zone]?) = some none then { j with bits := j.bits.set m.zone (some bits) } else j
  flushAlarms (finishJobs ((ctx s m.ctx).jobs.length + 1) m.ctx (modCtx m.ctx (fun c => { c with jobs := c.jobs.map put }) s))

/-- Every waiting line of a context is evaluated with 0 for the bits not in, and counts in `CORE_GAP` (R209). -/
def gapJobs (k : Nat) (s : State) : State :=
  let js := (ctx s k).jobs
  let fill (j : CtxJob) : CtxJob := { j with bits := j.bits.map (fun b => some (b.getD 0)) }
  flushAlarms (finishJobs (js.length + 1) k
    (modCtx k (fun c => { c with jobs := js.map fill, coreGap := satAdd c.coreGap js.length }) s))

/-- Cores halt (R308): contexts that lose a core or their binding so take R209. -/
def stopCores (m : Nat) (unbind : Bool) (s : State) : State :=
  let cs := maskCores m
  let t := haltCores m unbind s
  let lost := boundOn s (cs.filter (fun c => unbind || ((core s c).state = .running && (core t c).state = .stopped)))
  lost.foldl (fun s k => gapJobs k s) t

/-- A point takes effect: on the context, or on the zone cores that serve it. -/
def applyAct (k : Nat) (a : CtxAct) (t : Ps) (s : State) : State :=
  match a with
  | .halt m u => stopCores m u s
  | _ => applyPoint k a t s

/-- The points at the front that satisfy a test take effect at an instant, one after another: a disarm among them makes the rest
lapse (R244). -/
def applyFront (ready : CtxPoint → Bool) (k : Nat) (t : Ps) : Nat → State → State
  | 0, s => s
  | n + 1, s =>
    match (ctx s k).points with
    | p :: rest =>
      if ready p then applyFront ready k t n (applyAct k p.act t (modCtx k (fun c => { c with points := rest }) s)) else s
    | [] => s

/-- The points due at or before a line's instant take effect, in their order. -/
def applyPoints (k : Nat) (at_ : Ps) (s : State) : State :=
  applyFront (fun p => decide (p.due ≤ at_)) k at_ (ctx s k).points.length s

/-- A change for a context: at once when no lines reach it, otherwise at its point. -/
def atPoint (k : Nat) (due : Ps) (a : CtxAct) (s : State) : State :=
  if (ctx s k).live && linesRun s (ctx s k) then modCtx k (fun c => { c with points := c.points ++ [{ due := due, act := a }] }) s
  else applyAct k a s.now s

/-- Contexts whose lines have stopped take their waiting points. -/
def flushPoints (s : State) : State :=
  (ctxsWhere s (fun c => !c.points.isEmpty && !linesRun s c)).foldl (fun s k =>
    applyFront (fun _ => true) k s.now (ctx s k).points.length s) s

/-! ### A line of a source (R204, R212) -/

/-- What every source gives of a line: `base`, the index of the first value; `lineFlags`, flags for the skip rule. -/
structure SrcLine where
  source : Nat
  at_    : Ps
  dev    : Nat
  /-- from a zone's last sample to its value on the zone bus, to a decision on it but for zone cores; T_S of its launch -/
  bus    : Nat := 0
  lag    : Nat := 0
  ts     : Ps := 1
  slot   : Nat
  base   : Nat
  desc   : List Byte
  values : List Int
  flags  : List Byte
  /-- first index that is `NO_FIBRE` -/
  nf     : Nat
  excTo  : Nat
  /-- flags that always skip, and the line flags for `SKIP_MASK` -/
  always : Bool
  lineFlags : Nat
  tins   : BitVec 4

/-- The gate of a context on a line (R217, R219). -/
def gateOpen (c : Ctx) (tins : BitVec 4) : Bool :=
  c.tinMode ≠ 3 || (tins.getLsbD (c.tinPin - 1) ≠ c.tinFalls)

/-- A source line cut to a context's span: received in an epoch, its decisions so much later for zone cores (R127). -/
def cutLine (c : Ctx) (l : SrcLine) (epoch : U16) (late : Nat) : CtxLine :=
  let off := c.first - l.base
  { seq := c.lines, at_ := l.at_, dev := l.dev, epoch := epoch, bus := l.bus, lag := l.lag + late, slot := l.slot, desc := l.desc,
    values := (l.values.drop off).take c.n, flags := (l.flags.drop off).take c.n, nfRel := min c.n (l.nf - c.first), excTo := l.excTo,
    skipped := l.always || (c.source ≠ 3 && (l.lineFlags &&& c.skipMask) ≠ 0), gate := gateOpen c l.tins }

/-- The samples of a line for the zone cores (R289, R292). -/
def lineSamples (k : Nat) (l : CtxLine) : List Sample :=
  ((List.range l.values.length).zip l.values).map (fun x =>
    { ctx := k, seq := l.seq, zone := x.1, value := x.2, flag := (l.flags[x.1]?).getD 0, skipped := l.skipped })

/-- Past the point of a disarm that only waits for earlier lines, a context takes lines for the record it has in capture, or for one
that an earlier line may still start (R226). -/
def Ctx.goesOn (c : Ctx) : Bool :=
  match c.stopping with
  | none => true
  | some ab => !ab && (c.capturing || (c.state = .armed && c.records && c.reserve))

/-- Does a context take a line? Not before it starts (R224), nor past a disarm (R226). -/
def Ctx.accepts (c : Ctx) (at_ : Ps) : Bool := c.live && c.startAt ≤ at_ && c.goesOn

/-- A context receives a line: its points, its count, its ring; and whether it takes the line. One it does not take only invokes its
cores (R293), under a number no line counts. -/
def receive (k : Nat) (l : SrcLine) (drop : Option Nat) (s : State) : (CtxLine × Bool) × State :=
  let s := applyPoints k l.at_ s
  let c := ctx s k
  let cl := cutLine c l s.cmd.epoch (if c.source = 1 && c.usesCore then progTime s l.ts k + 40000 else 0)
  if !c.accepts l.at_ then (({ cl with seq := 2 ^ 40 }, false), modCtx k (fun c => { c with lastLine := some cl }) s)
  else
    let s := modCtx k (fun c => { c with
      lines := c.lines + 1, lastLine := some cl,
      skipped := if cl.skipped && (c.stopping.isNone || c.capturing) then satInc c.skipped else c.skipped }) s
    ((cl, true), placeLine k cl drop s)

/-- A line of a context that uses zone cores: its samples wait on the bus, or it is a gap (R209, R211). -/
def startJob (k : Nat) (cl : CtxLine) (s : State) : State :=
  modCtx k (fun c => { c with jobs := c.jobs ++ [{ line := cl, bits := cl.values.map (fun _ => none) }] }) s

/-- The samples of several contexts' lines put on the buses of the cores that take them, in the order they leave the zone bus; one
zone-sample on two bindings in binding order (R293). -/
def sendSamples (ls : List (Nat × CtxLine)) (s : State) : State :=
  let all := ls.flatMap (fun x => (lineSamples x.1 x.2).map (fun m => ((ctx s x.1).first + m.zone, x.2.at_, m)))
  (List.range 32).foldl (fun s c =>
    let x := core s c
    let mine := all.filter (fun e => coreTakes x e.2.2.ctx e.2.1 && (x.binding e.2.2.ctx).any (fun b => e.2.2.zone % b.size = b.pos))
    let sorted := mine.mergeSort (fun a b => a.1 < b.1 || (a.1 = b.1 && x.bindIx a.2.2.ctx ≤ x.bindIx b.2.2.ctx))
    if sorted.isEmpty then s else modCore c (fun x => { x with bus := x.bus ++ sorted.map (·.2.2) }) s) s

/-- Lines of one source, each with the context it reaches (R204-R218); `drops`: contexts whose ring line the memory cannot
accept, with the channel. Every bound context's line invokes its cores, taken or not (R293). -/
def linesToContexts (ls : List (Nat × SrcLine)) (drops : List (Nat × Fin 4)) (s : State) : State :=
  let dropOf (k : Nat) : Option Nat := (drops.find? (fun d => d.1 = k)).map (·.2.val)
  let (all, s) := ls.foldl (fun (acc : List (Nat × CtxLine × Bool) × State) x =>
    let (r, s) := receive x.1 x.2 (dropOf x.1) acc.2
    (acc.1 ++ [(x.1, r)], s)) ([], s)
  let got := (all.filter (·.2.2)).map (fun x => (x.1, x.2.1))
  let wants := got.filter (fun x => (ctx s x.1).usesCore && (ctx s x.1).takes)
  let cored := wants.filter (fun x => coreServes s x.1 x.2.at_)
  let gaps := wants.filter (fun x => !coreServes s x.1 x.2.at_)
  let s := gaps.foldl (fun s x => modCtx x.1 (fun c => { c with coreGap := satInc c.coreGap }) s) s
  let s := cored.foldl (fun s x => startJob x.1 x.2 s) s
  let s := sendSamples (all.map (fun x => (x.1, x.2.1))) s
  let now_ := got.filter (fun x => (ctx s x.1).takes && !cored.any (fun y => y.1 = x.1))
  let (ds, s) := now_.foldl (fun (acc : List Decision × State) x =>
    let (d, _, s) := evaluate x.1 x.2 [] x.2.values.length acc.2
    (acc.1 ++ d.toList, s)) ([], s)
  let (es, s) := ls.foldl (fun (acc : List Decision × State) x =>
    let (es, s) := dueEdges x.1 acc.2
    (acc.1 ++ es, s)) ([], s)
  let s := decideAll (ds ++ es) s
  got.foldl (fun s x =>
    let c := ctx s x.1
    lineEnd x.1 x.2.seq (if c.stopping.isSome && !c.capturing then s else streamLine x.1 x.2 s)) s

/-- One line for several contexts. -/
def lineToContexts (ks : List Nat) (l : SrcLine) (drops : List (Nat × Fin 4)) (s : State) : State :=
  linesToContexts (ks.map (fun k => (k, l))) drops s

end Sys2Proof.Machine
end

