-- ==== Sys2Proof/Machine/CoreIsa.lean ====
section
/-! DEFINITION. Machine/CoreIsa.lean: an invocation of a zone core and the instructions it executes (R278-R288, R292-R295).
An instruction row acts when its core has an invocation in progress, the word at the program counter spells that
instruction, and the budget has not run out outside a repeat; otherwise no such step occurs. -/

namespace Sys2Proof.Machine

open Sys2Proof

/-! ### Invocations (R292-R295, R298) -/

/-- The registers as `CORE_READ` lays them out (R309). -/
def Core.regBytes (x : Core) : List Byte :=
  x.acc.toList.flatMap (fun a => leInt 8 a.toInt) ++ x.d.toList.flatMap (fun d => le4 d.toNat)
    ++ x.p.toList.flatMap (fun p => le2 p.toNat) ++ x.m.toList.flatMap (fun m => le2 m.toNat) ++ le2 x.lc.toNat
    ++ le2 x.st.toNat ++ zeros 4

/-- Every register 0 (R278). -/
def Core.clearRegs (x : Core) : Core :=
  { x with acc := Vector.replicate 4 0, d := Vector.replicate 8 0, p := Vector.replicate 8 0, m := Vector.replicate 4 0,
           lc := 0, st := 0, pc := 0, rep := 0, cycles := 0, regGap := List.replicate 96 0,
           gapCount := x.invocations }

/-- The input window of R292 for a sample of binding `b`, number `j`. -/
def Core.window (x : Core) (m : Sample) (b : Binding) (j : Nat) (source : Nat) : Core :=
  let i := m.zone / b.size
  let seen := b.places.find? (fun q => q.1 = i)
  let place := (seen.map (·.2)).getD 0
  let hist := b.histBase + i * b.histLen + place
  let x := if b.histLen = 0 then { x with p := vset x.p 3 0, m := vset x.m 3 0 }
    else
      let x := x.setSpace b.histY ((x.space b.histY).setHalf hist (BitVec.ofInt 16 m.value))
      { x with p := vset x.p 3 (BitVec.ofNat 14 hist), m := vset x.m 3 (BitVec.ofNat 14 b.histLen) }
  let v : U32 := if source = 2 then BitVec.ofNat 32 (m.value % 65536).toNat else BitVec.ofInt 32 m.value
  let d6 : U32 := BitVec.ofNat 32 (m.flag.toNat + 256 * bit m.skipped + 512 * bit seen.isNone + 1024 * j)
  let next := (i, if b.histLen = 0 then 0 else (place + 1) % b.histLen)
  let places := next :: b.places.filter (fun q => q.1 ≠ i)
  { x with
    p := vset x.p 6 (BitVec.ofNat 14 (b.stateBase + i * b.stateLen))
    d := vset (vset (vset x.d 7 v) 6 d6) 5 (BitVec.ofNat 32 m.zone)
    st := x.st &&& 0xF0FF
    pc := BitVec.ofNat 12 b.entry
    rep := 0
    cycles := 0
    budget := b.budget
    spoiled := false
    inv := some m
    xGap := x.xmem
    yGap := x.ymem
    bindings := x.bindings.map (fun q => if q.ctx = m.ctx then { q with places := places } else q) }

/-- The next buffered sample starts an invocation when the core is idle and runs. -/
def startNext (c : Nat) (s : State) : State :=
  let x := core s c
  match x.inv, x.buffer with
  | none, m :: rest =>
    if x.state ≠ .running then s
    else
      let x := { x with buffer := rest }
      match x.binding m.ctx with
      | some b => modCore c (fun _ => { x with xGap := x.xmem, yGap := x.ymem }.window m b (x.bindIx m.ctx) (ctx s m.ctx).source) s
      | none => modCore c (fun _ => x) s
  | _, _ => s

/-- What is on its way to a core is dropped; its contexts' waiting lines are evaluated without bits (R209). -/
def silenceCore (c : Nat) (s : State) : State :=
  let ks := (core s c).bindings.map (·.ctx)
  let s := modCore c (fun x => { x with inv := none, bus := [], buffer := [], rep := 0 }) s
  ks.foldl (fun s k => gapJobs k s) s

/-- `CORE_STOP` takes effect at an invocation boundary (R308). -/
def stopCore (c : Nat) (s : State) : State :=
  silenceCore c (modCore c (fun x => { x with state := .stopped, stopDue := false, backAt := none }) s)

/-- An invocation ends, completed or cut, with these bits. -/
def endInv (c : Nat) (bits : BitVec 4) (finished : Bool) (s : State) : State :=
  let x := core s c
  match x.inv with
  | none => s
  | some m =>
    let n := satInc x.invocations
    let y := { x with
      inv := none, rep := 0, invocations := n, gapCount := if finished then n else x.gapCount,
      ovCnt := if x.st.extractLsb' 0 4 ≠ 0#4 then satInc x.ovCnt else x.ovCnt,
      satCnt := if x.st.getLsbD 4 then satInc x.satCnt else x.satCnt,
      maxCycles := max x.maxCycles x.cycles, regGap := if finished then x.regBytes else x.regGap,
      stSticky := if finished then x.st.extractLsb' 0 5 else x.stSticky }
    let s := deliver m (if x.spoiled then 0 else bits) (modCore c (fun _ => y) s)
    if x.stopDue then stopCore c s else startNext c s

/-! ### Execution of one instruction -/

/-- May core `c` execute this instruction now? -/
def canRun (c : Fin 32) (i : Instr) (x : Core) : Bool :=
  x.state = .running && x.inv.isSome && (x.rep ≠ 0 || x.cycles < x.budget)
    && Zc.decode c (x.imem.word x.pc.toNat).toNat = some i

/-- The program counter after an instruction that does not branch: it stays while a `repeat` runs it again (R288). -/
def Core.advance (x : Core) (cost : Nat) : Core :=
  let x := { x with cycles := x.cycles + cost }
  if 2 ≤ x.rep then { x with rep := x.rep - 1 } else { x with rep := 0, pc := x.pc + 1 }

/-- After an instruction: a recovery that waited for the end of a repeat discards the invocation (R288, R303); a stop that waited
too is made. -/
def settleRep (c : Nat) (s : State) : State :=
  let x := core s c
  if x.dropDue && x.rep = 0 then
    let s := modCore c (fun x => { x with inv := none, dropDue := false }) s
    if x.stopDue then stopCore c s else startNext c s
  else s

/-- A data instruction: `f` its effect on the core, `cost` its cycles. -/
def stepData (c : Fin 32) (i : Instr) (cost : Core → Nat) (f : Core → Core) (s : State) : Res :=
  let x := core s c.val
  .next (if canRun c i x then settleRep c.val (modCore c.val (fun _ => (f x).advance (cost x)) s) else s)

/-- A control instruction: `f` sets the program counter and the cycles itself. -/
def stepControl (c : Fin 32) (i : Instr) (f : Core → Core) (s : State) : Res :=
  let x := core s c.val
  .next (if canRun c i x then modCore c.val (fun _ => f x) s else s)

/-- A branch taken or not: 2 cycles taken, otherwise `other`. -/
def Core.branch (x : Core) (taken : Bool) (t : BitVec 12) : Core :=
  if taken then { x with pc := t, cycles := x.cycles + 2 } else { x with pc := x.pc + 1, cycles := x.cycles + 1 }

def Core.reg (x : Core) (d : Fin 8) : U32 := vget x.d d.val
def Core.setReg (x : Core) (d : Fin 8) (v : U32) : Core := { x with d := vset x.d d.val v }
def Core.accu (x : Core) (a : Fin 4) : BitVec 40 := vget x.acc a.val

/-- An accumulator takes a result, limited and flagged (R286). -/
def Core.setAcc (x : Core) (a : Fin 4) (v : Int) : Core :=
  let r := accResult a v x.st
  { x with acc := vset x.acc a.val r.1, st := r.2 }

/-- A narrowed accumulator given to `f`, with `ST_SAT` (R287). -/
def Core.narrowed (x : Core) (w : Nat) (a : Fin 4) (sh : BitVec 6) (f : Core → Int → Core) : Core :=
  let r := narrow w (x.accu a) sh.toNat x.st
  f { x with st := r.2 } r.1

def Core.cmp (x : Core) (a b : Int) : Core := { x with st := stCompare x.st a b }

/-- The product of the halfwords a MAC names. -/
def Core.product (x : Core) (m : MacOp) : Int :=
  (x.half false (x.ptr m.px)).toInt * (x.half true (x.ptr m.py)).toInt
/-- The product of the second halfwords of a `mac2` (R281). -/
def Core.product2 (x : Core) (m : MacOp) : Int :=
  (x.second false m.px m.xmod).toInt * (x.second true m.py m.ymod).toInt
/-- The product of two registers' low halves. -/
def Core.regProduct (x : Core) (a b : Fin 8) : Int :=
  ((x.reg a).extractLsb' 0 16).toInt * ((x.reg b).extractLsb' 0 16).toInt

/-- One cycle. -/
def one (_ : Core) : Nat := 1

/-! ### The instructions (R284) -/

/-- `nop`. -/
def execNopInstr (c : Fin 32) (s : State) : Res :=
  stepData c (.nopInstr c) one (fun x => x) s

/-- `done`: the invocation ends and `OUT` is delivered (R294). -/
def execDone (c : Fin 32) (s : State) : Res :=
  let x := core s c.val
  .next (if canRun c (.done c) x then
    endInv c.val (x.st.extractLsb' 8 4) true (modCore c.val (fun x => { x with cycles := x.cycles + 1, pc := x.pc + 1 }) s)
  else s)

/-- `repeat n`. -/
def execRepeatI (c : Fin 32) (n : BitVec 12) (s : State) : Res :=
  stepControl c (.repeatI c n) (fun x => { x with rep := if n = 0 then 4096 else n.toNat, pc := x.pc + 1, cycles := x.cycles + 1 }) s

/-- `setlc imm`. -/
def execSetlc (c : Fin 32) (imm : BitVec 16) (s : State) : Res :=
  stepData c (.setlc c imm) one (fun x => { x with lc := imm }) s

/-- `dbnz t`. -/
def execDbnz (c : Fin 32) (t : BitVec 12) (s : State) : Res :=
  stepControl c (.dbnz c t) (fun x => { x with lc := x.lc - 1 }.branch (x.lc - 1 ≠ 0) t) s

/-- `br t`. -/
def execBr (c : Fin 32) (t : BitVec 12) (s : State) : Res :=
  stepControl c (.br c t) (fun x => x.branch true t) s

/-- `bcc c, t`. -/
def execBcc (c : Fin 32) (cond : BitVec 4) (t : BitVec 12) (s : State) : Res :=
  stepControl c (.bcc c cond t) (fun x => x.branch (condHolds x.st cond) t) s

/-- `setb b, c`. -/
def execSetb (c : Fin 32) (b : Fin 4) (cond : BitVec 4) (s : State) : Res :=
  stepData c (.setb c b cond) one (fun x => { x with st := stBit x.st (8 + b.val) (condHolds x.st cond) }) s

/-- `movi d, imm`. -/
def execMovi (c : Fin 32) (d : Fin 8) (imm : BitVec 16) (s : State) : Res :=
  stepData c (.movi c d imm) one (fun x => x.setReg d (imm.signExtend 32)) s

/-- `movhi d, imm`. -/
def execMovhi (c : Fin 32) (d : Fin 8) (imm : BitVec 16) (s : State) : Res :=
  stepData c (.movhi c d imm) one (fun x => x.setReg d (imm ++ (x.reg d).extractLsb' 0 16)) s

/-- `mov dA, dB`. -/
def execMov (c : Fin 32) (dA : Fin 8) (dB : Fin 8) (s : State) : Res :=
  stepData c (.mov c dA dB) one (fun x => x.setReg dA (x.reg dB)) s

/-- `movp p, imm`. -/
def execMovp (c : Fin 32) (p : Fin 8) (imm : BitVec 14) (s : State) : Res :=
  stepData c (.movp c p imm) one (fun x => x.setPtr p imm) s

/-- `movm m, imm`. -/
def execMovm (c : Fin 32) (m : Fin 4) (imm : BitVec 14) (s : State) : Res :=
  stepData c (.movm c m imm) one (fun x => { x with m := vset x.m m.val imm }) s

/-- `movpd p, d`. -/
def execMovpd (c : Fin 32) (p : Fin 8) (d : Fin 8) (s : State) : Res :=
  stepData c (.movpd c p d) one (fun x => x.setPtr p ((x.reg d).extractLsb' 0 14)) s

/-- `movdp d, p`. -/
def execMovdp (c : Fin 32) (d : Fin 8) (p : Fin 8) (s : State) : Res :=
  stepData c (.movdp c d p) one (fun x => x.setReg d ((x.ptr p).zeroExtend 32)) s

/-- `addi d, imm`. -/
def execAddi (c : Fin 32) (d : Fin 8) (imm : BitVec 16) (s : State) : Res :=
  stepData c (.addi c d imm) one (fun x => x.setReg d (x.reg d + imm.signExtend 32)) s

/-- `add dA, dB, dC`. -/
def execAdd (c : Fin 32) (dA : Fin 8) (dB : Fin 8) (dC : Fin 8) (s : State) : Res :=
  stepData c (.add c dA dB dC) one (fun x => x.setReg dA (x.reg dB + x.reg dC)) s

/-- `sub dA, dB, dC`. -/
def execSub (c : Fin 32) (dA : Fin 8) (dB : Fin 8) (dC : Fin 8) (s : State) : Res :=
  stepData c (.sub c dA dB dC) one (fun x => x.setReg dA (x.reg dB - x.reg dC)) s

/-- `cmpd dA, dB`. -/
def execCmpd (c : Fin 32) (dA : Fin 8) (dB : Fin 8) (s : State) : Res :=
  stepData c (.cmpd c dA dB) one (fun x => x.cmp (x.reg dA).toInt (x.reg dB).toInt) s

/-- `cmpi d, imm`. -/
def execCmpi (c : Fin 32) (d : Fin 8) (imm : BitVec 16) (s : State) : Res :=
  stepData c (.cmpi c d imm) one (fun x => x.cmp (x.reg d).toInt imm.toInt) s

/-- `cmpa a, b`. -/
def execCmpa (c : Fin 32) (a : Fin 4) (b : Fin 4) (s : State) : Res :=
  stepData c (.cmpa c a b) one (fun x => x.cmp (x.accu a).toInt (x.accu b).toInt) s

/-- `addp p, imm`. -/
def execAddp (c : Fin 32) (p : Fin 8) (imm : BitVec 14) (s : State) : Res :=
  stepData c (.addp c p imm) one (fun x => x.setPtr p (x.ptrAt p imm.toInt)) s

/-- `cmpad a, d`. -/
def execCmpad (c : Fin 32) (a : Fin 4) (d : Fin 8) (s : State) : Res :=
  stepData c (.cmpad c a d) one (fun x => x.cmp (x.accu a).toInt (x.reg d).toInt) s

/-- `ld d, S[p]`. -/
def execLd (c : Fin 32) (d : Fin 8) (m : MemOp) (s : State) : Res :=
  stepData c (.ld c d m) one (fun x => (x.setReg d ((x.half m.spaceY (x.ptr m.p)).signExtend 32)).modify m.p m.mod 1) s

/-- `ldw d, S[p]`. -/
def execLdw (c : Fin 32) (d : Fin 8) (m : MemOp) (s : State) : Res :=
  stepData c (.ldw c d m) one (fun x => (x.setReg d (x.word m)).modify m.p m.mod 2) s

/-- `st d, S[p]`. -/
def execSt (c : Fin 32) (d : Fin 8) (m : MemOp) (s : State) : Res :=
  stepData c (.st c d m) Core.storeCost (fun x => x.storeHalf m ((x.reg d).extractLsb' 0 16)) s

/-- `stw d, S[p]`. -/
def execStw (c : Fin 32) (d : Fin 8) (m : MemOp) (s : State) : Res :=
  stepData c (.stw c d m) Core.storeCost (fun x => x.storeWord m (x.reg d)) s

/-- `sta a, sh, S[p]`. -/
def execSta (c : Fin 32) (a : Fin 4) (sh : BitVec 6) (m : MemOp) (s : State) : Res :=
  stepData c (.sta c a sh m) Core.storeCost (fun x => x.narrowed 16 a sh (fun x v => x.storeHalf m (BitVec.ofInt 16 v))) s

/-- `staw a, sh, S[p]`. -/
def execStaw (c : Fin 32) (a : Fin 4) (sh : BitVec 6) (m : MemOp) (s : State) : Res :=
  stepData c (.staw c a sh m) Core.storeCost (fun x => x.narrowed 32 a sh (fun x v => x.storeWord m (BitVec.ofInt 32 v))) s

/-- `lda a, S[p]`. -/
def execLda (c : Fin 32) (a : Fin 4) (m : MemOp) (s : State) : Res :=
  stepData c (.lda c a m) one (fun x => ({ x with acc := vset x.acc a.val ((x.word m).signExtend 40) } : Core).modify m.p m.mod 2) s

/-- `clr a`. -/
def execClr (c : Fin 32) (a : Fin 4) (s : State) : Res :=
  stepData c (.clr c a) one (fun x => { x with acc := vset x.acc a.val 0 }) s

/-- `mac a, X[px], Y[py]`. -/
def execMac (c : Fin 32) (a : Fin 4) (m : MacOp) (s : State) : Res :=
  stepData c (.mac c a m) one (fun x => (x.setAcc a ((x.accu a).toInt + x.product m)).macModify m 1) s

/-- `msu a, X[px], Y[py]`. -/
def execMsu (c : Fin 32) (a : Fin 4) (m : MacOp) (s : State) : Res :=
  stepData c (.msu c a m) one (fun x => (x.setAcc a ((x.accu a).toInt - x.product m)).macModify m 1) s

/-- `mac2 a, X[px], Y[py]`. -/
def execMac2 (c : Fin 32) (a : Fin 4) (m : MacOp) (s : State) : Res :=
  stepData c (.mac2 c a m) one (fun x => (x.setAcc a ((x.accu a).toInt + (x.product m + x.product2 m))).macModify m 2) s

/-- `macd a, dA, dB`. -/
def execMacd (c : Fin 32) (a : Fin 4) (dA : Fin 8) (dB : Fin 8) (s : State) : Res :=
  stepData c (.macd c a dA dB) one (fun x => x.setAcc a ((x.accu a).toInt + x.regProduct dA dB)) s

/-- `msud a, dA, dB`. -/
def execMsud (c : Fin 32) (a : Fin 4) (dA : Fin 8) (dB : Fin 8) (s : State) : Res :=
  stepData c (.msud c a dA dB) one (fun x => x.setAcc a ((x.accu a).toInt - x.regProduct dA dB)) s

/-- `add a, b`. -/
def execAddAcc (c : Fin 32) (a : Fin 4) (b : Fin 4) (s : State) : Res :=
  stepData c (.addAcc c a b) one (fun x => x.setAcc a ((x.accu a).toInt + (x.accu b).toInt)) s

/-- `sub a, b`. -/
def execSubAcc (c : Fin 32) (a : Fin 4) (b : Fin 4) (s : State) : Res :=
  stepData c (.subAcc c a b) one (fun x => x.setAcc a ((x.accu a).toInt - (x.accu b).toInt)) s

/-- `shr a, sh`. -/
def execShr (c : Fin 32) (a : Fin 4) (sh : BitVec 6) (s : State) : Res :=
  stepData c (.shr c a sh) one (fun x => x.setAcc a ((x.accu a).toInt / (2 ^ sh.toNat : Nat))) s

/-- `shl a, sh`. -/
def execShl (c : Fin 32) (a : Fin 4) (sh : BitVec 6) (s : State) : Res :=
  stepData c (.shl c a sh) one (fun x => x.setAcc a ((x.accu a).toInt * (2 ^ sh.toNat : Nat))) s

/-- `abs a`. -/
def execAbsA (c : Fin 32) (a : Fin 4) (s : State) : Res :=
  stepData c (.absA c a) one (fun x => x.setAcc a ((x.accu a).toInt.natAbs : Int)) s

/-- `mova a, d`. -/
def execMova (c : Fin 32) (a : Fin 4) (d : Fin 8) (s : State) : Res :=
  stepData c (.mova c a d) one (fun x => { x with acc := vset x.acc a.val ((x.reg d).signExtend 40) }) s

/-- `movd d, a, sh`. -/
def execMovd (c : Fin 32) (d : Fin 8) (a : Fin 4) (sh : BitVec 6) (s : State) : Res :=
  stepData c (.movd c d a sh) one (fun x => x.narrowed 16 a sh (fun x v => x.setReg d (BitVec.ofInt 32 v))) s

/-- `clrst mask`. -/
def execClrst (c : Fin 32) (mask : BitVec 5) (s : State) : Res :=
  stepData c (.clrst c mask) one (fun x => { x with st := x.st &&& ~~~(mask.zeroExtend 16) }) s

end Sys2Proof.Machine
end

