-- ==== Sys2Proof/Machine/RecoveryStart.lean ====
section
/-! DEFINITION. Machine/RecoveryStart.lean: step 1 of a recovery (R374) and recoveries that meet (R491, R492). The row
`RECOVERY` carries out steps 2 to 6. -/

namespace Sys2Proof.Machine

open Sys2Proof

/-- Two recoveries of one cycle form one (R377, R491). -/
def mergeRec (r : RecoveryRec) (cause : Byte) (unit : U16) (follow : List FollowItem) : RecoveryRec :=
  { r with cause := if r.cause.toNat < cause.toNat then cause else r.cause,
           unit := if unit.toNat < r.unit.toNat then unit else r.unit, follow := r.follow ++ follow }

/-- Step 1: fetching stops, tails are latched, the epoch increments, 0 left out (R373, R374). -/
def beginRecovery (r : RecoveryRec) (s : State) : State :=
  let old := s.cmd.epoch
  { s with cmd := { s.cmd with
      epoch := if old = 0xFFFF then 1 else old + 1, recoveries := satInc s.cmd.recoveries, recovery := some { r with oldEpoch := old, started := s.now },
      q0 := { s.cmd.q0 with latched := s.cmd.q0.tail.toNat }, q1 := { s.cmd.q1 with latched := s.cmd.q1.tail.toNat } } }

/-- A recovery is decided: it begins, joins one decided in the same cycle, or waits for the one that runs. -/
def startRecovery (cause : Byte) (unit : U16) (follow : List FollowItem) (s : State) : State :=
  let r : RecoveryRec := { cause := cause, unit := unit, started := s.now, oldEpoch := s.cmd.epoch, follow := follow }
  match s.cmd.recovery with
  | none => beginRecovery r s
  | some q =>
    if s.devNs q.started = s.cycle then { s with cmd.recovery := some (mergeRec q cause unit follow) }
    else
      match s.cmd.queuedRec.getLast? with
      | some l =>
        if s.devNs l.started = s.cycle then
          { s with cmd.queuedRec := s.cmd.queuedRec.dropLast ++ [mergeRec l cause unit follow] }
        else { s with cmd.queuedRec := s.cmd.queuedRec ++ [r] }
      | none => { s with cmd.queuedRec := [r] }

end Sys2Proof.Machine
end

