-- ==== Sys2Proof/Machine/Cores.lean ====
section
/-! DEFINITION. Machine/Cores.lean: what happens to zone cores apart from executing (R292, R295, R298-R303), their images
(R304, R305) and their commands (R306-R309). -/

namespace Sys2Proof.Machine

open Sys2Proof

/-! ### Images (R304, R305) -/

/-- Offset of the first bad header field. -/
def headerBad (img : List Byte) : Option Nat :=
  let uni := fld img 2 1 = 1
  let xMax := if uni then 16384 else 8192
  let n := fld img 4 2
  let need := 64 + 4 * n + 2 * fld img 10 2 + 2 * fld img 14 2
  if img.length < 64 then some img.length
  else if fld img 0 2 ≠ 1 then some 0
  else if 1 < fld img 2 1 then some 2
  else if fld img 3 1 ≠ 0 then some 3
  else if !(inR n 1 4096) then some 4
  else if fld img 6 2 ≠ 0 then some 6
  else if xMax < fld img 8 2 then some 8
  else if xMax < fld img 8 2 + fld img 10 2 then some 10
  else if 8192 < fld img 12 2 then some 12
  else if 8192 < fld img 12 2 + fld img 14 2 || (uni && fld img 14 2 ≠ 0) then some 14
  else if !((img.drop 16).take 48).all (· = 0) then some 16
  else if img.length ≠ need then some (min img.length need)
  else none

/-- Instruction word `i` of an image. -/
def imageWord (img : List Byte) (i : Nat) : Nat := fld img (64 + 4 * i) 4

/-- Does instruction `i` pass the checks of R305? -/
def wordOk (img : List Byte) (i : Nat) : Bool :=
  let n := fld img 4 2
  match Zc.decode 0 (imageWord img i) with
  | some (.dbnz _ t) => t.toNat < n
  | some (.br _ t) => t.toNat < n
  | some (.bcc _ _ t) => t.toNat < n
  | some (.repeatI _ _) =>
    let nxt := if i + 1 < n then imageWord img (i + 1) / 67108864 else 0
    !(inR nxt 1 7)
  | some _ => true
  | none => false

/-- Offset of the first invalid field of an image; none: valid. -/
def imageBad (img : List Byte) : Option Nat :=
  (headerBad img).orElse fun _ =>
    ((List.range (fld img 4 2)).find? (fun i => !wordOk img i)).map (fun i => 64 + 4 * i)

/-- An image in a core's memories; words and data it does not cover are 0. -/
def Core.fill (img : List Byte) (x : Core) : Core :=
  let n := fld img 4 2
  let xl := 2 * fld img 10 2
  { x with
    unified := fld img 2 1 = 1, nInstr := n, image := img, imageCrc := crc32c img,
    imem := Memory.ofBytes 0 ((img.drop 64).take (4 * n)),
    xmem := Memory.ofBytes (2 * fld img 8 2) ((img.drop (64 + 4 * n)).take xl),
    ymem := Memory.ofBytes (2 * fld img 12 2) ((img.drop (64 + 4 * n + xl)).take (2 * fld img 14 2)) }

/-- A binding's areas set to 0 (R290). -/
def Core.clearAreas (b : Binding) (x : Core) : Core :=
  let x := x.setSpace b.histY ((x.space b.histY).clear (2 * b.histBase) (2 * b.nLocal * b.histLen))
  x.setSpace b.stateY ((x.space b.stateY).clear (2 * b.stateBase) (2 * b.nLocal * b.stateLen))

/-- A core's counters cleared (R310). -/
def Core.clearCounts (x : Core) : Core :=
  { x with invocations := 0, gapCount := 0, overruns := 0, late := 0, inDrop := 0, ovCnt := 0, satCnt := 0, parity := 0, maxCycles := 0 }

/-! ### Samples, cuts and deadlines (R292, R295, R298) -/

/-- `ZONE_SAMPLE_TO_CORE`: the next zone-sample of the bus reaches the core's buffer of 64, or is dropped. -/
def execZoneSampleToCore (c : Fin 32) (s : State) : Res :=
  let x := core s c.val
  .next (match x.bus with
    | [] => s
    | m :: rest =>
      if x.buffer.length < 64 then
        startNext c.val (modCore c.val (fun x => { x with bus := rest, buffer := x.buffer ++ [m] }) s)
      else deliver m 0 (modCore c.val (fun x => { x with bus := rest, inDrop := satInc x.inDrop }) s))

/-- Context of binding 0, for the arguments of R482. -/
def Core.ctx0 (x : Core) : Nat := (x.bindings.head?.map (·.ctx)).getD 0

/-- `CORE_BUDGET_CUT` (R295): not before the budget has run out, and never inside a repeat. -/
def execCoreBudgetCut (c : Fin 32) (s : State) : Res :=
  let x := core s c.val
  .next (match x.inv with
    | none => s
    | some _ =>
      if x.rep ≠ 0 || x.cycles < x.budget then s
      else
        let s := modCore c.val (fun x => { x with overruns := satInc x.overruns, lastOverPc := x.pc, overTold := true }) s
        let s := if x.overTold then s
          else raise { code := 0x0604, unit := c.val, a0 := x.pc.toNat, a1 := x.ctx0 } s
        endInv c.val 0 false s)

/-- The zone-samples of a context that a core has still to finish, in their order, less those counted late. -/
def Core.open_ (x : Core) (k : Nat) : List Sample :=
  (x.inv.toList ++ x.buffer ++ x.bus).filter (fun m => m.ctx = k && !m.late)

/-- A zone-sample counts as late at a core (R298). -/
def markLate (c k seq zone : Nat) (s : State) : State :=
  let put (m : Sample) : Sample := if m.ctx = k && m.seq = seq && m.zone = zone then { m with late := true } else m
  modCore c (fun x => { x with late := satInc x.late, inv := x.inv.map put, buffer := x.buffer.map put, bus := x.bus.map put }) s

/-- The core with the oldest open zone-sample of a context, and that sample. -/
def oldestSample (s : State) (k : Nat) : Option (Nat × Sample) :=
  ((groupOf s k).filterMap (fun c => ((core s c).open_ k).head?.map (fun m => (c, m)))).foldl (fun best x =>
    match best with
    | none => some x
    | some b => if x.2.seq < b.2.seq || (x.2.seq = b.2.seq && x.2.zone < b.2.zone) then some x else best) none

/-- `CORE_DEADLINE` (R298): of the context's oldest waiting line the deadline of its first zone-sample whose bits are not in: they are
0. Where no line waits for bits, that of the oldest zone-sample its cores still have: it only counts. -/
def execCoreDeadline (k : Fin 256) (s : State) : Res :=
  .next (match (ctx s k.val).jobs with
    | [] => match oldestSample s k.val with
      | some (c, m) => markLate c k.val m.seq m.zone s
      | none => s
    | j :: rest =>
      match (List.range j.bits.length).find? (fun r => (j.bits[r]?).getD none = none) with
      | none => s
      | some r =>
        let s := match coreAt s k.val (r % (groupOf s k.val).length) with
          | some c => markLate c k.val j.line.seq r s
          | none => s
        let j' := { j with bits := j.bits.set r (some 0) }
        flushAlarms (finishJobs (rest.length + 2) k.val (modCtx k.val (fun c => { c with jobs := j' :: rest }) s)))

/-! ### Faults, retirement, moves (R300, R301) -/

/-- A core reset: image reloaded, registers and binding areas 0; it runs again 200 us later (R300). -/
def resetCore (c : Nat) (s : State) : State :=
  let s := silenceCore c s
  modCore c (fun x =>
    let y := x.bindings.foldl (fun y b => y.clearAreas b) (x.fill x.image).clearRegs
    { y with stopDue := false, dropDue := false, state := if x.stopDue then .stopped else x.state,
             backAt := if x.stopDue then none else if x.state = .running then some (s.now + 200000000) else x.backAt }) s

/-- `ZC_IMEM_PARITY` (R300): reset and a recovery; a second one within 10 s of the first calls for retirement. A read of a core that
does not run checks its words too (R282). -/
def execZcImemParity (t : Ps) (c : Fin 32) (addr : Nat) (s : State) : Res :=
  let s := s.adv t
  let x := core s c.val
  .next (if x.state = .retired then s
  else
    let again := x.iParAt.any (fun f => decide (s.now ≤ f + 10000000000000))
    let t0 := if again then x.iParAt else some s.now
    let s := modCore c.val (fun x => { x with iParAt := t0, retireDue := x.retireDue || again }) s
    startRecovery 0 (BitVec.ofNat 16 c.val)
      [.fault 0x0600 c.val 0 (BitVec.ofNat 32 addr) (BitVec.ofNat 32 x.ctx0) false] (resetCore c.val s))

/-- `ZC_DMEM_PARITY` (R300): the invocation's bits are 0; 16 errors within 1 s call for retirement. -/
def execZcDmemParity (t : Ps) (c : Fin 32) (addr : Nat) (s : State) : Res :=
  let s := s.adv t
  let x := core s c.val
  .next (if x.state = .retired then s
  else
    let recent := s.now :: x.dParAt.filter (fun f => s.now < f + 1000000000000)
    raise { code := 0x0601, unit := c.val, a0 := addr, a1 := x.ctx0 }
      (modCore c.val (fun x => { x with spoiled := x.spoiled || x.inv.isSome, parity := satInc x.parity, dParAt := recent,
                                        retireDue := x.retireDue || 16 ≤ recent.length }) s))

/-- The group masks of some contexts' bindings with one core in place of another (R301). -/
def renameCore (c d : Nat) (ks : List Nat) (s : State) : State :=
  { s with cores := s.cores.map (fun x => { x with bindings := x.bindings.map (fun b =>
      if ks.contains b.ctx then { b with mask := (b.mask &&& ~~~(BitVec.ofNat 32 (2 ^ c))) ||| BitVec.ofNat 32 (2 ^ d) } else b) }) }

/-- A core retired; its bindings move to the lowest-numbered EMPTY core when there is one, and serve lines from 2 ms after the
retirement on (R301). -/
def retireCore (c : Nat) (s : State) : State :=
  let x := core s c
  let s := silenceCore c s
  let x1 := core s c
  match (List.range s.zoneCores).find? (fun d => (core s d).state = .empty) with
  | some d =>
    if x.bindings.isEmpty then
      raise { code := 0x0602, unit := c, a0 := 0xFF, retired := true } (modCore c (fun _ => { x1 with state := .retired }) s)
    else
      let moved := x1.bindings.map (fun b => { b with places := [], from_ := max b.from_ (s.now + 2000000000) })
      let fresh : Core := moved.foldl (fun y b => y.clearAreas b) (({} : Core).fill x1.image)
      let s := modCore c (fun x => { x with state := .retired, bindings := [], stopDue := false }) s
      let s := modCore d (fun _ => { fresh with
        state := .stopped, bindings := moved, movedFrom := c, backAt := some (s.now + 2000000000) }) s
      raise { code := 0x0602, unit := c, a0 := d, a1 := x.ctx0, retired := true, spare := true }
        (renameCore c d (moved.map (·.ctx)) s)
  | none =>
    raise { code := 0x0603, unit := c, a0 := 0xFF, a1 := x.ctx0, retired := true, noSpare := true }
      (modCore c (fun x => { x with state := .retired, stopDue := false }) s)

/-- `ZC_RETIRED`: when the errors of R300 call for it. -/
def execZcRetired (t : Ps) (c : Fin 32) (s : State) : Res :=
  let s := s.adv t
  .next (if (core s c.val).retireDue && (core s c.val).state ≠ .retired then
    retireCore c.val (modCore c.val (fun x => { x with retireDue := false }) s) else s)

/-- `CORE_MOVE_START` (R301): the core that took the bindings runs, 2 ms or more after the retirement. -/
def execCoreMoveStart (t : Ps) (c : Fin 32) (s : State) : Res :=
  let s := s.adv t
  let x := core s c.val
  .next (match x.backAt with
    | some b => if x.state = .stopped && !x.bindings.isEmpty && b ≤ s.now then modCore c.val (fun x => { x.clearRegs with state := .running, backAt := none }) s else s
    | none => s)

/-! ### Recovery and sleep (R303) -/

/-- Invocations in progress and waiting samples discarded; a repeat in progress is finished first (R288). -/
def recoverCores (s : State) : State :=
  { s with cores := s.cores.map (fun x =>
      if x.inv.isSome && x.rep ≠ 0 then { x with dropDue := true, bus := [], buffer := [] }
      else { x with inv := none, bus := [], buffer := [], stopDue := false,
                    state := if x.stopDue then .stopped else x.state, backAt := if x.stopDue then none else x.backAt }) }

/-- Entry to sleep: every core that is not RETIRED becomes EMPTY. -/
def sleepCores (s : State) : State :=
  { s with cores := s.cores.map (fun x => if x.state = .retired then { state := .retired } else {}) }

/-! ### Common checks -/

/-- The mask's lowest set bit. -/
def lowBit (m : Nat) : Option Nat := (List.range 32).find? (tst m)
/-- Cores absent from the part (R4). -/
def absentCores (s : State) (target m : Nat) : Bool := s.zoneCores ≤ target || 2 ^ s.zoneCores ≤ m

/-- The first of some numbered reasons that holds; 0 for none. -/
def firstReason : Nat → List Bool → Nat
  | _, [] => 0
  | n, b :: bs => if b then n else firstReason (n + 1) bs

/-! ### CORE_LOAD (R306) -/

def coreLoadSpec : CmdSpec := { opcode := 0x50, target := .core, mirror := true, len := fixedLen 16 }

/-- A core loaded: bindings removed, STOPPED, counters cleared. -/
def Core.load (img : List Byte) (x : Core) : Core :=
  { (x.fill img).clearCounts with state := .stopped, bindings := [], stopDue := false, burstTold := false, backAt := none,
                                  bus := [], buffer := [], inv := none, rep := 0 }

def cmdCoreLoad (f : Fetched) (s : State) : Ans :=
  let p := f.payload
  let t := f.target.toNat
  let m := fld p 4 4
  let cs := if m = 0 then [t] else maskCores m
  let img := staged s (fld p 0 1)
  let i := img.getD []
  let bad := if img.isSome then imageBad i else none
  let reason := firstReason 1 [bad.isSome, cs.any (fun c => (core s c).state = .retired), m ≠ 0 && lowBit m ≠ some t, img.isNone]
  let range := 3 < fld p 0 1 || 1 < fld p 1 1 || fld p 2 2 ≠ 0
  let reply (st r : Nat) (mask : Nat) (s : State) : Ans :=
    { status := st, st := s,
      payload := le1 r ++ le1 (fld i 2 1) ++ le2 (fld i 4 2) ++ le4 (bad.getD 0xFFFFFFFF) ++ le4 mask }
  checked [(absentCores s t m, St.notFitted), (cs.any (fun c => (core s c).state = .running), St.busy)] s fun _ =>
    if range || reason ≠ 0 then reply St.badParam reason 0 s
    else if stageMismatch i (fld p 8 4) (fld p 12 4) then reject St.checkFail s
    else if fld p 1 1 = 1 then reply St.ok 0 0 s
    else
      let ks := boundOn s cs
      let s' := ks.foldl (fun s k => gapJobs k s)
        (cs.foldl (fun s c => modCore c (Core.load i) s) (haltBare (dropBindings cs s)))
      reply St.ok 0 ((cs.map (2 ^ ·)).sum) s'

def execCoreLoad (r : Req) (s : State) : Res := .next (perform coreLoadSpec cmdCoreLoad r s)

/-! ### CORE_START (R307) -/

def coreStartSpec : CmdSpec := { opcode := 0x51, target := .core, mirror := true, len := fixedLen 20 }

/-- Do two areas of halfwords in the same space meet? -/
def areasMeet (uni : Bool) (ya yb : Bool) (a na b nb : Nat) : Bool :=
  (uni || ya = yb) && na ≠ 0 && nb ≠ 0 && a < b + nb && b < a + na

/-- Do the areas of two bindings overlap (R290)? -/
def bindingsMeet (uni : Bool) (x y : Binding) : Bool :=
  let xs := [(x.histY, x.histBase, x.nLocal * x.histLen), (x.stateY, x.stateBase, x.nLocal * x.stateLen)]
  let ys := [(y.histY, y.histBase, y.nLocal * y.histLen), (y.stateY, y.stateBase, y.nLocal * y.stateLen)]
  xs.any (fun a => ys.any (fun b => areasMeet uni a.1 b.1 a.2.1 a.2.2 b.2.1 b.2.2))

/-- The binding a request asks for, at a position of its group. -/
def newBinding (p : List Byte) (n size pos : Nat) (from_ : Ps) : Binding :=
  { ctx := fld p 0 1, entry := fld p 2 2, mask := BitVec.ofNat 32 (fld p 4 4), budget := fld p 8 2, histLen := fld p 10 2,
    histBase := fld p 12 2, stateBase := fld p 14 2, stateLen := fld p 16 1, histY := tst (fld p 17 1) 0,
    stateY := tst (fld p 17 1) 1, pos := pos, size := size, nLocal := cdiv n size, from_ := from_ }

/-- A history length of R290. -/
def histOk (n : Nat) : Bool := [0, 1, 2, 4, 8, 16, 32, 64, 128, 256].contains n

def cmdCoreStart (f : Fetched) (s : State) : Ans :=
  let p := f.payload
  let t := f.target.toNat
  let k := fld p 0 1
  let c := ctx s k
  let m := fld p 4 4
  let cs := maskCores m
  let size := cs.length
  let armed := c.live && linesRun s c
  let w : CtxWhen := if armed then ctxWhen s c else { due := 0, count := 2 ^ 64 - 1, settle := none }
  let b := newBinding p c.n size 0 (if armed then w.due else 0)
  let area := !histOk b.histLen || 64 < b.stateLen || b.stateLen % 2 ≠ 0 || 3 < fld p 17 1
    || cs.any (fun d => !b.fits (core s d).unified || ((core s d).unified && fld p 17 1 ≠ 0))
  let reason := firstReason 1
    [c.source = 0, cs.any (fun d => (core s d).state = .empty), cs.any (fun d => (core s d).state = .retired),
     cs.any (fun d => 4 ≤ (core s d).bindings.length), cs.any (fun d => (core s d).nInstr ≤ b.entry), area,
     cs.any (fun d => (core s d).bindings.any (fun x => bindingsMeet (core s d).unified b x)),
     cs.any (fun d => !burstOk s (planTs s) ((core s d).bindings ++ [b])), !(groupOf s k).isEmpty, lowBit m ≠ some t]
  let range := 1 < fld p 1 1 || fld p 18 2 ≠ 0 || !(inR b.budget 1 8192)
  let reply (st r : Nat) (count : Nat) (prog : Nat) : List Byte → Ans := fun _ =>
    { status := st, st := s,
      payload := le1 r ++ le1 size ++ zeros 2 ++ le4 b.nLocal ++ le8 count ++ le4 prog }
  checked [(absentCores s t m, St.notFitted)] s fun _ =>
    if range || reason ≠ 0 then reply St.badParam reason (2 ^ 64 - 1) 0 []
    else
      let bind (s : State) (q : Nat × Nat) : State :=
        let b := { b with pos := q.1 }
        modCore q.2 (fun x =>
          let x := if x.state = .stopped then { x.clearRegs with state := .running, backAt := none } else x
          let x := if fld p 1 1 = 1 then x.clearCounts else x
          { (x.clearAreas b) with bindings := x.bindings ++ [b], overTold := false }) s
      let s' := ((List.range size).zip cs).foldl bind s
      { (reply St.ok 0 w.count (progTime s' (planTs s') k) []) with st := s', names := w.count ≠ 2 ^ 64 - 1, due := w.settle }

def execCoreStart (r : Req) (s : State) : Res := .next (perform coreStartSpec cmdCoreStart r s)

/-! ### CORE_STOP (R308) -/

def coreStopSpec : CmdSpec := { opcode := 0x52, target := .core, mirror := true, len := fixedLen 8 }

/-- The mask of some cores. -/
def coresMask (cs : List Nat) : Nat := (cs.map (2 ^ ·)).sum

/-- Cores that serve armed contexts receiving lines halt at those contexts' points, the others at once. -/
def cmdCoreStop (f : Fetched) (s : State) : Ans :=
  let p := f.payload
  let t := f.target.toNat
  let fl := fld p 0 1
  let m := fld p 4 4
  let cs := maskCores m
  let hit := (ctxsWhere s Ctx.live).filter (fun k => cs.any (fun c => (core s c).state = .running && ((core s c).binding k).isSome))
  checked [(absentCores s t m, St.notFitted), (!hit.isEmpty && !tst fl 0, St.ctxArmed),
      (3 < fl || fld p 1 3 ≠ 0 || lowBit m ≠ some t, St.badParam)] s fun _ =>
    let w := ((hit.find? (fun k => (ctx s k).source = 1)).map (fun k => ctxWhen s (ctx s k))).getD
      { due := s.now, count := 2 ^ 64 - 1, settle := none }
    let ks := hit.filter (fun k => linesRun s (ctx s k))
    let later := cs.filter (fun c => ks.any (fun k => ((core s c).binding k).isSome))
    let s1 := stopCores (coresMask (cs.filter (fun c => !later.contains c))) (tst fl 1) s
    let s2 := ks.foldl (fun s k => atPoint k (s.now + Config.leadTime) (.halt (coresMask later) (tst fl 1)) s) s1
    let all := haltCores m (tst fl 1) s
    let stopped := (List.range 32).filter (fun c =>
      (cs.contains c || (tst fl 1 && (core all c).bindings.isEmpty)) && ((core all c).state = .stopped || (core all c).stopDue))
    { status := St.ok, st := s2, names := w.count ≠ 2 ^ 64 - 1, due := w.settle, payload := le8 w.count ++ le4 (coresMask stopped) }

def execCoreStop (r : Req) (s : State) : Res := .next (perform coreStopSpec cmdCoreStop r s)

/-! ### CORE_READ (R309) -/

def coreReadSpec : CmdSpec := { opcode := 0x53, target := .core, mirror := false, len := fixedLen 8 }

/-- Bytes of a core's memory as a read between invocations sees them, of one gap (DESIGN CHOICE, log 206); the registers of a RUNNING
core as after its last `done`. -/
def Core.readData (x : Core) (what addr count : Nat) : List Byte :=
  let m (live gap : Memory) : Memory := if x.inv.isSome then gap else live
  let bytes (m : Memory) (a n : Nat) : List Byte := (List.range n).map (fun i => m.read (a + i))
  match what with
  | 0 => if x.state = .running then x.regGap else x.regBytes
  | 1 => bytes (m x.xmem x.xGap) (2 * addr) (2 * count)
  | 2 => bytes (m x.ymem x.yGap) (2 * addr) (2 * count)
  | _ => bytes x.imem (4 * addr) (4 * count)

/-- Addresses a read may name: the space or the instruction memory holds them all. -/
def readRange (x : Core) (what addr count : Nat) : Bool :=
  match what with
  | 0 => count = 0
  | 1 => inR count 1 2000 && addr + count ≤ spaceSize x.unified
  | 2 => inR count 1 2000 && !x.unified && addr + count ≤ 8192
  | 3 => inR count 1 1000 && addr + count ≤ 4096
  | _ => false

def cmdCoreRead (f : Fetched) (s : State) : Ans :=
  let p := f.payload
  let c := f.target.toNat
  let x := core s c
  let what := fld p 0 1
  let addr := fld p 2 2
  let n := fld p 4 2
  checked [(absentCores s c 0, St.notFitted),
      (1 < fld p 1 1 || fld p 6 2 ≠ 0 || !readRange x what addr n || (x.state = .retired && what ≠ 0), St.badParam)] s fun _ =>
    let d := x.readData what addr n
    { status := St.ok, st := if fld p 1 1 = 1 then modCore c Core.clearCounts s else s,
      payload := le1 x.state.code ++ le1 (bit x.unified) ++ le2 x.nInstr
        ++ le4 (if what = 0 && x.state = .running then x.gapCount else x.invocations).toNat ++ le2 addr ++ le2 n
        ++ zeros 4 ++ padTo (cdiv d.length 4 * 4) d }

def execCoreRead (r : Req) (s : State) : Res := .next (perform coreReadSpec cmdCoreRead r s)

end Sys2Proof.Machine
end

