-- ==== Sys2Proof/Machine/Context.lean ====
section
/-! DEFINITION. Machine/Context.lean: the commands of watch contexts and threshold tables (R224-R226, R234, R240-R245),
trigger inputs (R219-R221), and contexts at a mode change (R235, R236). -/

namespace Sys2Proof.Machine

open Sys2Proof

/-! ### CTX_SET, CTX_GET (R240, R241) -/

def ctxSetSpec : CmdSpec := { opcode := 0x30, target := .context, mirror := true, len := fixedLen 56 }

/-- The range of `CONST` by source (R240). -/
def constOk (source : Nat) (v : Int) : Bool :=
  match source with
  | 1 => inI v (-32768) 32767
  | 2 => inI v 0 65535
  | _ => inI v (-8388608) 8388607

/-- A detector bit's fields (R208, R240). -/
def detBad (c : Ctx) (b : Nat) : Bool :=
  2 < c.detSrc b || 3 < c.detMode b || (63 < c.detTable b && c.detTable b ≠ 0xFF) || fld c.cfg (27 + 8 * b) 1 ≠ 0
    || !constOk c.source (c.detConst b)
    || (c.detSrc b = 1 && ((c.source = 2 && tst (c.detMode b) 0) || (c.source = 3 && c.detTable b ≠ 0xFF)))

def setBad (c : Ctx) : Bool :=
  let tin := fld c.cfg 13 1
  3 < c.source || 15 < fld c.cfg 1 1 || c.persist = 0
    || !(inR c.n 1 (match c.source with | 1 => 131072 | 2 => 65536 | _ => 8))
    || 4 < c.tinPin || 63 < tin || (c.tinMode ≠ 0 && c.tinPin = 0) || 16777215 < c.pre || 16777215 < c.post
    || (List.range 4).any (detBad c)

def cmdCtxSet (f : Fetched) (s : State) : Ans :=
  let k := f.target.toNat
  let n : Ctx := { ctx s k with cfg := f.payload.take 56 }
  checked [(n.source = 2 && !s.ochreFitted, St.notFitted), ((ctx s k).live, St.ctxArmed),
      (n.source ≠ 0 && setBad n, St.badParam)] s fun _ =>
    { status := St.ok,
      st := resizeBinding k (modCtx k (fun c => { c with cfg := if n.source = 0 then ({} : Ctx).cfg else n.cfg }) s) }

def execCtxSet (r : Req) (s : State) : Res := .next (perform ctxSetSpec cmdCtxSet r s)

def ctxGetSpec : CmdSpec := { opcode := 0x31, target := .context, mirror := false, len := fixedLen 0 }

/-- `LINE_SEQ` as read: 0 before the first line. -/
def Ctx.seqRead (c : Ctx) : Nat := (c.linesShown - 1) % 2 ^ 32

def cmdCtxGet (f : Fetched) (s : State) : Ans :=
  let c := ctx s f.target.toNat
  { status := St.ok, st := s,
    payload := c.cfg ++ le1 c.shown.code ++ le1 c.patW ++ zeros 2 ++ le4 c.seqRead ++ le4 c.trigCnt.toNat ++ le4 c.missed.toNat }

def execCtxGet (r : Req) (s : State) : Res := .next (perform ctxGetSpec cmdCtxGet r s)

/-! ### CTX_ARM (R224, R225, R25, R242) -/

/-- The trigger-engine load of some contexts (R225). -/
def engineLoad (s : State) (cs : List Ctx) : Rat :=
  let j := projected s
  (cs.map (fun c => (c.n : Rat) * lineRate s j c)).sum

/-- Does a span lie where R224 condition 2 asks? -/
def spanOk (s : State) (c : Ctx) : Bool :=
  match c.source with
  | 3 => c.first + c.n ≤ 8 && (spanOdr s c).isSome
  | _ => (spanPort s.indigo.map c).isSome

/-- The first condition of R224 that fails; 0: none. -/
def armReason (s : State) (k : Nat) (load ring : Rat) : Nat :=
  let c := ctx s k
  firstReason 1
    [c.source = 0, !spanOk s c, c.tinMode ≠ 2 && (c.patW = 0 || c.n < c.patW), c.usesCore && !served s k,
     c.bitTables.any (fun n => !(tableFor s k n).any (fun t => t.covers c.first c.n)),
     decide ((Config.maxTriggerLoad : Rat) < load), decide ((nLive s * 3000000000 : Nat) < ring),
     c.records && (claimFails s k (2 * c.rB + c.pB)).isSome]

/-- The copies in force as a context arms (R234). -/
def tablesNow (s : State) (k : Nat) : List (Nat × Nat) :=
  let ns := (ctx s k).bitTables ++ (if (stream s k).suppTable = 0xFF then [] else [(stream s k).suppTable])
  s.thresh.newest.filter (fun t => ns.contains t.1)

/-- Counters cleared by `CLEAR_COUNTS` (R238, R270). -/
def clearCounts (c : Ctx) : Ctx :=
  { c with trigCnt := 0, missed := 0, absorbed := 0, skipped := 0, coreGap := 0, discarded := 0, ringDrop := 0 }

def ctxArmSpec : CmdSpec := { opcode := 0x32, target := .context, mirror := true, len := fixedLen 4 }

/-- The modes in which contexts may be armed (R235). -/
def armModes : List Mode := [.warm, .acoustic, .survey, .full, .calibrate]

def armReply (reason count : Nat) (load ring : Rat) : List Byte :=
  let k (x : Rat) : Nat := min (2 ^ 32 - 1) (x / 1000).floor.toNat
  le1 reason ++ zeros 3 ++ le8 count ++ le4 (k load) ++ le4 (k ring)

def cmdCtxArm (f : Fetched) (s : State) : Ans :=
  let k := f.target.toNat
  let p := f.payload
  let s0 := lapsePoints k s
  let c := ctx s0 k
  checked [(!s.inMode armModes, St.wrongMode), (c.live, St.ctxArmed)] s fun _ =>
    let cs := c :: (ctxsWhere s Ctx.live).map (ctx s)
    let load := engineLoad s cs
    let ring := ringRate s cs
    let reason := armReason s0 k load ring
    let w := ctxWhen s c
    -- reserved bits: no condition of R224 fails (log 83)
    if 1 < fld p 0 1 || fld p 1 3 ≠ 0 then
      { status := St.badParam, st := s, payload := armReply 0 (2 ^ 64 - 1) load ring }
    else if reason ≠ 0 then
      { status := if reason ≤ 5 then St.badParam else St.noSpace, st := s, payload := armReply reason (2 ^ 64 - 1) load ring }
    else
      let s1 := modCtx k (fun c =>
        let c := if fld p 0 1 = 1 then clearCounts c else c
        { c with state := .armed, runC := 0, runW := 0, lines := 0, startAt := w.due, effect := 2 ^ 64 - 1, jobs := [],
                 cuts := [], stopping := none, tabs := tablesNow s k, lastLine := none, trigs := [], edges := [], marks := [],
                 recent := none }) s0
      { status := St.ok, st := claimAtArm k s1, names := w.count ≠ 2 ^ 64 - 1, due := w.settle,
        payload := armReply 0 w.count load ring }

def execCtxArm (r : Req) (s : State) : Res := .next (perform ctxArmSpec cmdCtxArm r s)

/-! ### CTX_DISARM (R226, R243) -/

def ctxDisarmSpec : CmdSpec := { opcode := 0x33, target := .context, mirror := true, len := fixedLen 4 }

/-- Does a disarm already wait for its point? -/
def disarmDue (c : Ctx) : Bool := c.stopping.isSome || c.points.any (fun p => match p.act with | .disarm _ => true | _ => false)

def cmdCtxDisarm (f : Fetched) (s : State) : Ans :=
  let k := f.target.toNat
  let p := f.payload
  let ab := tst (fld p 0 1) 0
  let c := ctx s k
  let w := ctxWhen s c
  let reply (after count : Nat) : List Byte := le1 after ++ zeros 3 ++ le8 count
  let after := if (c.state = .capture || c.state = .disarming) && !ab then 4 else 0
  checked [(1 < fld p 0 1 || fld p 1 3 ≠ 0, St.badParam)] s fun _ =>
    if !c.live then { status := St.ok, st := s, payload := reply 0 (2 ^ 64 - 1) }
    else if c.state = .disarming && !ab then
      { status := St.ok, st := s, payload := reply 4 c.effect, names := c.effect ≠ 2 ^ 64 - 1 }
    else
      -- a disarm that waits, or is in force, keeps the launch it names
      let s1 := modCtx k (fun c => { c with effect := if disarmDue c || c.state = .disarming then c.effect else w.count }) s
      { status := St.ok, st := atPoint k w.due (.disarm ab) s1, payload := reply after w.count,
        names := w.count ≠ 2 ^ 64 - 1, due := w.settle }

def execCtxDisarm (r : Req) (s : State) : Res := .next (perform ctxDisarmSpec cmdCtxDisarm r s)

/-! ### PATTERN_SET (R244) -/

def patternSetSpec : CmdSpec := { opcode := 0x34, target := .context, mirror := true, len := fixedLen 68 }

def cmdPatternSet (f : Fetched) (s : State) : Ans :=
  let k := f.target.toNat
  let p := f.payload
  let c := ctx s k
  let w := fld p 0 1
  let v := fld p 4 32
  let m := fld p 36 32
  checked [(fld p 1 3 ≠ 0 || !(inR w 1 64) || v / 16 ^ w ≠ 0 || m / 16 ^ w ≠ 0 || (c.live && c.n < w), St.badParam)] s fun _ =>
    let a : CtxAct := .pattern w (BitVec.ofNat 256 v) (BitVec.ofNat 256 m)
    if c.live then
      let x := ctxWhen s c
      { status := St.ok, st := atPoint k x.due a s, payload := le8 x.count, names := x.count ≠ 2 ^ 64 - 1, due := x.settle }
    else { status := St.ok, st := applyPoint k a s.now s, payload := le8 (2 ^ 64 - 1) }

def execPatternSet (r : Req) (s : State) : Res := .next (perform patternSetSpec cmdPatternSet r s)

/-! ### THRESH_LOAD (R233, R234, R245) -/

def threshLoadSpec : CmdSpec := { opcode := 0x35, target := .device, mirror := true, len := fixedLen 20 }

/-- The armed contexts that use a table. -/
def tableUsers (s : State) (n : Nat) : List Nat := (List.range 256).filter (fun k => usesTable s k n)

def entriesHeld (cs : List ThreshCopy) : Nat := (cs.map (fun c => c.entries.length)).sum

/-- The units of a decoded image. -/
def unitsOf : List Byte → List U16
  | a :: b :: rest => (b ++ a) :: unitsOf rest
  | _ => []

/-- Entries free once every copy of table `n` but the newest is gone. -/
def freeAfter (s : State) (n : Nat) : Nat :=
  let old := (s.thresh.copies.filter (fun c => s.ctxs.toList.any (fun x => x.tabs.contains (n, c.id)
      || x.points.any (fun p => p.act = .table n c.id)) && !s.thresh.newest.contains (n, c.id)))
  Config.threshEntries + entriesHeld old - entriesHeld s.thresh.copies

def cmdThreshLoad (f : Fetched) (s : State) : Ans :=
  let s := freeCopies s
  let p := f.payload
  let n := fld p 1 1
  let fl := fld p 2 1
  let first := fld p 4 4
  let cnt := fld p 8 4
  let users := if 63 < n then [] else tableUsers s n
  let img := staged s (fld p 0 1)
  let range := 63 < n || 1 < fl || fld p 3 1 ≠ 0 || 131071 < first || !(inR cnt 1 131072) || 131072 < first + cnt
  let reply (count : Nat) (s : State) : List Byte := le4 (freeAfter s n) ++ le8 count
  if tst fl 0 then
    checked [(!users.isEmpty, St.ctxArmed), (range, St.badParam)] s fun _ =>
      let s' := freeCopies { s with thresh.newest := s.thresh.newest.filter (fun t => t.1 ≠ n) }
      { status := St.ok, st := s', payload := reply (2 ^ 64 - 1) s' }
  else
    let i := img.getD []
    let old := s.thresh.newest.find? (fun t => t.1 = n)
    let oldSize := match users.isEmpty, old with
      | true, some o => entriesHeld (s.thresh.copies.filter (fun c => c.id = o.2))
      | _, _ => 0
    let covers (k : Nat) : Bool := first ≤ (ctx s k).first && (ctx s k).first + (ctx s k).n ≤ first + cnt
    checked [(range || img.isNone || !users.all covers, St.badParam),
        (fld p 12 4 ≠ 2 * cnt || stageMismatch i (fld p 12 4) (fld p 16 4), St.checkFail),
        (Config.threshEntries < entriesHeld s.thresh.copies - oldSize + cnt, St.noSpace)] s fun _ =>
      let id := s.thresh.nextId
      let c : ThreshCopy := { id := id, first := first, entries := unitsOf i }
      -- users keep the copy they read until their points
      let s1 := users.foldl (fun s k =>
        if (ctx s k).tabs.any (fun t => t.1 = n) then s
        else modCtx k (fun c => { c with tabs := (old.toList) ++ c.tabs }) s) s
      let s2 := { s1 with thresh.copies := c :: s1.thresh.copies, thresh.nextId := id + 1,
                          thresh.newest := (n, id) :: s1.thresh.newest.filter (fun t => t.1 ≠ n) }
      let s3 := users.foldl (fun s k => atPoint k (s.now + Config.leadTime) (.table n id) s) (freeCopies s2)
      let w : CtxWhen := ((users.find? (fun k => (ctx s k).source = 1)).map (fun k => ctxWhen s (ctx s k))).getD
        { due := s.now, count := 2 ^ 64 - 1, settle := none }
      { status := St.ok, st := s3, payload := reply w.count s3, names := w.count ≠ 2 ^ 64 - 1, due := w.settle }

def execThreshLoad (r : Req) (s : State) : Res := .next (perform threshLoadSpec cmdThreshLoad r s)

/-! ### TIN_EDGE (R219-R221) -/

/-- Launches made whose lines a DAS context has still to receive, oldest first. -/
def comingLines (s : State) (c : Ctx) : List LaunchRec :=
  s.light.inflight.filter (fun r => !r.ochre && r.at_ ≤ s.now && c.startAt ≤ r.at_ && spanPort s.indigo.map c = some r.port)

/-- The trigger line of an edge now (R220). -/
def tinLine (s : State) (k : Nat) : Option TrigLine :=
  let c := ctx s k
  let old := if c.lines = 0 then none else c.lastLine.map CtxLine.trig
  if c.source = 1 then
    let coming := comingLines s c
    match coming.getLast? with
    | some r => some { seq := c.lines + coming.length - 1, at_ := r.at_, dev := r.dev, epoch := s.cmd.epoch, slot := r.slot }
    | none => old
  else old

/-- Is a waiting action a disarm? -/
def CtxAct.disarms : CtxAct → Bool
  | .disarm _ => true
  | _ => false

/-- One context's part of an accepted edge: none from the point of a disarm on (R226). It waits while an earlier line may still
decide something before it (R214). -/
def tinContext (pin : Nat) (rising : Bool) (k : Nat) (s : State) : State :=
  let c := ctx s k
  let past := (pointAt s c CtxAct.disarms).any (fun t => decide (t ≤ s.now))
  if c.takes && !past && c.tinPin = pin + 1 && (c.tinMode = 1 || c.tinMode = 2) && c.tinFalls ≠ rising then
    match tinLine s k with
    | some l =>
      let e : TinWait := { at_ := s.now, line := l }
      if decidedBy s c s.now then decide_ (e.decision k) s else modCtx k (fun c => { c with edges := c.edges ++ [e] }) s
    | none => s
  else s

/-- `TIN_EDGE`: the interval unit, the launch lock and the contexts see the edge (R219, R402, R408). -/
def execTinEdge (t : Ps) (pin : Fin 4) (rising : Bool) (s : State) : Res :=
  let s := s.adv t
  .next (if s.power.sleeping then { s with alarm.level := vset s.alarm.level pin.val rising }
  else
    let s := { s with alarm.level := vset s.alarm.level pin.val rising }
    let s := lockTin pin.val rising (timFeed pin.val (!rising) s.now s)
    let near := (vget s.alarm.accept pin.val).any (fun a => decide (s.now < a + 10000))
    if near then s
    else (List.range 256).foldl (fun s k => tinContext pin.val rising k s)
      { s with alarm.accept := vset s.alarm.accept pin.val (some s.now) })

/-! ### Modes (R235, R236) -/

/-- Entry to STANDBY or sleep disarms every context as with `ABANDON`, and quiets the alarm outputs. -/
def standbyContexts (s : State) : State :=
  quietAlarms ((ctxsWhere s Ctx.live).foldl (fun s k => stopNow k s) s)

/-- Entry to sleep returns contexts, patterns, pin modes and tables to reset. -/
def sleepContexts (s : State) : State :=
  { s with
    ctxs := Vector.replicate 256 {}, thresh := {},
    alarm := { s.alarm with pins := Vector.replicate 8 {}, frame := none, idleFrom := s.now, rdPlus := false } }

end Sys2Proof.Machine
end

