-- ==== Sys2Proof/Machine/Intake.lean ====
section
/-! DEFINITION. Machine/Intake.lean: how requests come in: header and payload checks (R350 steps 1-4), the PCIe fetch (R356,
R365), UDP datagrams, their sequence windows and buffers (R359-R362, R602). -/

namespace Sys2Proof.Machine

open Sys2Proof

/-! ### A request as received -/

/-- `HDR_CHECK` matches (R350 step 1). -/
def headerOk (h : List Byte) : Bool := h.length = 16 && fld h 14 2 = (crc16 (h.take 14)).toNat

/-- Steps 2 to 4 of R350; `none` for the payload: its read failed (R356). -/
def bodyFail (h : List Byte) (p : Option (List Byte)) : Option Nat :=
  let len := fld h 4 2
  let crcOk := match p with
    | some b => decide (b.length = len) && fld b (len - 4) 4 = (crc32c (b.take (len - 4))).toNat
    | none => false
  firstFail [(len % 4 ≠ 0 || !(inR len 4 4080), St.badLength), (!crcOk, St.badCheck), (!opcodes.contains (fld h 0 1), St.badOpcode)]

/-- A request as the controller takes it. With a bad header only `OPCODE`, `TAG` and `SEQ` are used, and nothing else is
trusted. -/
def parseReq (src : Source) (h : List Byte) (p : Option (List Byte)) (replyTo : U64) (s : State) : Fetched :=
  let good := headerOk h
  let fail := if good then bodyFail h p else some St.badCheck
  { src := src, opcode := by8 (fld h 0 1), tag := BitVec.ofNat 16 (fld h 2 2), seq := BitVec.ofNat 32 (fld h 8 4),
    flags := if good then by8 (fld h 1 1) else 0, target := if good then BitVec.ofNat 16 (fld h 6 2) else 0,
    rsv := if good then BitVec.ofNat 16 (fld h 12 2) else 0, reply := replyTo,
    payload := match p with | some b => b.take (b.length - 4) | none => [],
    failed := fail.map by8, epoch := s.cmd.epoch, uncached := fail = some St.badCheck }

/-- Requests that failed their checks are answered, where a controller runs. -/
def settleIn (s : State) : State := if s.pathDown then s else settle s

/-- A request joins its queue; one that failed steps 1 to 5 is answered when its turn comes. -/
def enqueue (f : Fetched) (s : State) : State := { s with cmd.fetched := s.cmd.fetched ++ [f] }

/-- `CMD_BAD_CHECK` of a header that fails (R350 step 1, R386). -/
def badHeader (seq : Nat) (s : State) : State := raise { code := 0x0100, a0 := seq } s

/-! ### PCIe (R353-R356, R365) -/

/-- Completions a queue still owes: fetched and unanswered. -/
def owed (q : Nat) (s : State) : Nat :=
  let mine (x : Source) : Bool := match x with | .pcie k => k.val = q | _ => false
  (s.cmd.fetched.filter (fun f => mine f.src)).length + (s.cmd.held.filter (fun h => mine h.req.src)).length
    + (s.cmd.fences.filter (fun f => mine f.req.src)).length + (s.cmd.mirror.map (fun m => bit (mine m.req.src))).getD 0

/-- Fetched entries that have not begun. -/
def ahead (q : Nat) (s : State) : Nat :=
  (s.cmd.fetched.filter (fun f => match f.src with | .pcie k => k.val = q | _ => false)).length

/-- A free completion entry for one more command (R356); a queue of n entries holds n - 1. -/
def cqRoom (q : Nat) (s : State) : Bool :=
  let x := getQ q s
  (x.cqPos + x.size - x.head.toNat % x.size) % x.size + owed q s + 1 < x.size

/-- May the device fetch the next entry of a queue? -/
def mayFetch (q : Nat) (s : State) : Bool :=
  let x := getQ q s
  s.hostUp && !s.pathDown && s.cmd.recovery.isNone && x.enable && 0 < x.unfetched && ahead q s < 16 && cqRoom q s

/-- `QUEUE_ERROR`, once until `QERR` is cleared (R365). -/
def queueError (q : Nat) (s : State) : State :=
  let x := getQ q s
  let s' := setQ q { x with qerr := true, errTold := true } s
  if x.errTold then s' else raise { code := 0x0104, a0 := q + 2 + 4 * bit x.fetchErr } s'

/-- A `FENCE` that waits for unfetched entries of the queue now waits for this command (R367). -/
def fenceFetch (q : Nat) (f : Fetched) (s : State) : State :=
  { s with cmd.fences := s.cmd.fences.map (fun w =>
      let n := if q = 0 then w.toFetch.1 else w.toFetch.2
      if n = 0 then w
      else { w with toFetch := if q = 0 then (n - 1, w.toFetch.2) else (w.toFetch.1, n - 1),
                    cmds := (f.src, f.seq) :: w.cmds }) }

/-- The next index of a submission queue. -/
def nextHead (x : PQueue) : PQueue := { x with sqHead := (x.sqHead + 1) % x.size }

/-- A completion whose entry could not be read (R356): its header fields are not known. -/
def lostEntry (src : Source) (s : State) : Fetched :=
  let v := Config.headerLost s.freeIdx
  { src := src, opcode := by8 v, tag := BitVec.ofNat 16 (v / 256), seq := BitVec.ofNat 32 (v / 2 ^ 24), flags := 0, target := 0,
    rsv := 0, reply := 0, payload := [], failed := some (by8 St.badCheck), epoch := s.cmd.epoch, uncached := true }

/-- An entry fetched. -/
def fetchEntry (q : Fin 2) (e : Option SqEntry) (s : State) : State :=
  let src := Source.pcie q
  let s := setQ q.val (nextHead (getQ q.val s)) s
  let failed (s : State) : State := setQ q.val { getQ q.val s with fetchErr := true } s
  match e with
  | none =>
    let f := lostEntry src s
    settle (fenceFetch q.val f (enqueue f (failed s.took)))
  | some e =>
    let f := parseReq src e.header e.payload e.replyAddr s
    let good := headerOk e.header
    let s := if e.payload.isNone then failed s else s
    let s := if good then s else badHeader f.seq.toNat s
    let last := (getQ q.val s).lastSeq
    let s := if good && last.isSome && last ≠ some (f.seq - 1) then queueError q.val s else s
    let s := if good then setQ q.val { getQ q.val s with lastSeq := some f.seq } s else s
    settle (fenceFetch q.val f (enqueue f s))

def execSqEntryFetch (t : Ps) (q : Fin 2) (e : Option SqEntry) (s : State) : Res :=
  let s := s.adv t
  .next (if mayFetch q.val s then fetchEntry q e s else s)

/-! ### UDP (R359-R362) -/

/-- One of a source's queues. -/
def udpQ (id : Nat) (urgent : Bool) (s : State) : UQueue :=
  ((s.cmd.sources.find? (fun u => u.id = id)).map (fun u => u.q urgent)).getD {}

/-- The source becomes the most recently used of 16 (R359). -/
def touchSource (id : Nat) (s : State) : State :=
  let u := ((s.cmd.sources.find? (fun u => u.id = id)).getD { id := id, used := 0 })
  { s with cmd.sources := ({ u with used := s.now } :: s.cmd.sources.filter (fun u => u.id ≠ id)).take 16 }

/-- Requests held that now follow on are taken in order (R360). -/
def releaseHeld (id : Nat) (urgent : Bool) : Nat → State → State
  | 0, s => s
  | n + 1, s =>
    let q := udpQ id urgent s
    match q.expect with
    | none => s
    | some e =>
      match q.held.find? (fun h => h.2.seq = e) with
      | none => s
      | some h =>
        let s := modUdp id urgent (fun q => { q with
            held := q.held.filter (fun x => x.2.seq ≠ e), expect := some (if h.2.uncached then e else e + 1) }) s
        releaseHeld id urgent n (enqueue h.2 s)

/-- A reply to a request that is not executed. -/
def refuse (f : Fetched) (status : Nat) (s : State) : State :=
  let r := mkReply f status [] (replyFlags f false false false) (if f.has flMirror then 0xFE else 0)
  { (sendReply f.src r s) with cmd.cmdsDone := s.cmd.cmdsDone + 1 }

/-- Requests held by the gap rule, in sequence order from E (R360). -/
def heldInOrder (id : Nat) (urgent : Bool) (s : State) : List Fetched :=
  let q := udpQ id urgent s
  let e := q.expect.getD 0
  (q.held.map (·.2)).mergeSort (fun a b => (a.seq - e).toNat ≤ (b.seq - e).toNat)

/-- A `NOP` that resynchronises its queue (R361): the held requests end with `ABORTED_FLUSH` in sequence order, behind what the
queue took before them (R364). -/
def resyncUdp (id : Nat) (urgent : Bool) (f : Fetched) (s : State) : State :=
  let flushed := (heldInOrder id urgent s).map (fun g => { g with failed := some (by8 St.abortedFlush), uncached := false })
  let s := modUdp id urgent (fun q => { q with held := [], expect := some (f.seq + 1) }) s
  enqueue f (flushed.foldl (fun s g => enqueue g s) s)

/-- A request with a valid header classed by its distance from E (R360). -/
def classify (id : Nat) (urgent : Bool) (f : Fetched) (s : State) : State :=
  let q := udpQ id urgent s
  let e := q.expect.getD f.seq
  let d := (f.seq - e).toNat
  if d = 0 then
    releaseHeld id urgent 32 (enqueue f (modUdp id urgent (fun q => { q with expect := some (if f.uncached then e else e + 1) }) s))
  else if d < 32 then
    if q.held.any (fun h => h.2.seq = f.seq) then { s with cmd.udpDiscarded := satInc s.cmd.udpDiscarded }
    else modUdp id urgent (fun q => { q with held := q.held ++ [(s.now, f)] }) s
  else
    match if 2 ^ 32 - 32 ≤ d then q.cache.find? (fun c => c.1 = f.seq) else none with
    | some r => sendReply f.src { r.2 with flags := r.2.flags ||| 4 } s
    | none =>
      if f.opcode = 0 && f.failed.isNone then resyncUdp id urgent f s
      else refuse f (if 2 ^ 31 ≤ d then St.timeout else St.badParam) s

/-- Does a datagram's trailer match under the key loaded (R362)? -/
def hmacOk (key : Option (List Byte)) (bytes : List Byte) : Bool :=
  let n := bytes.length - 32
  match key with
  | some k => decide (hmac k (bytes.take n) = bytes.drop n)
  | none => false

/-- A command datagram taken: its length, its authentication, then the checks of R350. -/
def takeDatagram (id : Nat) (addrLow : U32) (bytes : List Byte) (s : State) : State :=
  let len := fld bytes 4 2
  let auth := tst (fld bytes 1 1) flAuth
  if bytes.length < 16 || bytes.length ≠ 16 + len + (if auth then 32 else 0) then
    { s with cmd.udpDiscarded := satInc s.cmd.udpDiscarded }
  else if (auth && !hmacOk s.cmd.key bytes) || (!auth && s.cmd.authRequired) then
    raise { code := 0x0101, a0 := addrLow.toNat } { s with cmd.authFail := satInc s.cmd.authFail }
  else
    let h := bytes.take 16
    let good := headerOk h
    let urgent := good && tst (fld h 1 1) flUrgent
    let f := parseReq (.udp id urgent) h (some ((bytes.drop 16).take len)) 0 s
    let s := touchSource id s
    if good then settleIn (classify id urgent f s) else settleIn (enqueue f (badHeader f.seq.toNat s))

/-- Bytes buffered on a port (R602). -/
def buffered (l : List (Nat × U32 × List Byte)) : Nat := (l.map (fun x => x.2.2.length)).sum

/-- A datagram that arrives during a recovery, or while the controller reboots, is buffered by its port. -/
def bufferDatagram (port : Nat) (x : Nat × U32 × List Byte) (s : State) : State :=
  let l := if port = 0 then s.cmd.buffer0 else s.cmd.buffer1
  if 262144 < buffered l + x.2.2.length then { s with cmd.udpDiscarded := satInc s.cmd.udpDiscarded }
  else if port = 0 then { s with cmd.buffer0 := l ++ [x] }
  else { s with cmd.buffer1 := l ++ [x] }

/-- The buffered datagrams are taken in arrival order per port. -/
def takeBuffers (s : State) : State :=
  let l := s.cmd.buffer0 ++ s.cmd.buffer1
  l.foldl (fun s x => takeDatagram x.1 x.2.1 x.2.2 s) { s with cmd.buffer0 := [], cmd.buffer1 := [] }

/-- No datagram reaches the command path: asleep, starting, without supplies, or under the boot ROM (R498, R537, R596). -/
def udpLost (s : State) : Bool :=
  s.power.sleeping || s.power.starting || s.power.supplyOut.isSome || s.mgmt.bootRom

def execUdpDatagram (t : Ps) (port : Fin 2) (id : Nat) (addrLow : U32) (bytes : List Byte) (s : State) : Res :=
  let s := s.adv t
  .next (if udpLost s || !ipUp port.val s then s
  else if s.cmd.recovery.isSome || s.mgmt.down then bufferDatagram port.val (id, addrLow, bytes) s
  else takeDatagram id addrLow bytes s)

/-- `UDP_GAP` (R360): E has not arrived 10 ms after the oldest held request; the missing numbers are skipped. -/
def skipGap (id : Nat) (urgent : Bool) (s : State) : State :=
  let q := udpQ id urgent s
  match q.expect, q.held.map (fun h => (h.2.seq - q.expect.getD 0).toNat) with
  | some e, d :: ds =>
    let low := ds.foldl min d
    let s := raise { code := 0x0102, a0 := e.toNat } s
    settle (releaseHeld id urgent 32
      (modUdp id urgent (fun q => { q with expect := some (e + BitVec.ofNat 32 low) }) s))
  | _, _ => s

def execUdpGap (t : Ps) (id : Nat) (urgent : Bool) (s : State) : Res :=
  let s := s.adv t
  let due := ((udpQ id urgent s).held.head?.map (fun h => decide (h.1 + 10000000000 ≤ s.now))).getD false
  .next (if due && s.cmd.recovery.isNone && !s.pathDown then skipGap id urgent s else s)

end Sys2Proof.Machine
end

