-- ==== Sys2Proof/Machine/Sensors.lean ====
section
/-! DEFINITION. Machine/Sensors.lean: the auxiliary front end and the analogue monitor outputs (R421-R447). -/

namespace Sys2Proof.Machine

open Sys2Proof

/-- The channel the reference coil claims (R435). -/
def claimed (s : State) (n : Nat) : Bool := (s.ochre.coilDue.map (·.auxCh)) = some n

/-! ### AMON outputs (R440-R443) -/

/-- The configuration that acts on a value of a source: a waiting one takes effect with its first source value (R443). -/
def Amon.settle (source index : Nat) (a : Amon) : Amon :=
  match a.next with
  | some c =>
    let n : Amon := { cfg := c, code := a.code, y := none, holding := false, atSafe := a.atSafe }
    if n.source = source && n.index = index then n else a
  | none => a

/-- The code of an operand (R441). -/
def Amon.codeOf (a : Amon) (x : Rat) : Nat :=
  (max 0 (min 4095 (roundAway ((x - a.lo) * 4095 / (a.hi - a.lo))))).toNat

/-- A source value taken (R441, R442). -/
def Amon.value (x : Rat) (valid : Bool) (a : Amon) : Amon :=
  if valid then
    let ax := if x < 0 then -x else x
    let y := match a.y with
      | some y => y + (ax - y) / (2 ^ a.tau : Nat)
      | none => ax
    if tst a.process 0 then { a with y := some y, code := a.codeOf y, holding := false, atSafe := false }
    else { a with code := a.codeOf x, holding := false, atSafe := false }
  else if tst a.process 2 then { a with holding := true }
  else { a with code := a.safe, holding := false, atSafe := true }

/-- A value in picostrain (R26): the wavelength and the gauge length bring the same light speed and group index, which
cancel. -/
def strainOf (s : State) (e : DasEntry) (v : Int) : Rat :=
  (v : Rat) * 1000000000000 / ((4 * e.xi * e.gauge * (190000 + s.light.plan.carrier) : Nat) : Rat)

/-- The outputs that follow a source's value. -/
def amonFeed (source index : Nat) (x : Amon → Rat) (valid : Bool) (s : State) : State :=
  amonLatch { s with aux.amon := s.aux.amon.map (fun a =>
      let a := a.settle source index
      if a.source = source && a.index = index then a.value (x a) valid else a) }

/-- The zone of an output, among a line's zones. -/
def amonZones (s : State) (source base n : Nat) : List Nat :=
  ((s.aux.amon.toList.flatMap (fun a => [a.index] ++ (a.next.map (fun c => ({ cfg := c } : Amon).index)).toList)).filter
    (fun i => base ≤ i && i < base + n && s.aux.amon.toList.any (fun a =>
      a.source = source || (a.next.map (fun c => ({ cfg := c } : Amon).source)) = some source))).eraseDups

/-- A DAS line's values for the outputs. -/
def amonDas (l : Line) (s : State) : State :=
  (amonZones s 1 l.base l.values.length).foldl (fun s i =>
    let k := i - l.base
    let v := (l.values[k]?).getD 0
    let fb := (l.zflags[k]?).getD 0
    let ok := !tst l.lflags 0 && !tst l.lflags 5 && !fb.getLsbD 1 && !fb.getLsbD 4 && i < l.nfFirst
    let e := ((s.indigo.map.das1 ++ s.indigo.map.das2)[i]?).getD default
    amonFeed 1 i (fun a => if tst a.process 1 then strainOf s e v else (v : Rat)) ok s) s

/-- An update's values for the outputs. -/
def amonDts (l : Line) (s : State) : State :=
  (amonZones s 2 l.base l.values.length).foldl (fun s i =>
    let k := i - l.base
    let fb := (l.zflags[k]?).getD 0
    let ok := (fb &&& 0x61#8) = 0 && i < l.nfFirst
    amonFeed 2 i (fun _ => (((l.values[k]?).getD 0 : Int) : Rat)) ok s) s

/-- What `AMON_CFG` shows of an output: code, holding, at `SAFE_CODE`. -/
def amonNow (s : State) (a : Amon) : Nat × Bool × Bool :=
  if s.aux.vrefLow || a.source = 0 then (0, false, false)
  else if amonIdle s a then (a.safe, false, true)
  else (a.code, a.holding, a.atSafe)

/-- What an output drives: a code, 0 V without its reference; none: high impedance (R438, R440, R446). -/
def amonPin (s : State) (a : Amon) : Option Nat :=
  if s.power.sleeping || !s.power.vddAon || a.source = 0 then none else some (amonNow s a).1

/-- `AMON_VREF_LOW` (R440). -/
def execAmonVrefLow (t : Ps) (mv : Nat) (s : State) : Res :=
  let s := { (s.adv t) with aux.vrefMv := mv }
  .next (if 450 ≤ mv then { s with aux.vrefLow := false }
    else if s.aux.vrefLow then s
    else raise { code := 0x0901, unit := 0x0148, a0 := mv } { s with aux.vrefLow := true })

/-! ### A result (R422-R437) -/

/-- A source as the mode in force has it (R438): off in DORMANT, and in SLEEP_WATCH unless its `CHMASK` holds a channel with
`WAKE_EN`. -/
def excNow (s : State) (i : Nat) : Exc :=
  let e := vget s.aux.exc i
  if s.power.sleeping && !(List.range 8).any (fun n => e.chmask.getLsbD n && converts s n) then { e with current := 0 } else e

/-- An open-circuit detection of channel `n` (R431): its pair out of range while burn-out flows, or a source that drives current and
names the channel in its `CHMASK` at its compliance limit (R428). -/
def detected (s : State) (n : Nat) (ball : Bool) (limit : BitVec 2) : Bool :=
  (ball && (aux s n).burnout ≠ 0)
    || (List.range 2).any (fun i =>
      let e := excNow s i
      limit.getLsbD i && e.current ≠ 0 && e.chmask.getLsbD n)

/-- Open-circuit state after a conversion period with a detection in it, at its end (R431, R432): the channel, and the result's
flags of bits 0-2. -/
def openStep (any atEnd : Bool) (c : AuxCh) : AuxCh × Nat :=
  if c.isOpen then
    if any then (c, 2) else ({ c with isOpen := false, openTold := false, suspect := false, unsettled := 4 }, 0)
  else if c.suspect && atEnd then ({ c with isOpen := true }, 2)
  else if any then ({ c with suspect := true }, 1)
  else ({ c with suspect := false }, 0)

/-- The charge-amplifier reset of R426 after a result: `CA_RESET` results still to come. -/
def caStep (r : Int) (c : AuxCh) : AuxCh :=
  let c := { c with caLeft := c.caLeft - 1 }
  if !c.charge then c
  else match c.caMode with
    | 1 => if c.resetPeriod ≤ c.sinceReset + 1 then { c with sinceReset := 0, caLeft := 3 }
           else { c with sinceReset := c.sinceReset + 1 }
    | 2 => if 9 * 8388608 ≤ 10 * r.natAbs then { c with caLeft := 3 } else c
    | _ => c

/-- A conversion of a channel: its result, and the channel after it. -/
def convert (s : State) (n : Nat) (raw : BitVec 24) (d : AuxDetect) (c : AuxCh) : AuxRes × AuxCh :=
  let held := c.refLeft ≠ 0
  let r : Int := if held then c.refHold else raw.toInt
  let (c, fo) := openStep (detected s n d.ballAny d.limitAny) (detected s n d.ballEnd d.limitEnd) c
  let un := c.unsettled ≠ 0 || held
  let ov := r = 8388607 || r = -8388608
  let f := fo + flags [false, false, un, ov, c.caLeft ≠ 0]
  let c := { c with unsettled := c.unsettled - 1 }
  let c := if held then { c with refLeft := c.refLeft - 1, unsettled := if c.refLeft = 1 then 3 else c.unsettled } else c
  ({ r := r, at_ := s.now, stamp := s.stamp s.now, flags := f, ch := n }, caStep r c)

/-- The wake count of R439: the channel, and whether the result completes it. -/
def wakeStep (s : State) (x : AuxRes) (c : AuxCh) : AuxCh × Bool :=
  if !(s.power.sleeping && s.power.mode = .sleepWatch && c.wakeEn) then ({ c with wakes := 0 }, false)
  else if (x.flags &&& 0x17) ≠ 0 then (c, false)
  else if x.r.natAbs < c.wakeLevel then ({ c with wakes := 0 }, false)
  else if c.wakes + 1 < c.wakeCount then ({ c with wakes := c.wakes + 1 }, false)
  else ({ c with wakes := 0 }, true)

/-- A result into the channel's buffer of 256 (R434). -/
def AuxCh.keep (x : AuxRes) (c : AuxCh) : AuxCh :=
  let full := 256 ≤ c.buf.length
  { c with buf := (if full then c.buf.drop 1 else c.buf) ++ [x], last := some x,
           dropped := if full then satInc c.dropped else c.dropped }

/-- Does a channel measure the coil of the accumulation in progress (R180)? -/
def measuresCoil (s : State) (n : Nat) : Bool := (s.ochre.coil.map (·.auxCh)) = some n

/-- The coil's thermometer (R437): a result for the accumulation in progress. None is in progress before the accumulation's first
launch (R159), nor while launches wait for thermal settling (R160). -/
def coilResult (x : AuxRes) (s : State) : State :=
  let a := s.ochre.acc
  if ochreWaiting s || (s.ochre.launched = 0 && s.ochre.skipped = 0 && a.done = 0) then s
  else if (x.flags &&& 7) = 0 then
    { s with ochre.acc := { a with tSum := a.tSum + x.r, tCount := a.tCount + 1, tBad := false, tOpen := false } }
  else if a.tCount = 0 then
    { s with ochre.acc := { a with tBad := true, tOpen := a.tOpen || tst x.flags 1 } }
  else s

/-- The aux contexts whose span this conversion completes (R205), and those of them that receive lines. -/
def auxContexts (s : State) (n : Nat) : List Nat :=
  if s.power.sleeping then []
  else (List.range 256).filter (fun k =>
    let c := ctx s k
    c.source = 3 && (c.live || !(groupOf s k).isEmpty) && c.first ≤ n && n < c.first + c.n && (match spanOdr s c with
      | some code =>
        let per := 1000000000000 / odrRate code
        (List.range c.n).all (fun i => match (aux s (c.first + i)).last with
          | some x => match c.lastLine with
            | some l => decide (l.at_ < x.at_)
            | none => decide (s.now < x.at_ + per)
          | none => false)
      | none => false))

/-- The line of an aux span (R250). -/
def auxLine (s : State) (c : Ctx) : SrcLine :=
  let xs := (List.range c.n).map (fun i => ((aux s (c.first + i)).last).getD { r := 0, at_ := 0, stamp := 0, flags := 0, ch := 0 })
  let fl := xs.foldl (fun a x => a ||| x.flags) 0
  { source := 3, at_ := s.now, dev := s.devNs s.now, slot := 0, base := c.first,
    desc := le4 (s.stamp s.now) ++ zeros 4 ++ le1 c.first ++ le1 c.n ++ zeros 2 ++ le2 fl ++ zeros 2,
    values := xs.map (·.r), flags := xs.map (fun _ => 0), nf := 0xFFFFFF, excTo := 0xFFFFFF, always := (fl &&& 7) ≠ 0,
    lineFlags := 0, tins := BitVec.ofNat 4 (Machine.flags s.alarm.level.toList) }

/-- The lines of the aux contexts; without launches each ends one of the conversion ends that a `REARM` begun before waits for
(R257). -/
def auxLines (n : Nat) (drops : List (Nat × Fin 4)) (s : State) : State :=
  let ks := auxContexts s n
  let waits := ks.filter (fun k => !s.light.running && (ctx s k).state = .rearm)
  waits.foldl (fun s k => tickRearm k s) (linesToContexts (ks.map (fun k => (k, auxLine s (ctx s k)))) drops s)

/-- The order of wake causes: `WAKE_N`, aux, timer (R541). -/
def wakeRank (c : Byte) : Nat := if c = 1 then 0 else if c = 3 then 1 else 2

/-- The period of the always-on real-time counter that an instant falls in, the cycle of R541 in sleep (R400, R603). -/
def rtcTick (s : State) (t : Ps) : Nat := s.devPs t * 32768 / 1000000000000

/-- A wake request (R541): in sleep it starts a wake, or meets one of its cycle; during entry it is held; otherwise it does
nothing. -/
def requestWake (c : Byte) (s : State) : State :=
  if s.power.sleeping then
    match s.power.waking with
    | none => { s with power.waking := some c, power.wakeAt := s.now, power.wakeOther := false }
    | some w =>
      if rtcTick s s.power.wakeAt = rtcTick s s.now && w ≠ c then
        { s with power.waking := some (if wakeRank c < wakeRank w then c else w), power.wakeOther := true }
      else s
  else if s.enteringSleep then { s with power.wakeReq := s.power.wakeReq ++ [c] }
  else s

/-- The wake result kept (R439): of requests in one cycle, which are taken in ascending channel order, that of the highest. -/
def keepWake (n : Nat) (r : Int) (s : State) : State :=
  let same := (s.aux.lastWakeAt.map (fun t => decide (rtcTick s t = rtcTick s s.now))).getD false
  if same && n < s.aux.lastWakeCh then s
  else { s with aux.lastWakeCh := n, aux.lastWake := r, aux.lastWakeAt := some s.now }

/-- `AUX_RESULT`: a conversion period of a channel ends. -/
def execAuxResult (t : Ps) (ch : Fin 8) (raw : BitVec 24) (det : AuxDetect) (ringDrop : List (Nat × Fin 4))
    (s : State) : Res :=
  let s := s.adv t
  let n := ch.val
  .next (if !converts s n then s
  else
    let (x, c) := convert s n raw det (aux s n)
    let (c, wakes) := wakeStep s x c
    let x := if wakes then { x with flags := x.flags + 32 } else x
    let fresh := tst x.flags 1 && !c.openTold
    let c := { (c.keep x) with openTold := c.openTold || fresh }
    let s := modAux n (fun _ => c) s
    let s := if fresh then raise { code := 0x0900, unit := 0x0140 + n, a0 := (x.r % 4294967296).toNat, a1 := x.flags } s else s
    let s := if wakes then requestWake 3 (keepWake n x.r s) else s
    let s := if measuresCoil s n && !s.power.sleeping then coilResult x s else s
    let s := amonFeed 3 n (fun _ => (x.r : Rat)) ((x.flags &&& 7) = 0) s
    auxLines n ringDrop s)

/-- `REF_RESISTOR_CHECK` (R436): four conversion periods on the on-die reference resistor. -/
def execRefResistorCheck (t : Ps) (s : State) : Res :=
  let s := s.adv t
  .next (if s.inMode [.warm, .acoustic, .survey, .full] then measureRef s else s)

/-- The filters of channels that a mode stopped restart when it returns them to conversion (R422, R438). -/
def auxWake (from_ : Mode) (s : State) : State :=
  restartFilters (fun n => (aux s n).enabled && (from_ = .dormant || !(aux s n).wakeEn)) s

/-! ### AUX_CFG (R444) -/

def auxCfgSpec : CmdSpec := { opcode := 0x80, target := .device, mirror := false, len := fixedLen 24 }

/-- The source a request sets. -/
def reqExc (p : List Byte) (i : Nat) : Exc :=
  { current := fld p (16 + 4 * i) 2, dest := fld p (18 + 4 * i) 1, chmask := by8 (fld p (19 + 4 * i) 1) }

/-- Do two sources share a destination (R427)? A source that is off has none. -/
def excShared (a b : Exc) : Bool := a.current ≠ 0 && b.current ≠ 0 && a.dest = b.dest

/-- Ranges and reserved values (R348, R425, R427, R430, R444); `used`: the action configures. `GAIN` is ignored in charge mode. -/
def auxBad (used : Bool) (p : List Byte) : Bool :=
  let charge := fld p 2 1 = 2
  let setExc := tst (fld p 11 1) 2
  !definedOr0 used (fld p 2 1) (inR (fld p 2 1) 1 2) || (!charge && 7 < fld p 3 1) || 12 < fld p 4 1 || 2 < fld p 5 1
    || 2 < fld p 6 1 || 2 < fld p 7 1 || (used && (fld p 8 2 = 0 || fld p 10 1 = 0)) || 7 < fld p 11 1
    || !definedOr0 used (fld p 12 4) (inR (fld p 12 4) 1 8388607)
    || (List.range 2).any (fun i => 200 < (reqExc p i).current || 17 < (reqExc p i).dest)
    || (used && ((fld p 7 1 ≠ 0 && charge) || (fld p 7 1 = 2 && 8 < fld p 4 1)
        || (setExc && excShared (reqExc p 0) (reqExc p 1))))

/-- Is the channel in the span of an armed aux context? -/
def auxArmed (s : State) (n : Nat) : Bool :=
  s.ctxs.toList.any (fun c => c.live && c.source = 3 && c.first ≤ n && n < c.first + c.n)

def auxReply (s : State) (n : Nat) : List Byte :=
  let c := aux s n
  let exc (i : Nat) : List Byte :=
    let e := vget s.aux.exc i
    le2 e.current ++ le1 e.dest ++ le1 e.chmask.toNat
  le1 n ++ (padTo 16 c.cfg).drop 1 ++ exc 0 ++ exc 1 ++ leInt 4 ((c.last.map (·.r)).getD 0)
    ++ le2 ((c.last.map (·.flags)).getD 0) ++ le1 (flags [claimed s n, s.ochre.coilDue.isSome]) ++ zeros 1

/-- A channel configured: the filter restarts; the sources follow with `SET_EXC`. -/
def auxConfigure (p : List Byte) (n : Nat) (s : State) : State :=
  let cfg := (p.take 11) ++ [by8 (fld p 11 1 % 2)] ++ (p.drop 12).take 4
  let now_ := tst (fld p 11 1) 1 && fld p 2 1 = 2
  let s := modAux n (fun c => { c with cfg := cfg, enabled := true, unsettled := 3, sinceReset := 0, wakes := 0,
                                       caLeft := if now_ then 3 else c.caLeft }) s
  if tst (fld p 11 1) 2 then setSource 1 (reqExc p 1) (setSource 0 (reqExc p 0) s) else s

def cmdAuxCfg (f : Fetched) (s : State) : Ans :=
  let p := f.payload
  let n := fld p 0 1
  let act := fld p 1 1
  let c := aux s n
  let changes := act = 2 && c.enabled || act = 1 && (fld p 2 1 ≠ fld c.cfg 2 1 || fld p 4 1 ≠ c.odr)
  let busy := (act = 1 || act = 2) && (claimed s n
    || (act = 1 && s.ochre.coilDue.isSome && tst (fld p 11 1) 2 && reqExc p 0 ≠ vget s.aux.exc 0))
  checked [(n ≤ 7 && auxArmed s n && changes, St.ctxArmed), (busy, St.busy),
      (7 < n || 2 < act || auxBad (act = 1) p, St.badParam)] s fun _ =>
    let s' := match act with
      | 1 => auxConfigure p n s
      | 2 => amonLatch (modAux n (fun c => { c with enabled := false, cfg := [by8 n, 2] ++ c.cfg.drop 2 }) s)
      | _ => s
    { status := St.ok, st := s', payload := auxReply s' n }

def execAuxCfg (r : Req) (s : State) : Res := .next (perform auxCfgSpec cmdAuxCfg r s)

/-! ### AUX_READ (R445) -/

def auxReadSpec : CmdSpec := { opcode := 0x81, target := .device, mirror := false, len := fixedLen 4 }

def auxEntry (x : AuxRes) : List Byte := leInt 4 x.r ++ le4 x.stamp ++ le2 x.flags ++ le1 x.ch ++ zeros 1

def cmdAuxRead (f : Fetched) (s : State) : Ans :=
  let p := f.payload
  let n := fld p 0 1
  let cnt := fld p 2 2
  checked [(!(n ≤ 7 || n = 0xFF) || fld p 1 1 ≠ 0 || 250 < cnt || (cnt ≠ 0 && 7 < n), St.badParam)] s fun _ =>
    let chs := if n = 0xFF then List.range 8 else [n]
    let got := if cnt = 0 then chs.filterMap (fun i => (aux s i).last) else (aux s n).buf.take cnt
    let drops := min (2 ^ 32 - 1) ((chs.map (fun i => (aux s i).dropped.toNat)).sum)
    { status := St.ok, st := if cnt = 0 then s else modAux n (fun c => { c with buf := c.buf.drop cnt }) s,
      payload := le1 n ++ zeros 1 ++ le2 got.length ++ le4 drops ++ le1 s.aux.lastWakeCh ++ zeros 3 ++ leInt 4 s.aux.lastWake
        ++ got.flatMap auxEntry }

def execAuxRead (r : Req) (s : State) : Res := .next (perform auxReadSpec cmdAuxRead r s)

/-! ### AMON_CFG (R446) -/

def amonCfgSpec : CmdSpec := { opcode := 0x82, target := .device, mirror := false, len := fixedLen 20 }

def amonBad (s : State) (p : List Byte) : Bool :=
  let src := fld p 1 1
  let ix := fld p 4 4
  1 < fld p 0 1 || (3 < src && src ≠ 0xFF) || 7 < fld p 2 1 || 16 < fld p 3 1 || fld p 18 2 ≠ 0 || 4095 < fld p 16 2
    || (src ≠ 0xFF && (sfld p 12 4 ≤ sfld p 8 4 || (tst (fld p 2 1) 1 && src ≠ 1)
    || (src = 1 && s.indigo.map.nDas ≤ ix) || (src = 2 && s.indigo.map.nDts ≤ ix) || (src = 3 && 7 < ix)))

def amonReply (s : State) (k : Nat) : List Byte :=
  let a := vget s.aux.amon k
  let v := amonNow s a
  le1 k ++ padTo 17 (a.next.getD a.cfg) ++ zeros 2 ++ le2 v.1 ++ le1 (flags [s.aux.vrefLow, v.2.1, v.2.2]) ++ zeros 1
    ++ le2 s.aux.vrefMv ++ zeros 2

def cmdAmonCfg (f : Fetched) (s : State) : Ans :=
  let p := f.payload
  let src := fld p 1 1
  checked [(src = 2 && !s.ochreFitted, St.notFitted), (amonBad s p, St.badParam)] s fun _ =>
    let k := fld p 0 1
    let cfg := (p.drop 1).take 17
    let s' := if src = 0xFF then s
      else if src = 0 then { s with aux.amon := vset s.aux.amon k { cfg := cfg } }
      else { s with aux.amon := vmod s.aux.amon k (fun a => { a with next := some cfg }) }
    { status := St.ok, st := s', payload := amonReply s' k }

def execAmonCfg (r : Req) (s : State) : Res := .next (perform amonCfgSpec cmdAmonCfg r s)

end Sys2Proof.Machine
end

