-- ==== Sys2Proof/Machine/RecordMemory.lean ====
section
/-! DEFINITION. Machine/RecordMemory.lean: the record memory: errors, training, loss and return of channels (R448-R478). -/

namespace Sys2Proof.Machine

open Sys2Proof

def mch (s : State) (c : Nat) : MemCh := vget s.mem.ch c
def modMem (c : Nat) (f : MemCh → MemCh) (s : State) : State := { s with mem.ch := vmod s.mem.ch c f }

/-- `LIVE_MASK`. -/
def liveMask (s : State) : Nat := flags (s.mem.ch.toList.map (·.live))
/-- `BUF_PEAK` (R461, R474): at most 64 KiB while the real-time load has stayed within the reservation. -/
def bufPeak (s : State) (c : Nat) : Nat :=
  (Config.reading (12 + c) s.freeIdx).toNat % (if (mch s c).overSeen then 262145 else 65537)
/-- `MEM_DEGRADED` (R467, R470, R472). -/
def memDegraded (s : State) : Bool := s.mem.ch.toList.any (fun c => !c.live)

/-! ### A firmware update cut short (R501) -/

/-- The slot that is not running marked valid or not valid. -/
def setOtherValid (v : Bool) (s : State) : State :=
  if s.mgmt.runningB then { s with mgmt.validA := v } else { s with mgmt.validB := v }

/-- A recovery or a channel disable ends an `FW_UPDATE` with a status (R501). -/
def abortFw (status : Nat) (s : State) : State :=
  match s.mgmt.update with
  | none => s
  | some (tag, _, img, readBack) =>
    let s := { s with mgmt.update := none }
    let s := if readBack || img.isNone then s else setOtherValid false s
    endLong 0xF2 (completion 0x0112 tag status 0 0 0 s)

/-! ### The memory re-formed (R454, R470, R472) -/

/-- A held record takes `LOST` and holds no blocks; one in capture is closed (R262, R470 step 2). -/
def loseRec (h : Nat) (s : State) : State :=
  match findRec h s with
  | none => s
  | some r =>
    let open_ := r.phase = .capture || r.phase = .measuring
    let s := modRec h (fun r => { r with lost := true, preBlocks := 0, postBlocks := 0,
                                         phase := if open_ then r.phase else .lost }) s
    if !open_ then s
    else
      let k := r.ctx
      let capturing := k < 256 && (ctx s k).state = .capture && (ctx s k).capture = some h && r.phase = .capture
      let s := completeRec h s
      let s := if k = 256 then { s with indigo.raw := none } else modCtx k (fun c => { c with cutDue := none }) s
      if capturing then beginRearm k s else s

/-- Ring and reserve of a recording context claimed again (R470 step 4); `chan`: the channel named if it is disarmed. -/
def reclaim (chan k : Nat) (s : State) : State :=
  let c := ctx s k
  match blocksFail s k c.rB with
  | some _ => raise { code := 0x0A04, unit := 0x0120 + chan, a0 := k } (stopNow k s)
  | none =>
    let s := modCtx k (fun c => { c with ringBlocks := c.rB }) s
    if (ctx s k).state = .armed then claimReserve k s else s

/-- Contents of the pool are gone; the pool is clipped to its maximum and rings are claimed again. -/
def reform (chan : Nat) (s : State) : State :=
  let s := (s.pool.recs.map Record.handle).foldl (fun s h => loseRec h s) s
  let s := { s with pool.pages := [], pool.blocks := min s.pool.blocks (poolMax s) }
  let s := { (abortFw St.abortedFault s) with mgmt.selfTestCut := s.mgmt.selfTest.isSome }
  let ks := ctxsWhere s (fun c => c.live && c.records)
  let s := ks.foldl (fun s k => modCtx k (fun c => { c with ring := [], s0 := c.lines, ringBlocks := 0, resBlocks := 0,
                                                            reserve := false }) s) s
  ks.foldl (fun s k => reclaim chan k s) s

/-- `MEM_CH_DISABLED` for a channel, and `MEM_ALL_DOWN` when none is left (R470, R471). -/
def tellDisabled (chs : List (Nat × Nat)) (s : State) : State :=
  let s := chs.foldl (fun s x => raise { code := 0x0A02, unit := 0x0120 + x.1, evidence := x.2 } s) s
  if nLive s = 0 then raise { code := 0x0A05, unit := 0x0120 + ((chs.getLast?.map (·.1)).getD 0) } s else s

/-- Live channels disabled, each with its reason (R470). -/
def disableChannels (chs : List (Nat × Nat)) (s : State) : State :=
  let chs := chs.filter (fun x => (mch s x.1).live)
  match chs with
  | [] => s
  | c :: _ =>
    let s := chs.foldl (fun s x => modMem x.1 (fun m => { m with live := false, reason := x.2, newSet := none }) s) s
    tellDisabled chs (reform c.1 s)

/-! ### Address mapping (R450, R452, R453) -/

/-- Where a memory address lies: channel, bank, row, offset in the row, and the channel burst index of R474. -/
structure MemPlace where
  chan   : Nat
  bank   : Nat
  row    : Nat
  offset : Nat
  burst  : Nat
deriving DecidableEq, Repr

/-- The live channels, ascending. -/
def liveChans (s : State) : List Nat := (List.range 4).filter (fun c => (mch s c).live)

/-- The bank of a row-frame (R453): bit i is Q[i] turned over by the bits of Q that `BANK_SEL[i]` selects. -/
def bankOf (s : State) (q : Nat) : Nat :=
  flags ((List.range 4).map (fun i => (q / 2 ^ i + popCount 21 (q &&& (vget s.mem.bankSel i).toNat)) % 2 = 1))

/-- The place of a memory address (R452); none past the usable memory (R450). -/
def memPlace (s : State) (m : Nat) : Option MemPlace :=
  let n := (liveChans s).length
  let f := m / 1792
  let q := f / n
  let off := m % 1792
  match (liveChans s)[f % n]? with
  | none => none
  | some c =>
    if n * 3758096384 ≤ m then none
    else some { chan := c, bank := bankOf s q, row := q / 16, offset := off, burst := q * 28 + off / 64 }

/-! ### Row policy (R455) -/

/-- The counter of a bank after an access: up on a hit, down on a miss, between 0 and 3; unchanged by the bank's first. -/
def predStep (row : Nat) (open_ : Option Nat) (n : Nat) : Nat :=
  match open_ with
  | some o => if o = row then min 3 (n + 1) else n - 1
  | none => n

/-- Is the row kept open after an access? Otherwise the access carries auto-precharge. -/
def keptOpen (m : MemCh) (bank : Nat) : Bool :=
  if m.policy = 0 then 2 ≤ vget m.preds bank else m.policy = 1

/-- An access to a place: the bank's counter moves, and its row is the last one used. -/
def touch (p : MemPlace) (s : State) : State :=
  modMem p.chan (fun m => { m with
    preds := vmod m.preds p.bank (predStep p.row (vget m.rows p.bank)), rows := vset m.rows p.bank (some p.row) }) s

/-! ### Errors (R463, R464) -/

/-- Does a memory address lie in the firmware area, the first 1 GiB (R450)? The rest is the record pool. -/
def inFirmware (m : Nat) : Bool := m < 1073741824

/-- `MEM_ECC_UNCORR`: a word at an offset in a frame (R452); `rec` is the record whose image lies there, if one does, and `word`
the 8-byte word of the image. A frame past the usable memory names no word, and the firmware area holds no record. -/
def execMemEccUncorr (t : Ps) (frame : Nat) (offset : Fin 1792) (reader : MemReader) (rec : Option Nat) (word : Nat)
    (s : State) : Res :=
  let s := s.adv t
  let addr := frame * 1792 + offset.val
  .next (match memPlace s addr with
  | none => s
  | some p =>
    let s := touch p s
    let c := p.chan
    let burst := p.burst
    let near := ((mch s c).uncorrAt.filter (fun x => s.now < x + 1000000000000))
    let s := modMem c (fun m => { m with eccUncorr := satInc m.eccUncorr, lastUncorr := BitVec.ofNat 32 burst,
                                         uncorrAt := near ++ [s.now] }) s
    let s := raise { code := 0x0A01, unit := 0x0120 + c, a0 := addr % 2 ^ 32, a1 := addr / 2 ^ 32 } s
    let s := match rec with
      | some h => if reader = .firmware || inFirmware addr then s else modRec h (fun r => { r with bad := word :: r.bad }) s
      | none => s
    if 15 ≤ near.length then disableChannels [(c, 6)] (modMem c (fun m => { m with uncorrAt := [] }) s) else s)

/-- `SCRUB_PASS`: single-bit errors corrected; the first of a channel in each second is reported. -/
def execScrubPass (t : Ps) (ch : Fin 4) (corrected : Nat) (s : State) : Res :=
  let s := s.adv t
  let c := ch.val
  .next (if corrected = 0 || !(mch s c).live || !s.inMode [.warm, .acoustic, .survey, .full, .calibrate] then s
  else
    let sec := s.devSec s.now
    let told := (mch s c).corrSec = some sec
    let s := modMem c (fun m => { m with eccCorr := satAdd m.eccCorr corrected, corrSec := some sec }) s
    if told then s
    else raise { code := 0x0A00, unit := 0x0120 + c, a0 := (Config.reading 20 s.freeIdx).toNat,
                 a1 := (Config.reading 21 s.freeIdx).toNat % 4 } s.took)

/-- `PHY_FAULT`: channels that fall in one cycle are handled as one disable. -/
def execPhyFault (t : Ps) (channels : BitVec 4) (s : State) : Res :=
  .next (disableChannels (((List.range 4).filter (fun c => channels.getLsbD c)).map (fun c => (c, 7))) (s.adv t))

/-- `RT_DROP_EPISODE_END` (R459). -/
def execRtDropEpisodeEnd (t : Ps) (s : State) : Res :=
  let s := s.adv t
  .next (if s.mem.dropAt.any (fun d => decide (d + 1000000000000 ≤ s.now)) then { s with mem.dropAt := none } else s)

/-! ### Refresh (R460, R468, R525) -/

/-- A passed set becomes active at the channel's next refresh. -/
def MemCh.takeSet (m : MemCh) : MemCh :=
  match m.newSet with
  | some (e, c, f) => { m with eyes := e, centres := c, tapFs := f, newSet := none }
  | none => m

/-- `REFRESH_DUE`: an idle bank is refreshed, and what was postponed is made up; for a busy one the refresh is postponed, by at
most eight, and a ninth brings them all (R460, R461; log 212). The die's temperature readout is taken with it. -/
def execRefreshDue (ch : Fin 4) (bank : Fin 16) (idle : Bool) (s : State) : Res :=
  let c := ch.val
  let m := mch s c
  .next (if !m.live || m.selfRefresh || s.power.sleeping then s
  else
    let td := (Config.reading 10 s.freeIdx).toInt % 32768
    let x := if 10500 < td then 2 else (Config.reading 11 s.freeIdx).toNat % 3
    let m := { m with tDram := td, refreshX := x }
    let p := m.postponed + 1
    if idle || 8 < p then
      send (.refresh c bank.val) (modMem c (fun _ => { m.takeSet with postponed := 0, refreshes := m.refreshes + p }) s.took)
    else modMem c (fun _ => { m with postponed := p, postponeMax := max m.postponeMax p }) s.took)

/-- `SELF_REFRESH_RETURN`: in STANDBY, 1 ms without a host access. -/
def execSelfRefreshReturn (ch : Fin 4) (s : State) : Res :=
  .next (if s.power.mode = .standby && (mch s ch.val).live then modMem ch.val (fun m => { m with selfRefresh := true }) s
    else s)

/-! ### Training (R466-R469, R472) -/

/-- The widest run of passing taps of a sweep, with the tap it begins at; the first of equals (log 185). -/
def widestRun : Nat → List Bool → Nat × Nat
  | _, [] => (0, 0)
  | at_, b :: rest =>
    let here := ((b :: rest).takeWhile id).length
    let r := widestRun (at_ + 1) rest
    if r.1 ≤ here then (here, at_) else r

/-- The eye of a delay and its centre tap, rounded down (R466). -/
def eyeOf (sweep : List Bool) : Nat := (widestRun 0 sweep).1
def centreOf (sweep : List Bool) : Nat :=
  let r := widestRun 0 sweep
  r.2 + (r.1 - 1) / 2

/-- The four sweeps of a channel; a delay not swept has no passing tap. -/
def sweepsOf (d : TrainIn) : List (List Bool) := (List.range 4).map (fun i => (d.sweeps[i]?).getD [])
def eyesOf (d : TrainIn) : List Nat := (sweepsOf d).map eyeOf
def centresOf (d : TrainIn) : List Nat := (sweepsOf d).map centreOf

/-- Why a channel fails (R466, R474): 0 it passes. -/
def trainReason (eyeMin : Nat) (d : TrainIn) : Nat :=
  if !d.finished then 5
  else match (eyesOf d).findIdx? (fun e => e < eyeMin) with
    | some i => i + 1
    | none => 0

/-- Start-up training (R467, R451): what each channel is when PD6 powers up. -/
def startTraining (ds : List TrainIn) (s : State) : State :=
  let s := (List.range 4).foldl (fun s c =>
    let d := (ds[c]?).getD { finished := false, sweeps := [], tapFs := 0 }
    let r := trainReason s.mem.eyeMin d
    let m : MemCh := { live := r = 0, trained := r = 0, reason := r, policy := (mch s c).policy, eyes := (eyesOf d),
                       centres := (centresOf d), tapFs := d.tapFs, trainSec := BitVec.ofNat 32 (s.devSec s.now) }
    modMem c (fun _ => m) s) s
  { s with pool.blocks := poolMax s, mem.train := none, mem.dropAt := none }

/-- The items of channels that failed at start-up, queued once STANDBY is reached. -/
def tellTraining (s : State) : State :=
  let bad := (List.range 4).filter (fun c => !(mch s c).live)
  match bad with
  | [] => endBound 0x0A02 (endBound 0x0A05 s)
  | _ => tellDisabled (bad.map (fun c => (c, (mch s c).reason))) s

/-- A `MEM_TRAIN` ends (R476). -/
def endTraining (x : Training) (aborted : Option Nat) (s : State) : State :=
  let st := match aborted with
    | some a => a
    | none => if x.degraded then St.degraded else if x.late then St.timeout else St.ok
  let s := { s with mem.train := none, mem.ch := s.mem.ch.map (fun m => { m with training := false }) }
  endLong 0x79 (completion 0x0110 x.tag st 0 (liveMask s) 0 s)

/-- The next channel of a `MEM_TRAIN`, or its end. -/
def nextTraining (x : Training) (s : State) : State :=
  match x.left with
  | [] => endTraining x none s
  | c :: _ => modMem c (fun m => { m with training := true }) { s with mem.train := some x }

/-- A disabled channel passes: it is live again and the memory re-forms (R472). -/
def returnChannel (c : Nat) (d : TrainIn) (s : State) : State :=
  let s := modMem c (fun m => { m with live := true, reason := 0, eyes := (eyesOf d), centres := (centresOf d), tapFs := d.tapFs }) s
  let s := endBound 0x0A05 (if memDegraded s then s else endBound 0x0A02 s)
  retryReserves (reform c s)

/-- `MEM_TRAIN_CHANNEL_DONE` (R468). -/
def execMemTrainChannelDone (t : Ps) (d : TrainIn) (s : State) : Res :=
  let s := s.adv t
  .next (match s.mem.train with
    | some x =>
      match x.left with
      | c :: rest =>
        let r := trainReason s.mem.eyeMin d
        let was := (mch s c).live
        let x := { x with left := rest }
        let sec := BitVec.ofNat 32 (s.devSec s.now)
        let s := modMem c (fun m => { m with training := false, trainSec := sec,
                                             trained := r = 0,
                                             drift := m.drift && r = 5 }) s
        if r = 0 then
          let s := if was then modMem c (fun m => { m with newSet := some ((eyesOf d), (centresOf d), d.tapFs) }) s
            else returnChannel c d s
          nextTraining x s
        else if was then
          if r = 5 then nextTraining { x with late := true } s
          else nextTraining { x with degraded := true } (disableChannels [(c, r)] { s with mem.train := some x })
        else nextTraining { x with degraded := true, late := x.late || r = 5 } (modMem c (fun m => { m with reason := r }) s)
      | [] => endTraining x none s
    | none => s)

/-- `MEM_TRAIN_REQ` (R469). -/
def execMemTrainReq (t : Ps) (ch : Fin 4) (s : State) : Res :=
  let s := s.adv t
  let m := mch s ch.val
  .next (if !m.live || m.drift then s
    else raise { code := 0x0A06, unit := 0x0120 + ch.val } (modMem ch.val (fun m => { m with drift := true }) s))

/-! ### MEM_STATUS (R475) -/

def memStatusSpec : CmdSpec := { opcode := 0x78, target := .device, mirror := false, len := fixedLen 4 }

def chState (m : MemCh) : Nat := if m.training then 1 else if m.live then 0 else 2

def chBytes (s : State) (c : Nat) : List Byte :=
  let m := mch s c
  le1 (chState m) ++ le1 m.reason ++ (List.range 4).flatMap (fun i => le1 ((m.eyes[i]?).getD 0)) ++ le2 m.tapFs
    ++ le4 m.eccCorr.toNat ++ le4 m.eccUncorr.toNat ++ le4 m.rtDrop.toNat
    ++ le4 (bufPeak s c)
    ++ le4 ((s.devSec s.now + 2 ^ 32 - m.trainSec.toNat) % 2 ^ 32) ++ leInt 2 m.tDram ++ le1 m.refreshX ++ zeros 1

def memStatusReply (s : State) : List Byte :=
  let n := nLive s
  le1 (liveMask s) ++ le1 n
    ++ le2 (flags [memDegraded s, s.mem.train.isSome, rtOver s, s.mem.ch.toList.any (·.drift)]) ++ le4 (n * 3584)
    ++ le4 (poolMax s) ++ le4 (rtReserve s / 1000) ++ le4 (min (2 ^ 32 - 1) (rtArmed s / 1000).floor.toNat) ++ zeros 4
    ++ (List.range 4).flatMap (chBytes s)

def cmdMemStatus (f : Fetched) (s : State) : Ans :=
  checked [(1 < fld f.payload 0 1 || fld f.payload 1 3 ≠ 0, St.badParam)] s fun _ =>
    let s' := s.took
    { status := St.ok, payload := memStatusReply s,
      st := if fld f.payload 0 1 = 1 then
          { s' with mem.ch := s'.mem.ch.map (fun m => { m with
              eccCorr := 0, eccUncorr := 0, rtDrop := 0, postponeMax := 0, overSeen := rtLoadOver s' }) }
        else s' }

def execMemStatus (r : Req) (s : State) : Res := .next (perform memStatusSpec cmdMemStatus r s)

/-! ### MEM_TRAIN (R476) -/

def memTrainSpec : CmdSpec := { opcode := 0x79, target := .device, mirror := false, len := fixedLen 4 }

/-- Is a context that records armed, or a raw capture running? -/
def recording (s : State) : Bool := s.ctxs.toList.any (fun c => c.live && c.records) || s.indigo.raw.isSome

def cmdMemTrain (f : Fetched) (s : State) : Ans :=
  let m := fld f.payload 0 1
  let e := fld f.payload 1 1
  let chs := (List.range 4).filter (tst m)
  checked [(!s.inMode [.warm, .acoustic, .survey, .full], St.wrongMode), (recording s, St.ctxArmed),
      -- R473 holds of MEM_TRAIN too (R476; DEDUCED, log 213)
      (s.longBusy 0x79 || s.longBusy 0xF1 || s.longBusy 0xF2 || (!s.pool.recs.isEmpty && chs.any (fun c => !(mch s c).live)), St.busy),
      (m = 0 || 15 < m || !(e = 0 || inR e 4 64) || fld f.payload 2 2 ≠ 0, St.badParam)] s fun _ =>
    let x : Training := { left := chs, tag := f.tag, began := s.now }
    { status := St.accepted, st := nextTraining x { s with mem.eyeMin := keepN 0 e s.mem.eyeMin } }

def execMemTrain (r : Req) (s : State) : Res := .next (perform memTrainSpec cmdMemTrain r s)

/-! ### MEM_MAP (R453, R455, R473, R477) -/

def memMapSpec : CmdSpec := { opcode := 0x7A, target := .device, mirror := false, len := fixedLen 24 }

/-- A mask over Q[20:4] with at most three bits set (R453). -/
def maskOk (v : Nat) : Bool := v % 16 = 0 && v < 2 ^ 21 && popCount 32 v ≤ 3

/-- A policy set; a change resets the channel's predictors (R455). -/
def setPolicy (c v : Nat) (s : State) : State :=
  modMem c (fun m => if m.policy = v then m else { m with policy := v, preds := Vector.replicate 16 2 }) s

def memMapReply (s : State) (act : Nat) : List Byte :=
  le1 act ++ zeros 3 ++ (List.range 4).flatMap (fun c => le1 (mch s c).policy)
    ++ s.mem.bankSel.toList.flatMap (fun b => le4 b.toNat)

def cmdMemMap (f : Fetched) (s : State) : Ans :=
  let p := f.payload
  let act := fld p 0 1
  checked [(act = 1 && s.power.mode ≠ .warm, St.wrongMode), (act = 1 && recording s, St.ctxArmed),
      (act = 1 && (!s.pool.recs.isEmpty || s.longBusy 0x79 || s.longBusy 0xF1 || s.longBusy 0xF2), St.busy),
      (2 < act || fld p 1 3 ≠ 0 || (List.range 4).any (fun c => 2 < fld p (4 + c) 1)
        || (List.range 4).any (fun i => fld p (8 + 4 * i) 4 % 16 ≠ 0 || 2 ^ 21 ≤ fld p (8 + 4 * i) 4)
        || (act = 1 && (List.range 4).any (fun i => !maskOk (fld p (8 + 4 * i) 4))), St.badParam)] s fun _ =>
    let pol (s : State) : State := (List.range 4).foldl (fun s c => setPolicy c (fld p (4 + c) 1) s) s
    let s' := match act with
      | 1 => { (pol s) with
          mem.bankSel := Vector.ofFn (fun i => BitVec.ofNat 32 (fld p (8 + 4 * i.val) 4)),
          mem.ch := (pol s).mem.ch.map (fun m => { m with preds := Vector.replicate 16 2 }) }
      | 2 => pol s
      | _ => s
    { status := St.ok, st := s', payload := memMapReply s' act }

def execMemMap (r : Req) (s : State) : Res := .next (perform memMapSpec cmdMemMap r s)

end Sys2Proof.Machine
end

