-- ==== Sys2Proof/Machine/TimeUnit.lean ====
section
/-! DEFINITION. Machine/TimeUnit.lean: the device timescale and its two PTP domains (R387-R400, R413-R416). -/

namespace Sys2Proof.Machine

open Sys2Proof

/-! ### The timescale -/

/-- The standing correction not yet slewed at an instant (R396). -/
def TimeState.slewLeft (x : TimeState) (t : Ps) : Rat := if x.hold then x.slew else x.toSlew - x.slewed t

/-- Is `SLEWING` shown? -/
def TimeState.slewing (x : TimeState) (t : Ps) : Bool := x.toSlew ≠ x.slewed t

/-- What has been slewed and what the rate has added becomes part of the offset, so that a new rate or correction can start
at `t`; device time at `t` does not move. -/
def rebase (t : Ps) (s : State) : State :=
  let x := s.time
  { s with time := { x with
      offset := s.devAt t - t, ref := t, slew := x.slewLeft t, slewRef := t,
      pull := if x.hold then x.toSlew - x.slewed t else 0 } }

/-- A frequency correction within the ±100 ppm and at the resolution of R394, in ps/s: rounded down to 10^-15 (log 40). -/
def adjustment (r : Rat) : Rat := ((max (-100000000) (min 100000000 r) * 1000).floor : Rat) / 1000

/-- A new frequency correction from `t` on. -/
def setRate (r : Rat) (t : Ps) (s : State) : State := { (rebase t s) with time.rate := adjustment r }

/-- UTC offset of the selected domain. -/
def utcOf (s : State) : Option U16 := s.time.selected.bind (fun d => (vget s.time.domains d).utc)

/-- An `EPOCH` item (R389); `stepped`: the item of a step, else that of second `sec`. -/
def epochItem (stepped : Bool) (sec nsec : Nat) (s : State) : State :=
  let x := s.time
  evtItem 0x08 (leBytes 6 sec ++ le2 (flags [stepped, x.slewing s.now, x.state = 3, x.ocxoWarm, (utcOf s).isSome])
    ++ le4 nsec ++ le2 ((utcOf s).getD 0).toNat ++ le1 (x.selected.getD 0xFF) ++ le1 x.state) s

/-- The timescale stepped by an offset (R392): `STEPPED` item and `TIME_STEP`. -/
def stepTime (d : Nat) (o : Rat) (s : State) : State :=
  let s := rebase s.now s
  let s := { s with time.offset := s.time.offset + o }
  let s := epochItem true (s.devSec s.now) (s.devSubNs s.now) s
  let ns := ((o / 1000).floor % 18446744073709551616).toNat
  raise { code := 0x0802, unit := 0x0130 + d, a0 := ns % 2 ^ 32, a1 := ns / 2 ^ 32 } s

/-! ### Domains (R394-R398) -/

namespace Domain
def port (d : Domain) : Nat := fld d.cfg 0 1
def l1 (d : Domain) : Bool := tst (fld d.cfg 3 1) 0
def logSync (d : Domain) : Int := sfld d.cfg 4 1
def kp (d : Domain) : Nat := fld d.cfg 7 1
def ki (d : Domain) : Nat := fld d.cfg 8 1
/-- `LOSS_TIMEOUT`, ps. -/
def lossTime (d : Domain) : Nat := fld d.cfg 10 2 * 1000000000000
/-- `OUTLIER`, ps. -/
def outlier (d : Domain) : Nat := fld d.cfg 12 2 * 1000
/-- `ASYM`, `BOARD_RX`, `BOARD_TX` (R393, R413), ps. -/
def asym (d : Domain) : Int := sfld d.cfg 14 4
def boardRx (d : Domain) : Nat := fld d.cfg 18 4
def boardTx (d : Domain) : Nat := fld d.cfg 22 4
/-- The corrections of R393 for the domain's port, ps. -/
def ingress (d : Domain) : Int := if d.port = 0 then -211648 else -211904
def egress (d : Domain) : Int := if d.port = 0 then 83328 else 83584
/-- The time its copy shows at an instant (R394), exactly and in whole ps. -/
def copyAt (d : Domain) (t : Ps) : Rat := t + d.cOff + ((t : Int) - d.cRef : Int) * d.cRate / 1000000000000
def copyPs (d : Domain) (t : Ps) : Int := (d.copyAt t).floor
/-- Its copy stepped by `o` at an instant, and at a new rate from there on. -/
def moveCopy (o r : Rat) (t : Ps) (d : Domain) : Domain :=
  { d with cOff := d.copyAt t - t + o, cRef := t, cRate := adjustment r }
/-- Is a message one of the domain (R391): its port, number and transport, and the configured address with `UNICAST`? -/
def hears (d : Domain) (m : PtpFrom) : Bool :=
  let n := if fld d.cfg 2 1 = 3 then 6 else 16
  m.port.val = d.port && m.number = fld d.cfg 1 1 && m.transport = fld d.cfg 2 1
    && (!tst (fld d.cfg 3 1) 1 || m.addr.take n = (d.cfg.drop 26).take n)
/-- `ANNOUNCE_TIMEOUT` intervals (R395), for a transmitter. -/
def annTime (d : Domain) (every : Ps) : Ps := fld d.cfg 6 1 * every
/-- The timestamps of a received and of a sent message: taken at the MAC, moved to the balls, the board delay added (R393). -/
def rxStamp (d : Domain) (t : Ps) : Int := d.copyPs t + d.ingress + d.boardRx
def txStamp (d : Domain) (t : Ps) : Int := d.copyPs t + d.egress + d.boardTx
/-- The offset of a pair, time transmitter minus copy, and its mean path delay, ps (IEEE 1588, log 184). -/
def pairOffset (d : Domain) (syncRx reqTx : Ps) (t1 t4 : Int) : Int :=
  ((t1 - d.rxStamp syncRx) + (t4 - d.txStamp reqTx)) / 2 + d.asym
def pairPath (d : Domain) (syncRx reqTx : Ps) (t1 t4 : Int) : Nat :=
  (((d.rxStamp syncRx - t1) + (t4 - d.txStamp reqTx)) / 2).toNat
/-- t_s: two to the power of `LOG_SYNC`, s. -/
def ts (d : Domain) : Rat := if 0 ≤ d.logSync then (2 ^ d.logSync.toNat : Nat) else 1 / ((2 ^ d.logSync.natAbs : Nat) : Rat)
end Domain

def domain (s : State) (d : Nat) : Domain := vget s.time.domains d
def setDomain (d : Nat) (x : Domain) (s : State) : State := { s with time.domains := vset s.time.domains d x }

/-- The servo of R394 on one accepted offset. -/
def servo (o : Int) (lineFreq : Int) (x : Domain) : Domain :=
  let f : Rat := if x.l1 then lineFreq else x.f + (o : Rat) / (2 ^ x.ki : Nat) / x.ts
  { x with f := f, r := (o : Rat) / (2 ^ x.kp : Nat) / x.ts + f, freq := f.floor, offset := o }

/-- What a domain's copy shows beyond device time now. -/
def aheadOf (d : Nat) (s : State) : Rat := (domain s d).copyAt s.now - s.devAt s.now

/-- A change of the selected domain (R396): how far its copy and device time differ becomes a standing correction. -/
def selectDomain (d : Nat) (s : State) : State :=
  let s := rebase s.now s
  let held := s.time.state = 3
  let s := { s with time := { s.time with selected := some d, slew := aheadOf d s, pull := 0, holdSince := none,
                                          state := if s.time.state = 0 || s.time.state = 4 then s.time.state else 2 } }
  let s := { s with time.rate := (domain s d).cRate }
  if held then endBound 0x0801 s else s

/-- The mean correction of the last 60 s of lock (R398). -/
def heldRate (s : State) : Rat :=
  let l := s.time.history.filter (fun x => s.now ≤ x.1 + 60000000000000)
  if l.isEmpty then s.time.rate else (l.map (·.2)).sum / l.length

/-- Holdover begins (R398). -/
def enterHoldover (d : Nat) (s : State) : State :=
  let s := setRate (heldRate s) s.now s
  raise { code := 0x0801, unit := 0x0130 + d } { s with time.state := 3, time.holdSince := some s.now }

/-- The selected domain is lost: the other takes over, or holdover begins (R396, R398). -/
def selectedLost (d : Nat) (s : State) : State :=
  if s.time.selected ≠ some d then s
  else if s.time.auto && (domain s (1 - d)).phase = 2 then selectDomain (1 - d) s
  else if s.time.state = 0 || s.time.state = 4 then { s with time.selected := none }
  else if s.time.state = 3 then s
  else enterHoldover d s

/-- A locked domain is lost (R395). -/
def loseDomain (d : Nat) (s : State) : State :=
  if (domain s d).phase = 2 then
    selectedLost d (raise { code := 0x0800, unit := 0x0130 + d }
      (setDomain d { domain s d with phase := 3, streak := 0, lockedAt := none } s))
  else s

/-- Does the mode allow steps after the first lock (R392)? -/
def stepMode (s : State) : Bool := s.inMode [.standby, .warm]

/-- The device timescale follows the copy of a domain at its rate. -/
def follow (d : Nat) (s : State) : State := setRate (domain s d).cRate s.now s

/-- An offset of the selected, locked domain acts on the timescale (R392, R394, R396). It moves the domain's copy; device time goes
there in a step, on the first lock and beyond `STEP_LIMIT` in the modes that allow it, else it is slewed. The rate is the servo's in
each case (log 211). -/
def steer (d : Nat) (o : Int) (s : State) : State :=
  let s := { s with time.history := (s.now, (domain s d).r) ::
    s.time.history.filter (fun x => s.now ≤ x.1 + 60000000000000) }
  let s := follow d (setDomain d ((domain s d).moveCopy o (domain s d).r s.now) s)
  if s.time.state = 0 || s.time.state = 4 then
    let s := { s with time.slew := 0, time.pull := 0 }
    { (stepTime d (aheadOf d s) s) with time.state := 2 }
  else if stepMode s && s.time.stepLimit ≠ 0 && s.time.stepLimit * 1000 < o.natAbs then stepTime d o s
  else if s.time.hold then { s with time.pull := s.time.pull + o, time.state := 2 }
  else { s with time.slew := s.time.slew + o, time.state := 2 }

/-- An accepted offset of a locked domain: it is selected where none is, and in holdover when it has just locked or `AUTO` lets
the device choose (R396, R398; log 26); a selected one that was restarted locks again (R413, log 189). -/
def lockedDomain (fresh : Bool) (d : Nat) (s : State) : State :=
  if s.time.selected.isNone || (s.time.state = 3 && (fresh || s.time.auto)) || (s.time.state = 1 && s.time.selected = some d) then
    selectDomain d s
  else s

/-- A Sync and Delay_Resp pair (R394, R395). -/
def ptpOffset (d : Nat) (o : Int) (path : Nat) (lineFreq : Int) (s : State) : State :=
  let x := domain s d
  if x.phase = 0 then s
  else if x.phase = 2 && x.outlier < o.natAbs then setDomain d { x with outliers := satInc x.outliers } s
  else
    let x := servo o lineFreq { x with path := path, lastPair := s.now }
    let x := x.moveCopy 0 x.r s.now
    let near := o.natAbs ≤ 10000
    let n := if near then x.streak + 1 else 0
    let was := x.phase
    let x := match x.phase with
      | 2 => x
      | _ => if 16 ≤ n then { x with phase := 2, streak := 0, lockedAt := some s.now } else { x with phase := 1, streak := n }
    let s := setDomain d x s
    let s := if x.phase = 2 then lockedDomain (was ≠ 2) d s else s
    if x.phase = 2 && s.time.selected = some d then steer d o s else s

/-- The offset of a pair in its domain's copy of the timescale (R393, R394). The first pair after the domain starts sets the
copy to its time transmitter, with no offset left (log 184). -/
def ptpPair (d : Nat) (syncRx reqTx : Ps) (t1 t4 lineFreq : Int) (s : State) : State :=
  let x := domain s d
  let o := x.pairOffset syncRx reqTx t1 t4
  let path := x.pairPath syncRx reqTx t1 t4
  if x.synced then ptpOffset d o path lineFreq s
  else ptpOffset d 0 path lineFreq (setDomain d { x.moveCopy o x.cRate s.now with synced := true } s)

/-- Lists of numbers in order, the first difference deciding. -/
def lexLt : List Nat → List Nat → Bool
  | x :: xs, y :: ys => x < y || (x = y && lexLt xs ys)
  | _, _ => false

/-- Is one time transmitter better than another (R391)? The rule names the algorithm of IEEE 1588, whose order this is: the quality
of the grandmasters, or of the paths to one grandmaster (PRESUMED, log 184). -/
def PtpMaster.better (a b : PtpMaster) : Bool :=
  let key (m : PtpMaster) : List Nat :=
    [m.data.priority1.toNat, m.data.clkClass.toNat, m.data.accuracy.toNat, m.data.variance.toNat, m.data.priority2.toNat,
     m.data.gm.toNat]
  if a.data.gm = b.data.gm then lexLt [a.data.steps.toNat, a.id.toNat] [b.data.steps.toNat, b.id.toNat] else lexLt (key a) (key b)

/-- An Announce: of the transmitters heard within their receipt timeout the best is the one the domain follows. -/
def takeAnnounce (src : PtpFrom) (a : PtpAnnounce) (now : Ps) (d : Domain) : Domain :=
  let m : PtpMaster := { id := src.id, data := a, at_ := now }
  let others := d.masters.filter (fun x => x.id ≠ src.id && now < x.at_ + d.annTime x.data.interval)
  let best := others.foldl (fun b x => if x.better b then x else b) m
  { d with masters := m :: others, sender := some best.id, gm := best.data.gm, steps := best.data.steps, utc := best.data.utc,
           lastAnn := best.at_, annEvery := best.data.interval }

/-- A pair of the domain's time transmitter: `t1` from the Sync, or with `twoStepFlag` from its Follow_Up, without which there is no
pair (R391). The Delay_Req is listed as sent with the pair it belongs to (log 184). -/
def takePair (d : Nat) (syncRx reqTx : Ps) (twoStep : Bool) (sync : Int) (followUp : Option Int) (t4 lineFreq : Int) (s : State) :
    State :=
  let s := setDomain d { domain s d with syncRx := (domain s d).syncRx + 1 } s
  match if twoStep then followUp else some sync with
  | some t1 => ptpPair d syncRx reqTx t1 t4 lineFreq (send (.delayReq (domain s d).port (fld (domain s d).cfg 1 1) reqTx) s)
  | none => s

/-- `PTP_MESSAGE` (R391, R394): PTP runs while PD1's Ethernet side does, not in sleep (R400). A Sync of a transmitter that is not the
best one seen is not accepted. -/
def execPtpMessage (t : Ps) (d : Fin 2) (m : PtpMsg) (s : State) : Res :=
  let s := s.adv t
  let x := domain s d.val
  let up := if x.port = 0 then s.link.eth0 else s.link.eth1
  .next (if s.pathDown || !up || x.phase = 0 then s
    else match m with
      | .announce src a => if x.hears src then setDomain d.val (takeAnnounce src a s.now x) s else s
      | .pair src rx tx two t1 fu t4 lf =>
        if x.hears src && x.sender = some src.id then takePair d.val rx tx two t1 fu t4 lf s else s)

/-- Is a domain's announce receipt timeout over (R395)? -/
def annLate (d : Nat) (s : State) : Bool := (domain s d).lastAnn + (domain s d).annTime (domain s d).annEvery ≤ s.now

/-- Has a domain accepted no offset for `LOSS_TIMEOUT` (R395)? -/
def offsetsLate (d : Nat) (s : State) : Bool := (domain s d).lastPair + (domain s d).lossTime ≤ s.now

/-- `ANNOUNCE_TIMEOUT` (R395). -/
def execAnnounceTimeout (t : Ps) (d : Fin 2) (s : State) : Res :=
  let s := s.adv t
  .next (if annLate d.val s then loseDomain d.val s else s)

/-- `LOSS_TIMEOUT` (R395): no offset accepted for `LOSS_TIMEOUT`. -/
def execLossTimeout (t : Ps) (d : Fin 2) (s : State) : Res :=
  let s := s.adv t
  .next (if offsetsLate d.val s then loseDomain d.val s else s)

/-- The return to domain 0 once it has been locked for 60 s (R396). -/
def revertDue (s : State) : State :=
  match (domain s 0).lockedAt with
  | some l =>
    if s.time.revert && s.time.selected = some 1 && (domain s 0).phase = 2 && l + 60000000000000 ≤ s.now then selectDomain 0 s
    else s
  | none => s

/-- `DOMAIN_REVERT` (R396). -/
def execDomainRevert (t : Ps) (s : State) : Res := .next (revertDue (s.adv t))

/-- The automatic changes due now (R395, R396). -/
def dueChanges (s : State) : State :=
  let lose (d : Nat) (s : State) : State := if annLate d s || offsetsLate d s then loseDomain d s else s
  revertDue (lose 1 (lose 0 s))

/-- `SLEW_DONE` (R396): the standing correction has been slewed to 0. -/
def execSlewDone (t : Ps) (s : State) : Res :=
  let s := s.adv t
  .next (if s.time.hold then s else rebase s.now s)

/-! ### OCXO (R399) -/

/-- `OCXO_WARM` rises when both conditions hold. -/
def ocxoCheck (s : State) : State :=
  if s.time.ocxoRdy && s.time.ocxoPresent && 30 ≤ s.time.ocxoStreak then { s with time.ocxoWarm := true } else s

/-- A 10 s average of the OCXO's fractional frequency, in parts in 10^12. -/
def execOcxoAverage (t : Ps) (freq : Int) (s : State) : Res :=
  let s := s.adv t
  let still := match s.time.ocxoLast with
    | some l => decide ((freq - l).natAbs < 2000)
    | none => false
  .next (ocxoCheck { s with time.ocxoLast := some freq, time.ocxoPresent := true,
                            time.ocxoStreak := if still then s.time.ocxoStreak + 1 else 0 })

def execOcxoRdyChange (t : Ps) (level : Bool) (s : State) : Res :=
  let s := s.adv t
  .next (if level then ocxoCheck { s with time.ocxoRdy := true }
    else { s with time.ocxoRdy := false, time.ocxoWarm := false })

/-- `OCXO_LOST`: `OCXO_IN` without signal for 10 us. -/
def execOcxoLost (t : Ps) (s : State) : Res :=
  let s := s.adv t
  .next (raise { code := 0x0803, unit := 0x0190 }
    { s with time.ocxoPresent := false, time.ocxoWarm := false, time.ocxoStreak := 0, time.ocxoLast := none })

/-- The signal returns: the condition of `OCXO_LOST` ends (R486). -/
def execOcxoSignalReturn (t : Ps) (s : State) : Res :=
  .next (endBound 0x0803 { (s.adv t) with time.ocxoPresent := true })

/-! ### Sleep (R400) -/

/-- Entry to sleep: PTP stops; device time goes on without the servo. -/
def timeSleep (s : State) : State :=
  let s := setRate 0 s.now s
  { s with time := { s.time with
      domains := s.time.domains.map (fun d => { d with phase := if d.phase = 0 then 0 else 1, streak := 0, lockedAt := none,
                                                                  synced := false }),
      selected := none, holdSince := none, slew := 0, pull := 0, history := [] } }

/-- Wake: `AON_COARSE`, device time as the always-on counter has it. -/
def timeWake (s : State) : State :=
  { s with time := { s.time with state := 4, offset := s.time.offset + coarse (s.devAt s.now) - s.devAt s.now } }

/-! ### PTP_CFG (R413) -/

def ptpCfgSpec : CmdSpec := { opcode := 0x60, target := .device, mirror := false, len := fixedLen 44 }

/-- Ranges and reserved values of R413 (R348); `used`: the action configures. -/
def ptpCfgBad (used : Bool) (p : List Byte) : Bool :=
  1 < fld p 2 1 || 127 < fld p 3 1 || !inRange (fld p 4 1) 1 3 || 3 < fld p 5 1 || sfld p 6 1 < -7 || 0 < sfld p 6 1
    || sfld p 7 1 < -7 || 4 < sfld p 7 1 || !inRange (fld p 8 1) 2 10 || 15 < fld p 9 1 || 15 < fld p 10 1 || fld p 11 1 ≠ 0
    || !inRange (fld p 12 2) 1 60 || !inRange (fld p 14 2) 10 10000 || 100000 < fld p 20 4 || 100000 < fld p 24 4
    || (!tst (fld p 5 1) 1 && (p.drop 28).any (· ≠ 0))
where
  inRange (v lo hi : Nat) : Bool := definedOr0 used v (lo ≤ v && v ≤ hi)

/-- A domain configured starts in state acquiring. The selected one, locked until now, stays selected while it acquires again, which
`TIME_STATE` shows (R413, R414; log 189). -/
def restartDomain (d : Nat) (cfg : List Byte) (s : State) : State :=
  let s := setDomain d { cfg := cfg, phase := 1, lastPair := s.now, lastAnn := s.now } s
  if s.time.selected = some d && s.time.state = 2 then { s with time.state := 1 } else s

/-- A domain that stops counts as lost when it is the selected one (R413). -/
def disableDomain (d : Nat) (s : State) : State :=
  selectedLost d (setDomain d { domain s d with phase := 0, streak := 0, lockedAt := none } s)

def cmdPtpCfg (f : Fetched) (s : State) : Ans :=
  let p := f.payload
  let d := fld p 0 1
  let act := fld p 1 1
  checked [(1 < d || 2 < act || ptpCfgBad (act = 1) p, St.badParam)] s fun _ =>
    let s' := match act with
      | 1 => restartDomain d (p.drop 2) s
      | 2 => disableDomain d s
      | _ => s
    { status := St.ok, st := s', payload := le1 d ++ le1 (if (domain s' d).phase = 0 then 2 else 1) ++ (domain s' d).cfg }

def execPtpCfg (r : Req) (s : State) : Res := .next (perform ptpCfgSpec cmdPtpCfg r s)

/-! ### PTP_STATUS, TIME_GET, DOMAIN_SELECT (R414-R416) -/

/-- The inter-domain offset, or 0x8000_0000 when either is not locked. -/
def interOffset (s : State) : List Byte :=
  if (domain s 0).phase = 2 && (domain s 1).phase = 2 then leInt 4 ((domain s 1).copyPs s.now - (domain s 0).copyPs s.now)
  else le4 0x80000000

/-- Bytes 0-19 of the `PTP_STATUS` reply. -/
def timeHead (s : State) : List Byte :=
  let x := s.time
  le1 x.state ++ le1 (x.selected.getD 0xFF)
    ++ le2 (flags [x.ocxoPresent, x.ocxoWarm, x.slewing s.now, x.hold, x.auto, x.revert, (utcOf s).isSome])
    ++ leInt 4 (x.slewLeft s.now).floor ++ interOffset s
    ++ le4 ((x.holdSince.map (fun t => (s.now - t) / 1000000000000)).getD 0) ++ le2 ((utcOf s).getD 0).toNat ++ zeros 2

def domainBytes (x : Domain) : List Byte :=
  le1 x.phase ++ le1 x.steps.toNat ++ zeros 2 ++ le8 x.gm.toNat ++ leInt 4 x.offset ++ le4 x.path ++ leInt 4 x.freq
    ++ le4 x.outliers.toNat ++ le4 x.syncRx.toNat

def ptpStatusSpec : CmdSpec := { opcode := 0x61, target := .device, mirror := false, len := fixedLen 0 }

def cmdPtpStatus (_ : Fetched) (s : State) : Ans :=
  { status := St.ok, st := s, payload := timeHead s ++ domainBytes (domain s 0) ++ domainBytes (domain s 1) }

def execPtpStatus (r : Req) (s : State) : Res := .next (perform ptpStatusSpec cmdPtpStatus r s)

/-- The fraction of the present nanosecond, in units of 2^-16 ns (R387). -/
def fracOf (s : State) : Nat := ((s.devAt s.now / 1000 - s.devNs s.now) * 65536).floor.toNat

def timeGetSpec : CmdSpec := { opcode := 0x62, target := .device, mirror := false, len := fixedLen 0 }

def cmdTimeGet (_ : Fetched) (s : State) : Ans :=
  { status := St.ok, st := s,
    payload := leBytes 6 (s.devSec s.now) ++ le2 (fracOf s) ++ le4 (s.devSubNs s.now)
      ++ le4 (s.stamp s.now) ++ le1 s.time.state ++ zeros 3 }

def execTimeGet (r : Req) (s : State) : Res := .next (perform timeGetSpec cmdTimeGet r s)

def domainSelectSpec : CmdSpec := { opcode := 0x63, target := .device, mirror := false, len := fixedLen 12 }

/-- An automatic change due in the same cycle comes first (R397). -/
def cmdDomainSelect (f : Fetched) (s : State) : Ans :=
  let s := dueChanges s
  let p := f.payload
  let d := fld p 0 1
  let fl := fld p 1 1
  let mk := fld p 2 1
  let sm := fld p 4 2
  let lim := fld p 8 4
  checked [(d ≤ 1 && (domain s d).phase ≠ 2, St.wrongMode),
      (!(d ≤ 1 || d = 0xFF) || 7 < fl || 7 < mk || fld p 3 1 ≠ 0 || 10000 < sm || fld p 6 2 ≠ 0, St.badParam)] s fun _ =>
    let pick (k : Nat) (old : Bool) : Bool := if tst mk k then tst fl k else old
    let s := rebase s.now s
    let s := { s with time := { s.time with
      auto := pick 0 s.time.auto, revert := pick 1 s.time.revert, hold := pick 2 s.time.hold,
      slewMax := if sm = 0 then s.time.slewMax else sm,
      stepLimit := if lim = 0xFFFFFFFF then s.time.stepLimit else lim } }
    let s := if d ≤ 1 && s.time.selected ≠ some d then selectDomain d s else s
    { status := St.ok, st := s, payload := timeHead s }

def execDomainSelect (r : Req) (s : State) : Res := .next (perform domainSelectSpec cmdDomainSelect r s)

end Sys2Proof.Machine
end

