-- ==== Sys2Proof/Machine/Modes.lean ====
section
/-! DEFINITION. Machine/Modes.lean: what leaving, entering and ending a mode does, retired channels (R75-R77), and the fatal
class (R488-R490, R525-R549). -/

namespace Sys2Proof.Machine

open Sys2Proof

/-! ### Launches stop (R56, R535) -/

/-- The last launch has been made: accepted changes apply, nothing is left to settle, re-arm windows end. A raw capture of taps 1 to
3 that still lacks lines waits on, `BUSY`, until launches come again: the spec says nothing of it outside STANDBY (DESIGN CHOICE,
log 100). -/
def stopLaunches (s : State) : State :=
  let port := s.light.port
  let s := tellHeld (s.light.changes.foldl (fun st c => applyNow c st) { s with light.changes := [] })
  let s := { s with light := { s.light with running := false, stopAt := none, segs := [], draining := false, level := -100,
                                            ramping := false },
                    ochre.level := -100, ochre.ramping := false, cmd.unsettled := [] }
  let s := if s.light.port ≠ port then { s with light.switching := some (s.light.port, s.now + 50000000000) } else s
  burstCheck (rearmStopped (settleFences 64 (amonLatch s)))

/-- The outputs' hold is over: every slot and the accumulation restart (R189 step 5). -/
def endHold (s : State) : State :=
  restartAcc (restartAllSlots { s with indigo.staleFrom := none, indigo.staleUntil := none })

/-- Ochre ends: the accumulation is discarded and no update is issued (R159). -/
def ochreStops (s : State) : State := { s with ochre.acc := {}, ochre.ready := none, ochre.launched := 0, ochre.skipped := 0 }

/-- A raw capture in progress discarded (R143). -/
def dropRaw (s : State) : State :=
  match s.indigo.raw with
  | some r => freeRec r.handle { s with indigo.raw := none }
  | none => s

/-- STANDBY: contexts disarmed and alarms quiet (R235), the lock released (R411), laser and pumps at 0 A, the TEC off, DRAM
in self-refresh (R525). -/
def toStandby (s : State) : State :=
  let s := if s.light.running then stopLaunches s else s
  let s := standbyContexts { s with power.mode := .standby }
  let s := ochreStops (dropRaw (releaseLock (setDrives .standby s)))
  { s with light.inflight := [], indigo.staleFrom := none, indigo.staleUntil := none, power.thermalCoarse := false,
           power.tecLimited := false, mem.ch := s.mem.ch.map (fun c => { c with selfRefresh := true }) }

/-! ### Sleep (R526-R528, R537) -/

/-- What the wake store holds of the present settings (R528). -/
def wakeStore (s : State) : WakeStore :=
  let i := s.indigo
  let p (x : Port) := (x.groupIndex, x.survey, x.aprRef)
  { plan := s.light.plan, cfg := s.light.cfg, port := s.light.port, trip := s.light.aprTrip, armed := s.light.aprArmed, ports := [p s.fibre.s1, p s.fibre.s2],
    indigo := [i.subbands, i.pol, bit i.pns, bit i.unwrap, bit i.bridge, bit i.spareCheck, i.fade, i.align, i.atten],
    ochre := s.ochre.cfg, coil := s.ochre.coilDue, map := i.map, policy := s.mem.ch.toList.map (·.policy),
    banks := s.mem.bankSel.toList, eyeMin := s.mem.eyeMin }

/-- The command path as sleep leaves it: queues, sources, key and waiting commands are gone; epoch, node and counters are
kept. -/
def CmdState.asleep (c : CmdState) : CmdState :=
  { epoch := c.epoch, recoveries := c.recoveries, node := c.node, authFail := c.authFail, udpDiscarded := c.udpDiscarded,
    cmdsDone := c.cmdsDone }

/-- The slots of R505 while the pair holds together. -/
def ownSlots (s : State) : Byte :=
  let aFull := if s.pair.role = 1 then s.runMode = .full else s.pair.partnerFull
  if s.pair.role = 1 then (if aFull then 0x8F else 0x0F) else if aFull then 0x70 else 0xF0

/-- The pair as sleep leaves it: the configuration is held in the always-on domain. -/
def pairSleep (s : State) : State :=
  let p := s.pair
  let n : PairState := { role := p.role, autoTake := p.autoTake, thruCheck := p.thruCheck, routeLen := p.routeLen,
                         partnerNode := p.partnerNode, takeovers := p.takeovers,
                         phase := if p.phase = .unconfigured then .unconfigured else .syncing }
  let s' := { s with pair := n }
  if n.phase = .unconfigured then s' else { s' with pair.owned := ownSlots s' }

/-- Ochre as sleep leaves it: settings, a retirement and calibration values are kept; results and sums are gone (R527, R528). -/
def OchreState.asleep (o : OchreState) (m : ZoneMap) : OchreState :=
  { cfg := o.cfg, coil := o.coilDue, retired := o.retired, floor := o.floor, coilGain := o.coilGain, coilOffset := o.coilOffset,
    zones := List.replicate m.nDts {} }

/-- Indigo as sleep leaves it: settings, map, retired lanes and calibration values are kept. -/
def IndigoState.asleep (i : IndigoState) (port : Nat) : IndigoState :=
  { subbands := i.subbands, pol := i.pol, pns := i.pns, unwrap := i.unwrap, bridge := i.bridge, spareCheck := i.spareCheck,
    fade := i.fade, align := i.align, atten := i.atten, laneOf := i.laneOf, spare := i.spare, laneRetired := i.laneRetired,
    tau := i.tau, map := i.map, zones := freshZones i.map port }

/-- Entry to SLEEP_WATCH or DORMANT: PD1-PD7 off. Nothing is queued, because the event queue is emptied (R339). -/
def toSleep (m : Mode) (s : State) : State :=
  let s := toStandby s
  let st := wakeStore s
  let s := pairSleep (timSleep (timeSleep (sleepCores (sleepContexts s))))
  amonLatch { s with
    power := { s.power with mode := m, sleptIn := m, sleeping := true, trans := none, duty := .none }
    cmd := s.cmd.asleep
    evq := {}
    fault.log := []
    mgmt.update := none
    mgmt.selfTest := none
    light := { s.light with powerNow := none, switching := none }
    ochre := s.ochre.asleep s.indigo.map
    indigo := s.indigo.asleep s.light.port
    stages := Vector.replicate 4 {}
    streams := Vector.replicate 258 {}
    pool := { gens := s.pool.gens }
    mem := { ch := s.mem.ch.map (fun c => { policy := c.policy, live := c.live, reason := c.reason }), bankSel := s.mem.bankSel,
             eyeMin := s.mem.eyeMin }
    cal.snap := none
    fibre.gambit := none
    link := { s.link with irqCause := 0, holdoff := 0, alarmSum := Vector.replicate 8 0, holdoffEnd := none, holdoffHit := false,
                          msixTable := [], msixPend := 0, pcieUp := false, eth0 := false, eth1 := false }
    store := some st }

/-- Entry to sleep is complete; a request held during it wakes the device at once (R541). -/
def endSleepEntry (m : Mode) (s : State) : State :=
  let held := s.power.wakeReq
  let s := toSleep m { s with power.wakeReq := [] }
  held.foldl (fun s c => requestWake c s) s

/-! ### A transition begins (R535, R536) -/

/-- The period of launches at an instant. -/
def tlAt (s : State) (x : Ps) : Nat :=
  match boundaryIn s.light.segs x with
  | some (g, _) => g.tl
  | none => s.light.plan.tl

/-- Launches end at the boundary of R56, or at once when none is due. -/
def leaveLaunches (x : Transition) (s : State) : State :=
  if waitsForEdge s then
    let s := stopLaunches s
    { s with power.trans := some { x with due := s.now } }
  else
    let e := s.light.stopAt.getD (boundFor s s.now).due
    { s with light.stopAt := some e, power.trans := some { x with due := e + tlAt s e } }

/-- Between measurement modes: the boundary of R56, or a drain when SURVEY is left or entered; an entry that R38 refuses changes no
launch. `switched`: a superseded transition had begun such a drain. -/
def changeLaunches (x : Transition) (switched : Bool) (s : State) : State :=
  let s := { s with light.stopAt := none }
  let m := s.power.mode
  let no : Transition := { x with due := s.now, fail := some St.badParam }
  let refused := entryRefused { projected s with power.trans := some x }
  if switched then
    let l := s.light.segs.getLast?
    { s with
      light.segs := s.light.segs.dropLast ++ (l.map (fun g => { g with tl := periodOf s (if refused then m else x.to_) })).toList
      power.trans := some (if refused then no else { x with due := (l.map (·.start)).getD s.now }) }
  else if m = x.to_ then { s with power.trans := some { x with due := s.now } }
  else if m = .survey || x.to_ = .survey then
    if refused then { s with power.trans := some no } else
    let again := m = .survey && s.lock.phase ≠ 0
    let s := if again then { s with lock := { s.lock with phase := 1, nEdges := 0, edges := [], since := s.now, pull := 0 } } else s
    let b := boundFor s s.now
    let segs := addSeg s.light.segs b.due (periodOf s x.to_) false again
    { s with light.segs := segs, power.trans := some { x with due := (segs.getLast?.map (·.start)).getD b.due } }
  else { s with power.trans := some { x with due := (boundFor s s.now).due } }

/-- From a mode without launches; the survey of R38 runs first where the port has none. -/
def startFresh (x : Transition) (old : Ps) (s : State) : State :=
  let sv := needsSurvey s x.to_ && s.fibre.gambit.isNone
  let s := { s with power.trans := some { x with due := max (s.now + lockEntry s x.to_) old, survey := sv } }
  let s := if sv then entrySurvey x.tag s else s
  if (x.to_ = .acoustic || x.to_ = .full) && s.lock.phase = 3 then reacquire s else s

/-- A transition begins, or takes over from the one under way, whose `FROM` it keeps (R536). -/
def beginTransition (to_ : Mode) (cause : Byte) (tag : U16) (mcFlags : Byte) (s : State) : State :=
  let old := s.power.trans
  let x : Transition := { from_ := (old.map (·.from_)).getD s.power.mode, to_ := to_, cause := cause, tag := tag, began := s.now,
                          mcFlags := mcFlags }
  let entry := (s.fibre.gambit.map (·.entry)).getD false
  let s := if entry then leaveSurvey s else s
  let switched := (old.map (fun o => o.to_.measures && ((o.to_ = .survey) != (s.power.mode = .survey)))).getD false
  if s.light.running then
    if to_.measures then changeLaunches x switched s else leaveLaunches x s
  else startFresh x ((old.map (·.due)).getD 0) s

/-! ### The fatal class (R488-R490) -/

/-- Step 1-3 of R488 on the launches, the laser and long commands. -/
def makeSafe (s : State) : State :=
  let s := if s.light.running then stopLaunches s else s
  let s := dropRun { s with light.locked := false }
  match s.fibre.gambit with
  | some g =>
    let s := match g.item, g.ports with
      | some (cause, status), p :: _ => fibreEnd cause p status g.tag.toNat s
      | _, ps => ps.foldl (fun s p => fibreEnd 0x01 p St.degraded g.tag.toNat s) s
    let s := { s with fibre.gambit := none }
    if g.entry then s else endLong 0x14 { s with cmd.cmdsDone := s.cmd.cmdsDone + 1 }
  | none => s

/-- Seconds of `LINGER_S`, in ps. -/
def lingerPs (s : State) : Ps := s.power.wake.lingerS * 1000000000000

/-- A fatal fault: its item, the latch, the safe steps and STANDBY. -/
def fatalSafe (o : FaultOcc) (perm : Bool) (s : State) : State :=
  let s := raise o s
  let s := { s with fault.latch := true, fault.permanent := s.fault.permanent || perm,
                    fault.fatalCode := some (s.fault.fatalCode.getD o.code) }
  if s.power.sleeping then s
  else
    let s := makeSafe s
    let s := if s.power.duty = .none then s else { s with power.duty := .linger (s.now + lingerPs s) }
    let mode := s.power.mode
    if s.enteringSleep then toStandby s
    else match s.power.trans with
      | some x =>
        modeItem x.from_ .standby 5 St.abortedFault 0 0 (toStandby { s with power.trans := none })
      | none => if mode = .standby then setDrives .standby s else modeItem mode .standby 5 St.ok 0 0 (toStandby s)

/-! ### A channel retired (R75-R77, R173) -/

/-- Ochre is retired with LDC6 (R173): in SURVEY, or on the way to it, the device enters WARM. -/
def retireOchre (s : State) : State :=
  let s := { s with ochre.retired := true }
  let to_ := (s.power.trans.map (·.to_)).getD s.power.mode
  if to_ = .survey && s.power.mode ≠ .calibrate then beginTransition .warm 7 0 0 s else s

/-- A channel retired by a short (`ev` 0) or a failed leakage test (`ev` 1), with the outcome of R77. -/
def retireDrive (n ev a0 : Nat) (s : State) : State :=
  let d := vget s.light.ldc n
  if d.retired then s
  else
    let a1 := (d.setpoint % 4294967296).toNat
    let d := { d with enabled := false, setpoint := 0, iAnode := 0, iReturn := 0, retired := true, short_ := d.short_ || ev = 0,
                      leakFail := d.leakFail || ev = 1 }
    let s := { s with light.ldc := vset s.light.ldc n d }
    let o (code : Nat) (spare noSpare : Bool) : FaultOcc :=
      { code := code, unit := 0x0180 + n, evidence := ev, a0 := a0, a1 := a1, retired := true, spare := spare, noSpare := noSpare }
    if inR n 3 5 then
      match (healthyPumps s).length with
      | 0 => fatalSafe (o 0x0203 false true) true s
      | 1 => newHeld (raise (o 0x0202 false true) s)
      | _ => newHeld (raise (o 0x0201 true false) s)
    else if n = 6 then retireOchre (raise (o 0x0204 false true) s)
    else fatalSafe (o 0x0200 false true) true s

/-- The largest of some currents. -/
def worstLeak (xs : List (Nat × Nat × Nat)) : Nat := (xs.map (fun x => x.2.2)).foldl max 0

/-- The currents beyond the limit of R75 that involve a channel. -/
def leaksOf (xs : List (Nat × Nat × Nat)) (n : Nat) : List (Nat × Nat × Nat) :=
  xs.filter (fun x => 10000 < x.2.2 && (x.1 = n || x.2.1 = n))

/-- The leakage test before WARM (R75): a current above 10 uA into a neighbour fails both channels, which are retired. -/
def leakageTest (xs : List (Nat × Nat × Nat)) (s : State) : State :=
  let s := { s.took with light.ldc := Vector.ofFn (fun i =>
    let d := vget s.light.ldc i.val
    { d with leakNa := worstLeak (xs.filter (fun x => x.1 = i.val)), leakFail := d.leakFail || !(leaksOf xs i.val).isEmpty }) }
  (List.range 8).foldl (fun s n =>
    if (leaksOf xs n).isEmpty then s else retireDrive n 1 (worstLeak (leaksOf xs n)) s) s

/-! ### A transition ends (R535, R538, R543, R544) -/

/-- The first launch of a plan entered under a lock that is held ready (R412): the latest marker edge, if it is one of those E_n with
n - 256 ≡ 1 (mod `DIVIDER`), plus `DELAY`. -/
def lockedStart (s : State) : Option Ps :=
  let l := s.lock
  match l.edges with
  | e :: _ => if (l.nEdges - 257) % l.divider = 1 % l.divider then some (e + l.delay) else none
  | [] => none

/-- Launches begin at the present instant, from -10.0 dBm (R62) or, under a trip or until a restore has its reference, at
`APR_LEVEL` (R87, R88). A lock puts them at its edge plus `DELAY` (R412). -/
def startLaunches (m : Mode) (s : State) : State :=
  let at_ := if s.lock.phase = 2 && m ≠ .survey then (lockedStart s).getD s.now else s.now
  let s := if s.lock.phase = 2 && m ≠ .survey then
      { s with lock.base := at_ - s.lock.delay, lock.baseN := s.lock.nEdges - 1, lock.owns := true,
               light.plan.tl := s.lock.divider * s.lock.pBar }
    else s
  let g : Seg := { drainFrom := at_, start := at_, count := s.light.launches, tl := periodOf s m }
  let lv : Int := if s.light.aprTrip || s.light.aprArmed then s.light.cfg.aprLevel else -100
  { s with light := { s.light with running := true, stopAt := none, segs := [g], draining := false, nextAt := at_, nextSlot := 0,
                                   level := lv, ramping := false },
           ochre.level := lv, indigo.psi := [] }

/-- A measurement mode in force. -/
def enterMeasure (x : Transition) (s : State) : State :=
  let cold := s.power.mode = .standby
  let s := if cold then { s with power.thermalCoarse := true, power.thermalSince := x.began } else s
  if x.cause = 6 then endHold { s with power.mode := x.to_ }
  else
    let was := s.power.mode
    let s := ochreStops { s with power.mode := x.to_, mem.ch := s.mem.ch.map (fun c => { c with selfRefresh := false }) }
    if s.light.running then
      let s := restartAcc (if was = .survey || x.to_ = .survey then restartAllSlots (if was = .survey then { s with indigo.psi := [] } else s)
        else { s with indigo.restart := s.indigo.restart ||| 0x80 })
      amonLatch (refreshDrives s)
    else newHeld (refreshDrives (restartAcc (restartAllSlots (startLaunches x.to_ s))))

/-- WARM in force, by a transition. -/
def enterWarm (s : State) : State :=
  ochreStops (setDrives .warm { s with power.mode := .warm, indigo.staleFrom := none, indigo.staleUntil := none,
                                       mem.ch := s.mem.ch.map (fun c => { c with selfRefresh := false }) })

/-- The automatic return a timer wake arms (R544). -/
def armDuty (failed : Bool) (s : State) : State :=
  let w := s.power.wake
  { s with power.duty := if failed then .linger (s.now + lingerPs s)
      else .dwell w.dwellUpd (if w.dwellUpd = 0 then s.now + w.dwellS * 1000000000000 else 0) }

/-- Start-up calibration after the first entry to WARM (R187): the steps in state `DESIGN`. -/
def startUpCal (s : State) : State :=
  let steps := (List.range 7).filter (fun k => (vget s.cal.steps k).st = 0)
  if s.power.startCalDone || s.power.mode ≠ .warm || s.power.trans.isSome then s
  else
    let s := { s with power.startCalDone := true }
    if steps.isEmpty then s else startRun steps 0 true s

/-- An entry to ACOUSTIC or FULL waits for a held lock: for its acquisition, then for its launch at an edge after the entry time
(R412). -/
def waitsForLock (x : Transition) (s : State) : Bool :=
  !s.light.running && (x.to_ = .acoustic || x.to_ = .full)
    && (s.lock.phase = 1 || (s.lock.phase = 2
      && !((lockedStart s).any (fun at_ => at_ ≤ s.now && x.due + s.lock.delay ≤ at_))))

/-- The end point of a transition is not reached. An entry that has failed ends where it stands (R38). -/
def notYet (x : Transition) (s : State) : Bool :=
  s.now < x.due || (x.fail.isNone &&
    (s.fibre.gambit.isSome || (s.light.running && !x.to_.measures) || s.light.segs.any (·.waits)
    || waitsForLock x s
    || (!s.light.running && x.to_.measures && s.light.switching.isSome)))

/-- A change between SURVEY and another measurement mode has failed after its drain: launches go on with the period of the mode in
force, which the device has not left (R38). -/
def keepPeriod (x : Transition) (s : State) : State :=
  let tl := periodOf (projected s) s.power.mode
  if s.light.running && ((x.to_ = .survey) != (s.power.mode = .survey)) && (s.light.segs.getLast?.map (·.tl)) ≠ some tl then
    { s with light.segs := addSeg s.light.segs (boundFor s s.now).due tl false false }
  else s

/-- `MODE_CHANGE`: the transition under way ends, short of its target where its entry fails (R38, R543). A held lock that has lost its
marker meanwhile is acquired anew first (R410, R412). -/
def endTransition (s : State) : State :=
  match s.power.trans with
  | none => s
  | some x =>
    if notYet x s then s
    else if x.fail.isNone && !s.light.running && s.lock.phase = 3 && (x.to_ = .acoustic || x.to_ = .full) then reacquire s
    else if x.to_.asleep then endSleepEntry x.to_ s
    else
      let fail := if x.fail.isSome then x.fail else if x.to_.measures && x.cause ≠ 6 && entryRefused s then some St.badParam else none
      let duty := x.cause = 2 && s.power.wake.duty
      let s := { s with power.trans := none }
      let s := if duty then armDuty fail.isSome s else s
      let s := match fail with
        | some _ => keepPeriod x s
        | none =>
          if x.to_ = .standby then toStandby s
          else flushPoints (if x.to_ = .warm then enterWarm s else enterMeasure x s)
      let fl := flags [s.power.thermalCoarse, x.survey, x.mcFlags.getLsbD 2, duty]
      let s := modeItem x.from_ s.power.mode x.cause.toNat (fail.getD St.ok) x.tag fl s
      if s.power.mode = .survey && s.ochre.retired then beginTransition .warm 7 0 0 s else startUpCal s

def execModeChange (t : Ps) (s : State) : Res := .next (endTransition (s.adv t))

/-! ### SET_MODE (R534-R537, R548, R549) -/

def setModeSpec : CmdSpec := { opcode := 0x03, target := .device, mirror := true, len := fixedLen 24 }

/-- Is a target SURVEY or FULL? -/
def ochreMode (m : Nat) : Bool := m = 5 || m = 6

/-- The pair forbids SURVEY, and on B FULL, unless the device is SOLO (R506). -/
def pairForbids (s : State) (m : Nat) : Bool :=
  s.inPair && s.pair.phase ≠ .solo && (m = 5 || (m = 6 && s.pair.role = 2))

/-- Fields of the wake configuration outside their ranges (R548). -/
def wakeBad (p : List Byte) : Bool :=
  let duty := tst (fld p 1 1) 1
  let per := fld p 8 4
  !(inR (fld p 2 1) 2 6 && inR (fld p 3 1) 2 6 && inR (fld p 4 1) 2 6) || fld p 5 3 ≠ 0 || 86400 < per
    || (per ≠ 0 && per ≤ fld p 12 4)
    || (duty && (1000 < fld p 16 2 || (fld p 16 2 = 0 && fld p 18 2 = 0) || 3600 < fld p 20 2
      || (fld p 16 2 ≠ 0 && !ochreMode (fld p 2 1))))

/-- The wake configuration of a request. -/
def newWake (p : List Byte) (w : WakeCfg) : WakeCfg :=
  let duty := tst (fld p 1 1) 1
  { timerMode := Mode.ofCode (fld p 2 1), wakeNMode := Mode.ofCode (fld p 3 1), auxMode := Mode.ofCode (fld p 4 1), duty := duty,
    period := fld p 8 4, offset := if fld p 8 4 = 0 then w.offset else fld p 12 4,
    dwellUpd := if duty then fld p 16 2 else w.dwellUpd, dwellS := if duty then fld p 18 2 else w.dwellS,
    lingerS := if duty then fld p 20 2 else w.lingerS }

/-- The latch, the laser, a retired Ochre or the pair forbids a target (R534 step 2). -/
def modeWrong (m : Nat) (s : State) : Bool :=
  (s.fault.latch && inR m 3 6) || (!s.light.locked && inR m 4 6) || (s.ochre.retired && m = 5) || pairForbids s m

/-- The settings break R51, R66, R155 or R158 for a target (R534 step 4; log 110). -/
def modeParam (m : Nat) (s : State) : Bool :=
  (m = 6 && s.light.plan.nSlots ≠ 8) || (inR m 4 6 && !s.light.cfg.closed && !s.inPair && anyBinMissing s)
    || (ochreMode m && !okOchre s (Mode.ofCode m))

/-- The next timer instant, in whole device seconds (R540). -/
def timerNext (s : State) : Nat :=
  let w := s.power.wake
  if w.period = 0 then 0xFFFFFFFF
  else
    let n := s.devSec s.now + 1
    (n + (w.offset + w.period - n % w.period) % w.period) % 2 ^ 32

/-- `EXPECT_MS` (R535, R549), from the state the command found and the transition it began. -/
def expectMs (b s : State) : Nat :=
  match s.power.trans with
  | none => 0
  | some x =>
    let wait := cdiv (x.due - s.now) 1000000000
    let stop := if b.power.mode = .standby then 0 else wait + 10
    if x.to_.asleep then stop + 100 + (if s.store = some (wakeStore s) then 0 else 6000)
    else if x.to_ = .standby then stop
    else if b.power.mode = .standby then
      if x.to_ = .warm then (if s.power.startCalDone then 19000 else 25000) else 245
    else if x.to_ = .warm || b.light.running then wait else 5

def cmdSetMode (f : Fetched) (s : State) : Ans :=
  let p := f.payload
  let m := fld p 0 1
  let set := tst (fld p 1 1) 0
  let to_ := Mode.ofCode m
  checked [
      (!s.ochreFitted && (ochreMode m || (set && [2, 3, 4].any (fun i => ochreMode (fld p i 1)))), St.notFitted),
      (modeWrong m s || (!s.power.xtalOk && m < 2), St.wrongMode),
      (s.calibrating, St.busy),
      (6 < m || 3 < fld p 1 1 || fld p 22 2 ≠ 0 || (set && wakeBad p), St.badParam),
      (m = 1 && !(s.aux.chans.toList.any (fun c => c.enabled && c.wakeEn)), St.badParam),
      (modeParam m (projected s), St.badParam)] s fun _ =>
    let b := s
    let s := { s with power.duty := .none, power.wake := if set then newWake p s.power.wake else s.power.wake }
    let same := to_ = s.power.mode && s.power.trans.isNone
    let s' := if same then s else beginTransition to_ 0 f.tag 0 s
    let warmed := (b.power.trans.map (fun x => x.to_ = .warm || x.to_.measures)).getD false
    let cold := b.power.mode = .standby && inR m 3 6 && !warmed
    { status := St.ok, st := s',
      payload := le1 b.power.mode.code ++ le1 (if same then 0xFF else m)
        ++ le1 (flags [!same && (s'.power.trans.map (·.survey)).getD false, !same && b.power.mode = .standby && to_.measures,
            s.power.wake.duty && s.power.wake.period ≠ 0])
        ++ le1 s.power.lastWake.toNat ++ le4 (if same then 0 else expectMs b s') ++ le4 (timerNext s)
        ++ le2 s.power.timerSkipped.toNat ++ zeros 2,
      after := if cold then fun st => refreshDrives (leakageTest (Config.leakTest st.freeIdx) st) else id }

def execSetMode (r : Req) (s : State) : Res := .next (perform setModeSpec cmdSetMode r s)

end Sys2Proof.Machine
end

