-- ==== Sys2Proof/Machine/Pair.lean ====
section
/-! DEFINITION. Machine/Pair.lean: the Castling pair (R503-R517, R521-R523) and what a launch-period boundary does for it. -/

namespace Sys2Proof.Machine

open Sys2Proof

/-! ### Figures -/

/-- A state code of R522. -/
def PairPhase.code : PairPhase → Nat
  | .unconfigured => 0 | .syncing => 1 | .paired => 2 | .solo => 3 | .yielded => 4 | .linkLost => 5

/-- Slots owned from now on: those gained restart (R114), and Ochre's accumulation with slot 7 in FULL (R153). -/
def setOwned (b : Byte) (s : State) : State :=
  let gained := b &&& ~~~s.pair.owned
  let s := { s with pair.owned := b, indigo.restart := s.indigo.restart ||| gained }
  -- a lane for each, no other slot's and not the spare's (R101)
  let s := if gained = 0 then s else settleLanes s
  if gained.getLsbD 7 && s.runMode = .full then restartAcc s else s

/-- `THRU_LEVEL` and `THRU_DELAY`: means over the last 256 windows (R508), rounded towards zero (log 117); none before a window
was measured. -/
def thruLevel (p : PairState) : Option Int :=
  if p.thruHist.isEmpty then none else some (Int.tdiv (p.thruHist.map (·.1)).sum p.thruHist.length)
def thruDelayOf (p : PairState) : Nat :=
  if p.thruHist.isEmpty then 0 else (p.thruHist.map (·.2)).sum / p.thruHist.length

/-- Is a window present (R508)? -/
def thruPresent (p : PairState) (power : Int) : Bool :=
  p.thruCheck && (match thruLevel p with | some l => decide (l - 1000 < power) | none => false)

/-- The current end of the selected port, cm. -/
def ownEnd (s : State) : Nat := endNow s s.light.port

/-- The partner's end in this device's frame (R515). -/
def partnerEndIn (s : State) : Nat :=
  match s.pair.partnerEnd with
  | some e => s.pair.routeLen - e
  | none => 0xFFFFFFFF

/-- The body of a `TAKEOVER` item (R517). -/
def takeoverBody (kind cause before after : Byte) (old new : U16) (first : U64) (s : State) : List Byte :=
  [kind, cause, before, after] ++ le2 old.toNat ++ le2 new.toNat ++ le8 first.toNat ++ le4 (ownEnd s) ++ le4 (partnerEndIn s)

/-- A `TAKEOVER` item outside a recovery. -/
def takeoverItem (kind cause before after : Byte) (s : State) : State :=
  evtItem 0x07 (takeoverBody kind cause before after s.cmd.epoch s.cmd.epoch (BitVec.allOnes 64) s) s

/-- A pair fault (R524). -/
def pairFault (code : Nat) (s : State) : State := raise { code := code, unit := 0x0150 } s

/-- The next boundaries: count of the first after now, if launches run. -/
def nextCount (s : State) : Option Nat :=
  if !s.light.running then none else (boundaryIn s.light.segs (s.now + 1)).map (fun g => g.1.countAt g.2)

/-- The slots go to a partner that is SOLO (R511, R513). A Castling takeover is a recovery of every device whose slot ownership
changes (R373); no item tells of it (DEDUCED, log 118). -/
def yieldTo (s : State) : State :=
  let s' := if s.pair.owned = 0 then s else startRecovery 3 0xFFFF [] s
  setOwned 0 (endBound 0x0C01 { s' with pair.phase := .yielded })

/-! ### Loss of the partner (R507-R510) -/

/-- The partner is declared lost: a Castling takeover begins, or the slots stay as they are (R509, R510). Heartbeats lost on
both lanes leave both lanes down (DEDUCED, log 214). -/
def declareLost (cause : Byte) (s : State) : State :=
  let s := if cause = 0 then { s with pair.lane0 := false, pair.lane1 := false } else s
  if s.pair.phase ≠ .paired && s.pair.phase ≠ .yielded then s
  else if !s.pair.autoTake then
    { s with pair.phase := .linkLost, pair.lossCause := cause, pair.partnerState := 0xFF }
  else
    let before := s.pair.owned
    let parts := (List.range 8).filter (fun k => !before.getLsbD k)
    let b1 := nextCount s
    let first := match b1 with | some n => n + 1 | none => s.light.launches
    let s := startRecovery 3 0xFFFF
      [.fault 0x0C00 0x0150 0 0 0 false, .takeover 1 cause before 0xFF (BitVec.ofNat 64 first)] s
    let s := { s with pair := { s.pair with phase := .solo, lossCause := cause, partnerState := 0xFF,
                                            takeovers := satInc s.pair.takeovers, castle := none } }
    match b1 with
    | some n => { s with pair.lossCount := some n, pair.tests := parts.map (fun k => { slot := k }) }
    | none => setOwned 0xFF s

/-- A takeover is withheld or stopped: the link alone failed (R509). -/
def withhold (s : State) : State :=
  let before := s.pair.owned
  let after := ownSlots s
  let s := setOwned after { s with pair := { s.pair with phase := .linkLost, tests := [], lossCount := none } }
  takeoverItem 4 s.pair.lossCause before after (pairFault 0x0C01 (endBound 0x0C00 s))

/-- A takeover on its slot: the survivor launches a partner slot whose test is complete and absent, from b2 on (R510). -/
def takeSlot (k count : Nat) (s : State) : State :=
  match s.pair.lossCount with
  | none => s
  | some n =>
    if count ≤ n then s
    else if s.pair.tests.any (fun t => t.slot = k && t.done && !t.present) then
      let left := s.pair.tests.filter (fun t => t.slot ≠ k)
      setOwned (s.pair.owned ||| BitVec.ofNat 8 (2 ^ k))
        { s with pair.tests := left, pair.lossCount := if left.isEmpty then none else some n }
    else s

def execPartnerLost (t : Ps) (s : State) : Res :=
  let s := s.adv t
  .next (if s.power.sleeping || s.now < s.pair.lastHb + 4000000 then s else declareLost 0 s)

/-! ### An agreed change of ownership (R513, R514) -/

/-- The change at boundary H: take (1), handback (2), overlap (3). -/
def castleAt (act : Byte) (mine : Bool) (count : Nat) (s : State) : State :=
  let before := s.pair.owned
  let first := BitVec.ofNat 64 count
  let s := { s with pair := { s.pair with castle := none, takeovers := satInc s.pair.takeovers } }
  if act = 1 then
    if mine then
      setOwned 0xFF (startRecovery 3 0xFFFF [.takeover 1 2 before 0xFF first] { s with pair.phase := .solo })
    else setOwned 0 (startRecovery 3 0xFFFF [.takeover 3 2 before 0 first] { s with pair.phase := .yielded })
  else
    let was := s.pair.phase
    let s := { s with pair.phase := .paired, pair.split := false, pair.thruLost := false, pair.thruHist := [], pair.absent := 0 }
    let own := ownSlots s
    let told : List FollowItem := if act = 3 then [.fault 0x0C05 0x0150 0 0 0 false] else []
    let cause : Byte := if act = 3 then 3 else 2
    let s := startRecovery 4 0xFFFF (told ++ [.takeover 2 cause before own first]) (endBound 0x0C00 s)
    if was = .yielded && (s.portOf s.light.port).survey.isNone then entrySurvey 0 { s with pair.deferSurvey := true }
    else setOwned own s

/-- What a launch-period boundary does for the pair, by the count it takes: an agreed change, the end of a deferred survey,
slot 7 as A's mode has it (R505, R506). -/
def pairBoundary (count : Nat) (s : State) : State :=
  let s := match s.pair.castle with
    | some (act, h, mine) => if h ≤ count then castleAt act mine count s else s
    | none => s
  if s.pair.phase ≠ .paired && s.pair.phase ≠ .linkLost then s
  else if s.pair.deferSurvey then
    if s.fibre.gambit.isSome || (s.portOf s.light.port).survey.isNone then s
    else setOwned (ownSlots s) { s with pair.deferSurvey := false }
  else if s.pair.owned = ownSlots s then s
  else setOwned (ownSlots s) s

/-! ### Through-light (R508, R509, R513) -/

/-- `THRU_WINDOW_END`: a window around a partner launch ends. -/
def thruWindow (slot : Nat) (power : Int) (delay : Nat) (s : State) : State :=
  let here := thruPresent s.pair power
  if s.pair.tests.any (fun t => t.slot = slot && !t.done) then
    let s := { s with pair.tests := s.pair.tests.map (fun t => if t.slot = slot then { t with done := true, present := here } else t) }
    if here then withhold s else s
  else if s.pair.phase = .solo && s.pair.split && here && s.pair.castle.isNone then
    match nextCount s with
    | some n => { s with pair.castle := some (3, n + 1, true) }
    | none => castleAt 3 true s.light.launches s
  else if s.pair.phase = .paired then
    let hist := ((power, delay) :: s.pair.thruHist).take 256
    if here then { s with pair.thruHist := hist, pair.absent := 0, pair.thruLost := false }
    else
      let n := s.pair.absent + 1
      let tell := 64 ≤ n && !s.pair.thruLost
      let s := { s with pair.thruHist := hist, pair.absent := n, pair.thruLost := s.pair.thruLost || 64 ≤ n }
      if tell then pairFault 0x0C04 s else s
  else s

def execThruWindowEnd (t : Ps) (slot : Fin 8) (power : Int) (delay : Nat) (s : State) : Res :=
  let s := s.adv t
  .next (if s.power.sleeping then s else thruWindow slot.val power delay s)

/-! ### Heartbeats (R507, R512) -/

/-- The count of the last launch of slot 0; 0 before the first (R50). -/
def lastCount (s : State) : Nat := s.light.launches - 1

/-- The heartbeat the device sends. -/
def heartbeatOf (s : State) : Heartbeat :=
  { role := s.pair.role, pairState := by8 s.pair.phase.code, epoch := s.cmd.epoch, slots := s.pair.owned,
    mode := by8 s.power.mode.code, held := s.light.held, currentEnd := ownEnd s, launchCount := BitVec.ofNat 64 (lastCount s),
    release := s.power.mode = .standby || s.power.mode.asleep }

def execHeartbeatTx (s : State) : Res :=
  .next (if s.inPair && !s.power.sleeping then send (.heartbeat (heartbeatOf s)) s else s)

/-- What a heartbeat changes: the partner's figures (a calibration run leaves it on its slots, R192); `RELEASE` declares it lost; in LINK_LOST the link re-forms; a partner that
is SOLO makes this device YIELDED. -/
def heartbeat (h : Heartbeat) (s : State) : State :=
  let gap := (s.now - s.pair.lastHb + 500000) / 1000000 - 1
  let s := { s with pair := { s.pair with
      lastHb := s.now, hbMissed := if s.pair.lastHb = 0 then s.pair.hbMissed else satAdd s.pair.hbMissed gap,
      partnerState := h.pairState, partnerHeld := h.held, partnerMode := h.mode, partnerEnd := some h.currentEnd,
      partnerFull := h.mode = 6 || (h.mode = 7 && s.pair.partnerFull), partnerEpoch := h.epoch,
      lane0 := s.pair.lane0 || !s.pair.lane1, lane1 := s.pair.lane1 || !s.pair.lane0 } }
  if h.release then declareLost 1 s
  else if h.pairState = 3 && (s.pair.phase = .paired || s.pair.phase = .linkLost) then
    yieldTo s
  else if s.pair.phase = .linkLost then endBound 0x0C01 { s with pair.phase := .paired }
  else s

def execHeartbeatRx (t : Ps) (h : Heartbeat) (s : State) : Res :=
  let s := s.adv t
  .next (if s.inPair && !s.power.sleeping then heartbeat h s else s)

/-- `PAIR_LANE_DOWN`: a lane without valid frames while the other delivers. -/
def execPairLaneDown (t : Ps) (lane : Fin 2) (s : State) : Res :=
  let s := s.adv t
  let up := if lane = 0 then s.pair.lane0 else s.pair.lane1
  .next (if s.inPair && up && !s.power.sleeping then
    pairFault 0x0C02 (if lane = 0 then { s with pair.lane0 := false } else { s with pair.lane1 := false }) else s)

/-! ### The link comes up (R504, R512, R513) -/

/-- The partner's plan adopted (R504); a new carrier leaves the laser unlocked (R47). -/
def adoptPlan (v : List Nat) (s : State) : State :=
  let g (i d : Nat) : Nat := (v[i]?).getD d
  let o := s.light.plan
  let n : Plan := { o with
    tl := g 0 (o.tl / 10000) * 10000, pulse := g 1 (if o.pulse then 2 else 1) = 2, chirpLen := g 2 o.chirpLen,
    pulseLen := g 3 o.pulseLen, chirpBw := g 4 o.chirpBw, taper := g 5 o.taper, dirMask := by8 (g 6 o.dirMask.toNat),
    carrier := g 7 o.carrier }
  let s' := { s with light.plan := n, light.locked := s.light.locked && n.carrier = o.carrier }
  if s.light.running && (n.tl ≠ o.tl || n.pulse ≠ o.pulse || n.probe ≠ o.probe) then
    { s' with light.segs := addSeg s.light.segs (boundFor s s.now).due n.tl false false }
  else s'

/-- Do the two ends disagree (R504)? -/
def conflict (h : PartnerHello) (s : State) : Bool :=
  h.role.toNat + s.pair.role.toNat ≠ 3 || h.node ≠ s.pair.partnerNode || h.expects ≠ s.cmd.node
    || 100 < (h.routeLen - s.pair.routeLen) + (s.pair.routeLen - h.routeLen)

/-- The pair forms, or this device yields to a partner that is SOLO. -/
def linkUp (h : PartnerHello) (s : State) : State :=
  let s := { s with pair := { s.pair with lane0 := true, lane1 := true, lastHb := s.now, partnerState := h.pairState } }
  if conflict h s then pairFault 0x0C03 { s with pair.aligned := false }
  else
    let s := { s with pair.aligned := true, pair.alignPs := h.align }
    if h.pairState = 3 then
      if s.pair.phase = .solo && s.pair.thruLost && h.thruLost then { s with pair.split := true }
      else yieldTo (adoptPlan h.plan s)
    else if s.pair.phase = .solo then s
    else
      let s := if s.pair.role = 2 then adoptPlan h.plan s else s
      let s := { s with pair := { s.pair with phase := .paired, thruHist := if s.pair.phase = .linkLost then s.pair.thruHist else [],
                                              absent := 0 } }
      let s := endBound 0x0C01 s
      if s.pair.owned = ownSlots s then s else setOwned (ownSlots s) s

def execPlinkUp (t : Ps) (h : PartnerHello) (s : State) : Res :=
  let s := s.adv t
  .next (if s.inPair && !s.power.sleeping then linkUp h s else s)

/-! ### PAIR_CFG (R503, R521) -/

def pairCfgSpec : CmdSpec := { opcode := 0x90, target := .device, mirror := false, len := fixedLen 12 }

def pairCfgReply (s : State) : List Byte :=
  let p := s.pair
  le1 (if s.inPair then 1 else 2) ++ le1 p.role.toNat ++ le1 (flags [p.autoTake, p.thruCheck]) ++ zeros 1 ++ le4 p.routeLen
    ++ le2 p.partnerNode.toNat ++ zeros 2

/-- The state after a configuration: eight slots, closed loop. -/
def configurePair (p : List Byte) (s : State) : State :=
  let n : PairState := { role := BitVec.ofNat 2 (fld p 1 1), autoTake := tst (fld p 2 1) 0, thruCheck := tst (fld p 2 1) 1,
                         routeLen := fld p 4 4, partnerNode := BitVec.ofNat 14 (fld p 8 2), phase := .syncing,
                         takeovers := s.pair.takeovers }
  let s' := { s with pair := n, light.plan.nSlots := 8, light.cfg.closed := true }
  { s' with pair.owned := ownSlots s' }

def cmdPairCfg (f : Fetched) (s : State) : Ans :=
  let p := f.payload
  let act := fld p 0 1
  checked [(!s.pairFitted, St.notFitted),
      ((act = 1 || act = 2) && !s.inMode [.standby, .warm], St.wrongMode),
      (2 < act || fld p 3 1 ≠ 0 || fld p 10 2 ≠ 0 || !definedOr0 (act = 1) (fld p 1 1) (inR (fld p 1 1) 1 2) || 3 < fld p 2 1
        || !definedOr0 (act = 1) (fld p 4 4) (inR (fld p 4 4) 100000 10000000) || 16383 < fld p 8 2, St.badParam),
      (act = 1 && !planRules s s (configurePair p s), St.badParam)] s fun _ =>
    let s' := match act with
      | 1 => configurePair p s
      | 2 => { s with pair := { takeovers := s.pair.takeovers } }
      | _ => s
    { status := St.ok, st := s', payload := pairCfgReply s' }

def execPairCfg (r : Req) (s : State) : Res := .next (perform pairCfgSpec cmdPairCfg r s)

/-! ### PAIR_STATUS (R522) -/

def pairStatusSpec : CmdSpec := { opcode := 0x91, target := .device, mirror := false, len := fixedLen 0 }

def pairStatusReply (s : State) : List Byte :=
  let p := s.pair
  le1 p.phase.code ++ le1 p.partnerState.toNat ++ le1 p.owned.toNat
    ++ le1 (flags [p.thruLost, p.split, p.lane0, p.lane1, p.aligned]) ++ leInt 2 s.light.held ++ leInt 2 p.partnerHeld
    ++ leInt 4 p.alignPs ++ le4 (ownEnd s) ++ le4 (partnerEndIn s) ++ le4 (thruDelayOf p) ++ leInt 2 ((thruLevel p).getD 0)
    ++ le2 p.partnerEpoch.toNat ++ le4 p.hbMissed.toNat ++ le4 p.takeovers.toNat

def cmdPairStatus (_ : Fetched) (s : State) : Ans :=
  checked [(!s.pairFitted, St.notFitted)] s fun _ => { status := St.ok, st := s, payload := pairStatusReply s }

def execPairStatus (r : Req) (s : State) : Res := .next (perform pairStatusSpec cmdPairStatus r s)

/-! ### CASTLE (R514, R523) -/

def castleSpec : CmdSpec := { opcode := 0x92, target := .device, mirror := false, len := fixedLen 4 }

/-- Does the pair's state allow an action (R514)? -/
def castleAllowed (act : Nat) (s : State) : Bool :=
  match act with
  | 1 => s.pair.phase = .paired
  | 2 => (s.pair.phase = .solo && s.pair.partnerState = 4 && (s.pair.partnerMode = 4 || s.pair.partnerMode = 6))
      || (s.pair.phase = .yielded && s.inMode [.acoustic, .full] && s.light.locked)
  | _ => true

def cmdCastle (f : Fetched) (s : State) : Ans :=
  let act := fld f.payload 0 1
  let mine := f.src ≠ .partner
  checked [(!s.pairFitted, St.notFitted), (!castleAllowed act s, St.wrongMode),
      (s.pair.castle.isSome || !s.pair.tests.isEmpty || s.pair.deferSurvey, St.busy),
      (!(inR act 1 2) || fld f.payload 1 3 ≠ 0, St.badParam)] s fun _ =>
    let h := (nextCount s).map (· + 1)
    let count := h.getD s.light.launches
    let after : PairPhase := if act = 2 then .paired else if mine then .solo else .yielded
    let s' := if mine then send (.castle (by8 act) count) s else s
    { status := St.ok, payload := le8 count ++ le1 after.code ++ zeros 3,
      st := if h.isSome then { s' with pair.castle := some (by8 act, count, mine) } else s',
      after := if h.isSome then id else castleAt (by8 act) mine count }

def execCastle (r : Req) (s : State) : Res := .next (perform castleSpec cmdCastle r s)

end Sys2Proof.Machine
end

