-- ==== Sys2Proof/Machine/Recover.lean ====
section
/-! DEFINITION. Machine/Recover.lean: steps 2 to 6 of a recovery (R374-R377, R487, R491, R492, R602). -/

namespace Sys2Proof.Machine

open Sys2Proof

/-- The abort status of a cause (R377). -/
def abortStatus (cause : Byte) : Nat := if inR cause.toNat 2 4 then St.abortedTakeover else St.abortedFault

/-! ### Abort replies (step 3) -/

/-- A short command answered with a status it did not reach by executing. -/
def endShort (status : Nat) (f : Fetched) (s : State) : State :=
  answer f (mkReply f status [] (replyFlags f false false false) (if f.has flMirror then 0xFE else 0)) true s

/-- The request of an unfetched entry, from its header in host memory. -/
def headerReq (q : Fin 2) (h : Option EntryHdr) (epoch : U16) (s : State) : Fetched :=
  match h with
  | some h => { src := .pcie q, opcode := h.opcode, tag := h.tag, seq := h.seq, flags := h.flags, target := 0, rsv := 0, reply := 0,
                payload := [], failed := none, epoch := epoch, uncached := true }
  | none => { lostEntry (.pcie q) s with failed := none, epoch := epoch }

/-- `n` unfetched entries of a queue completed with a status, in ring order; an entry whose header passed sets the number
the next is compared with. -/
def endUnfetched (q : Fin 2) (status : Nat) (abort : Bool) (epoch : U16) : Nat → List EntryHdr → State → State
  | 0, _, s => s
  | n + 1, es, s =>
    let f := headerReq q es.head? epoch s
    let s := if es.isEmpty then s.took else s
    let s := setQ q.val (nextHead { getQ q.val s with lastSeq := some f.seq }) s
    let r := mkReply f status [] (replyFlags f false false false) (if f.has flMirror then 0xFE else 0)
    endUnfetched q status abort epoch n es.tail (answer f r abort s)

/-- A mirrored command that took effect gets its own reply; the partner has not answered. -/
def endMirror (s : State) : State :=
  match s.cmd.mirror with
  | none => s
  | some m =>
    let s := answer m.req { m.reply with partner := by8 St.timeout } false { s with cmd.mirror := none }
    if m.reply.status.toNat = St.accepted then { s with cmd.cmdsDone := s.cmd.cmdsDone - 1 } else s

/-- The commands of a source that have been received and are unanswered, in sequence order. -/
def unansweredOf (src : Source) (s : State) : List Fetched :=
  ((s.cmd.fences.filter (fun w => w.req.src = src)).map (·.req)) ++ ((s.cmd.held.filter (fun h => h.req.src = src)).map (·.req))
    ++ s.cmd.fetched.filter (fun f => f.src = src)

/-- Abort replies for a list of commands. -/
def endAll (status : Nat) (l : List Fetched) (s : State) : State :=
  l.foldl (fun s f => endShort status f s)
    { s with cmd := { s.cmd with
        fences := s.cmd.fences.filter (fun w => !l.any (fun f => f.src = w.req.src ∧ f.seq = w.req.seq)),
        held := s.cmd.held.filter (fun h => !l.any (fun f => f.src = h.req.src ∧ f.seq = h.req.seq)) } }

/-- A PCIe queue at step 3: everything up to the latched tail. -/
def abortPcie (q : Fin 2) (status : Nat) (epoch : U16) (es : List EntryHdr) (s : State) : State × Nat :=
  let l := unansweredOf (.pcie q) s
  let s := endAll status l s
  let x := getQ q.val s
  let n := (x.latched + x.size - x.sqHead) % x.size
  (endUnfetched q status true epoch n es s, l.length + n)

/-- A UDP queue at step 3: held requests included; E passes every number aborted (R376). -/
def abortUdp (id : Nat) (urgent : Bool) (status : Nat) (s : State) : State × Nat :=
  let src := Source.udp id urgent
  let q := udpQ id urgent s
  let waiting := heldInOrder id urgent s
  let e := q.expect.getD 0
  let top := (waiting.map (fun f => (f.seq - e).toNat + 1)).foldl max 0
  let l := unansweredOf src s ++ waiting
  let s := modUdp id urgent (fun q => { q with held := [], expect := q.expect.map (· + BitVec.ofNat 32 top) }) s
  (endAll status l s, l.length)

/-- Two steps that each count what they aborted. -/
def tally (f : State → State × Nat) (x : State × Nat) : State × Nat := ((f x.1).1, x.2 + (f x.1).2)

/-- Every short command received before step 1 and not answered: PCIe queues, UDP queues, the partner's. A mirrored request that
came after step 1 waits for the end (R376). -/
def abortShort (status : Nat) (epoch : U16) (e0 e1 : List EntryHdr) (s : State) : State × Nat :=
  let x := tally (abortPcie 1 status epoch e1) (tally (abortPcie 0 status epoch e0) (endMirror s, 0))
  let x := x.1.cmd.sources.foldl (fun x u => tally (abortUdp u.id false status) (tally (abortUdp u.id true status) x)) x
  let rest := x.1.cmd.fetched.filter (fun f => f.epoch = epoch) ++ x.1.cmd.held.map (·.req) ++ x.1.cmd.fences.map (·.req)
  (endAll status rest x.1, x.2 + rest.length)

/-! ### Long commands (R194, R374, R501) -/

/-- The tag and the ports a recovery takes from a `GAMBIT_RUN`: a port whose survey is stored has been surveyed, though its item is
not queued (R35 step 5). -/
def gambitLost (s : State) : Nat × Nat :=
  match s.fibre.gambit with
  | some g =>
    let left := if g.item.isSome then g.ports.drop 1 else g.ports
    if g.entry then (0, 0) else (g.tag.toNat, (left.map (fun p => 2 ^ (p - 1))).sum)
  | none => (0, 0)

/-- A survey ended by a recovery (R38, R376): it stores nothing; a mode entry that ran it ends there, and one that waited for a
`GAMBIT_RUN` goes on. The switch goes back to the port selected, which R376 does not say (DESIGN CHOICE, log 192). -/
def abortSurvey (status : Nat) (s : State) : State :=
  match s.fibre.gambit with
  | none => s
  | some g =>
    let s := leaveSurvey s
    if g.entry then
      endTransition { s with power.trans := s.power.trans.map (fun t => { t with fail := some status, due := 0 }) }
    else runOver (moveSwitch g.on g.back s)

/-- `MEM_TRAIN` and `SELF_TEST` ended by a recovery. -/
def abortTests (status : Nat) (s : State) : State :=
  let s := match s.mem.train with
    | some x => endTraining x (some status) s
    | none => s
  match s.mgmt.selfTest with
  | some (tag, tests) =>
    endLong 0xF1 (completion 0x0111 tag status tests.toNat 0 0 { s with mgmt.selfTest := none, mgmt.selfTestCut := false })
  | none => s

/-- The long commands: their completion items under the old epoch. -/
def abortLongs (status : Nat) (epoch : U16) (s : State) : State :=
  abortTests status (abortFw status (abortSurvey status (abortRun status epoch s)))

/-! ### Discards and the items (steps 4 and 5) -/

/-- What the owning chapters discard (R375). -/
def discards (s : State) : State :=
  { (recoverStages (recoverStreams (dropRaw (recoverCores (recoverContexts s))))) with cal.snap := none }

/-- The body of `RECOVERED` (R377). -/
def recoveredBody (r : RecoveryRec) (new : U16) (aborted : Nat) (g : Nat × Nat) : List Byte :=
  le1 r.cause.toNat ++ le1 (abortStatus r.cause) ++ le2 r.unit.toNat ++ le2 r.oldEpoch.toNat ++ le2 new.toNat ++ le4 aborted
    ++ le2 g.1 ++ le1 g.2 ++ zeros 1

/-- The fault of an item that follows `RECOVERED`. -/
def FollowItem.unitOf : FollowItem → Nat
  | .fault _ u _ _ _ _ => u
  | .takeover _ _ _ _ _ => 0

def FollowItem.isFault : FollowItem → Bool
  | .fault _ _ _ _ _ _ => true
  | .takeover _ _ _ _ _ => false

/-- An item that describes a recovery, decided in the cycle after `RECOVERED`, with the new epoch (R487). -/
def tellFollow (old : U16) (x : FollowItem) (s : State) : State :=
  match x with
  | .fault code unit ev a0 a1 retired =>
    raise { code := code, unit := unit, evidence := ev.toNat, a0 := a0.toNat, a1 := a1.toNat, retired := retired } s
  | .takeover kind cause before after first => evtItem 0x07 (takeoverBody kind cause before after old s.cmd.epoch first s) s

/-- `FAULT` items in ascending unit order, then `TAKEOVER` (R487, R491). -/
def inOrder (l : List FollowItem) : List FollowItem :=
  (l.filter (·.isFault)).mergeSort (fun a b => a.unitOf ≤ b.unitOf) ++ l.filter (fun x => !x.isFault)

/-- A `FLUSH` written during the recovery: the entries it found that the recovery has left. -/
def lateFlush (q : Fin 2) (s : State) : State :=
  let x := getQ q.val s
  match x.flush with
  | none => s
  | some (head, tail, es) =>
    let s := setQ q.val { x with flush := none } s
    let n := (tail + x.size - x.sqHead) % x.size
    let s := endUnfetched q St.abortedFlush false s.cmd.epoch n (es.drop ((x.sqHead + x.size - head) % x.size)) s
    let x := getQ q.val s
    setQ q.val { x with lastSeq := none, latched := x.sqHead } s

/-- Steps 2 to 6. -/
def finishRecovery (r : RecoveryRec) (e0 e1 : List EntryHdr) (s : State) : State :=
  let new := s.cmd.epoch
  let st := abortStatus r.cause
  let g := gambitLost s
  let longs := s.cmd.longs.length
  let x := abortShort st r.oldEpoch e0 e1 (abortLongs st r.oldEpoch s)
  let s := discards { x.1 with cmd.longs := [] }
  let s := logEntry 0x0103 (r.oldEpoch.toNat * 65536 + new.toNat) s
  let s := reqVector 4 (evtItem 0x0B (recoveredBody r new (longs + x.2) g) s)
  let s := (inOrder r.follow).foldl (fun s i => tellFollow r.oldEpoch i s) (s.adv (s.now + 1000))
  let s := lateFlush 1 (lateFlush 0 { s with cmd.recovery := none })
  let s := takeBuffers (settle s)
  match s.cmd.queuedRec with
  | q :: rest => beginRecovery q { s with cmd.queuedRec := rest }
  | [] => s

end Sys2Proof.Machine
end

