-- ==== Sys2Proof/Machine/System.lean ====
section
/-! DEFINITION. Machine/System.lean: the system commands (R378-R385). -/

namespace Sys2Proof.Machine

open Sys2Proof

/-! ### NOP (R378) -/

def nopSpec : CmdSpec := { opcode := 0x00, target := .device, mirror := true, len := fun _ => true, bootRom := true }

def cmdNop (f : Fetched) (s : State) : Ans := { status := St.ok, payload := f.payload, st := s }

def execNop (r : Req) (s : State) : Res := .next (perform nopSpec cmdNop r s)

/-! ### GET_CAPS (R379) -/

def getCapsSpec : CmdSpec := { opcode := 0x01, target := .device, mirror := false, len := fixedLen 0, bootRom := true }

/-- The version of the image in a slot. -/
def fwVersionOf (b : Bool) (s : State) : U32 := (if b then s.mgmt.versionB else s.mgmt.versionA).getD (Config.fwVersion b)

def capsReply (s : State) : List Byte :=
  le4 s.part.caps.toNat ++ le4 (fwVersionOf s.mgmt.runningB s).toNat ++ le1 (bit s.mgmt.runningB)
    ++ le1 (flags [s.mgmt.activeB, s.mgmt.ready]) ++ zeros 2 ++ le8 s.part.dieId.toNat ++ le2 s.cmd.node.toNat ++ le2 4096 ++ zeros 4

def cmdGetCaps (_ : Fetched) (s : State) : Ans := { status := St.ok, payload := capsReply s, st := s }

def execGetCaps (r : Req) (s : State) : Res := .next (perform getCapsSpec cmdGetCaps r s)

/-! ### GET_STATUS (R380) -/

def getStatusSpec : CmdSpec := { opcode := 0x02, target := .device, mirror := false, len := fixedLen 0, bootRom := true }

/-- `STATUS_FLAGS`. -/
def statusFlags (s : State) : Nat :=
  flags [s.light.locked, s.time.ocxoWarm, s.time.state = 2, s.pair.lane0 || s.pair.lane1, memDegraded s, s.fault.unread,
    s.cal.requested ≠ 0, s.power.thermalCoarse, s.light.aprTrip, powerLimited s]

def statusReply (s : State) : List Byte :=
  let sense (k n : Nat) : List Byte := leBytes n (Config.reading k s.freeIdx).toNat
  le1 s.power.mode.code ++ le1 ((s.power.trans.map (fun t => t.to_.code)).getD 0xFF) ++ le2 (statusFlags s)
    ++ leInt 2 s.power.tCase ++ sense 0 2 ++ sense 1 2 ++ sense 2 2 ++ le4 ((s.now - s.power.standbySince) / 1000000000000)
    ++ le8 (lastCount s) ++ le4 s.cmd.authFail.toNat ++ le4 s.cmd.udpDiscarded.toNat ++ le4 s.cmd.cmdsDone.toNat

def cmdGetStatus (_ : Fetched) (s : State) : Ans := { status := St.ok, payload := statusReply s, st := s.took }

def execGetStatus (r : Req) (s : State) : Res := .next (perform getStatusSpec cmdGetStatus r s)

/-! ### FENCE (R367, R382) -/

def fenceSpec : CmdSpec := { opcode := 0x04, target := .device, mirror := false, len := fixedLen 0 }

/-- What the fence waits for: entries not fetched per PCIe queue, and commands received. -/
def fenceWait (f : Fetched) (s : State) : FenceWait :=
  let s := dropFetched f s
  let cmds := receivedBefore f s
  let n (q : Fin 2) : Nat := if f.src = .pcie q then 0 else (getQ q.val s).unfetched
  { req := f, toFetch := (n 0, n 1), cmds := cmds, waited := BitVec.ofNat 32 (cmds.length + n 0 + n 1) }

/-- The fence begins: it is answered when its wait ends, at once if there is none; during an entry to sleep `WRONG_MODE` (R537). -/
def beginFence (f : Fetched) (s : State) : State :=
  match preCheck fenceSpec f s with
  | some st => conclude f (reject st s) false
  | none =>
    if s.enteringSleep then conclude f (reject St.wrongMode s) false
    else settleFences 64 { (dropFetched f s) with cmd.fences := s.cmd.fences ++ [fenceWait f s] }

/-- `FENCE`, when its turn has come. -/
def fenceRow (r : Req) (s : State) : State :=
  let s := s.adv r.at_
  let f := toFetched fenceSpec r s
  if s.pathDown || s.cmd.recovery.isSome || passedOver f s then s else beginFence f (takeTurn f.src s)

def execFence (r : Req) (s : State) : Res := .next (fenceRow r s)

/-! ### RESET_UNIT (R383) -/

def resetUnitSpec : CmdSpec := { opcode := 0x05, target := .unit, mirror := false, len := fixedLen 0 }

/-- The effect of a unit's reset beyond what every recovery does. -/
def unitReset (u : Nat) (s : State) : State :=
  if u < 32 then (if (core s u).state = .empty then s else resetCore u s)
  else if u = 0x100 then restartAllSlots { s with indigo.zones := s.indigo.zones.map (fun _ => {}) }
  else if u = 0x101 then restartAcc s
  else if u = 0x104 then
    if s.light.running then
      -- with the period that the changes accepted leave
      let tl := ((s.light.segs.getLast?).map (·.tl)).getD (periodOf s s.runMode)
      { s with light.segs := addSeg s.light.segs (boundFor s s.now).due tl false false }
    else s
  else if u = 0x106 then restartFilters (fun n => (aux s n).enabled) s
  else s

/-- The detector of a controller failure (R494): the first that fired; in one cycle 5 before 4 before 6. -/
def controllerFails (cause : Byte) (s : State) : State :=
  let rank (c : Byte) : Nat := if c = 5 then 0 else if c = 4 then 1 else if c = 6 then 2 else 3
  match s.mgmt.failed with
  | some c =>
    if c = 7 || (s.devNs s.mgmt.failedAt = s.cycle && rank cause < rank c) then
      { s with mgmt.failed := some cause, mgmt.failedAt := s.now }
    else s
  | none => { s with mgmt.failed := some cause, mgmt.failedAt := s.now }

def cmdResetUnit (f : Fetched) (s : State) : Ans :=
  let u := f.target.toNat
  checked [((u < 32 && s.zoneCores ≤ u) || (u = 0x101 && !s.ochreFitted), St.notFitted),
      (u < 32 && (core s u).state = .retired, St.badParam), (u = 0x107 && !s.mgmt.ready, St.busy)] s fun _ =>
    let new : U16 := if s.cmd.epoch = 0xFFFF then 1 else s.cmd.epoch + 1
    { status := if u = 0x101 && s.ochre.retired then St.degraded else St.ok, st := s, payload := le2 new.toNat ++ zeros 2,
      after := fun s =>
        if u = 0x107 then controllerFails 6 s else startRecovery 1 f.target [] (unitReset u s) }

def execResetUnit (r : Req) (s : State) : Res := .next (perform resetUnitSpec cmdResetUnit r s)

/-! ### SET_NODE (R384) -/

def setNodeSpec : CmdSpec := { opcode := 0x06, target := .device, mirror := false, len := fixedLen 4 }

def cmdSetNode (f : Fetched) (s : State) : Ans :=
  let n := fld f.payload 0 2
  checked [(16383 < n || fld f.payload 2 2 ≠ 0, St.badParam)] s fun _ =>
    { status := St.ok, payload := le2 s.cmd.node.toNat ++ le2 n, st := { s with cmd.node := BitVec.ofNat 14 n } }

def execSetNode (r : Req) (s : State) : Res := .next (perform setNodeSpec cmdSetNode r s)

/-! ### GET_LOG (R385) -/

def getLogSpec : CmdSpec := { opcode := 0x07, target := .device, mirror := false, len := fixedLen 8, bootRom := true }

def logBytes (e : LogEntry) : List Byte :=
  le4 e.sec.toNat ++ le4 e.nsec.toNat ++ le2 e.epoch.toNat ++ le2 e.code.toNat ++ le4 e.arg.toNat

def cmdGetLog (f : Fetched) (s : State) : Ans :=
  let first := fld f.payload 0 4
  let n := fld f.payload 4 2
  checked [(!(inR n 1 250) || fld f.payload 6 2 ≠ 0, St.badParam)] s fun _ =>
    let all := s.fault.log.reverse
    let oldest := (all.head?.map (·.index)).getD s.fault.logNext
    let got := (all.filter (fun e => first ≤ e.index.toNat)).take n
    { status := St.ok, st := s,
      payload := le4 oldest.toNat ++ le4 s.fault.logNext.toNat ++ le2 got.length ++ zeros 6 ++ got.flatMap logBytes }

def execGetLog (r : Req) (s : State) : Res := .next (perform getLogSpec cmdGetLog r s)

end Sys2Proof.Machine
end

