-- ==== Sys2Proof/Machine/Faults.lean ====
section
/-! DEFINITION. Machine/Faults.lean: the fault table (R518, R519), the spares (R520), the controllers (R494-R496), firmware
images (R497-R501) and self-tests (R502). -/

namespace Sys2Proof.Machine

open Sys2Proof

/-! ### FAULT_READ (R518) -/

def faultReadSpec : CmdSpec := { opcode := 0xA0, target := .device, mirror := false, len := fixedLen 4 }

def faultEntryBytes (e : FaultEntry) : List Byte :=
  le2 e.code ++ le1 e.cls.toNat ++ le1 (flags [e.unread, e.retired]) ++ le4 e.count.toNat ++ le4 e.lastSec.toNat
    ++ le4 e.lastArg.toNat

def latchByte (s : State) : Nat := flags [s.fault.latch, s.fault.latch && s.fault.permanent]

def cmdFaultRead (f : Fetched) (s : State) : Ans :=
  let n := fld f.payload 2 2
  checked [(!(inR n 1 250), St.badParam)] s fun _ =>
    let got := (s.fault.table.drop (fld f.payload 0 2)).take n
    { status := St.ok, st := s,
      payload := le2 s.fault.table.length ++ le2 (s.fault.fatalCode.getD 0xFFFF) ++ le1 (latchByte s) ++ zeros 1 ++ le2 got.length
        ++ got.flatMap faultEntryBytes }

def execFaultRead (r : Req) (s : State) : Res := .next (perform faultReadSpec cmdFaultRead r s)

/-! ### FAULT_CLEAR (R489, R491, R519, R545) -/

def faultClearSpec : CmdSpec := { opcode := 0xA1, target := .device, mirror := false, len := fixedLen 4 }

/-- Occurrences of a code logged in the present cycle: a clear leaves them counted and unread (R491). -/
def inCycle (code : Nat) (s : State) : Nat :=
  (s.fault.log.filter (fun e => e.code.toNat = code && e.sec.toNat = s.devSec s.now % 2 ^ 32
    && e.nsec.toNat = s.devSubNs s.now)).length

/-- `CLEAR_COUNTS`. -/
def clearFaultCounts (s : State) : State :=
  { s with fault.table := (s.fault.table.filter (fun e => inCycle e.code s ≠ 0)).map (fun e =>
      { e with count := BitVec.ofNat 32 (inCycle e.code s) }) }

/-- `CLEAR_FATAL`: the latch stays while it is permanent or the case is above 120.0 degrees. -/
def latchHolds (s : State) : Bool := s.fault.latch && (s.fault.permanent || 12000 < s.power.tCase)

def clearFatal (s : State) : State :=
  if latchHolds s then s else { s with fault.latch := false, fault.fatalCode := none }

/-- `CLEAR_STICKY` (R73). -/
def clearSticky (s : State) : State :=
  { s with light.ldc := s.light.ldc.map (fun d => { d with short_ := false, leakFail := false, open_ := false }) }

/-- `MARK_READ`. -/
def markRead (s : State) : State :=
  let fresh (e : FaultEntry) : Bool := e.unread && inCycle e.code s ≠ 0
  { s with fault.table := s.fault.table.map (fun e => { e with unread := fresh e }), fault.unread := s.fault.table.any fresh }

def cmdFaultClear (f : Fetched) (s : State) : Ans :=
  let v := fld f.payload 0 1
  checked [(15 < v || fld f.payload 1 3 ≠ 0, St.badParam)] s fun _ =>
    let held := tst v 1 && latchHolds s
    let s := if tst v 3 then markRead s else s
    let s := if tst v 0 then clearFaultCounts s else s
    let s := if tst v 1 then clearFatal s else s
    let s := if tst v 2 then clearSticky s else s
    { status := if held then St.degraded else St.ok, payload := le1 (latchByte s) ++ zeros 3, st := s }

def execFaultClear (r : Req) (s : State) : Res := .next (perform faultClearSpec cmdFaultClear r s)

/-! ### SPARE_STATUS (R520) -/

def spareStatusSpec : CmdSpec := { opcode := 0xA2, target := .device, mirror := false, len := fixedLen 0 }

/-- Bit per fitted core in a state. -/
def coreMask (s : State) (st : CoreState) : Nat :=
  flags ((List.range s.zoneCores).map (fun c => (core s c).state = st))

def spareReply (s : State) : List Byte :=
  let pump (p : Ldc → Bool) : Nat := flags ([3, 4, 5].map (fun n => p (vget s.light.ldc n)))
  let gone (n : Nat) : Bool := (vget s.light.ldc n).retired
  let m := s.mgmt
  let dom (k : Nat) : Nat := (vget s.time.domains k).phase % 4
  le1 (pump (·.enabled) + 16 * pump (·.retired)) ++ le1 (s.indigo.spare.getD 0xFF) ++ le2 s.indigo.laneRetired.toNat
    ++ le4 (coreMask s .retired) ++ le4 (coreMask s .empty) ++ le1 (flags [m.activeB, m.ready, m.retiredA, m.retiredB])
    ++ le1 (flags [m.validA, m.validB, m.runningB, m.preferredB]) ++ le1 (liveMask s)
    ++ le1 (flags [s.ochre.retired, gone 6, gone 0 || gone 1 || gone 2 || gone 7])
    ++ le1 (dom 0 + 4 * dom 1 + 16 * bit s.time.ocxoWarm + 32 * bit (s.time.state = 3))
    ++ le1 (flags [s.link.pcieUp, s.link.eth0, s.link.eth1, s.pair.lane0, s.pair.lane1]) ++ le1 s.pair.phase.code ++ zeros 1

def cmdSpareStatus (_ : Fetched) (s : State) : Ans := { status := St.ok, payload := spareReply s, st := s }

def execSpareStatus (r : Req) (s : State) : Res := .next (perform spareStatusSpec cmdSpareStatus r s)

/-! ### Management controllers (R494-R496) -/

/-- The unit code of a controller. -/
def mgmtUnit (b : Bool) : Nat := if b then 0x0161 else 0x0160

/-- Can a controller run: awake, started, supplied? -/
def State.poweredUp (s : State) : Bool :=
  !(s.power.sleeping || s.power.starting || s.power.supplyOut.isSome)

def execMgmtWatchdog (t : Ps) (s : State) : Res :=
  let s := s.adv t
  .next (if s.poweredUp && !s.mgmt.down then controllerFails 4 s else s)

def execMgmtLockstep (t : Ps) (s : State) : Res :=
  let s := s.adv t
  .next (if s.poweredUp && !s.mgmt.down then controllerFails 5 s else s)

/-- The slots a `TAKEOVER` item of a controller names: those owned, or those of the plan of a device that is no pair. -/
def itemSlots (s : State) : Byte :=
  if s.inPair then s.pair.owned else BitVec.ofNat 8 (2 ^ s.light.plan.nSlots - 1)

/-- The standby controller takes control: a recovery with cause 2. After an activation it runs the image activated. -/
def takeControl (cause : Byte) (s : State) : State :=
  let m := s.mgmt
  let slots := itemSlots s
  let told : List FollowItem := if cause = 7 then [] else [.fault 0x0B00 (mgmtUnit m.activeB) 0 0 0 false]
  startRecovery 2 0xFFFF (told ++ [.takeover 0 cause slots slots (BitVec.allOnes 64)])
    { s with mgmt := { m with activeB := !m.activeB, ready := false, retest := true, failed := none,
                              runningB := if cause = 7 then m.preferredB else m.runningB } }

def execMgmtTakeover (t : Ps) (s : State) : Res :=
  let s := s.adv t
  .next (match s.mgmt.failed with
    | some c => if s.poweredUp && !s.mgmt.down && s.mgmt.ready then takeControl c s else s
    | none => s)

/-- `MGMT_RETEST_DONE` (R495): the failed controller becomes the standby, or is retired. -/
def retested (pass : Bool) (s : State) : State :=
  let other := !s.mgmt.activeB
  let s := { s with mgmt.retest := false }
  if pass then { s with mgmt.ready := true }
  else
    let s := if other then { s with mgmt.retiredB := true } else { s with mgmt.retiredA := true }
    raise { code := 0x0B01, unit := mgmtUnit other, retired := true } s

def execMgmtRetestDone (t : Ps) (pass : Bool) (s : State) : Res :=
  let s := s.adv t
  .next (if s.mgmt.retest && s.poweredUp && !s.mgmt.down then retested pass s else s)

/-- `MGMT_NO_CONTROLLER`: the active controller has failed with no standby ready; the fatal steps run in hardware and the
controller reboots. An activation is no failure. -/
def execMgmtNoController (t : Ps) (s : State) : Res :=
  let s := s.adv t
  .next (if s.mgmt.ready || !s.poweredUp || s.mgmt.down || s.mgmt.failed.isNone || s.mgmt.failed = some 7 then s
  else
    let s := fatalSafe { code := 0x0B02, unit := mgmtUnit s.mgmt.activeB } false s
    { s with mgmt := { s.mgmt with failed := none, down := true } })

/-- The image a boot selects (R498); none: neither is valid. -/
def bootImage (m : MgmtState) : Option Bool :=
  let ok (b : Bool) : Bool := if b then m.validB else m.validA
  if ok m.preferredB then some m.preferredB else if ok !m.preferredB then some !m.preferredB else none

/-- A controller boots. -/
def bootController (s : State) : State :=
  let m := s.mgmt
  { s with mgmt := { m with runningB := (bootImage m).getD m.runningB, bootRom := (bootImage m).isNone,
                            digest := (bootImage m).map (fun b => (b, if b then m.versionB else m.versionA)) } }

/-- `COMMAND_PATH_RESTART`: requests that reached the device meanwhile are received before step 1. -/
def execCommandPathRestart (t : Ps) (s : State) : Res :=
  let s := s.adv t
  .next (if s.mgmt.down && s.poweredUp then
    let s := takeBuffers s
    startRecovery 5 0xFFFF [] (bootController { s with mgmt.down := false })
  else s)

/-! ### FW_UPDATE (R499-R501) -/

def fwUpdateSpec : CmdSpec := { opcode := 0xF2, target := .device, mirror := false, len := fixedLen 12, bootRom := true }

def cmdFwUpdate (f : Fetched) (s : State) : Ans :=
  let p := f.payload
  let act := fld p 1 1
  let img := staged s (fld p 0 1)
  let writes := act = 1 || act = 2
  checked [(!s.inMode [.standby, .warm], St.wrongMode),
      (s.longBusy 0xF2 || (!s.mgmt.ready && (act = 2 || act = 3)), St.busy),
      (!(inR act 1 3) || fld p 2 2 ≠ 0 || (writes && 3 < fld p 0 1)
        || !definedOr0 writes (fld p 4 4) (inR (fld p 4 4) 1024 2097152), St.badParam),
      (liveMask s = 0, St.noSpace), (writes && img.isNone, St.badParam),
      (writes && stageMismatch (img.getD []) (fld p 4 4) (fld p 8 4), St.checkFail)] s fun _ =>
    { status := St.accepted,
      st := { s with mgmt.update := some (f.tag, by8 act, if writes then img else none, false) } }

def execFwUpdate (r : Req) (s : State) : Res := .next (perform fwUpdateSpec cmdFwUpdate r s)

/-- The slot that is not running takes a version, valid. -/
def writeSlot (v : U32) (s : State) : State :=
  let s := setOtherValid true s
  let b := !s.mgmt.runningB
  let s := if b then { s with mgmt.versionB := some v } else { s with mgmt.versionA := some v }
  let s := { s with mgmt.digest := some (b, some v) }
  if s.mgmt.validA && s.mgmt.validB then endBound 0x0B03 s else s

/-- Activation (R500): the marker moves; the standby boots the image and will take over. -/
def activate (s : State) : State :=
  let s := { s with mgmt.preferredB := !s.mgmt.runningB }
  if s.mgmt.ready && s.mgmt.failed.isNone then { s with mgmt.failed := some 7, mgmt.failedAt := s.now } else s

/-- The end of an update: outcomes of the two verifications. -/
def finishUpdate (tag : U16) (act : Byte) (img : Option (List Byte)) (verified readBack : Bool) (s : State) : State :=
  let v := (img.map Config.imageVersion).getD 0
  let s := { s with mgmt.update := none }
  let done (st a0 : Nat) (s : State) : State := endLong 0xF2 (completion 0x0112 tag st 0 a0 0 s)
  let s' := match img with
    | none => s
    | some _ => if !verified then s else if readBack then writeSlot v s else setOtherValid false s
  let other := if s'.mgmt.runningB then s'.mgmt.validA else s'.mgmt.validB
  if img.isSome && !(verified && readBack) then done St.checkFail (if verified then v.toNat else 0) s'
  else if 2 ≤ act.toNat && !other then done St.checkFail 0 s'
  else
    let s' := done St.ok v.toNat s'
    if 2 ≤ act.toNat then activate s' else s'

def execFwUpdateDone (t : Ps) (verified readBack : Bool) (s : State) : Res :=
  let s := s.adv t
  .next (match s.mgmt.update with
    | some (tag, act, img, _) => if s.pathDown then s else finishUpdate tag act img verified readBack s
    | none => s)

/-! ### SELF_TEST (R502) -/

def selfTestSpec : CmdSpec := { opcode := 0xF1, target := .device, mirror := false, len := fixedLen 4 }

def cmdSelfTest (f : Fetched) (s : State) : Ans :=
  let tests := fld f.payload 0 1
  checked [(!s.inMode [.standby, .warm, .acoustic, .survey, .full], St.wrongMode), (s.longBusy 0xF1, St.busy),
      (63 < tests || fld f.payload 1 3 ≠ 0, St.badParam)] s fun _ =>
    { status := St.accepted, st := { s with mgmt.selfTest := some (f.tag, by8 tests), mgmt.selfTestCut := false } }

def execSelfTest (r : Req) (s : State) : Res := .next (perform selfTestSpec cmdSelfTest r s)

/-- Does a test's condition hold? -/
def testRuns (s : State) (k : Nat) : Bool :=
  match k with
  | 0 => liveMask s ≠ 0 && s.mgmt.update.isNone && !s.mgmt.selfTestCut
  | 3 => s.mgmt.ready
  | 4 => s.power.mode = .standby || (s.power.mode = .warm && !s.light.running)
  | _ => true

/-- `SELF_TEST_FAIL` for a unit it retires. -/
def testFails (unit : Nat) (s : State) : State := raise { code := 0x0B04, unit := unit, retired := true } s

/-- Lanes under test: those that carry no slot. -/
def idleLane (s : State) (l : Nat) : Bool :=
  !(s.indigo.laneRetired.getLsbD l) && !(carryingLanes s).contains l

/-- What each test does to units that failed; it answers the state and whether the test passed. -/
def runTest (d : SelfTestIn) (k : Nat) (s : State) : State × Bool :=
  match k with
  | 0 => if d.memoryFails then (raise { code := 0x0B04 } s, false) else (s, true)
  | 1 =>
    let bad := (List.range 9).filter (fun l => d.lanesFailed.any (fun x => x.val = l) && idleLane s l)
    (bad.foldl (fun s l => testFails (0x0110 + l) (retireLane l s)) s, bad.isEmpty)
  | 2 =>
    let bad := (List.range s.zoneCores).filter (fun c => d.coresFailed.any (fun x => x.val = c) && (core s c).state = .empty)
    (bad.foldl (fun s c => testFails c (modCore c (fun x => { x with state := .retired }) s)) s, bad.isEmpty)
  | 3 =>
    if d.standbyFails then
      let b := !s.mgmt.activeB
      let s := { s with mgmt.ready := false }
      (testFails (mgmtUnit b) (if b then { s with mgmt.retiredB := true } else { s with mgmt.retiredA := true }), false)
    else (s, true)
  | 4 =>
    let bad := (List.range 8).filter (fun n => !(leaksOf d.leaks n).isEmpty && !(vget s.light.ldc n).retired)
    (leakageTest d.leaks (bad.foldl (fun s n => testFails (0x0180 + n) s) s), bad.isEmpty)
  | _ =>
    let s' := if d.imageAFails then testFails 0x0170 { s with mgmt.validA := false } else s
    (if d.imageBFails then testFails 0x0171 { s' with mgmt.validB := false } else s', !(d.imageAFails || d.imageBFails))

/-- The tests in order: state, masks of tests passed, failed and not run. -/
def runTests (d : SelfTestIn) (tests : Nat) : List Nat → State × Nat × Nat × Nat → State × Nat × Nat × Nat
  | [], x => x
  | k :: ks, (s, pass, fail, skip) =>
    runTests d tests ks
      (if !tst tests k then (s, pass, fail, skip)
       else if !testRuns s k then (s, pass, fail, skip + 2 ^ k)
       else match runTest d k s with
         | (s', true) => (s', pass + 2 ^ k, fail, skip)
         | (s', false) => (s', pass, fail + 2 ^ k, skip))

def finishTests (tag : U16) (tests : Byte) (d : SelfTestIn) (s : State) : State :=
  match runTests d tests.toNat (List.range 6) (s, 0, 0, 0) with
  | (s, pass, fail, skip) =>
    let st := if fail = 0 && skip = 0 then St.ok else St.degraded
    endLong 0xF1 (completion 0x0111 tag st skip pass fail { s with mgmt.selfTest := none, mgmt.selfTestCut := false })

def execSelfTestDone (t : Ps) (d : SelfTestIn) (s : State) : Res :=
  let s := s.adv t
  .next (match s.mgmt.selfTest with
    | some (tag, tests) => if s.pathDown then s else finishTests tag tests d s
    | none => s)

end Sys2Proof.Machine
end

