-- ==== Sys2Proof/Machine/Power.lean ====
section
/-! DEFINITION. Machine/Power.lean: power-up and power-down, wake, duty cycle, temperature, supplies and clocks (R526-R547,
R593-R598). -/

namespace Sys2Proof.Machine

open Sys2Proof

/-! ### What a start of the domains does -/

/-- Settings at reset: what no wake store restores (R529, R593, R596). -/
def resetSettings (s : State) : State :=
  let fibre (p : Port) : Port := { dlyTx := p.dlyTx, dlyRx := p.dlyRx }
  retakeHeld { s with
    light := { s.light with plan := {}, cfg := {}, port := 1, aprTrip := false, aprArmed := false, changes := [], segs := [],
                            switching := none, level := -100, locked := s.light.locked && s.light.plan.carrier = 3400 }
    fibre := { s1 := fibre s.fibre.s1, s2 := fibre s.fibre.s2 }
    indigo := { s.indigo with subbands := 4, pol := 1, pns := true, unwrap := true, bridge := true, spareCheck := true, fade := 16,
                              align := 8, atten := 0, map := {}, zones := [] }
    ochre := { s.ochre with cfg := {}, coil := none, coilNext := none, zones := [], desc := [], specs := [], base := [] }
    mem := { s.mem with ch := s.mem.ch.map (fun c => { c with policy := 0 }), bankSel := ({} : MemState).bankSel, eyeMin := 12 } }

/-- The wake store loaded (R528): the settings as they were at entry to sleep. -/
def loadStore (w : WakeStore) (s : State) : State :=
  let lock := s.light.locked && s.light.plan.carrier = w.plan.carrier
  let r := resetSettings s
  let port (k : Nat) (p : Port) : Port :=
    match w.ports[k]? with
    | some (gi, sv, ref) => { p with groupIndex := gi, survey := sv, aprRef := ref, currentEnd := (sv.map (·.endCm)).getD 0,
                                     endGi := (sv.map (·.gi)).getD gi }
    | none => p
  let i (k : Nat) : Nat := (w.indigo[k]?).getD 0
  retakeHeld { r with
    light := { r.light with plan := w.plan, cfg := w.cfg, port := w.port, aprTrip := w.trip, aprArmed := w.armed, locked := lock }
    fibre := { s1 := port 0 r.fibre.s1, s2 := port 1 r.fibre.s2 }
    indigo := { r.indigo with subbands := i 0, pol := i 1, pns := i 2 = 1, unwrap := i 3 = 1, bridge := i 4 = 1, spareCheck := i 5 = 1,
                              fade := i 6, align := i 7, atten := i 8, map := w.map, zones := freshZones w.map w.port }
    ochre := { r.ochre with cfg := w.ochre, coil := w.coil, zones := List.replicate w.map.nDts {} }
    mem := { r.mem with ch := Vector.ofFn (fun c => { vget r.mem.ch c.val with policy := (w.policy[c.val]?).getD 0 }),
                        bankSel := Vector.ofFn (fun c => (w.banks[c.val]?).getD 0), eyeMin := w.eyeMin } }

/-- The store to load; none: neither copy passes its check (R529). -/
def goodStore (b : BootIn) (s : State) : Option WakeStore := if b.storeFails = 3 then none else s.store

/-- `WAKE_STORE_BAD`. -/
def storeBad (b : BootIn) (s : State) : State :=
  raise { code := 0x0D02, a0 := if s.store.isNone then 3 else b.storeFails.toNat } s

/-- The board record applies at STANDBY (R562). -/
def applyBoard (bad : Bool) (s : State) : State :=
  { s with link := { s.link with board := s.link.boardNext.getD s.link.board, boardNext := none, boardBad := bad } }

/-- Controllers boot, memory trains, the board record applies: STANDBY; the `ALMS` pair idles (R230). -/
def startDomains (b : BootIn) (s : State) : State :=
  let m := s.mgmt
  let other := if m.activeB then m.retiredA else m.retiredB
  let s := bootController { s with mgmt := { m with validA := b.imageAValid, validB := b.imageBValid, ready := !other, retest := false,
                                                    failed := none, down := false } }
  let s := startIdle s.now (startTraining b.training (applyBoard b.boardBad s))
  { s with power := { s.power with mode := .standby, standbySince := s.now, sleeping := false, starting := false, waking := none,
                                   supplyOut := none },
           link.pcieUp := s.link.perstN }

/-- The faults found at a start, queued at STANDBY in ascending unit order (R467, R498). -/
def tellStart (s : State) : State :=
  let s := tellTraining s
  let img (ok : Bool) (unit : Nat) (s : State) : State := if ok then s else raise { code := 0x0B03, unit := unit } s
  let s := img s.mgmt.validB 0x0171 (img s.mgmt.validA 0x0170 s)
  if s.mgmt.validA && s.mgmt.validB then endBound 0x0B03 s else s

/-! ### Wake (R540-R543) -/

def execWakeN (t : Ps) (s : State) : Res := .next (requestWake 1 (s.adv t))

/-- `WAKE_TIMER`: skipped in STANDBY and above (R540). -/
def execWakeTimer (t : Ps) (s : State) : Res :=
  let s := s.adv t
  .next (if s.power.wake.period = 0 then s
  else if s.power.sleeping || s.enteringSleep then requestWake 2 s
  else if s.power.starting || s.power.supplyOut.isSome then s
  else { s with power.timerSkipped := satInc s.power.timerSkipped })

/-- The target of a wake cause. -/
def wakeTarget (cause : Byte) (w : WakeCfg) : Mode :=
  if cause = 1 then w.wakeNMode else if cause = 2 then w.timerMode else w.auxMode

/-- The status of R534 that stops the entry to a target at a wake (R543). -/
def wakeFails (m : Nat) (s : State) : Option Nat :=
  firstFail [(!s.ochreFitted && ochreMode m, St.notFitted), (modeWrong m s, St.wrongMode), (modeParam m s, St.badParam)]

/-- A wake that ends in STANDBY: its `MODE_CHANGE`, then the faults found. -/
def wakeEnds (cause : Byte) (status : Nat) (other failed : Bool) (s : State) : State :=
  let duty := s.power.lastWake = 2 && s.power.wake.duty
  let s := if duty then armDuty failed s else s
  tellStart (modeItem s.power.sleptIn .standby cause.toNat status 0 (flags [false, false, other, duty]) s)

/-- A wake: the domains power up, the store is loaded, and the entry to the target begins. -/
def wakeUp (cause : Byte) (b : BootIn) (s : State) : State :=
  let other := s.power.wakeOther
  let began := s.power.wakeAt
  let from_ := s.power.sleptIn
  let s := startDomains b (auxWake from_ (timeWake { s with power.lastWake := cause, power.wakeOther := false }))
  match goodStore b s with
  | none => storeBad b (wakeEnds 8 St.checkFail other true (resetSettings s))
  | some w =>
    let s := loadStore w s
    let to_ := wakeTarget cause s.power.wake
    if to_ = .standby then wakeEnds cause St.ok other false s
    else
      match wakeFails to_.code s with
      | some st => wakeEnds cause st other true s
      | none =>
        let s := beginTransition to_ cause 0 (if other then 4 else 0) (tellStart s)
        let s := { s with power.trans := s.power.trans.map (fun x => { x with from_ := from_, began := began }) }
        refreshDrives (leakageTest b.leaks s)

def execWake (t : Ps) (b : BootIn) (s : State) : Res :=
  let s := s.adv t
  .next (match s.power.waking with
    | some c => if s.power.sleeping then wakeUp c b s else s
    | none => s)

/-! ### Duty cycle (R544) -/

def execDutyDwellEnd (t : Ps) (s : State) : Res :=
  let s := s.adv t
  .next (match s.power.duty with
    | .dwell n u => if n = 0 && u ≤ s.now then { s with power.duty := .linger (s.now + lingerPs s) } else s
    | _ => s)

/-- `DUTY_LINGER_END`: the return to the sleep mode the device woke from; it waits for a calibration run. -/
def execDutyLingerEnd (t : Ps) (s : State) : Res :=
  let s := s.adv t
  .next (match s.power.duty with
    | .linger u =>
      if u ≤ s.now && !s.calibrating && !s.power.sleeping && !s.enteringSleep && s.power.supplyOut.isNone then
        beginTransition s.power.sleptIn 4 0 0 { s with power.duty := .none }
      else s
    | _ => s)

/-! ### Temperature (R545, R546) -/

/-- A word of a signed argument. -/
def argInt (v : Int) : Nat := (v % 4294967296).toNat

/-- `THERMAL_TRIP`: evidence 0 the case, 1-3 a die; not permanent. -/
def execThermalTrip (t : Ps) (evidence : Fin 4) (temp : Int) (s : State) : Res :=
  let s := s.adv t
  let hot := if evidence.val = 0 then decide (12700 < temp) else decide (14000 < temp)
  .next (if hot && s.poweredUp then
    let s := if evidence.val = 0 then { s with power.tCase := temp } else s
    fatalSafe { code := 0x0D00, evidence := evidence.val, a0 := argInt temp } false s
  else s)

/-- Is LDC7 at its limit with the photonic die (mK) more than 0.10 K from its setpoint (R546)? -/
def tecAtLimit (deviation current : Int) : Bool := 100 < deviation.natAbs && 2500000 ≤ current.natAbs

/-- `TEC_LIMIT`, once per episode: launches carry `THERMAL_COARSE` again. -/
def execTecLimit (t : Ps) (deviation current : Int) (s : State) : Res :=
  let s := s.adv t
  .next (if !tecAtLimit deviation current || s.power.tecLimited || s.power.mode = .standby || !s.poweredUp then s
  else raise { code := 0x0D01, unit := 0x0187, a0 := argInt deviation, a1 := argInt current }
    { s with power.tecLimited := true, power.thermalCoarse := true })

/-! ### Clocks (R531, R597) -/

def execRefclkLost (t : Ps) (s : State) : Res :=
  let s := s.adv t
  .next (if s.poweredUp then fatalSafe { code := 0x0D03, a0 := s.power.mode.code } false s else s)

/-- `XTAL_FAIL`: the real-time counter runs from the 156.25 MHz reference. -/
def execXtalFail (t : Ps) (stopped : Bool) (s : State) : Res :=
  let s := s.adv t
  .next (if s.power.xtalOk && s.poweredUp then
    raise { code := 0x0E01, evidence := bit stopped } { s with power.xtalOk := false }
  else s)

def execXtalRestored (t : Ps) (s : State) : Res :=
  let s := s.adv t
  .next (if s.power.xtalOk then s else endBound 0x0E01 { s with power.xtalOk := true })

/-! ### Supplies (R588, R592-R596) -/

/-- What PD1 to PD7 lose when they switch off without an entry to sleep. -/
def loseDomains (s : State) : State :=
  let x := toSleep .standby s
  { x with power.sleeping := false, power.sleptIn := s.power.sleptIn, power.duty := s.power.duty, store := s.store }

/-- The operating range of each supply in mV, in the order of `V_SUPPLY` (R588, R564). -/
def supplyRange (n : Nat) : Nat × Nat :=
  match n with
  | 0 => (730, 770) | 1 => (825, 875) | 2 => (873, 927) | 3 => (1164, 1236)
  | 4 | 5 => (1710, 1890) | 6 => (3135, 3465) | _ => (4750, 5250)

/-- Is a voltage outside the supply's range? -/
def supplyBad (n mv : Nat) : Bool := mv < (supplyRange n).1 || (supplyRange n).2 < mv

/-- `SUPPLY_FAULT`: the fatal steps run in hardware, then PD1 to PD7 switch off; the item comes with the restart. -/
def supplyLost (n mv us : Nat) (s : State) : State :=
  let s := makeSafe { s with fault.latch := true, fault.fatalCode := some (s.fault.fatalCode.getD 0x0E00) }
  let s := if s.power.duty = .none then s else { s with power.duty := .linger (s.now + lingerPs s) }
  let s := loseDomains { s with power.trans := none }
  { s with power.supplyOut := some (n, mv, us), power.wakeReq := [] }

def execSupplyFault (t : Ps) (supply : Fin 8) (mv us : Nat) (s : State) : Res :=
  let s := s.adv t
  .next (if supply.val = 5 || !supplyBad supply.val mv || us < 10 || s.power.sleeping || s.power.starting then s
  else match s.power.supplyOut with
    | some (n, v, d) =>
      let far (x : Nat) : Nat := (((s.power.supplies[n]?).getD x : Int) - x).natAbs
      let v' := if n = supply.val && far v < far mv then mv else v
      { s with power.supplyOut := some (n, v', d + us) }
    | none => supplyLost supply.val mv us s)

/-- `SUPPLY_RESTORED`: a restart of the command path (cause 5); every setting is at reset. -/
def execSupplyRestored (t : Ps) (b : BootIn) (s : State) : Res :=
  let s := s.adv t
  .next (match s.power.supplyOut with
    | some (n, mv, us) =>
      let s := startDomains b (resetSettings (timeWake s))
      let item : FollowItem :=
        .fault 0x0E00 0xFFFF (by8 n) (BitVec.ofNat 32 mv) (BitVec.ofNat 32 (min us (2 ^ 32 - 1))) false
      tellStart (startRecovery 5 0xFFFF [item] s)
    | none => s)

/-- Without `VDD_AON`: what fuses and the boot flash hold stays. -/
def offState (s : State) : State :=
  let m := s.mgmt
  { State.reset with
    pending := s.pending, outbox := s.outbox, freeIdx := s.freeIdx, part := s.part
    power := { State.reset.power with vddAon := false, starting := true }
    mgmt := { State.reset.mgmt with validA := m.validA, validB := m.validB, preferredB := m.preferredB, versionA := m.versionA,
                                    versionB := m.versionB, digest := none, ready := false }
    link := { State.reset.link with board := s.link.board, boardNext := s.link.boardNext, boardBad := s.link.boardBad,
                                    perstN := s.link.perstN, pcieUp := false, eth0 := false, eth1 := false } }

def execPowerDown (s : State) : Res := .next (offState s)

/-- `START_UP_ABORT` (R595): start-up begins again; nothing is queued or logged. -/
def execStartUpAbort (s : State) : Res := .next (if s.power.starting then offState s else s)

/-- `POWER_UP` (R593): start-up to STANDBY, with every setting at reset and no `MODE_CHANGE`. -/
def execPowerUp (t : Ps) (b : BootIn) (s : State) : Res :=
  .next (if s.power.starting then
    let s := (offState s).adv t
    let s := { s.took with time.offset := Config.powerUpTime s.freeIdx, power.vddAon := true }
    tellStart (startDomains b s)
  else s)

end Sys2Proof.Machine
end

