-- ==== Sys2Proof/Machine/HostLinks.lean ====
section
/-! DEFINITION. Machine/HostLinks.lean: BAR0 writes (R355-R357, R552-R559), the PCIe side's resets (R554), the Ethernet ports
(R560-R562), SMBus (R563, R564), PERST_N and JTAG (R550, R566). -/

namespace Sys2Proof.Machine

open Sys2Proof

/-! ### Queue registers (R354-R356) -/

/-- Misuse of a queue register. -/
def setQerr (q : Nat) (s : State) : State := setQ q { getQ q s with qerr := true } s

def execSqTailWrite (q : Fin 2) (v : U32) (s : State) : Res :=
  let x := getQ q.val s
  .next (if !s.hostUp then s
  else if x.size ≤ v.toNat % 65536 then setQerr q.val s
  else setQ q.val { x with tail := v.setWidth 16 } s)

def execCqHeadWrite (q : Fin 2) (v : U32) (s : State) : Res :=
  .next (if s.hostUp then setQ q.val { getQ q.val s with head := v.setWidth 16 } s else s)

/-- Half of a base address written; bases are 4 KiB aligned. -/
def baseWrite (old : U64) (hi : Bool) (v : U32) : U64 :=
  let n := if hi then old.toNat % 2 ^ 32 + v.toNat * 2 ^ 32 else old.toNat / 2 ^ 32 * 2 ^ 32 + v.toNat / 4096 * 4096
  BitVec.ofNat 64 n

/-- The queue starts over: CQ position, phase and SQ head (R354). -/
def restartQueue (x : PQueue) : PQueue := { x with cqPos := 0, phase := true, sqHead := 0, latched := 0, flush := none }

/-- A base or size written while the queue is disabled and idle. -/
def queueWrite (reg : QueueReg) (v : U32) (x : PQueue) : PQueue :=
  match reg with
  | .sqBaseLo => restartQueue { x with sqBase := baseWrite x.sqBase false v }
  | .sqBaseHi => restartQueue { x with sqBase := baseWrite x.sqBase true v }
  | .cqBaseLo => restartQueue { x with cqBase := baseWrite x.cqBase false v }
  | .cqBaseHi => restartQueue { x with cqBase := baseWrite x.cqBase true v }
  | .size =>
    let n := v.toNat / 16 % 16
    if n = x.sizeLog2 then x
    else if inR n 4 12 then restartQueue { x with sizeLog2 := n }
    else { x with qerr := true }

/-- A `Qn_CTRL` write that repeats the size writes no size. -/
def writesNothing (reg : QueueReg) (v : U32) (x : PQueue) : Bool := reg = .size && v.toNat / 16 % 16 = x.sizeLog2

def execQueueBaseSizeWrite (q : Fin 2) (reg : QueueReg) (v : U32) (s : State) : Res :=
  let x := getQ q.val s
  .next (if !s.hostUp || writesNothing reg v x then s
  else if x.enable || !qIdle q.val s then setQerr q.val s
  else setQ q.val (queueWrite reg v x) s)

/-- `ENABLE`: the first entry fetched after it rises may carry any `SEQ` (R365). -/
def execEnable (q : Fin 2) (v : U32) (s : State) : Res :=
  let x := getQ q.val s
  let on := v.getLsbD 0
  .next (if s.hostUp then setQ q.val { x with enable := on, lastSeq := if on && !x.enable then none else x.lastSeq } s else s)

/-- `FLUSH` (R357): commands held or fetched that have not begun, then the unfetched entries, in sequence order. A `FENCE` that
waits has begun. One written during a recovery waits for its end: what was received before step 1 ends with the abort status, the
rest is not answered before `RECOVERED` (R374, R376; DEDUCED, log 143). -/
def flushQueue (q : Fin 2) (es : List EntryHdr) (s : State) : State :=
  let src := Source.pcie q
  let waiting := (s.cmd.held.filter (fun h => h.req.src = src)).map (·.req) ++ s.cmd.fetched.filter (fun f => f.src = src)
  let s := { s with cmd.held := s.cmd.held.filter (fun h => h.req.src ≠ src) }
  let s := waiting.foldl (fun s f =>
    answer f (mkReply f St.abortedFlush [] (replyFlags f false false false) (if f.has flMirror then 0xFE else 0)) false s) s
  let n := (getQ q.val s).unfetched
  let s := endUnfetched q St.abortedFlush false s.cmd.epoch n es s
  let x := getQ q.val s
  let s := setQ q.val { x with lastSeq := none, latched := x.sqHead } s
  settleFences 64 { s with cmd.fences := s.cmd.fences.map (fun w =>
    { w with toFetch := if q = 0 then (0, w.toFetch.2) else (w.toFetch.1, 0) }) }

def execFlush (t : Ps) (q : Fin 2) (es : List EntryHdr) (s : State) : Res :=
  let s := s.adv t
  .next (if !s.hostUp || s.pathDown then s
  else if s.cmd.recovery.isSome then
    let x := getQ q.val s
    setQ q.val { x with flush := some (x.sqHead, x.tail.toNat, es) } s
  else flushQueue q es s)

/-! ### CMD_CTRL and the session key (R355, R362) -/

/-- A `CMD_CTRL` write; `KEY_CLEAR` wins over `KEY_LOAD`. -/
def ctrlWrite (v : U32) (s : State) : State :=
  { s with cmd := { s.cmd with
      authRequired := v.getLsbD 0
      key := if v.getLsbD 3 then none else if v.getLsbD 1 then some s.cmd.keyStage else s.cmd.key } }

def execKeyLoad (v : U32) (s : State) : Res := .next (if s.hostUp then ctrlWrite v s else s)
def execKeyClear (v : U32) (s : State) : Res := .next (if s.hostUp then ctrlWrite v s else s)

/-- Four key bytes staged. -/
def stageKey (k : Nat) (v : U32) (s : State) : State :=
  { s with cmd.keyStage := s.cmd.keyStage.take (4 * k) ++ le4 v.toNat ++ s.cmd.keyStage.drop (4 * k + 4) }

/-! ### W1C flags (R558) -/

/-- Bits written 1 are cleared, those the hardware sets in the cycle stay set. -/
def w1c {w : Nat} (old v hw : BitVec w) : BitVec w := (old &&& ~~~v) ||| hw

def w1cClear (reg : W1cReg) (v hw : U32) (s : State) : State :=
  match reg with
  | .qStatus q =>
    let x := getQ q.val s
    let err := (x.qerr && !v.getLsbD 1) || hw.getLsbD 1
    setQ q.val { x with qerr := err, fetchErr := (x.fetchErr && !v.getLsbD 2) || hw.getLsbD 2,
                        errTold := if v.getLsbD 1 then false else x.errTold } s
  | .irqCause => { s with link.irqCause := w1c s.link.irqCause (v.setWidth 16) (hw.setWidth 16) }
  | .alarmSummary k => { s with link.alarmSum := vmod s.link.alarmSum k.val (fun x => w1c x v hw) }

def execW1cClear (reg : W1cReg) (v hw : U32) (s : State) : Res := .next (if s.hostUp then w1cClear reg v hw s else s)

/-! ### Other registers of BAR0 (R552, R553) -/

/-- A word of the MSI-X table written. A vector that is no longer masked sends the message it has pending (log 215). -/
def msixWrite (off : Nat) (v : U32) (s : State) : State :=
  let n := (off - 0x2000) / 16
  let s := { s with link.msixTable := (off, v) :: s.link.msixTable.filter (fun e => e.1 ≠ off) }
  if s.link.msixPend.getLsbD n && !s.link.masked n then
    send (.msix n) { s with link.msixPend := s.link.msixPend &&& ~~~BitVec.ofNat 16 (2 ^ n) }
  else s

/-- An aligned 32-bit write to a register without a row of its own; any other access is discarded. -/
def registerWrite (off size : Nat) (v : U32) (s : State) : State :=
  if size ≠ 4 || off % 4 ≠ 0 then s
  else if off = 0x204 then ctrlWrite v s
  else if inR off 0x220 0x23C then stageKey ((off - 0x220) / 4) v s
  else if off = 0x420 then
    let n := v.toNat % 128
    if n ≤ 64 then { s with evq.level := n } else s
  else if off = 0x804 then { s with link.holdoff := v.setWidth 16 }
  else if inR off 0x2000 0x20FF then msixWrite off v s
  else s

def execRegisterWrite (off size : Nat) (v : U32) (s : State) : Res := .next (if s.hostUp then registerWrite off size v s else s)

/-! ### PCIe resets (R550, R554) -/

/-- Commands fetched from the PCIe queues and not answered. -/
def pcieOpen (s : State) : List (Source × U32) :=
  let all := s.cmd.fetched ++ s.cmd.held.map (·.req) ++ s.cmd.fences.map (·.req) ++ (s.cmd.mirror.map (·.req)).toList
  (all.filter (fun f => match f.src with | .pcie _ => true | _ => false)).map (fun f => (f.src, f.seq))

/-- The PCI Express side at reset. -/
def resetPcie (s : State) : State :=
  let waits := s.cmd.fences.map (fun w => { w with toFetch := (0, 0) })
  let s := { s with cmd := { s.cmd with q0 := {}, q1 := {}, orphans := s.cmd.orphans ++ pcieOpen s, fences := waits } }
  let s := unconfigurePcie { s with pool.pages := [] }
  settleFences 64 { s with
    link := { s.link with irqCause := 0, holdoff := 0, alarmSum := Vector.replicate 8 0, msixTable := [], msixPend := 0 } }

def execPcieReset (k : PcieResetKind) (s : State) : Res :=
  .next (if !s.poweredUp then (if k = .perst then { s with link.perstN := false } else s)
  else
    let s := resetPcie s
    if k = .perst then { s with link.perstN := false, link.pcieUp := false } else s)

def execPerstNDeassert (s : State) : Res := .next { s with link.perstN := true, link.pcieUp := s.poweredUp }

/-! ### Ethernet (R532, R561) -/

/-- A port's link. -/
def setEth (port : Fin 2) (up : Bool) (s : State) : State :=
  if port = 0 then { s with link.eth0 := up } else { s with link.eth1 := up }

def execEthLinkDown (t : Ps) (port : Fin 2) (s : State) : Res := .next (setEth port false (s.adv t))

def execEthLinkUp (t : Ps) (port : Fin 2) (s : State) : Res :=
  let s := s.adv t
  .next (if s.poweredUp then setEth port true s else s)

/-! ### SMBus (R562-R564) -/

def execSmbKeyWrite (key : List Byte) (pec : Bool) (s : State) : Res :=
  .next (if pec && s.poweredUp && key.length = 32 then { s with cmd.key := some key } else s)

def execSmbKeyClear (v : U16) (pec : Bool) (s : State) : Res :=
  .next (if pec && s.poweredUp && v.getLsbD 0 then { s with cmd.key := none } else s)

/-- 32 bytes at a position, modulo the record's 128. -/
def recordRead (l : List Byte) (at_ : Nat) : List Byte := (List.range 32).map (fun i => (l[(at_ + i) % 128]?).getD 0)

def recordWrite (l w : List Byte) (at_ : Nat) : List Byte :=
  (List.range 32).foldl (fun l i => l.set ((at_ + i) % 128) ((w[i]?).getD 0)) l

/-- `BOARD_DATA`: a block read or write at the staging pointer, which advances by 8 words. -/
def boardAccess (w : Option (List Byte)) (s : State) : State :=
  let k := s.link.boardPtr.toNat * 4
  let s' := { s with link.boardPtr := s.link.boardPtr + 8 }
  match w with
  | some d => { s' with link.boardStage := recordWrite s.link.boardStage d k, link.boardStaged := true }
  | none => send (.smbData (recordRead (if s.link.boardStaged then s.link.boardStage else s.link.board) k)) s'

def execBoardData (w : Option (List Byte)) (pec : Bool) (s : State) : Res :=
  .next (if s.poweredUp && (w.isNone || pec) then boardAccess w s else s)

/-- The staged record passes its check (R562). -/
def boardOk (l : List Byte) : Bool := fld l 124 4 = (crc32c (l.take 124)).toNat

def execBoardCommit (pec : Bool) (s : State) : Res :=
  .next (if !(pec && s.poweredUp) || s.link.boardWriting.isSome then s
  else if boardOk s.link.boardStage then
    { s with link.boardWriting := some s.link.boardStage, link.boardReject := false }
  else { s with link.boardReject := true })

/-- `BOARD_RECORD_WRITTEN`: the record applies at the next entry to STANDBY from a lower mode. -/
def execBoardRecordWritten (s : State) : Res :=
  .next (match s.link.boardWriting with
    | some r => { s with link.boardNext := some r, link.boardWriting := none }
    | none => s)

/-- `BOARD_PTR` is the one register without a row that takes a write. -/
def execSmbRegisterWrite (code : Byte) (v : U16) (pec : Bool) (s : State) : Res :=
  .next (if pec && s.poweredUp && code = 0x30 then { s with link.boardPtr := v.setWidth 5 } else s)

/-! ### JTAG (R566) -/

/-- Leaving EXTEST, CLAMP or HIGHZ, which load only with `PERST_N` low in STANDBY: PD1 to PD7 restart. -/
def jtagRestart (b : BootIn) (s : State) : State :=
  let s := startDomains b (timeWake (loseDomains s))
  match goodStore b s with
  | none => storeBad b (tellStart (modeItem .standby .standby 8 St.checkFail 0 0 (resetSettings s)))
  | some w => tellStart (loadStore w s)

def execJtagInstructionExit (t : Ps) (b : BootIn) (s : State) : Res :=
  let s := s.adv t
  .next (if s.poweredUp && !s.link.perstN && s.power.mode = .standby then jtagRestart b s else s)

end Sys2Proof.Machine
end

