-- ==== Sys2Proof/Machine/Lines.lean ====
section
/-! DEFINITION. Machine/Lines.lean: a launch, a drain, a DAS or Ochre line, an update and the second tick (R49-R63, R79-R82,
R111, R141-R145, R154, R170, R389). -/

namespace Sys2Proof.Machine

open Sys2Proof

/-! ### Changes at a boundary (R56, R59) -/

/-- A change applied. A map or Ochre setting that restarts the accumulation does so from the boundary it was due at; the
scrambler's cycle of a map that had to wait began there (R149). -/
def applyOne (c : Change) (s : State) : State :=
  let a := amonLatch (applyPlan c s)
  if a.ochre.acc = s.ochre.acc then a
  else { a with ochre.acc := { a.ochre.acc with since := c.due },
                ochre.launched := if c.begun then s.ochre.launched else a.ochre.launched }

/-- Indigo's settings and the map wait until the lines launched before the boundary have been processed. -/
def lineBound (c : Change) : Bool := c.opcode = 0x20 || c.opcode = 0x21

/-- Changes due, in their order. -/
def applyDue (p : Change → Bool) (s : State) : State :=
  (s.light.changes.filter p).foldl (fun s c => applyOne c s)
    { s with light.changes := s.light.changes.filter (fun c => !p c) }

/-- A map whose boundary comes before the lines in flight are processed: the scrambler's cycle starts anew there (R149, R159). -/
def beginMaps (t : Ps) (s : State) : State :=
  let starts (c : Change) : Bool := c.opcode = 0x21 && c.due ≤ t && !c.begun
  if s.light.changes.any starts then
    { s with ochre.launched := 0,
             light.changes := s.light.changes.map (fun c => if starts c then { c with begun := true } else c) }
  else s

/-- The changes due at a boundary; commands that waited for it are settled. -/
def changesAt (t : Ps) (s : State) : State :=
  let early (c : Change) : Bool := s.light.inflight.any (fun r => r.at_ < c.due)
  let s := beginMaps t (applyDue (fun c => c.due ≤ t && !(lineBound c && early c)) s)
  settleFences 64 { (tellHeld s) with cmd.unsettled := s.cmd.unsettled.filter (fun u => t < u.2.2) }

/-- Before a line launched at an instant is processed, the settings due by then apply. -/
def changesFor (at_ : Ps) (s : State) : State := applyDue (fun c => lineBound c && c.due ≤ at_) s

/-! ### The level of a launch (R61-R63, R69, R87, R88) -/

/-- One ramp step towards a level. -/
def stepTo (step : Nat) (from_ to_ : Int) : Int :=
  if (to_ - from_).natAbs ≤ step then to_ else from_ + (to_ - from_).sign * step

/-- The levels at a boundary: a ramp under way makes a step, a new target starts one; a trip, and a restore whose
reference is being taken, hold `APR_LEVEL`. DAS and Ochre launch no more than the pumps support (R69). `was`,
`wasO`: ramps under way before this boundary's changes. -/
def rampAt (was wasO : Bool) (s : State) : State :=
  let l := s.light
  let o := s.ochre
  if l.aprTrip || l.aprArmed then
    { s with light.level := l.cfg.aprLevel, light.ramping := false, ochre.level := l.cfg.aprLevel, ochre.ramping := false }
  else
    let tgt := min (powerTarget s) l.held
    let lv := if was then stepTo l.cfg.rampStep l.level tgt else l.level
    let otgt := min o.cfg.power l.held
    let olv := if wasO then stepTo l.cfg.rampStep o.level otgt else o.level
    let das := s.runMode ≠ .survey
    let och := s.runMode = .survey || s.runMode = .full
    { s with light := { l with level := if das then lv else l.level, ramping := das && lv ≠ tgt },
             ochre.level := if och then olv else o.level, ochre.ramping := och && olv ≠ otgt }

/-! ### LAUNCH (R49-R51) -/

/-- `THERMAL_COARSE` clears at a boundary (R539, R546). -/
def thermalAt (t : Ps) (s : State) : State :=
  if !s.power.thermalCoarse then s
  else
    let late := !s.power.tecLimited && s.power.thermalSince + 20000000000000 ≤ t
    if late || Config.thermalSettled s.freeIdx then { s.took with power.thermalCoarse := false, power.tecLimited := false }
    else s.took

/-- Slots per launch period in the mode that runs. -/
def slotsNow (s : State) : Nat := if s.runMode = .survey then 1 else s.light.plan.nSlots

/-- The raw capture that waits for a launch takes its instant: the first captured one (R144). For taps 1 to 3 that is the launch
instant of the lowest slot selected, not the instant of sample `FIRST` (DESIGN CHOICE, log 226). -/
def rawStarts (r : LaunchRec) (s : State) : State :=
  match s.indigo.raw with
  | some c =>
    let first := if c.tap = 0 || c.tap = 4 then 0 else ((List.range 8).find? (c.slots.getLsbD ·)).getD 0
    if c.start = some r.count && r.slot = first then
      modRec c.handle (fun x => { x with stamp := s.stamp r.at_, sec := s.devSec r.at_, nsec := s.devSubNs r.at_ })
        { s with indigo.raw := some { c with startAt := r.at_ } }
    else s
  | none => s

/-- The waveform of a slot's launch: Ochre's probe, or that of the plan with the slot's direction (R53, R54, R150). -/
def waveOf (s : State) (k : Nat) (ochre : Bool) : Wave :=
  let p := s.light.plan
  if ochre then { pulse := true, tp := s.ochre.cfg.pulseLen * 1000 }
  else if p.pulse then { pulse := true, tp := p.probe }
  else { pulse := false, tp := p.probe, bw := p.chirpBw, taper := p.taper, falling := p.dirMask.getLsbD k }

/-- A launch made: sent out with its waveform and the lead of its port (R15, R49), counted, stamped for the time unit; a capture
that starts with it takes its instant (R144). -/
def makeLaunch (r : LaunchRec) (base : Int) (s : State) : State :=
  let w := r.wave
  let s := send (.launch r.slot r.count r.at_ r.level w.pulse w.tp w.bw w.taper w.falling (delaySteps (s.portOf r.port).dlyTx))
    { s with light.probeCount := s.light.probeCount + 1, light.powerNow := some base }
  let s := if r.ochre then { s with ochre.powerNow := some base } else s
  timFeed 0x18 false r.at_ (timFeed (0x10 + r.slot) false r.at_ (rawStarts r s))

/-- One launch of a slot: made, or held during a calibration run (R189). Slot 7 of FULL and SURVEY is Ochre's. A line launched before
the recovery of the sideband is decided counts as launched during its loss (DESIGN CHOICE, log 227). -/
def launchSlot (k : Nat) (t : Ps) (s : State) : State :=
  if !launches s k then s
  else
    let ochre := k = 7 && (s.runMode = .survey || s.runMode = .full)
    let stale := s.indigo.staleFrom.any (· ≤ t)
    let made := !stale && !(ochre && s.ochre.retired)
    let reduced := s.light.aprTrip || s.light.aprArmed
    let base := if ochre then s.ochre.level else s.light.level
    let trim := if ochre || reduced then 0 else vget s.light.plan.trim k
    let waits := ochre && made && s.ochre.cfg.settle && s.power.thermalCoarse
    let s := if ochre then ochreLaunched made waits s else s
    let r : LaunchRec :=
      { slot := k, count := s.light.launches - 1, at_ := t, ramp := if ochre then s.ochre.ramping else s.light.ramping,
        coarse := s.power.thermalCoarse, reduced := reduced, refLost := s.indigo.refLost, stale := stale,
        lane := if ochre then 255 else vget s.indigo.laneOf k, ochre := ochre,
        tins := BitVec.ofNat 4 (flags s.alarm.level.toList), port := s.light.port, wave := waveOf s k ochre, tl := tlAt s t, ts := tlAt s t / slotsNow s,
        level := base + trim, sideLost := ochre && s.ochre.sideLost, scrambler := if ochre then s.ochre.scrambler else 0,
        waits := waits, dev := s.devNs t }
    let s := { s with light.inflight := s.light.inflight ++ [r] }
    if made then makeLaunch r base s else s

/-- A launch of a survey in WARM, or on the way from STANDBY (R35): slot 0 on the port surveyed, and its launch counts (R50). A survey
beside launches that run, of a YIELDED device (R513), makes none of its own (log 202). -/
def surveyLaunch (g : Gambit) (s : State) : State :=
  match surveyNext s g with
  | none => s
  | some (pulse, level) =>
    let s := s.adv g.nextAt
    let p := s.light.plan
    let r : LaunchRec :=
      { slot := 0, count := s.light.launches, at_ := g.nextAt, ramp := false, coarse := false, reduced := false, refLost := false,
        stale := false, lane := 255, ochre := false, port := g.on,
        wave := if pulse then { pulse := true, tp := surveyTp true }
          else { pulse := false, tp := surveyTp false, bw := p.chirpBw, taper := p.taper },
        tl := surveyPeriod, ts := surveyPeriod, level := level, dev := s.devNs g.nextAt }
    makeLaunch r level
      { s with light.launches := s.light.launches + 1,
               fibre.gambit := some { g with made := g.made + 1, nextAt := g.nextAt + surveyPeriod } }

/-- The next boundary takes the instant that its marker edge has set already (R409). -/
def takePlace (s : State) : State :=
  match s.lock.place with
  | some p =>
    if s.lock.phase = 2 && (p - s.light.nextAt) + (s.light.nextAt - p) < s.lock.pBar then placeBoundary p s
    else { s with lock.place := none }
  | none => s

/-- After a launch the schedule goes to the next slot, k·T_S after slot 0's launch on the 10 ps grid (R49, R409), or to the next
boundary. -/
def nextLaunch (t : Ps) (s : State) : State :=
  let l := s.light
  let n := slotsNow s
  match l.segs with
  | [] => s
  | g :: _ =>
    let first := g.start + (t - g.start) / g.tl * g.tl
    if l.nextSlot + 1 < n then
      { s with light.nextSlot := l.nextSlot + 1, light.nextAt := max t (tenPs (first + (l.nextSlot + 1) * g.tl / n)) }
    else takePlace { s with light.nextSlot := 0, light.nextAt := g.next (t + 1) }

/-- A drain begins at a boundary (R57): no launch until the new plan starts. -/
def beginDrain (t : Ps) (s : State) : Option State :=
  match s.light.segs with
  | g :: h :: rest =>
    if h.drainFrom ≤ t then some { s with light.segs := h :: rest, light.draining := true, light.nextAt := t + g.tl } else none
  | _ => none

/-- The port in force has changed: the counts of the checks start anew (R44, R123), and no zone has a whole second (R33). -/
def portChanged (s : State) : State :=
  let s := resetDark (resetChecks s)
  { s with indigo.zones := s.indigo.zones.map (fun z => { z with spoilt := true }) }

/-- A launch-period boundary: changes, the steps of a calibration run, the pair, lanes, levels, drive, counts; then the launch of
slot 0. -/
def boundary (t : Ps) (s : State) : State :=
  if s.light.stopAt.any (· ≤ t) then stopLaunches s
  else
    let was := s.light.ramping
    let wasO := s.ochre.ramping
    let s := if s.indigo.staleUntil.any (· ≤ t) then endHold s else s
    let port := s.light.port
    let s := beginSteps t (changesAt t s)
    let s := if s.light.port = port then s else portChanged s
    match beginDrain t s with
    | some s => refreshDrives s
    | none =>
      let hold := s.indigo.staleFrom.any (· ≤ t)
      let s := if hold then s else
        { s with light.segs := match s.light.segs with
            | g :: rest => (if g.countAt t = s.light.launches then g else { g with start := t, count := s.light.launches }) :: rest
            | [] => [] }
      let s := pairBoundary s.light.launches s
      let s := burstCheck (rearmBoundary (settleLanes (applyMoves t s)))
      let s := refreshDrives (thermalAt t (rampAt was wasO s))
      let s := if hold then s else { s with light.launches := s.light.launches + 1 }
      nextLaunch t (launchSlot (if s.runMode = .survey then 7 else 0) t (takeSlot 0 (s.light.launches - 1) s))

/-- `LAUNCH`: the next launch instant, of the plan or of a survey. -/
def execLaunch (s : State) : Res :=
  .next (if !s.light.running then
    match s.fibre.gambit with
    | some g => if surveying s && s.light.switching.isNone then surveyLaunch g s else s
    | none => s
  else if s.light.draining || waitsForEdge s then s
  else
    let t := s.light.nextAt
    let s := s.adv t
    if s.light.nextSlot = 0 then boundary t s
    else nextLaunch t (launchSlot s.light.nextSlot t (takeSlot s.light.nextSlot (s.light.launches - 1) s)))

/-! ### Drains and the port switch (R57, R58, R89) -/

def execDrainEnd (s : State) : Res :=
  .next (if !s.light.draining then s
  else
    let s := s.adv s.light.nextAt
    let s := beginSteps s.now (restartAcc (restartAllSlots { s with light.draining := false }))
    match s.light.segs with
    | g :: _ =>
      let s := if g.portMove then moveNow s else s
      if g.waits then s else { s with light.nextAt := g.start, light.nextSlot := 0 }
    | [] => s)

/-- The reference of R85 of the port that the switch has moved to, from its survey (R89 step 3). -/
def loadRef (port : Nat) (s : State) : State :=
  let p := s.portOf port
  match p.survey with
  | some v => setPort port { p with aprRef := v.refLevels } s
  | none => s

/-- `PORT_SWITCH_SETTLED`: after a `PORT_SELECT` the new port's reference is loaded; a survey's switch goes on with the survey, and
that of the `DELAY` step goes back from the other port (R182). -/
def execPortSwitchSettled (s : State) : Res :=
  .next (match s.light.switching with
    | some (p, t) =>
      let s := resetDark (resetChecks { (s.adv t) with light.switching := none })
      if s.fibre.gambit.isSome then surveyBack s
      else if delayRuns s then homeSwitch p s
      else loadRef p s
    | none => s)

/-! ### Light-drive samples (R68-R70, R73, R76-R82) -/

/-- `CASE_TEMP_SAMPLE` (R68): readings, derating, and at once the ceilings, setpoints and held power that follow from it. A changed
`KNEE` does not wait for it (log 193). -/
def execCaseTempSample (t : Ps) (temp : Int) (s : State) : Res :=
  let s := { (s.adv t) with power.tCase := temp }
  .next (if s.power.sleeping then s
  else newHeld (refreshDrives (retakeHeld (measureDrives s))))

/-- `LD_SHORT_DETECT`: a difference beyond the limit of R76 on an enabled channel is a short. -/
def execLdShortDetect (t : Ps) (ch : Fin 8) (diff : Int) (s : State) : Res :=
  let s := s.adv t
  let d := vget s.light.ldc ch.val
  .next (if d.enabled && decide (shortLimit d < (diff.natAbs : Rat)) then retireDrive ch.val 0 (diff % 4294967296).toNat s else s)

/-- `OPEN` confirmed on the SOA gate (R81). -/
def soaOpen (ev : Nat) (diff : Int) (s : State) : State :=
  let d := vget s.light.ldc 2
  fatalSafe { code := 0x0205, unit := 0x0182, evidence := ev, a0 := (diff % 4294967296).toNat, a1 := (d.setpoint % 4294967296).toNat }
    false { s with light.ldc := vset s.light.ldc 2 { d with open_ := true } }

/-- The gate pulses that run, ps: those of a survey (R35); of a launch period, the DAS probe, Ochre's, or both. -/
def gatePulses (s : State) : List Nat :=
  if surveying s then [surveyTp true, surveyTp false] else
  match s.runMode with
  | .survey => [s.ochre.cfg.pulseLen * 1000]
  | .full => [s.light.plan.probe, s.ochre.cfg.pulseLen * 1000]
  | _ => [s.light.plan.probe]

/-- `SOA_OPEN_CONFIRM`: sixteen pulses at the limit; pulses shorter than 20 ns cannot show it (R78, R79). -/
def execSoaOpenConfirm (t : Ps) (diff : Int) (s : State) : Res :=
  let s := s.adv t
  .next (if (vget s.light.ldc 2).enabled && (gatePulses s).any (20000 ≤ ·) then soaOpen 2 diff s else s)

/-- Is every DAS slot dark (R79)? -/
def allDark (s : State) : Bool :=
  processedSlots s ≠ 0 && (s.indigo.dark &&& processedSlots s) = processedSlots s

/-- `SOA_PROBE`: two failed probes confirm `OPEN`, one when every slot is dark; a pass with every slot dark is
`DARK_NOT_DRIVE` (R79, R82). A probe runs for pulses shorter than 20 ns, once every 1,024 launches or when every slot is
dark. R79 and R82 leave open what a corroboration probe does to the cadence and the count of failed probes, and how often
`DARK_NOT_DRIVE` is queued: DESIGN CHOICE, it restarts the cadence and counts like a scheduled one (log 194), and each that passes
queues the item (log 195). -/
def execSoaProbe (t : Ps) (pass : Bool) (s : State) : Res :=
  let s := s.adv t
  let l := s.light
  let corr := allDark s
  .next (if !(vget l.ldc 2).enabled || !(gatePulses s).any (· < 20000) || !(corr || 1024 ≤ l.probeCount) then s
  else
    let s := { s with light.probeRuns := min 65535 (l.probeRuns + 1), light.probeCount := 0,
                      light.probeFails := if pass then l.probeFails else min 65535 (l.probeFails + 1),
                      light.probeStreak := if pass then 0 else l.probeStreak + 1 }
    if pass then
      if corr then raise { code := 0x0206, unit := 0x0182, a0 := s.indigo.dark.toNat } s else s
    else if corr then soaOpen 4 0 s
    else if 2 ≤ s.light.probeStreak then soaOpen 3 0 s
    else s)

/-! ### Raw capture (R141-R145) -/

def rawCaptureSpec : CmdSpec := { opcode := 0xF0, target := .device, mirror := false, len := fixedLen 24 }

/-- Branches of a slot: sub-bands times polarisations (R107). -/
def branches (s : State) : Nat := (if s.light.plan.pulse then 1 else s.indigo.subbands) * (if s.indigo.pol = 1 then 2 else 1)

/-- Bytes of a line of a tap, and of the whole capture. -/
def rawLineBytes (s : State) (tap count : Nat) : Nat :=
  match tap with
  | 0 | 4 => 8 * count
  | 2 => 16 + 4 * branches s * count
  | _ => 16 + 8 * count
def rawBytes (s : State) (tap slots count lines : Nat) : Nat :=
  if tap = 0 || tap = 4 then 8 * count else rawLineBytes s tap count * popCount 8 slots * lines

/-- The instant of a launch count, in the schedule accepted. -/
def instantOf (segs : List Seg) (n : Nat) : Option Ps :=
  match (segs.filter (fun g => g.count ≤ n)).getLast? with
  | some g => some (g.start + (n - g.count) * g.tl)
  | none => none

/-- Ranges of a request. Three of them R145 does not write out: DESIGN CHOICE, taps 1 to 3 with no slot, samples past the last of a
line (R14) and zones past the port's are `BAD_PARAM` (log 228). -/
def rawBad (p : List Byte) (s : State) : Bool :=
  let tap := fld p 0 1
  let slots := fld p 1 1
  let first := fld p 4 4
  let count := fld p 8 4
  let lines := fld p 12 4
  let whole := tap = 0 || tap = 4
  let base := s.indigo.map.dasBase s.light.port
  4 < tap || 1 < fld p 2 1 || fld p 3 1 ≠ 0 || count = 0
    || (whole && (slots ≠ 0 || first ≠ 0 || 524288 < count || lines ≠ 1))
    || (!whole && (slots = 0 || (by8 slots &&& ~~~(processedSlots s)) ≠ 0 || !(inR lines 1 65536)))
    || ((tap = 1 || tap = 2) && 262144 < first + count)
    || (tap = 3 && (first < base || base + (s.indigo.map.das s.light.port).length < first + count))
    || 268435456 < rawBytes s tap slots count lines

/-- Where a capture starts: launch count and the boundary's instant; none when it will not be launched. At a boundary on which a
drain begins no launch is made: the first after it counts (R57). -/
def rawStart (p : List Byte) (s : State) : Option (Nat × Ps) :=
  if fld p 2 1 = 1 then
    match instantOf s.light.segs (fld p 16 8) with
    | some t => if s.light.stopAt.any (· ≤ t) then none else some (fld p 16 8, t)
    | none => none
  else
    match boundaryIn s.light.segs (s.now + Config.leadTime) with
    | some (g, b) =>
      if s.light.stopAt.any (· ≤ b) then none
      else match s.light.segs.find? (fun h => h.drainFrom = b ∧ g.start < h.start) with
        | some h => some (h.count, h.start)
        | none => some (g.countAt b, b)
    | none => none

/-- In WARM a capture starts at the first converter instant (tap 0) or reference instant (tap 4) at least 25 us ahead (R144). The
instants are taken as multiples of 0.5 ns and 4 ns of the model's clock (log 179). -/
def rawWarmStart (tap : Nat) (s : State) : Ps :=
  let step := if tap = 0 then 500 else 4000
  cdiv (s.now + Config.leadTime) step * step

def cmdRawCapture (f : Fetched) (s : State) : Ans :=
  let p := f.payload
  let tap := fld p 0 1
  let slots := fld p 1 1
  let whole := tap = 0 || tap = 4
  let at1 := fld p 2 1 = 1
  let j := projected s
  let start := rawStart p s
  let bytes := rawBytes j tap slots (fld p 8 4) (fld p 12 4)
  let rate := rawLineBytes j tap (fld p 8 4) * popCount 8 slots * 1000000000000
  let room : Rat := (rtReserve s : Rat) - rtArmed s
  checked [
      (!s.inMode (if inR tap 1 3 then [.acoustic, .full] else [.warm, .acoustic, .full]), St.wrongMode),
      (s.power.mode ≠ .warm && start.isNone && (!s.light.running || s.light.stopAt.isSome), St.wrongMode),
      (s.indigo.raw.isSome, St.busy),
      (rawBad p j || (s.power.mode = .warm && at1)
        || (at1 && !(start.any (fun x => s.now + Config.leadTime ≤ x.2))), St.badParam),
      ((!whole && room * (acceptedTl j : Rat) < (rate : Rat)) || blocksFree s < blocksOf (128 + bytes) || tableFree s = 0,
        St.noSpace)] s fun _ =>
    let at_ := (start.map (·.2)).getD (rawWarmStart tap s)
    let k := ((List.range 8).find? (tst slots)).getD 0
    let first := if whole then at_ else at_ + k * (j.light.plan.tl / j.light.plan.nSlots)
    let (e, g) := newEntry s
    let r : Record :=
      { entry := e, gen := g, ctx := 256, source := 0, cause := 0, epoch := s.cmd.epoch, firstZone := 0, nZones := 0, lineSize := 0,
        preReq := 0, postReq := 0, missedBefore := 0, zone := 0xFFFFFFFF, seq := 0, stamp := s.stamp first, sec := s.devSec first,
        nsec := s.devSubNs first, postBlocks := blocksOf (128 + bytes) }
    let c : RawCapture :=
      { tap := tap, slots := by8 slots, first := fld p 4 4, count := fld p 8 4, lines := fld p 12 4, start := start.map (·.1),
        startAt := first, bytes := bytes, handle := r.handle }
    { status := St.ok, st := { (addRec r s) with indigo.raw := some c },
      payload := le8 ((start.map (·.1)).getD (2 ^ 64 - 1)) ++ le4 bytes }

def execRawCapture (r : Req) (s : State) : Res := .next (perform rawCaptureSpec cmdRawCapture r s)

/-- The capture is complete: its record is reported (R143). -/
def rawDone (c : RawCapture) (s : State) : State :=
  completeRec c.handle (modRec c.handle (fun r => { r with raw := c.data, gap := c.full }) { s with indigo.raw := none })

/-- What a capture of taps 1 to 3 keeps of a line: the descriptor padded to 16 bytes and the units (R141); tap 3's units are the free
bytes of the combined phasor, the value and the zone's flag byte. -/
def rawUnits (c : RawCapture) (i n : Nat) (l : Line) : List Byte :=
  let unit (j : Nat) : List Byte :=
    let z := c.first + j - l.base
    (List.range 4).map (fun b => Config.rawByte 3 i (8 * j + b)) ++ leInt 2 ((l.values[z]?).getD 0) ++ [(l.zflags[z]?).getD 0, 0]
  padTo 16 l.desc ++
    (if c.tap = 3 then (List.range c.count).flatMap unit else (List.range (n - 16)).map (Config.rawByte c.tap i))

/-- Bytes the real-time memory path takes, or a line it cannot accept (R459). -/
def rtPut (n : Nat) (drop : Option Nat) (s : State) : State :=
  match drop with
  | some ch => rtDropped ch s
  | none => rtWrite n s

/-- A line of taps 1 to 3 is added to the capture; a line the memory cannot accept leaves a gap (R254). -/
def rawLine (k count : Nat) (l : Line) (drops : List (Nat × Fin 4)) (s : State) : State :=
  match s.indigo.raw with
  | none => s
  | some c =>
    if c.tap = 0 || c.tap = 4 || !c.slots.getLsbD k || l.stale || c.start.any (fun n => count < n) then s
    else
      let n := rawLineBytes s c.tap c.count
      let drop := realDrop ((drops.find? (fun d => d.1 = 256)).map (·.2.val)) s
      let data := match drop with
        | some _ => (List.range n).map (fun b => Config.poolByte c.handle (128 + c.data.length + b))
        | none => rawUnits c s.freeIdx n l
      let c := { c with got := c.got + 1, data := c.data ++ data, full := c.full || drop.isSome }
      let s := { (rtPut n drop s).took with indigo.raw := some c }
      if c.got < popCount 8 c.slots.toNat * c.lines then s else rawDone c s

/-- Tap 4's units: three 14-bit amplitudes, sign-extended, and the phase they carry on by R108, in 2·pi/65,536 rad (R141). -/
def rawRefs (tau : Nat) : Rat → List RefSample → List Byte
  | _, [] => []
  | last, r :: rs =>
    let psi := at0 (psiStep tau [last] r) 0
    leInt 2 r.a ++ leInt 2 r.b ++ leInt 2 r.c ++ leInt 2 (roundAway (psi * 65536)) ++ rawRefs tau psi rs

/-- A converter code of a capture, of so many bits. -/
def rawInt (c : RawCapture) (idx bits j : Nat) : Int := ((Config.rawCode c.tap idx j).setWidth bits).toInt

/-- What taps 0 and 4 hold: four int16 per unit (R141). Tap 0: 12-bit codes, sign-extended. Tap 4: the reference readout from the
first captured instant on, its phase from the one before it, 0 where the kept history does not reach (R108; log 18). What the lines
have brought is that; codes that no line brings are free. -/
def rawCopy (c : RawCapture) (idx : Nat) (i : IndigoState) : List Byte :=
  let got := c.brought.length / 8
  let n := c.bytes / 8 - got
  c.brought ++ if c.tap = 0 then (List.range (4 * n)).flatMap (fun j => leInt 2 (rawInt c idx 12 j))
  else
    rawRefs i.tau ((psiAtTime i.psi i.psiAt (c.startAt + 4000 * got - 4000)).getD 0)
      ((List.range n).map (fun j =>
        { a := rawInt c idx 14 (3 * j), b := rawInt c idx 14 (3 * j + 1), c := rawInt c idx 14 (3 * j + 2) }))

/-- The units of tap 0 in converter samples, and of tap 4 in reference samples with their phase, newest value first in `psi`
(R141). -/
def rawCodes (xs : List RxSample) : List Byte :=
  xs.flatMap (fun x => leInt 2 x.xi ++ leInt 2 x.xq ++ leInt 2 x.yi ++ leInt 2 x.yq)
def rawPhases (refs : List RefSample) (psi : List Rat) : List Byte :=
  ((List.range refs.length).zip refs).flatMap (fun x =>
    leInt 2 x.2.a ++ leInt 2 x.2.b ++ leInt 2 x.2.c ++ leInt 2 (roundAway (at0 psi (refs.length - 1 - x.1) * 65536)))

/-- What a line brings of a capture of tap 0 or 4 in progress: the converter samples that follow those there are, or the reference
samples from the first captured instant on (R141, R144). -/
def rawBring (r : LaunchRec) (d : LineIn) (s : State) : State :=
  match s.indigo.raw with
  | none => s
  | some c =>
    let got := c.brought.length / 8
    let off := (r.at_ - c.startAt) / 500
    let late (j : Nat) : Bool := c.startAt + 4000 * (d.refs.length - 1 - j) ≤ s.indigo.psiAt
    let new :=
      if c.tap = 0 && c.startAt ≤ r.at_ && off ≤ got then rawCodes ((rxCodes s d.rx).drop (got - off))
      else if c.tap = 4 then
        rawPhases (d.refs.drop ((List.range d.refs.length).takeWhile (fun j => !late j)).length) s.indigo.psi
      else []
    { s with indigo.raw := some { c with brought := (c.brought ++ new).take c.bytes } }

/-- `RAW_CAPTURE_COPY_DONE`: taps 0 and 4 are in the pool (R142). -/
def execRawCaptureCopyDone (t : Ps) (gap : Bool) (s : State) : Res :=
  let s := s.adv t
  .next (match s.indigo.raw with
    | some c =>
      if (c.tap = 0 || c.tap = 4) && c.startAt ≤ s.now then
        rawDone { c with data := rawCopy c s.freeIdx s.indigo, full := gap } s.took
      else s
    | none => s)

/-! ### DAS_LINE (R111-R126, R204) -/

/-- When the last zone of a line is on the zone bus (R126). -/
def lineAt (s : State) (r : LaunchRec) : Ps :=
  let l := (s.portOf r.port).fibreProd.getD 0
  r.at_ + rtPs l + (if r.wave.pulse then 0 else r.wave.tp) + 450000

/-- The last zone whose exception entry a line keeps (R120). -/
def keptTo (base : Nat) (fl : List Byte) : Nat :=
  match (exceptions base fl)[1023]? with
  | some x => x.1
  | none => 0xFFFFFF

/-- The contexts a line of a source reaches: armed or bound to zone cores, with their span on the line's port (R204, R293). -/
def lineContexts (s : State) (source port : Nat) : List Nat :=
  (List.range 256).filter (fun k =>
    let c := ctx s k
    c.source = source && spanPort s.indigo.map c = some port && (c.live || !(groupOf s k).isEmpty))

/-- A line as the contexts see it. -/
def srcOf (source : Nat) (l : Line) (always : Bool) (at_ : Ps) (tins : BitVec 4) : SrcLine :=
  { source := source, at_ := at_, dev := l.dev, slot := l.slot, base := l.base, desc := l.desc, values := l.values,
    flags := l.zflags, nf := l.nfFirst, excTo := keptTo l.base l.zflags, always := always, lineFlags := l.lflags, tins := tins }

/-- Automatic power reduction stays armed in the `DELAY` step (R182): a reflection that its launches show trips it (R86). -/
def delayApr (r : LaunchRec) (peaks : List Peak) (s : State) : State :=
  if !r.stale || !delayRuns s || switchMoving s then s
  else match reflHit s.light.cfg (s.portOf r.port) peaks with
    | some h => aprTrip h s
    | none => s

/-- A DAS line whose launch is known. -/
def dasLine (r : LaunchRec) (d : LineIn) (s : State) : State :=
  let s := changesFor r.at_ { (s.adv (lineAt s r)) with light.inflight := s.light.inflight.erase r }
  let (l, s) := dasProcess r d s
  let s := amonDas l (rawBring r d (delayApr r d.peaks s))
  let skip := (l.lflags &&& 0x23) ≠ 0
  let tp := if r.wave.pulse then 0 else r.wave.tp
  let src := { srcOf 1 l skip r.at_ r.tins with bus := tp + 450000, lag := tp + 700000, ts := r.ts }
  let s := flushAlarms (lineToContexts (lineContexts s 1 l.port) src d.ringDrop s)
  -- the last line in flight leaves no later line for a point that waits
  flushPoints (rawLine r.slot r.count l d.ringDrop s)

def execDasLine (d : LineIn) (s : State) : Res :=
  .next (match s.light.inflight.find? (fun r => !r.ochre) with
    | some r => dasLine r d s
    | none => s)

/-! ### OCHRE_LINE and OCHRE_UPDATE (R154, R170) -/

/-- When the last gate window of an Ochre line is complete (R170). -/
def ochreAt (s : State) (r : LaunchRec) : Ps :=
  r.at_ + rtPs ((s.portOf r.port).fibreProd.getD 0) + r.wave.tp

def ochreLine (r : LaunchRec) (d : OchreIn) (s : State) : State :=
  let s := changesFor r.at_ { (s.adv (ochreAt s r)) with light.inflight := s.light.inflight.erase r }
  ochreAdd r d (if r.stale then s else aprCheck r (powerTrace (lanes s r (rxCodes s d.rx))) d.peaks s)

def execOchreLine (d : OchreIn) (s : State) : Res :=
  .next (match s.light.inflight.find? (fun r => r.ochre) with
    | some r => ochreLine r d s
    | none => s)

/-- A dwell by updates counts one with launches (R544). -/
def dwellUpdate (n : Nat) (s : State) : State :=
  match s.power.duty with
  | .dwell k u => if n = 0 || k = 0 then s else { s with power.duty := .dwell (k - 1) u }
  | _ => s

/-- `OCHRE_UPDATE`: the finished accumulation goes to contexts and streams. -/
def execOchreUpdate (t : Ps) (ringDrop : List (Nat × Fin 4)) (s : State) : Res :=
  let s := s.adv t
  .next (match s.ochre.ready with
    | none => s
    | some r =>
      let (l, s) := ochreIssue r s
      let s := amonDts l (dwellUpdate l.count s)
      let skip := tst l.lflags 0 || l.count = 0
      let tins := BitVec.ofNat 4 (flags s.alarm.level.toList)
      flushPoints (lineToContexts (lineContexts s 2 l.port) (srcOf 2 l skip s.now tins) ringDrop s))

/-! ### SECOND_TICK (R121, R389) -/

/-- h·nu of R29 at a carrier (R46), J. -/
def photonEnergy (carrier : Nat) : Rat := 12815 / 10 ^ 23 * ((190000 + carrier : Nat) / 193400)

/-- Squared magnitude of the transform of a second's outputs at a bin, in rad squared; one LSB is 2·pi/65,536 rad (R26). -/
def outputBin (xs : List Int) (m : Nat) : Rat :=
  (2 * piR / 65536) ^ 2 * (Cplx.sum (((List.range xs.length).zip xs).map (fun p =>
    Cplx.scale p.2 (cis (-((m * p.1 % xs.length : Nat) : Rat) / xs.length))))).norm2

/-- S_meas·f_z/2 (R33): the mean over 0.80 to 0.95 of the acoustic bandwidth f_z/2 of the outputs' periodogram. -/
def measuredNoise (xs : List Int) : Rat :=
  let n := xs.length
  let bins := (List.range n).filter (fun m => 40 * n ≤ 100 * m && 1000 * m ≤ 475 * n)
  if bins.isEmpty then 0 else (bins.map (outputBin xs)).sum / (bins.length * n : Nat)

/-- sigma squared of R29: 1/(2N) for each gauge end on each of two lines, N the photons detected in a cell of a mean power. -/
def shotBound (carrier atten : Nat) (powEnd powGauge : Rat) : Rat :=
  let photons (p : Rat) : Rat := Config.quantumEff * (Config.rxEnergy atten * p) / photonEnergy carrier
  1 / photons powEnd + 1 / photons powGauge

/-- A value as int16, to the nearest, limited to its range. -/
def int16Of (x : Rat) : U16 := BitVec.ofInt 16 (max (-32768) (min 32767 (roundAway x)))

/-- The limit margin of a zone over its second (R33). A second that brought no value has none (log 180). -/
def zoneMargin (s : State) (z : DasZone) : U16 :=
  if z.spoilt || z.powN = 0 then 0x7FFF
  else
    let b := shotBound s.light.plan.carrier s.indigo.atten (z.powEnd / z.powN) (z.powGauge / z.powN)
    int16Of (10 * db10 (measuredNoise z.sec.reverse / b))

/-- The mean received power at a zone's last sample over its second, 0.01 dBm (R121). -/
def zonePower (s : State) (z : DasZone) : U16 :=
  int16Of (100 * db10 (1000 * (Config.rxPower s.indigo.atten * (z.powEnd / z.powN))))

/-- The units of the zone-status line (R121). -/
def statusUnits (s : State) (zs : List DasZone) : List U16 :=
  zs.flatMap (fun z => [zoneMargin s z, zonePower s z, BitVec.ofNat 16 z.fades, BitVec.ofNat 16 z.sats])

/-- A new second begins for the zones; on the port not selected it brings no measurement (R33). -/
def tickZones (s : State) : State :=
  let own := s.indigo.map.das1.length
  { s with indigo.zones := ((List.range s.indigo.zones.length).zip s.indigo.zones).map (fun x =>
      { x.2 with fades := 0, sats := 0, sec := [], powEnd := 0, powGauge := 0, powN := 0,
                 spoilt := if x.1 < own then s.light.port ≠ 1 else s.light.port ≠ 2 }) }

/-- The zone-status line of a second. -/
def statusLine (s : State) : State :=
  let port := s.light.port
  let base := s.indigo.map.dasBase port
  let n := (s.indigo.map.das port).length
  let zs := (s.indigo.zones.drop base).take n
  let x := stream s 256
  let seq := if x.resync && x.units.isEmpty then 0 else x.secs
  let desc := le4 (s.stamp s.now) ++ le4 (s.devSec s.now) ++ leBytes 3 base ++ le1 port ++ le4 n
  codeLine 256 { at_ := s.now, seq := seq % 2 ^ 32, desc := desc, exc := [], units := statusUnits s zs,
                 unitAt := fun _ => s.now } s

/-- A second of stream 0x0100 (R318): its line, and one more since it started. -/
def statusSecond (s : State) : State :=
  modStream 256 (fun x => { x with secs := x.secs + 1, tick := x.tick + 1 }) (if streamRuns s 256 then statusLine s else s)

/-- The instant of the next whole second of device time: found from the present rate (log 26). -/
def nextSecond (s : State) : Ps :=
  let x := s.time
  let d := s.devAt s.now
  let left := ((d / 1000000000000).floor + 1 : Rat) * 1000000000000 - d
  let v := 1 + x.rate / 1000000000000
  let slew := x.toSlew - x.slewed s.now
  let u := (if slew < 0 then -(x.slewMax : Rat) else x.slewMax) / 1000000000
  -- the slew may end before the second does
  let dt := if slew = 0 || slew / u * v + slew < left then (left - slew) / v else left / (v + u)
  s.now + dt.ceil.toNat

/-- `SECOND_TICK` by the instant `t`: before the next whole second nothing occurs (log 4). -/
def execSecondTick (t : Ps) (s : State) : Res :=
  .next (if s.power.sleeping || s.power.starting || t < nextSecond s then s.adv t
  else
    let s := s.adv (nextSecond s)
    let s := epochItem false (s.devSec s.now) 0 s
    timFeed 0x30 false s.now (tickZones (statusSecond s)))

end Sys2Proof.Machine
end

