-- ==== Sys2Proof/Machine/Transport.lean ====
section
/-! DEFINITION. Machine/Transport.lean: commands tried again (R370) and commands mirrored between the devices of a pair
(R372), which the device runs by their opcode. -/

namespace Sys2Proof.Machine

open Sys2Proof

/-- The commands of R351 but `FENCE`: what each checks and does. -/
def opBody (op : Nat) : Option (CmdSpec × (Fetched → State → Ans)) :=
  match op with
  | 0x00 => some (nopSpec, cmdNop)
  | 0x01 => some (getCapsSpec, cmdGetCaps)
  | 0x02 => some (getStatusSpec, cmdGetStatus)
  | 0x03 => some (setModeSpec, cmdSetMode)
  | 0x05 => some (resetUnitSpec, cmdResetUnit)
  | 0x06 => some (setNodeSpec, cmdSetNode)
  | 0x07 => some (getLogSpec, cmdGetLog)
  | 0x10 => some (launchCfgSpec, cmdLaunchCfg)
  | 0x11 => some (slotCfgSpec, cmdSlotCfg)
  | 0x12 => some (lightCfgSpec, cmdLightCfg)
  | 0x13 => some (portSelectSpec, cmdPortSelect)
  | 0x14 => some (gambitRunSpec, cmdGambitRun)
  | 0x15 => some (gambitReadSpec, cmdGambitRead)
  | 0x16 => some (aprCfgSpec, cmdAprCfg)
  | 0x20 => some (indigoCfgSpec, cmdIndigoCfg)
  | 0x21 => some (zoneMapLoadSpec, cmdZoneMapLoad)
  | 0x22 => some (zoneMapReadSpec, cmdZoneMapRead)
  | 0x28 => some (ochreCfgSpec, cmdOchreCfg)
  | 0x29 => some (ochreReadSpec, cmdOchreRead)
  | 0x2A => some (refCoilCfgSpec, cmdRefCoilCfg)
  | 0x30 => some (ctxSetSpec, cmdCtxSet)
  | 0x31 => some (ctxGetSpec, cmdCtxGet)
  | 0x32 => some (ctxArmSpec, cmdCtxArm)
  | 0x33 => some (ctxDisarmSpec, cmdCtxDisarm)
  | 0x34 => some (patternSetSpec, cmdPatternSet)
  | 0x35 => some (threshLoadSpec, cmdThreshLoad)
  | 0x36 => some (alarmRouteSpec, cmdAlarmRoute)
  | 0x40 => some (recListSpec, cmdRecList)
  | 0x41 => some (recFetchSpec, cmdRecFetch)
  | 0x42 => some (recReleaseSpec, cmdRecRelease)
  | 0x43 => some (poolCfgSpec, cmdPoolCfg)
  | 0x50 => some (coreLoadSpec, cmdCoreLoad)
  | 0x51 => some (coreStartSpec, cmdCoreStart)
  | 0x52 => some (coreStopSpec, cmdCoreStop)
  | 0x53 => some (coreReadSpec, cmdCoreRead)
  | 0x58 => some (streamCfgSpec, cmdStreamCfg)
  | 0x59 => some (streamSaveSpec, cmdStreamSave)
  | 0x5A => some (streamRestoreSpec, cmdStreamRestore)
  | 0x5B => some (bulkLoadSpec, cmdBulkLoad)
  | 0x60 => some (ptpCfgSpec, cmdPtpCfg)
  | 0x61 => some (ptpStatusSpec, cmdPtpStatus)
  | 0x62 => some (timeGetSpec, cmdTimeGet)
  | 0x63 => some (domainSelectSpec, cmdDomainSelect)
  | 0x64 => some (timCfgSpec, cmdTimCfg)
  | 0x65 => some (timReadSpec, cmdTimRead)
  | 0x66 => some (launchSyncSpec, cmdLaunchSync)
  | 0x70 => some (calRunSpec, cmdCalRun)
  | 0x71 => some (calSaveSpec, cmdCalSave)
  | 0x72 => some (calRestoreSpec, cmdCalRestore)
  | 0x73 => some (calQualitySpec, cmdCalQuality)
  | 0x78 => some (memStatusSpec, cmdMemStatus)
  | 0x79 => some (memTrainSpec, cmdMemTrain)
  | 0x7A => some (memMapSpec, cmdMemMap)
  | 0x80 => some (auxCfgSpec, cmdAuxCfg)
  | 0x81 => some (auxReadSpec, cmdAuxRead)
  | 0x82 => some (amonCfgSpec, cmdAmonCfg)
  | 0x90 => some (pairCfgSpec, cmdPairCfg)
  | 0x91 => some (pairStatusSpec, cmdPairStatus)
  | 0x92 => some (castleSpec, cmdCastle)
  | 0xA0 => some (faultReadSpec, cmdFaultRead)
  | 0xA1 => some (faultClearSpec, cmdFaultClear)
  | 0xA2 => some (spareStatusSpec, cmdSpareStatus)
  | 0xF0 => some (rawCaptureSpec, cmdRawCapture)
  | 0xF1 => some (selfTestSpec, cmdSelfTest)
  | 0xF2 => some (fwUpdateSpec, cmdFwUpdate)
  | _ => none

/-! ### Deferred commands (R370) -/

/-- The held command of a source. -/
def heldOf (src : Source) (s : State) : Option HeldCmd := s.cmd.held.find? (fun h => h.req.src = src)

/-- The command is no longer held. -/
def unhold (src : Source) (s : State) : State := { s with cmd.held := s.cmd.held.eraseP (fun h => h.req.src = src) }

/-- One more attempt: it stays held while it would return `BUSY`. -/
def retry (src : Source) (h : HeldCmd) (s : State) : State :=
  match opBody h.req.opcode.toNat with
  | none => s
  | some (sp, body) =>
    let s' := unhold src s
    match preCheck sp h.req s' with
    | some st => conclude h.req (reject st s') false
    | none =>
      let a := body h.req s'
      if s'.enteringSleep && a.status ≠ St.notFitted then conclude h.req (reject St.wrongMode s') false
      else if a.status = St.busy then
        { s with cmd.held := s.cmd.held.map (fun x => if x.req.src = src then { x with tried := s.now } else x) }
      else conclude h.req a (a.status = St.ok || a.status = St.accepted || a.status = St.degraded)

/-- The partner's requests are executed in the order received, without order against the own queues, while none of them is held
and no recovery runs (R372, R376). -/
def drainPartner : Nat → State → State
  | 0, s => s
  | n + 1, s =>
    if s.cmd.recovery.isSome || (heldOf .partner s).isSome then s
    else
      match s.cmd.fetched.find? (fun f => f.src = .partner) with
      | none => s
      | some f =>
        drainPartner n (match opBody f.opcode.toNat with
          | none => conclude f (reject St.badOpcode s) false
          | some (sp, body) => attempt sp body f s)

def execDeferRetry (t : Ps) (src : Source) (s : State) : Res :=
  let s := s.adv t
  .next (match heldOf src s with
    | some h =>
      if s.pathDown || s.cmd.recovery.isSome || s.cmd.mirror.isSome || s.now < h.tried + 100000000 then s
      else drainPartner 64 (retry src h s)
    | none => s)

/-- `DEFER_TIMEOUT`: 100 ms after the first attempt it changes nothing. -/
def execDeferTimeout (t : Ps) (src : Source) (s : State) : Res :=
  let s := s.adv t
  .next (match heldOf src s with
    | some h =>
      if s.pathDown || s.cmd.recovery.isSome || s.now < h.first + 100000000000 then s
      else let s' := unhold src s
           drainPartner 64 (conclude h.req (reject St.timeout s') false)
    | none => s)

/-! ### Mirrored commands (R372) -/

/-- A mirrored request as received: it takes its place behind those received before it (R372). -/
def partnerFetched (op : Byte) (r : Req) (s : State) : Fetched :=
  { src := .partner, opcode := op, tag := r.tag, seq := r.seq, flags := r.flags, target := r.target, rsv := r.rsv,
    reply := r.replyTo, payload := r.payload, failed := none, epoch := s.cmd.epoch, uncached := true }

/-- A request of the partner. A recovery ends those received before its step 1 with its abort status; one received later waits for
its end and is executed under the new epoch. -/
def partnerRequest (op : Byte) (r : Req) (s : State) : State := drainPartner 64 (enqueue (partnerFetched op r s) s)

def execMirroredRequest (op : Byte) (r : Req) (s : State) : Res :=
  let s := s.adv r.at_
  .next (if s.pathDown || !s.inPair then s else partnerRequest op r s)

/-- The reply to a mirrored command goes out with the partner's status. -/
def mirrorDone (status : Byte) (m : MirrorWait) (s : State) : State :=
  let s := answer m.req { m.reply with partner := status } false { s with cmd.mirror := none }
  let s := if m.reply.status.toNat = St.accepted then { s with cmd.cmdsDone := s.cmd.cmdsDone - 1 } else s
  settle s

def execMirrorReply (t : Ps) (status : Byte) (s : State) : Res :=
  let s := s.adv t
  .next (match s.cmd.mirror with
    | some m => if s.pathDown then s else mirrorDone status m s
    | none => s)

def execMirrorTimeout (t : Ps) (s : State) : Res :=
  let s := s.adv t
  .next (match s.cmd.mirror with
    | some m => if s.pathDown || s.now < m.sent + 50000000 then s else mirrorDone (by8 St.timeout) m s
    | none => s)

/-! ### Recovery (R374) -/

/-- `RECOVERY`: the one in progress; where none was decided by another row, one of the given cause and unit. -/
def execRecovery (t : Ps) (cause : Byte) (unit : U16) (e0 e1 : List EntryHdr) (s : State) : Res :=
  let s := s.adv t
  .next (if s.pathDown then s
  else
    let s := if s.cmd.recovery.isNone && cause.toNat ≤ 5 then startRecovery cause unit [] s else s
    match s.cmd.recovery with
    | some r => drainPartner 64 (finishRecovery r e0 e1 s)
    | none => s)

end Sys2Proof.Machine
end

