-- ==== Sys2Proof/Machine/Dispatch.lean ====
section
/-! DEFINITION. Machine/Dispatch.lean: the meaning of each command, one arm per row of the table. -/

namespace Sys2Proof.Machine

open Sys2Proof

/-- The effect of a command on everything but the queue of waiting commands. -/
def exec (i : Instr) (s : State) : Host.Outcome State Fault Refusal :=
  match i with
  | .nop r => Sys2Proof.Machine.execNop r s
  | .getCaps r => Sys2Proof.Machine.execGetCaps r s
  | .getStatus r => Sys2Proof.Machine.execGetStatus r s
  | .setMode r => Sys2Proof.Machine.execSetMode r s
  | .fence r => Sys2Proof.Machine.execFence r s
  | .resetUnit r => Sys2Proof.Machine.execResetUnit r s
  | .setNode r => Sys2Proof.Machine.execSetNode r s
  | .getLog r => Sys2Proof.Machine.execGetLog r s
  | .launchCfg r => Sys2Proof.Machine.execLaunchCfg r s
  | .slotCfg r => Sys2Proof.Machine.execSlotCfg r s
  | .lightCfg r => Sys2Proof.Machine.execLightCfg r s
  | .portSelect r => Sys2Proof.Machine.execPortSelect r s
  | .gambitRun r => Sys2Proof.Machine.execGambitRun r s
  | .gambitRead r => Sys2Proof.Machine.execGambitRead r s
  | .aprCfg r => Sys2Proof.Machine.execAprCfg r s
  | .indigoCfg r => Sys2Proof.Machine.execIndigoCfg r s
  | .zoneMapLoad r => Sys2Proof.Machine.execZoneMapLoad r s
  | .zoneMapRead r => Sys2Proof.Machine.execZoneMapRead r s
  | .ochreCfg r => Sys2Proof.Machine.execOchreCfg r s
  | .ochreRead r => Sys2Proof.Machine.execOchreRead r s
  | .refCoilCfg r => Sys2Proof.Machine.execRefCoilCfg r s
  | .ctxSet r => Sys2Proof.Machine.execCtxSet r s
  | .ctxGet r => Sys2Proof.Machine.execCtxGet r s
  | .ctxArm r => Sys2Proof.Machine.execCtxArm r s
  | .ctxDisarm r => Sys2Proof.Machine.execCtxDisarm r s
  | .patternSet r => Sys2Proof.Machine.execPatternSet r s
  | .threshLoad r => Sys2Proof.Machine.execThreshLoad r s
  | .alarmRoute r => Sys2Proof.Machine.execAlarmRoute r s
  | .recList r => Sys2Proof.Machine.execRecList r s
  | .recFetch r => Sys2Proof.Machine.execRecFetch r s
  | .recRelease r => Sys2Proof.Machine.execRecRelease r s
  | .poolCfg r => Sys2Proof.Machine.execPoolCfg r s
  | .coreLoad r => Sys2Proof.Machine.execCoreLoad r s
  | .coreStart r => Sys2Proof.Machine.execCoreStart r s
  | .coreStop r => Sys2Proof.Machine.execCoreStop r s
  | .coreRead r => Sys2Proof.Machine.execCoreRead r s
  | .streamCfg r => Sys2Proof.Machine.execStreamCfg r s
  | .streamSave r => Sys2Proof.Machine.execStreamSave r s
  | .streamRestore r => Sys2Proof.Machine.execStreamRestore r s
  | .bulkLoad r => Sys2Proof.Machine.execBulkLoad r s
  | .ptpCfg r => Sys2Proof.Machine.execPtpCfg r s
  | .ptpStatus r => Sys2Proof.Machine.execPtpStatus r s
  | .timeGet r => Sys2Proof.Machine.execTimeGet r s
  | .domainSelect r => Sys2Proof.Machine.execDomainSelect r s
  | .timCfg r => Sys2Proof.Machine.execTimCfg r s
  | .timRead r => Sys2Proof.Machine.execTimRead r s
  | .launchSync r => Sys2Proof.Machine.execLaunchSync r s
  | .calRun r => Sys2Proof.Machine.execCalRun r s
  | .calSave r => Sys2Proof.Machine.execCalSave r s
  | .calRestore r => Sys2Proof.Machine.execCalRestore r s
  | .calQuality r => Sys2Proof.Machine.execCalQuality r s
  | .memStatus r => Sys2Proof.Machine.execMemStatus r s
  | .memTrain r => Sys2Proof.Machine.execMemTrain r s
  | .memMap r => Sys2Proof.Machine.execMemMap r s
  | .auxCfg r => Sys2Proof.Machine.execAuxCfg r s
  | .auxRead r => Sys2Proof.Machine.execAuxRead r s
  | .amonCfg r => Sys2Proof.Machine.execAmonCfg r s
  | .pairCfg r => Sys2Proof.Machine.execPairCfg r s
  | .pairStatus r => Sys2Proof.Machine.execPairStatus r s
  | .castle r => Sys2Proof.Machine.execCastle r s
  | .faultRead r => Sys2Proof.Machine.execFaultRead r s
  | .faultClear r => Sys2Proof.Machine.execFaultClear r s
  | .spareStatus r => Sys2Proof.Machine.execSpareStatus r s
  | .rawCapture r => Sys2Proof.Machine.execRawCapture r s
  | .selfTest r => Sys2Proof.Machine.execSelfTest r s
  | .fwUpdate r => Sys2Proof.Machine.execFwUpdate r s
  | .sqTailWrite q v => Sys2Proof.Machine.execSqTailWrite q v s
  | .cqHeadWrite q v => Sys2Proof.Machine.execCqHeadWrite q v s
  | .queueBaseSizeWrite q reg v => Sys2Proof.Machine.execQueueBaseSizeWrite q reg v s
  | .enable q v => Sys2Proof.Machine.execEnable q v s
  | .flush t q entries => Sys2Proof.Machine.execFlush t q entries s
  | .keyLoad v => Sys2Proof.Machine.execKeyLoad v s
  | .keyClear v => Sys2Proof.Machine.execKeyClear v s
  | .w1cClear reg v hw => Sys2Proof.Machine.execW1cClear reg v hw s
  | .registerWrite off size v => Sys2Proof.Machine.execRegisterWrite off size v s
  | .evtDataLoRead t parityFails => Sys2Proof.Machine.execEvtDataLoRead t parityFails s
  | .evtLostRead dropInCycle => Sys2Proof.Machine.execEvtLostRead dropInCycle s
  | .evtMark => Sys2Proof.Machine.execEvtMark s
  | .evtRewind => Sys2Proof.Machine.execEvtRewind s
  | .evtRelease => Sys2Proof.Machine.execEvtRelease s
  | .evtFlush t => Sys2Proof.Machine.execEvtFlush t s
  | .smbKeyWrite key pec => Sys2Proof.Machine.execSmbKeyWrite key pec s
  | .smbKeyClear v pec => Sys2Proof.Machine.execSmbKeyClear v pec s
  | .boardData w pec => Sys2Proof.Machine.execBoardData w pec s
  | .boardCommit pec => Sys2Proof.Machine.execBoardCommit pec s
  | .smbRegisterWrite code v pec => Sys2Proof.Machine.execSmbRegisterWrite code v pec s
  | .boardRecordWritten => Sys2Proof.Machine.execBoardRecordWritten s
  | .pcieReset k => Sys2Proof.Machine.execPcieReset k s
  | .sqEntryFetch t q e => Sys2Proof.Machine.execSqEntryFetch t q e s
  | .udpDatagram t port id addrLow bytes => Sys2Proof.Machine.execUdpDatagram t port id addrLow bytes s
  | .udpGap t id urgent => Sys2Proof.Machine.execUdpGap t id urgent s
  | .deferRetry t src => Sys2Proof.Machine.execDeferRetry t src s
  | .deferTimeout t src => Sys2Proof.Machine.execDeferTimeout t src s
  | .mirroredRequest opcode r => Sys2Proof.Machine.execMirroredRequest opcode r s
  | .mirrorReply t status => Sys2Proof.Machine.execMirrorReply t status s
  | .mirrorTimeout t => Sys2Proof.Machine.execMirrorTimeout t s
  | .recovery t cause unit e0 e1 => Sys2Proof.Machine.execRecovery t cause unit e0 e1 s
  | .launch => Sys2Proof.Machine.execLaunch s
  | .drainEnd => Sys2Proof.Machine.execDrainEnd s
  | .dasLine d => Sys2Proof.Machine.execDasLine d s
  | .laneSelfTestDone t lane pass => Sys2Proof.Machine.execLaneSelfTestDone t lane pass s
  | .refLost t percent => Sys2Proof.Machine.execRefLost t percent s
  | .refResume t => Sys2Proof.Machine.execRefResume t s
  | .caseTempSample t temp => Sys2Proof.Machine.execCaseTempSample t temp s
  | .ldShortDetect t ch diff => Sys2Proof.Machine.execLdShortDetect t ch diff s
  | .soaOpenConfirm t diff => Sys2Proof.Machine.execSoaOpenConfirm t diff s
  | .soaProbe t pass => Sys2Proof.Machine.execSoaProbe t pass s
  | .surveyDone t d => Sys2Proof.Machine.execSurveyDone t d s
  | .surveyTimeout t => Sys2Proof.Machine.execSurveyTimeout t s
  | .portSwitchSettled => Sys2Proof.Machine.execPortSwitchSettled s
  | .ochreLine d => Sys2Proof.Machine.execOchreLine d s
  | .accumulationEnd => Sys2Proof.Machine.execAccumulationEnd s
  | .ochreUpdate t ringDrop => Sys2Proof.Machine.execOchreUpdate t ringDrop s
  | .sidebandLost t percent => Sys2Proof.Machine.execSidebandLost t percent s
  | .sidebandRecovered t => Sys2Proof.Machine.execSidebandRecovered t s
  | .calStepDone t d => Sys2Proof.Machine.execCalStepDone t d s
  | .calStepTimeout t => Sys2Proof.Machine.execCalStepTimeout t s
  | .calDrift t step value => Sys2Proof.Machine.execCalDrift t step value s
  | .tinEdge t pin rising => Sys2Proof.Machine.execTinEdge t pin rising s
  | .almPulseEnd pin => Sys2Proof.Machine.execAlmPulseEnd pin s
  | .almsFrameEnd => Sys2Proof.Machine.execAlmsFrameEnd s
  | .alarmHoldoffEnd => Sys2Proof.Machine.execAlarmHoldoffEnd s
  | .readbackDone t handle => Sys2Proof.Machine.execReadbackDone t handle s
  | .zoneSampleToCore c => Sys2Proof.Machine.execZoneSampleToCore c s
  | .coreBudgetCut c => Sys2Proof.Machine.execCoreBudgetCut c s
  | .coreDeadline ctx => Sys2Proof.Machine.execCoreDeadline ctx s
  | .zcImemParity t c addr => Sys2Proof.Machine.execZcImemParity t c addr s
  | .zcDmemParity t c addr => Sys2Proof.Machine.execZcDmemParity t c addr s
  | .zcRetired t c => Sys2Proof.Machine.execZcRetired t c s
  | .coreMoveStart t c => Sys2Proof.Machine.execCoreMoveStart t c s
  | .nopInstr c => Sys2Proof.Machine.execNopInstr c s
  | .done c => Sys2Proof.Machine.execDone c s
  | .repeatI c n => Sys2Proof.Machine.execRepeatI c n s
  | .setlc c imm => Sys2Proof.Machine.execSetlc c imm s
  | .dbnz c t => Sys2Proof.Machine.execDbnz c t s
  | .br c t => Sys2Proof.Machine.execBr c t s
  | .bcc c cond t => Sys2Proof.Machine.execBcc c cond t s
  | .setb c b cond => Sys2Proof.Machine.execSetb c b cond s
  | .movi c d imm => Sys2Proof.Machine.execMovi c d imm s
  | .movhi c d imm => Sys2Proof.Machine.execMovhi c d imm s
  | .mov c dA dB => Sys2Proof.Machine.execMov c dA dB s
  | .movp c p imm => Sys2Proof.Machine.execMovp c p imm s
  | .movm c m imm => Sys2Proof.Machine.execMovm c m imm s
  | .movpd c p d => Sys2Proof.Machine.execMovpd c p d s
  | .movdp c d p => Sys2Proof.Machine.execMovdp c d p s
  | .addi c d imm => Sys2Proof.Machine.execAddi c d imm s
  | .add c dA dB dC => Sys2Proof.Machine.execAdd c dA dB dC s
  | .sub c dA dB dC => Sys2Proof.Machine.execSub c dA dB dC s
  | .cmpd c dA dB => Sys2Proof.Machine.execCmpd c dA dB s
  | .cmpi c d imm => Sys2Proof.Machine.execCmpi c d imm s
  | .cmpa c a b => Sys2Proof.Machine.execCmpa c a b s
  | .addp c p imm => Sys2Proof.Machine.execAddp c p imm s
  | .cmpad c a d => Sys2Proof.Machine.execCmpad c a d s
  | .ld c d m => Sys2Proof.Machine.execLd c d m s
  | .ldw c d m => Sys2Proof.Machine.execLdw c d m s
  | .st c d m => Sys2Proof.Machine.execSt c d m s
  | .stw c d m => Sys2Proof.Machine.execStw c d m s
  | .sta c a sh m => Sys2Proof.Machine.execSta c a sh m s
  | .staw c a sh m => Sys2Proof.Machine.execStaw c a sh m s
  | .lda c a m => Sys2Proof.Machine.execLda c a m s
  | .clr c a => Sys2Proof.Machine.execClr c a s
  | .mac c a m => Sys2Proof.Machine.execMac c a m s
  | .msu c a m => Sys2Proof.Machine.execMsu c a m s
  | .mac2 c a m => Sys2Proof.Machine.execMac2 c a m s
  | .macd c a dA dB => Sys2Proof.Machine.execMacd c a dA dB s
  | .msud c a dA dB => Sys2Proof.Machine.execMsud c a dA dB s
  | .addAcc c a b => Sys2Proof.Machine.execAddAcc c a b s
  | .subAcc c a b => Sys2Proof.Machine.execSubAcc c a b s
  | .shr c a sh => Sys2Proof.Machine.execShr c a sh s
  | .shl c a sh => Sys2Proof.Machine.execShl c a sh s
  | .absA c a => Sys2Proof.Machine.execAbsA c a s
  | .mova c a d => Sys2Proof.Machine.execMova c a d s
  | .movd c d a sh => Sys2Proof.Machine.execMovd c d a sh s
  | .clrst c mask => Sys2Proof.Machine.execClrst c mask s
  | .blockAgeExpiry stream => Sys2Proof.Machine.execBlockAgeExpiry stream s
  | .blockSend t stream consumer room => Sys2Proof.Machine.execBlockSend t stream consumer room s
  | .evtForwardSend t room => Sys2Proof.Machine.execEvtForwardSend t room s
  | .secondTick t => Sys2Proof.Machine.execSecondTick t s
  | .ptpMessage t domain m => Sys2Proof.Machine.execPtpMessage t domain m s
  | .announceTimeout t domain => Sys2Proof.Machine.execAnnounceTimeout t domain s
  | .lossTimeout t domain => Sys2Proof.Machine.execLossTimeout t domain s
  | .domainRevert t => Sys2Proof.Machine.execDomainRevert t s
  | .ocxoAverage t freq => Sys2Proof.Machine.execOcxoAverage t freq s
  | .ocxoRdyChange t level => Sys2Proof.Machine.execOcxoRdyChange t level s
  | .ocxoLost t => Sys2Proof.Machine.execOcxoLost t s
  | .timEdge t code falling => Sys2Proof.Machine.execTimEdge t code falling s
  | .timWindowExpiry t ch => Sys2Proof.Machine.execTimWindowExpiry t ch s
  | .timGateEnd t ch => Sys2Proof.Machine.execTimGateEnd t ch s
  | .timMarkerLost t => Sys2Proof.Machine.execTimMarkerLost t s
  | .timSyncFail t => Sys2Proof.Machine.execTimSyncFail t s
  | .auxResult t ch raw det ringDrop => Sys2Proof.Machine.execAuxResult t ch raw det ringDrop s
  | .amonVrefLow t mv => Sys2Proof.Machine.execAmonVrefLow t mv s
  | .refreshDue ch bank idle => Sys2Proof.Machine.execRefreshDue ch bank idle s
  | .scrubPass t ch corrected => Sys2Proof.Machine.execScrubPass t ch corrected s
  | .memEccUncorr t frame offset reader rec word => Sys2Proof.Machine.execMemEccUncorr t frame offset reader rec word s
  | .phyFault t channels => Sys2Proof.Machine.execPhyFault t channels s
  | .memTrainChannelDone t d => Sys2Proof.Machine.execMemTrainChannelDone t d s
  | .memTrainReq t ch => Sys2Proof.Machine.execMemTrainReq t ch s
  | .rtDropEpisodeEnd t => Sys2Proof.Machine.execRtDropEpisodeEnd t s
  | .mgmtWatchdog t => Sys2Proof.Machine.execMgmtWatchdog t s
  | .mgmtLockstep t => Sys2Proof.Machine.execMgmtLockstep t s
  | .mgmtTakeover t => Sys2Proof.Machine.execMgmtTakeover t s
  | .mgmtRetestDone t pass => Sys2Proof.Machine.execMgmtRetestDone t pass s
  | .mgmtNoController t => Sys2Proof.Machine.execMgmtNoController t s
  | .commandPathRestart t => Sys2Proof.Machine.execCommandPathRestart t s
  | .fwUpdateDone t verified readBack => Sys2Proof.Machine.execFwUpdateDone t verified readBack s
  | .selfTestDone t d => Sys2Proof.Machine.execSelfTestDone t d s
  | .heartbeatTx => Sys2Proof.Machine.execHeartbeatTx s
  | .heartbeatRx t h => Sys2Proof.Machine.execHeartbeatRx t h s
  | .partnerLost t => Sys2Proof.Machine.execPartnerLost t s
  | .pairLaneDown t lane => Sys2Proof.Machine.execPairLaneDown t lane s
  | .plinkUp t h => Sys2Proof.Machine.execPlinkUp t h s
  | .thruWindowEnd t slot power delay => Sys2Proof.Machine.execThruWindowEnd t slot power delay s
  | .modeChange t => Sys2Proof.Machine.execModeChange t s
  | .wakeN t => Sys2Proof.Machine.execWakeN t s
  | .wakeTimer t => Sys2Proof.Machine.execWakeTimer t s
  | .wake t b => Sys2Proof.Machine.execWake t b s
  | .dutyDwellEnd t => Sys2Proof.Machine.execDutyDwellEnd t s
  | .dutyLingerEnd t => Sys2Proof.Machine.execDutyLingerEnd t s
  | .thermalTrip t evidence temp => Sys2Proof.Machine.execThermalTrip t evidence temp s
  | .tecLimit t deviation current => Sys2Proof.Machine.execTecLimit t deviation current s
  | .refclkLost t => Sys2Proof.Machine.execRefclkLost t s
  | .supplyFault t supply mv us => Sys2Proof.Machine.execSupplyFault t supply mv us s
  | .supplyRestored t b => Sys2Proof.Machine.execSupplyRestored t b s
  | .xtalFail t stopped => Sys2Proof.Machine.execXtalFail t stopped s
  | .xtalRestored t => Sys2Proof.Machine.execXtalRestored t s
  | .powerUp t b => Sys2Proof.Machine.execPowerUp t b s
  | .startUpAbort => Sys2Proof.Machine.execStartUpAbort s
  | .powerDown => Sys2Proof.Machine.execPowerDown s
  | .ethLinkDown t port => Sys2Proof.Machine.execEthLinkDown t port s
  | .jtagInstructionExit t b => Sys2Proof.Machine.execJtagInstructionExit t b s
  | .ocxoSignalReturn t => Sys2Proof.Machine.execOcxoSignalReturn t s
  | .ethLinkUp t port => Sys2Proof.Machine.execEthLinkUp t port s
  | .selfRefreshReturn ch => Sys2Proof.Machine.execSelfRefreshReturn ch s
  | .rawCaptureCopyDone t gap => Sys2Proof.Machine.execRawCaptureCopyDone t gap s
  | .slewDone t => Sys2Proof.Machine.execSlewDone t s
  | .refResistorCheck t => Sys2Proof.Machine.execRefResistorCheck t s
  | .perstNDeassert => Sys2Proof.Machine.execPerstNDeassert s

end Sys2Proof.Machine
end

