-- ==== Sys2Proof/Machine/Mirror.lean ====
section
/-! DEFINITION. Machine/Mirror.lean: what reads without a side effect show, as functions of the state: BAR0 registers (R355,
R334, R556), the BAR2 status mirror (R73, R238, R270, R310, R474, R567, R568) and SMBus words (R564). No command of the
table reads them. -/

namespace Sys2Proof.Machine

open Sys2Proof

/-- Fields packed from bit 0 upward: width and value. -/
def pack : List (Nat × Nat) → Nat
  | [] => 0
  | (w, v) :: rest => v % 2 ^ w + 2 ^ w * pack rest

/-- A register word. -/
def regWord (l : List (Nat × Nat)) : U32 := BitVec.ofNat 32 (pack l)

/-- A word that holds a signed or unsigned number. -/
def intWord (v : Int) : U32 := BitVec.ofInt 32 v
def natWord (v : Nat) : U32 := BitVec.ofNat 32 v

/-! ### BAR0 -/

/-- `Qn_CTRL`, `Qn_STATUS`. -/
def ctrlWord (x : PQueue) : U32 := regWord [(1, bit x.enable), (1, 0), (2, 0), (4, x.sizeLog2)]
def statusWord (q : Nat) (s : State) : U32 :=
  let x := getQ q s
  regWord [(1, bit (qIdle q s)), (1, bit x.qerr), (1, bit x.fetchErr), (13, 0), (16, x.sqHead)]

/-- The six registers of a queue, from its base. -/
def queueWord (q k : Nat) (s : State) : U32 :=
  let x := getQ q s
  match k with
  | 0 => natWord x.sqBase.toNat
  | 1 => natWord (x.sqBase.toNat / 2 ^ 32)
  | 2 => natWord x.cqBase.toNat
  | 3 => natWord (x.cqBase.toNat / 2 ^ 32)
  | 4 => ctrlWord x
  | _ => statusWord q s

/-- A word of BAR0 at an aligned offset; offsets that R553 does not name read 0. `EVT_DATA_LO` and `EVT_LOST` have rows of their
own. -/
def bar0Word (off : Nat) (s : State) : U32 :=
  if off = 0x0000 then natWord s.cmd.q0.tail.toNat
  else if off = 0x0004 then natWord s.cmd.q1.tail.toNat
  else if off = 0x0008 then natWord s.cmd.q0.head.toNat
  else if off = 0x000C then natWord s.cmd.q1.head.toNat
  else if inR off 0x0100 0x0114 then queueWord 0 ((off - 0x0100) / 4) s
  else if inR off 0x0120 0x0134 then queueWord 1 ((off - 0x0120) / 4) s
  else if off = 0x0200 then regWord [(16, s.cmd.epoch.toNat), (16, s.cmd.recoveries.toNat)]
  else if off = 0x0204 then regWord [(1, bit s.cmd.authRequired), (1, 0), (1, bit s.cmd.key.isSome)]
  else if off = 0x0404 then s.evq.dataHi
  else if off = 0x0408 then s.evq.tag
  else if off = 0x0420 then natWord s.evq.level
  else if off = 0x0428 then
    -- while forwarding runs, an item is released as it completes (R340)
    let q := s.evq.forwarded (s.cycle + 1)
    regWord [(7, q.written s.cycle), (1, 0), (7, q.unreadAt s.cycle)]
  else if off = 0x0800 then natWord s.link.irqCause.toNat
  else if off = 0x0804 then natWord s.link.holdoff.toNat
  else if inR off 0x0840 0x085C then vget s.link.alarmSum ((off - 0x0840) / 4)
  else if inR off 0x2000 0x20FF then s.link.msixWord off
  else if off = 0x3000 then natWord s.link.msixPend.toNat
  else 0

/-- A read of BAR0: other sizes and alignments return all ones (R552). -/
def bar0Read (off size : Nat) (s : State) : U32 := if size ≠ 4 || off % 4 ≠ 0 then 0xFFFFFFFF else bar0Word off s

/-! ### BAR2 -/

/-- The common block header (R568). How often the device rewrites a block is timing, so `GEN` is a free value (log 28). -/
def blockHeader (type inst : Nat) (out : Bool) (s : State) : U32 :=
  regWord [(8, type), (8, inst), (14, (Config.mirrorGen (type * 256 + inst) s.freeIdx).toNat), (1, bit out), (1, 0)]

/-- Light-drive channel n (R73). -/
def ldcBlock (s : State) (n : Nat) : List U32 :=
  let d := vget s.light.ldc n
  let probe := n = 2
  let pump := inR n 3 5
  [blockHeader 1 n d.retired s, intWord d.setpoint, intWord d.iAnode, intWord d.iReturn, natWord (ldcCeiling s n),
   regWord [(16, d.vOut), (16, d.headroom)],
   regWord [(1, bit d.enabled), (1, bit d.short_), (1, bit d.leakFail), (1, bit d.open_), (1, bit d.atCeil),
     (1, bit (decide (s.light.derate < 1))), (1, bit d.retired), (1, bit (pump && binMissing s (n - 3)))],
   d.mismatch, d.comply,
   if probe then regWord [(16, s.light.probeRuns), (16, s.light.probeFails)] else 0,
   natWord d.leakNa,
   if pump then regWord [(16, vget s.light.cfg.slope (n - 3)), (16, vget s.light.cfg.thresh (n - 3))] else 0,
   if pump then natWord d.pOpt else 0]

/-- A binding's words of the core block (R310). -/
def bindingWords (b : Option Binding) : List U32 :=
  match b with
  | some b => [regWord [(8, b.ctx), (8, b.pos), (6, b.size), (1, 1)], regWord [(14, b.budget), (18, b.nLocal)]]
  | none => [0, 0]

/-- Zone core n (R310). -/
def coreBlock (s : State) (n : Nat) : List U32 :=
  let x := core s n
  let sat (v : Nat) : Nat := min v 65535
  let gap := ((x.bindings.map (fun b => zoneInterval s b.ctx b.size)).min?).getD 0
  let st := match x.state with | .empty => 0 | .stopped => 1 | .running => 2 | .retired => 3
  let b (j : Nat) : Option Binding := x.bindings[j]?
  [blockHeader 2 n (x.state = .retired) s,
   regWord [(2, st), (1, bit x.unified), (3, x.bindings.length), (1, bit (burstFails s n)), (1, 0), (5, x.stSticky.toNat), (3, 0),
     (13, x.nInstr)],
   x.imageCrc, x.invocations, x.overruns, x.late, x.inDrop, x.ovCnt, x.satCnt, x.parity, natWord (min x.maxCycles 65535),
   regWord [(16, sat (roundOf s (tsNow s) x.bindings)), (16, sat (gap * 3 / 2500))]]
  ++ bindingWords (b 0) ++ bindingWords (b 1) ++ bindingWords (b 2) ++ bindingWords (b 3)
  ++ (List.range 4).map (fun j => ((b j).map (·.mask)).getD 0)
  ++ [natWord x.movedFrom, natWord x.lastOverPc.toNat]

/-- DRAM channel n (R474). The spec gives the predictor's hits and misses no start and the elastic buffer no fill: free. -/
def memBlock (s : State) (n : Nat) : List U32 :=
  let m := mch s n
  let e (i : Nat) : Nat := (m.eyes[i]?).getD 0
  let c (i : Nat) : Nat := (m.centres[i]?).getD 0
  [blockHeader 3 n (!m.live) s,
   regWord [(2, chState m), (1, bit m.trained), (1, bit m.drift), (1, bit (rtOver s)), (3, 0), (8, m.reason), (2, m.policy),
     (2, m.refreshX)],
   regWord [(8, e 0), (8, c 0), (8, e 2), (8, c 2)], regWord [(8, e 1), (8, c 1), (8, e 3), (8, c 3)],
   regWord [(16, m.tapFs), (16, (m.tDram % 65536).toNat)], m.eccCorr, m.eccUncorr, m.lastUncorr,
   natWord (m.rtBytes / 1000000), m.rtDrop, natWord (bufPeak s n),
   Config.reading (22 + n) s.freeIdx, Config.reading (26 + n) s.freeIdx, natWord m.postponeMax, m.trainSec]

/-- Watch context n (R238, R270). -/
def ctxBlock (s : State) (n : Nat) : List U32 :=
  let c := ctx s n
  let tins := BitVec.ofNat 4 (flags (s.alarm.level.toList))
  let recs := s.pool.recs.filter (fun r => r.ctx = n)
  [blockHeader 4 n false s,
   regWord [(3, c.shown.code), (1, bit (c.tinMode = 3 && gateOpen c tins)), (4, 0), (8, c.runC)],
   natWord c.seqRead, c.trigCnt, c.missed, c.absorbed, c.skipped, c.coreGap, c.discarded,
   regWord [(17, c.lastZone.toNat), (7, 0), (2, c.lastCause.toNat)], c.lastSeq, c.lastStamp,
   natWord (min c.pre (c.ring.filter (fun p => p.held.isSome)).length), c.ringDrop, regWord [(16, recs.length), (1, bit c.reserve)],
   natWord (claimOf s n)]

/-- A word of the mirror at an aligned offset (R567); blocks of absent units and other offsets read 0. -/
def bar2Word (off : Nat) (s : State) : U32 :=
  let at_ (base stride : Nat) (f : Nat → List U32) : U32 :=
    let o := off - base
    ((f (o / stride))[o % stride / 4]?).getD 0
  if inR off 0x1000 0x11FF then at_ 0x1000 0x40 (ldcBlock s)
  else if inR off 0x4000 0x4FFF then
    if s.zoneCores ≤ (off - 0x4000) / 0x80 then 0 else at_ 0x4000 0x80 (coreBlock s)
  else if inR off 0x8000 0x83FF then at_ 0x8000 0x100 (memBlock s)
  else if inR off 0x10000 0x13FFF then at_ 0x10000 0x40 (ctxBlock s)
  else 0

/-! ### BAR4 (R263, R271) -/

/-- A byte of a record's pre area: its lines lie in ring rotation, the oldest at `PRE_HEAD`. -/
def Record.preByte (r : Record) (a : Nat) : Byte :=
  let n := max 1 r.preReq
  -- addresses of the ring the area was part of (R255 step 2)
  let ring (a : Nat) : Nat := (r.preKept[a / 1048576]?).getD 0 * 1048576 + a % 1048576
  let i := (ring a / r.lineSize + n - ring r.preHead / r.lineSize % n) % n
  match if ring a < r.preReq * r.lineSize then (r.pre[i]?).bind (·.held) else none with
  | some l => ((ringBytes r.source r.lineSize l)[ring a % r.lineSize]?).getD 0
  | none => Config.poolByte r.handle (a + 2 ^ 40)

/-- A byte of a record's post area: the header, then what follows the pre part of the logical image. -/
def Record.postByte (r : Record) (a : Nat) : Byte :=
  let l := r.logical
  let i := if a < 128 then a else a + r.pre.length * r.lineSize
  (l[i]?).getD (Config.poolByte r.handle (a + 2 ^ 41))

/-- A byte of BAR4: all ones where no page is mapped, and in a word of the pre part that cannot be corrected (R463). -/
def bar4Byte (off : Nat) (s : State) : Byte :=
  match s.pool.pages.find? (fun p => p.1 = off / 1048576) with
  | none => 0xFF
  | some (_, h, blk) =>
    match findRec h s with
    | none => 0xFF
    | some r =>
      let a := blk * 1048576 + off % 1048576
      if r.phase = .lost then 0xFF
      else if a < r.preBlocks * 1048576 then r.preByte a
      else r.postByte (a - r.preBlocks * 1048576)

/-! ### Identity (R2, R550, R566, R600) and full specification (R594) -/

/-- The device number of the part, from the same fuses as `PART`. -/
def deviceId (s : State) : Nat :=
  match ((s.part.caps >>> 18) &&& 3).toNat with
  | 0 => 0x5140 | 1 => 0x5130 | _ => 0x5120

/-- The first and third words of PCI Express configuration space: IDs; class code and revision. -/
def pciIds (s : State) : U32 := regWord [(16, Config.vendorId.toNat), (16, deviceId s)]
def pciClass : U32 := 0x118000A1

/-- The JTAG IDCODE. -/
def jtagIdcode (s : State) : U32 := regWord [(1, 1), (11, Config.jedecId.toNat), (16, deviceId s), (4, 1)]

/-- Do the figures of R7 hold, those of timing and network time apart? Every applicable step is in limit and none is asked for
(R184). -/
def fullSpec (s : State) : Bool :=
  s.poweredUp && s.power.mode ≠ .standby && !s.power.thermalCoarse
    && (List.range 7).all (fun k => stepNA s k || ((vget s.cal.steps k).st ≠ 0 && !(vget s.cal.steps k).out))
    && s.cal.requested = 0

/-- Those of timing, and of network time? -/
def fullTiming (s : State) : Bool := fullSpec s && s.time.ocxoWarm
def fullNetTime (s : State) : Bool :=
  fullTiming s && s.time.selected.any (fun d => (domain s d).phase = 2) && !s.time.slewing s.now

/-! ### SMBus words (R563, R564) -/

/-- A word read; `none`: not acknowledged (an "awake" register in sleep, or no register). -/
def smbWord (code : Nat) (s : State) : Option U16 :=
  let awake (v : U16) : Option U16 := if s.power.sleeping then none else some v
  let sense (k : Nat) : U16 := (Config.reading k s.freeIdx).setWidth 16
  match code with
  | 0x00 => some (s.part.caps.setWidth 16 &&& 0xFF ||| ((s.part.caps >>> 18).setWidth 16 &&& 3) <<< 8)
  | 0x01 => some (BitVec.ofNat 16 (pack [(8, s.power.mode.code), (1, bit s.link.boardBad), (1, bit s.cmd.key.isSome),
      (1, bit s.fault.latch), (1, bit s.fault.unread), (1, bit s.link.boardWriting.isSome), (1, bit s.link.boardReject)]))
  | 0x02 => some (BitVec.ofInt 16 s.power.tCase)
  | 0x03 => awake (sense 0)
  | 0x04 => awake (sense 1)
  | 0x05 => awake (sense 2)
  | 0x30 => awake (s.link.boardPtr.setWidth 16)
  | _ => if inR code 0x08 0x0F then some (BitVec.ofNat 16 ((s.power.supplies[code - 8]?).getD 0)) else none

end Sys2Proof.Machine
end

