-- ==== Sys2Proof/WellFormed.lean ====
section
/-! DEFINITION. WellFormed.lean: which command terms the spec's formats can bring to the block. A row whose operands are
registers, addresses or bit fields of a fixed width needs no check: its type is the check. -/

namespace Sys2Proof

/-- A request (R345): with its 4-byte check the payload is a multiple of 4 and at most 4,080 bytes; on PCIe the reply address is
4-byte aligned (R353) and `URGENT` and `AUTH` are 0 (R346). -/
def Req.ok (r : Req) : Bool :=
  r.payload.length % 4 == 0 && r.payload.length ≤ 4076 && r.replyTo.toNat % 4 == 0 &&
    match r.src with
    | .pcie _ => !r.flags.getLsbD 4 && !r.flags.getLsbD 5
    | _ => true

/-- An address modification of a zone-core operand (R281): 0b11 is reserved. -/
def modOk (m : BitVec 2) : Bool := m.toNat != 3
def MemOp.ok (m : MemOp) : Bool := modOk m.mod
def MacOp.ok (m : MacOp) : Bool := modOk m.xmod && modOk m.ymod

/-- A condition of R285. -/
def condListed (c : BitVec 4) : Bool := c.toNat < 8 || c.toNat == 14 || c.toNat == 15

/-- Shift counts of R284: 0-39 where a store or a narrowing shifts, 1-39 in `shr` and `shl`. -/
def shiftOk (sh : BitVec 6) : Bool := sh.toNat ≤ 39
def shiftOk1 (sh : BitVec 6) : Bool := 1 ≤ sh.toNat && sh.toNat ≤ 39

/-- The requests of the command table. -/
def Instr.request? : Instr → Option Req
  | .nop r | .getCaps r | .getStatus r | .setMode r | .fence r | .resetUnit r | .setNode r | .getLog r | .launchCfg r
  | .slotCfg r | .lightCfg r | .portSelect r | .gambitRun r | .gambitRead r | .aprCfg r | .indigoCfg r | .zoneMapLoad r
  | .zoneMapRead r | .ochreCfg r | .ochreRead r | .refCoilCfg r | .ctxSet r | .ctxGet r | .ctxArm r | .ctxDisarm r
  | .patternSet r | .threshLoad r | .alarmRoute r | .recList r | .recFetch r | .recRelease r | .poolCfg r | .coreLoad r
  | .coreStart r | .coreStop r | .coreRead r | .streamCfg r | .streamSave r | .streamRestore r | .bulkLoad r | .ptpCfg r
  | .ptpStatus r | .timeGet r | .domainSelect r | .timCfg r | .timRead r | .launchSync r | .calRun r | .calSave r
  | .calRestore r | .calQuality r | .memStatus r | .memTrain r | .memMap r | .auxCfg r | .auxRead r | .amonCfg r
  | .pairCfg r | .pairStatus r | .castle r | .faultRead r | .faultClear r | .spareStatus r | .rawCapture r
  | .selfTest r | .fwUpdate r | .mirroredRequest _ r => some r
  | _ => none

/-- The zone-core rows: what the word checks of image loading (R305) let through. -/
def Instr.coreOk : Instr → Bool
  | .bcc _ cond _ | .setb _ _ cond => condListed cond
  | .ld _ _ m | .ldw _ _ m | .st _ _ m | .stw _ _ m | .lda _ _ m => m.ok
  | .sta _ _ sh m | .staw _ _ sh m => m.ok && shiftOk sh
  | .mac _ _ m | .msu _ _ m | .mac2 _ _ m => m.ok
  | .shr _ _ sh | .shl _ _ sh => shiftOk1 sh
  | .movd _ _ _ sh => shiftOk sh
  | _ => true

/-- A well-formed command: a request in the format of R345; an entry header of 16 bytes (R353); an SMBus key of 32 bytes
(R563); what a fitted part can bring. -/
def Instr.wellFormed (i : Instr) : Bool :=
  i.coreOk && (i.request?.map Req.ok).getD true &&
    match i with
    | .sqEntryFetch _ _ (some e) => e.header.length == 16 && e.replyAddr.toNat % 4 == 0
    | .calStepDone _ d => d.delays.length == 4
    | .memTrainChannelDone _ d => d.sweeps.length == 4 && d.sweeps.all (fun w => w.length == 128)
    | _ => true

end Sys2Proof
end

