-- ==== Sys2Proof/Safety.lean ====
section
/-! DEFINITION. Safety.lean: the words that statements use: when a request's turn has come, how a command answers, when a
zone core runs an instruction, and the invariants of the state. -/

namespace Sys2Proof.Machine

open Sys2Proof

/-! ### Requests -/

/-- The state at the instant at which a request comes up. -/
abbrev arrived (r : Req) (s : State) : State := s.adv r.at_

/-- The request as the controller executes it. -/
abbrev reqOf (sp : CmdSpec) (r : Req) (s : State) : Fetched := toFetched sp r (arrived r s)

/-- The state in which its command begins: the queue it is taken from has had its turn (R366). -/
abbrev begun (r : Req) (s : State) : State := takeTurn r.src (arrived r s)

/-- The request's turn has come and it passes the checks that every command has: the command path is up, no recovery runs,
nothing goes before it (R364, R366), R350 steps 5 to 8 find nothing, and no entry to sleep is in progress (R537). -/
abbrev Ready (sp : CmdSpec) (r : Req) (s : State) : Prop :=
  ((arrived r s).pathDown || (arrived r s).cmd.recovery.isSome || passedOver (reqOf sp r s) (arrived r s)) = false ∧
    preCheck sp (reqOf sp r s) (begun r s) = none ∧ (begun r s).enteringSleep = false

/-- The request is answered so: reply, change and all that follows (R349, R364). -/
def Answers (sp : CmdSpec) (r : Req) (s : State) (res : Res) (a : Ans) : Prop :=
  res = .next (conclude (reqOf sp r s) a false)

/-- What a command that cannot be held or is not busy comes to. -/
def NotHeld (sp : CmdSpec) (r : Req) (s : State) (a : Ans) : Prop :=
  (a.status = St.busy && (reqOf sp r s).has flDefer) = false

/-! ### Zone cores -/

/-- Core `c` may execute `i` now (R277, R288, R294). -/
abbrev Runs (c : Fin 32) (i : Instr) (s : State) : Prop := canRun c i (core s c.val) = true

/-- Core `c` has executed an instruction of so many cycles and become `x`, apart from what every instruction does then: cycles
counted, the program counter moved on or a repeat counted down (R288). -/
def RanTo (c : Fin 32) (s : State) (res : Res) (x : Core) (cycles : Nat) : Prop :=
  res = .next (settleRep c.val (modCore c.val (fun _ => x.advance cycles) s))

/-- Core `c` has executed a control instruction and become `x`. -/
def WentTo (c : Fin 32) (s : State) (res : Res) (x : Core) : Prop := res = .next (modCore c.val (fun _ => x) s)

/-- The zone-core instructions, with their core; `done` ends the invocation and is not among them. -/
def coreInstr : Instr → Option (Fin 32)
  | .nopInstr c | .repeatI c _ | .setlc c _ | .dbnz c _ | .br c _ | .bcc c _ _ | .setb c _ _ | .movi c _ _ | .movhi c _ _
  | .mov c _ _ | .movp c _ _ | .movm c _ _ | .movpd c _ _ | .movdp c _ _ | .addi c _ _ | .add c _ _ _ | .sub c _ _ _
  | .cmpd c _ _ | .cmpi c _ _ | .cmpa c _ _ | .addp c _ _ | .cmpad c _ _ | .ld c _ _ | .ldw c _ _ | .st c _ _ | .stw c _ _
  | .sta c _ _ _ | .staw c _ _ _ | .lda c _ _ | .clr c _ | .mac c _ _ | .msu c _ _ | .mac2 c _ _ | .macd c _ _ _
  | .msud c _ _ _ | .addAcc c _ _ | .subAcc c _ _ | .shr c _ _ | .shl c _ _ | .absA c _ | .mova c _ _ | .movd c _ _ _
  | .clrst c _ => some c
  | _ => none

/-- The zone-core instructions that store, with the operand and the number of halfwords stored. -/
def storesAt : Instr → Option (MemOp × Nat)
  | .st _ _ m | .sta _ _ _ m => some (m, 1)
  | .stw _ _ m | .staw _ _ _ m => some (m, 2)
  | _ => none

/-- The halfword addresses a store writes, in its space (R281). -/
def storeHalves (x : Core) (m : MemOp) (n : Nat) : List Nat :=
  if n = 2 then [x.addr (x.ptr m.p), x.addr (x.ptrAt m.p 1)] else [x.addr (x.ptr m.p)]

/-! ### Invariants -/

/-- The memories of a core are in their canonical form. -/
def Core.memOk (x : Core) : Bool :=
  Memory.wf x.imem && Memory.wf x.xmem && Memory.wf x.ymem && Memory.wf x.xGap && Memory.wf x.yGap

/-- The memories of every zone core are in their canonical form. -/
def State.memOk (s : State) : Bool := s.cores.toList.all Core.memOk

/-- A run is safe while no step of it stops. -/
def Safe (s : State) : Prop := ∃ t, step s = .next t

end Sys2Proof.Machine
end

