-- ==== Sys2Proof/Certificates/Slice0/Obligations.lean ====
section
/-! DEFINITION. Certificates/Slice0/Obligations.lean: the statements of the model for the provers. Each docstring names the rules. -/

open Sys2Proof Sys2Proof.Machine

/-! ### The block -/

/-- A step takes the command at the front of the queue and executes it on the state with the rest; with no command waiting
the block idles (the model's choice, log 3). -/
def Obligations.StepRunsFront : Prop :=
  (∀ (c : Instr) (rest : List Instr) (s : State), s.pending = c :: rest → step s = exec c { s with pending := rest }) ∧
  ∀ s : State, s.pending = [] → step s = .next s

/-! ### Zone-core words (R283, R284) -/

/-- The words written out from R283 and R284, one or more of each format, decode to their instructions; a reserved field
or an opcode not listed decodes to none. -/
def Obligations.CoreWordsDecode : Prop :=
  Zc.decode 3 0x00000000 = some (.nopInstr 3) ∧ Zc.decode 3 0x04000000 = some (.done 3) ∧
    Zc.decode 3 0x08000010 = some (.repeatI 3 16) ∧ Zc.decode 3 0x18002005 = some (.bcc 3 2 5) ∧
    Zc.decode 3 0x20A0FFFF = some (.movi 3 5 0xFFFF) ∧ Zc.decode 3 0x40298000 = some (.add 3 1 2 3) ∧
    Zc.decode 3 0x60948000 = some (.ld 3 4 { spaceY := true, p := 2, mod := 1 }) ∧
    Zc.decode 3 0x72043000 = some (.sta 3 2 24 { spaceY := false, p := 2, mod := 0 }) ∧
    Zc.decode 3 0x85090000 = some (.mac 3 1 { px := 0, xmod := 1, py := 1, ymod := 0 }) ∧
    Zc.decode 3 0xA2001E00 = some (.shr 3 2 15) ∧ Zc.decode 3 0xB400001F = some (.clrst 3 31) ∧
    Zc.decode 3 0x5C000000 = none ∧ Zc.decode 3 0x00000001 = none ∧ Zc.decode 3 0x1800A005 = none ∧
    Zc.decode 3 0x60998000 = none ∧ Zc.decode 3 0xA2000000 = none

/-- Decoding the word of a well-formed zone-core instruction gives that instruction, every operand at every value; what a word
decodes to is well formed and has that word, so that no two words spell one instruction. -/
def Obligations.CoreDecodeOfEncode : Prop :=
  (∀ (i : Instr) (c : Fin 32) (w : Nat), i.wellFormed = true → (coreInstr i = some c ∨ i = .done c) →
    Zc.encode i = some w → Zc.decode c w = some i) ∧
  ∀ (c : Fin 32) (w : Nat) (i : Instr), w < 2 ^ 32 → Zc.decode c w = some i →
    i.wellFormed = true ∧ Zc.encode i = some w

/-! ### Zone-core instructions (R284) -/

/-- Register moves and loads of immediates complete: the destination takes the value of R284, one cycle. -/
def Obligations.CoreMoves : Prop :=
  ∀ (c : Fin 32) (s : State) (d e p q : Fin 8) (m a : Fin 4) (imm : BitVec 16) (imm14 : BitVec 14),
    let x := core s c.val
    (Runs c (.nopInstr c) s → RanTo c s (exec (.nopInstr c) s) x 1) ∧
    (Runs c (.setlc c imm) s → RanTo c s (exec (.setlc c imm) s) { x with lc := imm } 1) ∧
    (Runs c (.movi c d imm) s → RanTo c s (exec (.movi c d imm) s) { x with d := vset x.d d.val (imm.signExtend 32) } 1) ∧
    (Runs c (.movhi c d imm) s →
      RanTo c s (exec (.movhi c d imm) s) { x with d := vset x.d d.val (imm ++ (vget x.d d.val).extractLsb' 0 16) } 1) ∧
    (Runs c (.mov c d e) s → RanTo c s (exec (.mov c d e) s) { x with d := vset x.d d.val (vget x.d e.val) } 1) ∧
    (Runs c (.movp c p imm14) s → RanTo c s (exec (.movp c p imm14) s) { x with p := vset x.p p.val imm14 } 1) ∧
    (Runs c (.movm c m imm14) s → RanTo c s (exec (.movm c m imm14) s) { x with m := vset x.m m.val imm14 } 1) ∧
    (Runs c (.movpd c q d) s →
      RanTo c s (exec (.movpd c q d) s) { x with p := vset x.p q.val ((vget x.d d.val).extractLsb' 0 14) } 1) ∧
    (Runs c (.movdp c d q) s →
      RanTo c s (exec (.movdp c d q) s) { x with d := vset x.d d.val ((vget x.p q.val).zeroExtend 32) } 1) ∧
    (Runs c (.mova c a d) s →
      RanTo c s (exec (.mova c a d) s) { x with acc := vset x.acc a.val ((vget x.d d.val).signExtend 40) } 1) ∧
    (Runs c (.clr c a) s → RanTo c s (exec (.clr c a) s) { x with acc := vset x.acc a.val 0 } 1)

/-- 32-bit arithmetic is modulo 2^32 and touches no status bit; `addp` wraps as R281 says. -/
def Obligations.CoreArithmetic : Prop :=
  ∀ (c : Fin 32) (s : State) (d e f p : Fin 8) (imm : BitVec 16) (imm14 : BitVec 14),
    let x := core s c.val
    (Runs c (.addi c d imm) s →
      RanTo c s (exec (.addi c d imm) s) { x with d := vset x.d d.val (vget x.d d.val + imm.signExtend 32) } 1) ∧
    (Runs c (.add c d e f) s →
      RanTo c s (exec (.add c d e f) s) { x with d := vset x.d d.val (vget x.d e.val + vget x.d f.val) } 1) ∧
    (Runs c (.sub c d e f) s →
      RanTo c s (exec (.sub c d e f) s) { x with d := vset x.d d.val (vget x.d e.val - vget x.d f.val) } 1) ∧
    (Runs c (.addp c p imm14) s →
      RanTo c s (exec (.addp c p imm14) s)
        { x with p := vset x.p p.val (wrapPtr (vget x.p p.val) (if p.val < 4 then (vget x.m p.val).toNat else 0) imm14.toInt) } 1)

/-- The compares set `LT`, `EQ` and `GT` from a signed comparison and change no other register or status bit. -/
def Obligations.CoreCompares : Prop :=
  ∀ (c : Fin 32) (s : State) (d e : Fin 8) (a b : Fin 4) (imm : BitVec 16),
    let x := core s c.val
    let flags3 (u v : Int) (r : Res) : Prop := ∃ st : U16, RanTo c s r { x with st := st } 1 ∧
      st.getLsbD 5 = decide (u < v) ∧ st.getLsbD 6 = decide (u = v) ∧ st.getLsbD 7 = decide (v < u) ∧
      ∀ k, k ≠ 5 → k ≠ 6 → k ≠ 7 → st.getLsbD k = x.st.getLsbD k
    (Runs c (.cmpd c d e) s → flags3 (vget x.d d.val).toInt (vget x.d e.val).toInt (exec (.cmpd c d e) s)) ∧
    (Runs c (.cmpi c d imm) s → flags3 (vget x.d d.val).toInt imm.toInt (exec (.cmpi c d imm) s)) ∧
    (Runs c (.cmpa c a b) s → flags3 (vget x.acc a.val).toInt (vget x.acc b.val).toInt (exec (.cmpa c a b) s)) ∧
    (Runs c (.cmpad c a d) s → flags3 (vget x.acc a.val).toInt (vget x.d d.val).toInt (exec (.cmpad c a d) s))

/-- Loads complete: the halfword or word at the pointer, sign-extended where R284 says so, then the post-modify. -/
def Obligations.CoreLoads : Prop :=
  ∀ (c : Fin 32) (s : State) (d : Fin 8) (a : Fin 4) (m : MemOp),
    let x := core s c.val
    let half (p : BitVec 14) : U16 := Memory.half (x.space m.spaceY) (x.addr p)
    let word : U32 := half (x.ptrAt m.p 1) ++ half (vget x.p m.p.val)
    (Runs c (.ld c d m) s →
      RanTo c s (exec (.ld c d m) s)
        (({ x with d := vset x.d d.val ((half (vget x.p m.p.val)).signExtend 32) } : Core).modify m.p m.mod 1) 1) ∧
    (Runs c (.ldw c d m) s →
      RanTo c s (exec (.ldw c d m) s) (({ x with d := vset x.d d.val word } : Core).modify m.p m.mod 2) 1) ∧
    (Runs c (.lda c a m) s →
      RanTo c s (exec (.lda c a m) s)
        (({ x with acc := vset x.acc a.val (word.signExtend 40) } : Core).modify m.p m.mod 2) 1)

/-- Stores complete, in one cycle, or two in unified mode: `st` and `stw` their bits as they are, `sta` and `staw` the
accumulator divided by 2^sh, floored and limited, with `ST_SAT` when the limit applied. -/
def Obligations.CoreStores : Prop :=
  ∀ (c : Fin 32) (s : State) (d : Fin 8) (a : Fin 4) (sh : BitVec 6) (m : MemOp),
    let x := core s c.val
    let cycles := if x.unified then 2 else 1
    let v : Int := (vget x.acc a.val).toInt / (2 ^ sh.toNat : Nat)
    let sat (w : Nat) : Core := { x with st := if limit w v = v then x.st else stBit x.st 4 true }
    (Runs c (.st c d m) s → RanTo c s (exec (.st c d m) s) (x.storeHalf m ((vget x.d d.val).extractLsb' 0 16)) cycles) ∧
    (Runs c (.stw c d m) s → RanTo c s (exec (.stw c d m) s) (x.storeWord m (vget x.d d.val)) cycles) ∧
    (Runs c (.sta c a sh m) s →
      RanTo c s (exec (.sta c a sh m) s) ((sat 16).storeHalf m (BitVec.ofInt 16 (limit 16 v))) cycles) ∧
    (Runs c (.staw c a sh m) s →
      RanTo c s (exec (.staw c a sh m) s) ((sat 32).storeWord m (BitVec.ofInt 32 (limit 32 v))) cycles) ∧
    (Runs c (.movd c d a sh) s →
      RanTo c s (exec (.movd c d a sh) s) { sat 16 with d := vset x.d d.val (BitVec.ofInt 32 (limit 16 v)) } 1)

/-- The accumulator operations complete: the exact result of R284, limited to 40 bits, the accumulator's `ACC_OV` bit set
when the limit applied (R286), then the post-modifies, X before Y (log 41). -/
def Obligations.CoreAccumulates : Prop :=
  ∀ (c : Fin 32) (s : State) (d e : Fin 8) (a b : Fin 4) (sh : BitVec 6) (m : MacOp),
    let x := core s c.val
    let A : Int := (vget x.acc a.val).toInt
    let put (v : Int) : Core :=
      { x with acc := vset x.acc a.val (BitVec.ofInt 40 (limit 40 v)), st := if limit 40 v = v then x.st else stBit x.st a.val true }
    let at_ (y : Bool) (p : BitVec 14) : Int := (Memory.half (x.space y) (x.addr p)).toInt
    let prod : Int := at_ false (vget x.p m.px.val) * at_ true (vget x.p m.py.val)
    let dir (k : BitVec 2) : Int := if k = 2 then -1 else 1
    let prod2 : Int := at_ false (x.ptrAt m.px (dir m.xmod)) * at_ true (x.ptrAt m.py (dir m.ymod))
    let reg (r : Fin 8) : Int := ((vget x.d r.val).extractLsb' 0 16).toInt
    let moved (n : Nat) (y : Core) : Core := (y.modify m.px m.xmod n).modify m.py m.ymod n
    (Runs c (.mac c a m) s → RanTo c s (exec (.mac c a m) s) (moved 1 (put (A + prod))) 1) ∧
    (Runs c (.msu c a m) s → RanTo c s (exec (.msu c a m) s) (moved 1 (put (A - prod))) 1) ∧
    (Runs c (.mac2 c a m) s → RanTo c s (exec (.mac2 c a m) s) (moved 2 (put (A + (prod + prod2)))) 1) ∧
    (Runs c (.macd c a d e) s → RanTo c s (exec (.macd c a d e) s) (put (A + reg d * reg e)) 1) ∧
    (Runs c (.msud c a d e) s → RanTo c s (exec (.msud c a d e) s) (put (A - reg d * reg e)) 1) ∧
    (Runs c (.addAcc c a b) s → RanTo c s (exec (.addAcc c a b) s) (put (A + (vget x.acc b.val).toInt)) 1) ∧
    (Runs c (.subAcc c a b) s → RanTo c s (exec (.subAcc c a b) s) (put (A - (vget x.acc b.val).toInt)) 1) ∧
    (Runs c (.shr c a sh) s → RanTo c s (exec (.shr c a sh) s) (put (A / (2 ^ sh.toNat : Nat))) 1) ∧
    (Runs c (.shl c a sh) s → RanTo c s (exec (.shl c a sh) s) (put (A * (2 ^ sh.toNat : Nat))) 1) ∧
    (Runs c (.absA c a) s → RanTo c s (exec (.absA c a) s) (put |A|) 1)

/-- Control instructions complete: branches take two cycles when taken, `repeat` runs the next instruction n times (0 means
4,096), `setb` writes one detector bit, `clrst` clears the sticky bits of its mask, `done` ends the invocation and delivers
`OUT`. -/
def Obligations.CoreControl : Prop :=
  ∀ (c : Fin 32) (s : State) (n t : BitVec 12) (b : Fin 4) (cond : BitVec 4) (mask : BitVec 5),
    let x := core s c.val
    let jump (y : Core) (taken : Bool) : Core :=
      if taken then { y with pc := t, cycles := y.cycles + 2 } else { y with pc := y.pc + 1, cycles := y.cycles + 1 }
    (Runs c (.repeatI c n) s →
      WentTo c s (exec (.repeatI c n) s)
        { x with rep := if n = 0 then 4096 else n.toNat, pc := x.pc + 1, cycles := x.cycles + 1 }) ∧
    (Runs c (.dbnz c t) s → WentTo c s (exec (.dbnz c t) s) (jump { x with lc := x.lc - 1 } (x.lc ≠ 1))) ∧
    (Runs c (.br c t) s → WentTo c s (exec (.br c t) s) { x with pc := t, cycles := x.cycles + 2 }) ∧
    (Runs c (.bcc c cond t) s → WentTo c s (exec (.bcc c cond t) s) (jump x (condHolds x.st cond))) ∧
    (Runs c (.setb c b cond) s → ∃ st : U16, RanTo c s (exec (.setb c b cond) s) { x with st := st } 1 ∧
      st.getLsbD (8 + b.val) = condHolds x.st cond ∧ ∀ k, k ≠ 8 + b.val → st.getLsbD k = x.st.getLsbD k) ∧
    (Runs c (.clrst c mask) s → ∃ st : U16, RanTo c s (exec (.clrst c mask) s) { x with st := st } 1 ∧
      ∀ k, st.getLsbD k = (x.st.getLsbD k && !mask.getLsbD k)) ∧
    (Runs c (.done c) s → exec (.done c) s = .next (endInv c.val (x.st.extractLsb' 8 4) true
      (modCore c.val (fun x => { x with cycles := x.cycles + 1, pc := x.pc + 1 }) s)))

/-- The conditions of R285, as `bcc` and `setb` use them; a reserved code is not well formed. -/
def Obligations.Conditions : Prop :=
  (∀ st : U16,
    let LT := st.getLsbD 5
    let EQ := st.getLsbD 6
    let GT := st.getLsbD 7
    let OV := st.getLsbD 0 || st.getLsbD 1 || st.getLsbD 2 || st.getLsbD 3
    condHolds st 0 = EQ ∧ condHolds st 1 = !EQ ∧ condHolds st 2 = LT ∧ condHolds st 3 = (GT || EQ) ∧ condHolds st 4 = GT ∧
      condHolds st 5 = (LT || EQ) ∧ condHolds st 6 = OV ∧ condHolds st 7 = !OV ∧ condHolds st 14 = true ∧
      condHolds st 15 = false) ∧
  ∀ (c : Fin 32) (b : Fin 4) (t : BitVec 12) (cond : BitVec 4) (s : State),
    let x := core s c.val
    (8 ≤ cond.toNat → cond.toNat ≤ 13 →
      (Instr.bcc c cond t).wellFormed = false ∧ (Instr.setb c b cond).wellFormed = false) ∧
    (Runs c (.bcc c cond t) s → ∃ y, WentTo c s (exec (.bcc c cond t) s) y ∧
      y.pc = (if condHolds x.st cond = true then t else x.pc + 1)) ∧
    (Runs c (.setb c b cond) s → ∃ y, RanTo c s (exec (.setb c b cond) s) y 1 ∧
      y.st.getLsbD (8 + b.val) = condHolds x.st cond)

/-- A zone-core instruction other than `done` changes its own core and nothing else of the device, whether it runs or its
turn has not come. What every instruction does last: cycles are counted; outside a repeat the program counter moves on by one
word, in a repeat it stays until the last of the n executions. -/
def Obligations.CoreFrame : Prop :=
  (∀ (i : Instr) (c : Fin 32) (s t : State), coreInstr i = some c → exec i s = .next t →
    t = { s with cores := t.cores } ∧ (∀ k, k ≠ c.val → core t k = core s k) ∧
    (core t c.val).imem = (core s c.val).imem ∧ (core t c.val).bindings = (core s c.val).bindings) ∧
  ∀ (x : Core) (n : Nat),
    (x.advance n).cycles = x.cycles + n ∧
    (2 ≤ x.rep → (x.advance n).pc = x.pc ∧ (x.advance n).rep = x.rep - 1) ∧
    (x.rep ≤ 1 → (x.advance n).pc = x.pc + 1 ∧ (x.advance n).rep = 0) ∧
    (x.advance n).acc = x.acc ∧ (x.advance n).d = x.d ∧ (x.advance n).p = x.p ∧ (x.advance n).m = x.m ∧
    (x.advance n).lc = x.lc ∧ (x.advance n).st = x.st

/-- A zone-core instruction leaves every byte of both data memories as it was, except the bytes it stores: two of each
halfword that its operand names. An instruction that stores nothing leaves all of them. Every core memory stays in its canonical
form. -/
def Obligations.CoreMemoryFrame : Prop :=
  ∀ (i : Instr) (c : Fin 32) (s t : State), coreInstr i = some c → exec i s = .next t →
    let x := core s c.val
    let y := core t c.val
    (s.memOk = true → t.memOk = true) ∧
    match storesAt i with
    | none => y.xmem = x.xmem ∧ y.ymem = x.ymem
    | some (m, n) =>
      (if m.spaceY && !x.unified then y.xmem = x.xmem else y.ymem = x.ymem) ∧
      ∀ a, a / 2 ∉ storeHalves x m n → Memory.read (y.space m.spaceY) a = Memory.read (x.space m.spaceY) a

/-- A pointer stays in its buffer: with a modulo length m the result lies in the m halfwords from the base B, at the distance
(p - B + s) mod m (R281). -/
def Obligations.PointerWraps : Prop :=
  ∀ (p : BitVec 14) (m : Nat) (s : Int), 0 < m → m < 2 ^ 14 →
    let B := p.toNat / 2 ^ clog2 m * 2 ^ clog2 m
    B ≤ (wrapPtr p m s).toNat ∧ (wrapPtr p m s).toNat < B + m ∧
      ((wrapPtr p m s).toNat : Int) = B + ((p.toNat : Int) - B + s) % m

/-! ### Host commands: when each is carried out, and what it does (R351). `u` is the state when the command begins. -/

/-- `NOP`, `GET_CAPS`, `GET_STATUS`, `SET_NODE`, `GET_LOG` (R378-R380, R384, R385). -/
def Obligations.SystemCommands : Prop :=
  ∀ (r : Req) (s : State),
    let u := begun r s
    let p := r.payload
    (Ready nopSpec r s → exec (.nop r) s = .next (conclude (reqOf nopSpec r s)
        { status := St.ok, payload := p, st := u } false)) ∧
    (Ready getCapsSpec r s → exec (.getCaps r) s = .next (conclude (reqOf getCapsSpec r s)
        { status := St.ok, st := u,
          payload := le4 u.part.caps.toNat ++ le4 (fwVersionOf u.mgmt.runningB u).toNat ++ le1 (bit u.mgmt.runningB)
          ++ le1 (flags [u.mgmt.activeB, u.mgmt.ready]) ++ zeros 2 ++ le8 u.part.dieId.toNat ++ le2 u.cmd.node.toNat
          ++ le2 4096 ++ zeros 4 } false)) ∧
    (Ready getStatusSpec r s →
      exec (.getStatus r) s = .next (conclude (reqOf getStatusSpec r s)
        { status := St.ok, payload := statusReply u, st := u.took } false)) ∧
    (Ready setNodeSpec r s → fld p 0 2 ≤ 16383 → fld p 2 2 = 0 →
      exec (.setNode r) s = .next (conclude (reqOf setNodeSpec r s)
        { status := St.ok, payload := le2 u.cmd.node.toNat ++ le2 (fld p 0 2),
          st := { u with cmd.node := BitVec.ofNat 14 (fld p 0 2) } } false)) ∧
    (Ready getLogSpec r s → 1 ≤ fld p 4 2 → fld p 4 2 ≤ 250 → fld p 6 2 = 0 →
      let got := (u.fault.log.reverse.filter (fun e => fld p 0 4 ≤ e.index.toNat)).take (fld p 4 2)
      let oldest := ((u.fault.log.reverse.head?).map (·.index)).getD u.fault.logNext
      exec (.getLog r) s = .next (conclude (reqOf getLogSpec r s)
        { status := St.ok, st := u,
          payload := le4 oldest.toNat ++ le4 u.fault.logNext.toNat ++ le2 got.length ++ zeros 6 ++ got.flatMap logBytes } false))

/-- `RESET_UNIT` answers under the old epoch and then starts a recovery with cause 1, or a controller takeover (R383);
`FENCE` waits for what was received before it, and is answered at once when nothing is left to wait for (R367, R382). -/
def Obligations.ResetAndFence : Prop :=
  ∀ (r : Req) (s : State),
    let u := begun r s
    let k := r.target.toNat
    (Ready resetUnitSpec r s → (k < 32 → k < u.zoneCores ∧ (core u k).state ≠ .retired) → (k = 0x101 → u.ochreFitted = true) →
      (k = 0x107 → u.mgmt.ready = true) →
      ∃ a : Ans, exec (.resetUnit r) s = .next (conclude (reqOf resetUnitSpec r s)
        a false) ∧ a.st = u ∧
        a.status = (if k = 0x101 ∧ u.ochre.retired = true then St.degraded else St.ok) ∧
        a.payload = le2 (if u.cmd.epoch = 0xFFFF then 1 else u.cmd.epoch + 1).toNat ++ zeros 2 ∧
        ∀ x, a.after x = if k = 0x107 then controllerFails 6 x else startRecovery 1 r.target [] (unitReset k x)) ∧
    (Ready fenceSpec r s →
      exec (.fence r) s = .next (settleFences 64
        { (dropFetched (reqOf fenceSpec r s) u) with cmd.fences := u.cmd.fences ++ [fenceWait (reqOf fenceSpec r s) u] }))

/-- `FAULT_READ`, `FAULT_CLEAR`, `SPARE_STATUS`, `SELF_TEST`, `FW_UPDATE` (R499, R502, R518-R520). -/
def Obligations.FaultCommands : Prop :=
  ∀ (r : Req) (s : State),
    let u := begun r s
    let p := r.payload
    (Ready faultReadSpec r s → 1 ≤ fld p 2 2 → fld p 2 2 ≤ 250 →
      let got := (u.fault.table.drop (fld p 0 2)).take (fld p 2 2)
      exec (.faultRead r) s = .next (conclude (reqOf faultReadSpec r s)
        { status := St.ok, st := u,
          payload := le2 u.fault.table.length ++ le2 (u.fault.fatalCode.getD 0xFFFF) ++ le1 (latchByte u) ++ zeros 1
            ++ le2 got.length ++ got.flatMap faultEntryBytes } false)) ∧
    (Ready faultClearSpec r s → fld p 0 1 ≤ 15 → fld p 1 3 = 0 →
      let v := fld p 0 1
      let a := if tst v 3 then markRead u else u
      let b := if tst v 0 then clearFaultCounts a else a
      let c := if tst v 1 then clearFatal b else b
      let d := if tst v 2 then clearSticky c else c
      exec (.faultClear r) s = .next (conclude (reqOf faultClearSpec r s)
        { status := if tst v 1 && latchHolds u then St.degraded else St.ok, payload := le1 (latchByte d) ++ zeros 3, st := d } false)) ∧
    (Ready spareStatusSpec r s →
      exec (.spareStatus r) s = .next (conclude (reqOf spareStatusSpec r s)
        { status := St.ok, payload := spareReply u, st := u } false)) ∧
    (Ready selfTestSpec r s → u.inMode [.standby, .warm, .acoustic, .survey, .full] = true → u.longBusy 0xF1 = false →
      fld p 0 1 ≤ 63 → fld p 1 3 = 0 →
      exec (.selfTest r) s = .next (conclude (reqOf selfTestSpec r s)
        { status := St.accepted,
          st := { u with mgmt.selfTest := some (r.tag, by8 (fld p 0 1)), mgmt.selfTestCut := false } } false)) ∧
    (Ready fwUpdateSpec r s → u.inMode [.standby, .warm] = true → u.longBusy 0xF2 = false → u.mgmt.ready = true →
      fld p 1 1 = 3 → fld p 2 2 = 0 → (fld p 4 4 = 0 ∨ (1024 ≤ fld p 4 4 ∧ fld p 4 4 ≤ 2097152)) → liveMask u ≠ 0 →
      exec (.fwUpdate r) s = .next (conclude (reqOf fwUpdateSpec r s)
        { status := St.accepted, st := { u with mgmt.update := some (r.tag, 3, none, false) } } false)) ∧
    (Ready fwUpdateSpec r s → u.inMode [.standby, .warm] = true → u.longBusy 0xF2 = false →
      (fld p 1 1 = 1 ∨ fld p 1 1 = 2 ∧ u.mgmt.ready = true) → fld p 2 2 = 0 → fld p 0 1 ≤ 3 → 1024 ≤ fld p 4 4 →
      fld p 4 4 ≤ 2097152 → liveMask u ≠ 0 →
      ∀ img, staged u (fld p 0 1) = some img → stageMismatch img (fld p 4 4) (fld p 8 4) = false →
      exec (.fwUpdate r) s = .next (conclude (reqOf fwUpdateSpec r s)
        { status := St.accepted, st := { u with mgmt.update := some (r.tag, by8 (fld p 1 1), some img, false) } } false))

/-- The launch commands, with the checks of R90-R94: a request of keep values reads and changes nothing; otherwise the change is
scheduled at the boundary of R56, which the reply names, or applied at once when no launches run. -/
def Obligations.LaunchCommands : Prop :=
  ∀ (r : Req) (s : State),
    let u := begun r s
    let p := r.payload
    let scheduled (f : Fetched) (change : State → State) : State × Bound :=
      schedule f p (altersTiming u.planMode (projected u) (change (projected u))) false
        (periodOf (change (projected u)) u.planMode) ((change (projected u)).light.port ≠ (projected u).light.port) u
    let done (f : Fetched) (change : State → State) : Ans :=
      { status := St.ok, payload := launchState (some (scheduled f change).2) (scheduled f change).1,
        names := (scheduled f change).2.named, due := (scheduled f change).2.dueOf, st := (scheduled f change).1 }
    let reads : Ans := { status := St.ok, payload := launchState none u, st := u }
    let lightKeeps : Bool := fld p 0 1 = 0 && fld p 1 1 = 0xFF && fld p 2 1 = 0 && fld p 3 1 = 0
      && (List.range 3).all (fun i => fld p (4 + 4 * i) 2 = 0 && fld p (6 + 4 * i) 2 = 0xFFFF)
    let aprKeeps : Bool := sfld p 2 2 = 0x7FFF && sfld p 4 2 = 0x7FFF && sfld p 6 2 = 0x7FFF && fld p 8 1 = 0
      && fld p 1 1 = 0 && fld p 9 3 = 0
    (Ready launchCfgSpec r s → (leaderField p = true ∨ sfld p 12 2 ≠ 0x7FFF) → u.calibrating = false →
      (fld p 14 2 = 0 ∨ fld p 14 2 = (projected u).light.plan.carrier ∨
        (1600 ≤ fld p 14 2 ∧ fld p 14 2 ≤ 5900 ∧ u.inMode [.warm, .standby] = true)) →
      (fld p 14 2 = 0 ∨ (1600 ≤ fld p 14 2 ∧ fld p 14 2 ≤ 5900)) →
      (follows (reqOf launchCfgSpec r s) u = false ∨ leaderField p = false) →
      (fld p 0 4 = 0 ∨ (1000 ≤ fld p 0 4 ∧ fld p 0 4 ≤ 200000 ∧ (projected u).lock.phase = 0)) → fld p 4 1 ≤ 2 →
      (fld p 5 1 ≤ 25 ∨ fld p 5 1 = 0xFF) → (fld p 6 2 = 0 ∨ (20 ≤ fld p 6 2 ∧ fld p 6 2 ≤ 160)) →
      (fld p 8 2 = 0 ∨ (2 ≤ fld p 8 2 ∧ fld p 8 2 ≤ 2000)) → (fld p 10 2 = 0 ∨ (5 ≤ fld p 10 2 ∧ fld p 10 2 ≤ 200)) →
      (sfld p 12 2 = 0x7FFF ∨ (-100 ≤ sfld p 12 2 ∧ sfld p 12 2 ≤ (projected u).light.cfg.aprCeil)) →
      planRules u (projected u) (applyLaunchCfg p (projected u)) = true →
      exec (.launchCfg r) s = .next (conclude (reqOf launchCfgSpec r s)
        (forwardPlan (reqOf launchCfgSpec r s) (leaderField p) (done (reqOf launchCfgSpec r s) (applyLaunchCfg p))) false)) ∧
    (Ready slotCfgSpec r s → (fld p 0 1 ≠ 0 ∨ fld p 2 1 ≠ 0) → u.calibrating = false →
      [0, 1, 2, 4, 8].contains (fld p 0 1) = true → fld p 0 1 ≤ u.slotsMax → fld p 2 1 ≤ 3 → fld p 3 1 = 0 →
      ((namedSlots p).all (fun k => k < u.slotsMax) = true) →
      ((namedSlots p).all (fun k => k < if fld p 0 1 = 0 then (projected u).light.plan.nSlots else fld p 0 1) = true) →
      (tst (fld p 2 1) 1 = false ∨ (List.range 8).all (fun k => inI (sfld p (4 + k) 1) (-20) 20) = true) →
      (u.planMode ≠ .full ∨ fld p 0 1 = 0 ∨ fld p 0 1 = 8) → (u.inPair = false ∨ fld p 0 1 = 0 ∨ fld p 0 1 = 8) →
      (follows (reqOf slotCfgSpec r s) u = false ∨ tst (fld p 2 1) 0 = false) →
      planRules u (projected u) (applySlotCfg p (projected u)) = true →
      exec (.slotCfg r) s = .next (conclude (reqOf slotCfgSpec r s)
        (forwardPlan (reqOf slotCfgSpec r s) (tst (fld p 2 1) 0) (done (reqOf slotCfgSpec r s) (applySlotCfg p))) false)) ∧
    (Ready lightCfgSpec r s → lightKeeps = false → u.calibrating = false → fld p 0 1 ≤ 2 → (u.inPair = false ∨ fld p 0 1 ≠ 1) →
      (fld p 1 1 = 0xFF ∨ (1 ≤ fld p 1 1 ∧ fld p 1 1 ≤ 7)) → fld p 2 1 ≤ 30 →
      (fld p 3 1 = 0 ∨ (70 ≤ fld p 3 1 ∧ fld p 3 1 ≤ 110)) →
      ((List.range 3).all (fun i => fld p (4 + 4 * i) 2 ≤ 2000 && (fld p (6 + 4 * i) 2 ≤ 2000 || fld p (6 + 4 * i) 2 = 0xFFFF)) = true) →
      exec (.lightCfg r) s = .next (conclude (reqOf lightCfgSpec r s)
        { done (reqOf lightCfgSpec r s) (applyLightCfg p) with
          status := if fld p 1 1 ≠ 0xFF ∧ (List.range 3).any (fun i => tst (fld p 1 1) i && (vget u.light.ldc (3 + i)).retired) = true
            then St.degraded else St.ok } false)) ∧
    (Ready portSelectSpec r s → (fld p 0 1 ≠ 0 ∨ fld p 1 1 ≠ 0) → u.calibrating = false → fld p 0 1 ≤ 2 → fld p 1 1 ≤ 3 →
      (tst (fld p 1 1) 0 = false ∨ (14000 ≤ fld p 2 2 ∧ fld p 2 2 ≤ 15500)) →
      (tst (fld p 1 1) 1 = false ∨ (14000 ≤ fld p 4 2 ∧ fld p 4 2 ≤ 15500)) → fld p 6 2 = 0 →
      (u.planMode.measures = false ∨ fld p 0 1 = 0 ∨ fld p 0 1 = (projected u).light.port ∨
        (u.portOf (fld p 0 1)).survey.isSome = true) →
      planRules u (projected u) (applyPortSelect p (projected u)) = true →
      exec (.portSelect r) s = .next (conclude (reqOf portSelectSpec r s)
        (startSwitch u.light.port (done (reqOf portSelectSpec r s) (applyPortSelect p))) false)) ∧
    (Ready aprCfgSpec r s → fld p 0 1 = 1 → u.calibrating = false → u.fault.latch = false → u.light.aprTrip = true →
      exec (.aprCfg r) s = .next (conclude (reqOf aprCfgSpec r s)
        (done (reqOf aprCfgSpec r s) (applyAprCfg p)) false)) ∧
    (Ready aprCfgSpec r s → fld p 0 1 = 0 → aprKeeps = false → u.calibrating = false → fld p 1 1 = 0 → fld p 9 3 = 0 →
      (sfld p 2 2 = 0x7FFF ∨ (-100 ≤ sfld p 2 2 ∧ sfld p 2 2 ≤ 200)) →
      (sfld p 4 2 = 0x7FFF ∨ (-100 ≤ sfld p 4 2 ∧ sfld p 4 2 ≤ 270)) →
      (sfld p 6 2 = 0x7FFF ∨ (-450 ≤ sfld p 6 2 ∧ sfld p 6 2 ≤ -140)) → (fld p 8 1 = 0 ∨ (10 ≤ fld p 8 1 ∧ fld p 8 1 ≤ 100)) →
      (applyAprCfg p (projected u)).light.cfg.aprLevel ≤ (applyAprCfg p (projected u)).light.cfg.aprCeil →
      exec (.aprCfg r) s = .next (conclude (reqOf aprCfgSpec r s)
        (done (reqOf aprCfgSpec r s) (applyAprCfg p)) false)) ∧
    (Ready aprCfgSpec r s → fld p 0 1 = 1 → u.calibrating = false → u.fault.latch = false → u.light.aprTrip = false →
      exec (.aprCfg r) s = .next (conclude (reqOf aprCfgSpec r s) reads false)) ∧
    (Ready launchCfgSpec r s → leaderField p = false → sfld p 12 2 = 0x7FFF →
      exec (.launchCfg r) s = .next (conclude (reqOf launchCfgSpec r s)
        reads false)) ∧
    (Ready slotCfgSpec r s → fld p 0 1 = 0 → fld p 2 1 = 0 → fld p 3 1 = 0 → exec (.slotCfg r) s = .next (conclude (reqOf slotCfgSpec r s)
        reads false)) ∧
    (Ready lightCfgSpec r s → lightKeeps = true → exec (.lightCfg r) s = .next (conclude (reqOf lightCfgSpec r s)
        reads false)) ∧
    (Ready portSelectSpec r s → fld p 0 1 = 0 → fld p 1 1 = 0 → fld p 6 2 = 0 → exec (.portSelect r) s = .next (conclude (reqOf portSelectSpec r s)
        reads false)) ∧
    (Ready aprCfgSpec r s → fld p 0 1 = 0 → aprKeeps = true → exec (.aprCfg r) s = .next (conclude (reqOf aprCfgSpec r s)
        reads false))

/-- `GAMBIT_RUN`, `GAMBIT_READ`, `ZONE_MAP_LOAD` and `ZONE_MAP_READ` (R34, R40, R133, R134): a survey run is accepted and the
switch moves to its first port; a map that passes its checks is scheduled at the boundary of R56, or only checked; a read answers
what is held. -/
def Obligations.SurveyAndMapCommands : Prop :=
  ∀ (r : Req) (s : State),
    let u := begun r s
    let p := r.payload
    (Ready gambitRunSpec r s → u.power.mode = .warm → u.power.trans = none → u.light.locked = true → u.longBusy 0x14 = false →
      u.fibre.gambit = none → 1 ≤ fld p 0 1 → fld p 0 1 ≤ 3 → fld p 1 1 = 0 →
      (fld p 2 2 = 0 ∨ (10 ≤ fld p 2 2 ∧ fld p 2 2 ≤ 1250)) →
      let first := if tst (fld p 0 1) 0 = true then 1 else 2
      let g : Gambit :=
        { ports := (if tst (fld p 0 1) 0 then [1] else []) ++ (if tst (fld p 0 1) 1 then [2] else []), on := first,
          range := if fld p 2 2 = 0 then 1250 else fld p 2 2, tag := r.tag, back := u.light.port, entry := false }
      let v := if u.light.port = first then u else { u with light.switching := some (first, u.now + 50000000000) }
      exec (.gambitRun r) s = .next (conclude (reqOf gambitRunSpec r s)
        { status := St.accepted,
          st := refreshDrives { v.took with fibre.gambit := some (startPort v g) } } false)) ∧
    (Ready gambitReadSpec r s → (fld p 0 1 = 1 ∨ fld p 0 1 = 2) → fld p 1 1 ≤ 1 → fld p 2 2 = 0 →
      exec (.gambitRead r) s = .next (conclude (reqOf gambitReadSpec r s)
        { status := St.ok, payload := gambitReply (fld p 0 1) u,
          st := if fld p 1 1 = 1 then setPort (fld p 0 1) { u.portOf (fld p 0 1) with aliasSticky := 0 } u else u } false)) ∧
    (∀ img, Ready zoneMapLoadSpec r s → staged u (fld p 0 1) = some img → mapBad img = none → u.ochreFitted = true →
      u.inMode [.calibrate] = false → mapBlocked u = false → fld p 0 1 ≤ 3 → fld p 1 1 = 0 → fld p 2 2 = 0 →
      let j := projected u
      let m := mapOfImage img
      okR24 (m.das j.light.port).length (nDas j j.planMode j.light.plan) (acceptedTl j) = true →
      okOchre { j with indigo.map := m } j.planMode = true → stageMismatch img (fld p 4 4) (fld p 8 4) = false →
      let q := schedule (reqOf zoneMapLoadSpec r s) img false false 0 false u
      exec (.zoneMapLoad r) s = .next (conclude (reqOf zoneMapLoadSpec r s)
        { status := St.ok, st := q.1, names := q.2.named, due := q.2.dueOf,
          payload := mapReply (if q.2.now_ then none else some q.2) img (mapRate m u) none } false)) ∧
    (∀ img, Ready zoneMapLoadSpec r s → staged u (fld p 0 1) = some img → mapBad img = none → u.ochreFitted = true →
      u.inMode [.calibrate] = false → mapBlocked u = false → fld p 0 1 ≤ 3 → fld p 1 1 = 1 → fld p 2 2 = 0 →
      let j := projected u
      let m := mapOfImage img
      okR24 (m.das j.light.port).length (nDas j j.planMode j.light.plan) (acceptedTl j) = true →
      okOchre { j with indigo.map := m } j.planMode = true → stageMismatch img (fld p 4 4) (fld p 8 4) = false →
      exec (.zoneMapLoad r) s = .next (conclude (reqOf zoneMapLoadSpec r s)
        { status := St.ok, st := u, payload := mapReply none img (mapRate m u) none } false)) ∧
    (Ready zoneMapReadSpec r s → fld p 0 1 = 0 → fld p 1 3 = 0 → 1 ≤ fld p 8 2 → fld p 8 2 ≤ 500 → fld p 10 2 = 0 →
      (u.indigo.map.nDas = 0 ∨ fld p 4 4 < u.indigo.map.nDas) →
      let es := (((u.indigo.map.das1 ++ u.indigo.map.das2).drop (fld p 4 4)).take (fld p 8 2)).map dasPlain
      exec (.zoneMapRead r) s = .next (conclude (reqOf zoneMapReadSpec r s)
        { status := St.ok, st := u,
          payload := le4 u.indigo.map.nDas ++ le4 u.indigo.map.nDts ++ le4 u.indigo.map.das1.length
            ++ le4 u.indigo.map.dts1.length ++ le4 u.indigo.map.crc.toNat ++ le4 (fld p 4 4) ++ le2 es.length ++ zeros 6
            ++ es.flatten } false)) ∧
    (Ready zoneMapReadSpec r s → fld p 0 1 = 1 → fld p 1 3 = 0 → 1 ≤ fld p 8 2 → fld p 8 2 ≤ 250 → fld p 10 2 = 0 →
      (u.indigo.map.nDts = 0 ∨ fld p 4 4 < u.indigo.map.nDts) →
      let es := (((u.indigo.map.dts1 ++ u.indigo.map.dts2).drop (fld p 4 4)).take (fld p 8 2)).map dtsPlain
      exec (.zoneMapRead r) s = .next (conclude (reqOf zoneMapReadSpec r s)
        { status := St.ok, st := u,
          payload := le4 u.indigo.map.nDas ++ le4 u.indigo.map.nDts ++ le4 u.indigo.map.das1.length
            ++ le4 u.indigo.map.dts1.length ++ le4 u.indigo.map.crc.toNat ++ le4 (fld p 4 4) ++ le2 es.length ++ zeros 6
            ++ es.flatten } false))

/-- `INDIGO_CFG`, `OCHRE_CFG`, `OCHRE_READ` and `REF_COIL_CFG` (R137, R177-R181): a change is scheduled at the boundary of R56
after its checks; a request of keep values changes nothing; a read answers what is held (with no DTS zone in the map any `FIRST` is
accepted: DESIGN CHOICE, log 176). -/
def Obligations.ReceiverCommands : Prop :=
  ∀ (r : Req) (s : State),
    let u := begun r s
    let p := r.payload
    let plain (f : Fetched) : State × Bound := schedule f p false false 1 false u
    (Ready indigoCfgSpec r s → u.calibrating = false → (fld p 0 1 = 0 ∨ fld p 0 1 = 1 ∨ fld p 0 1 = 4) → fld p 1 1 ≤ 3 →
      fld p 2 1 ≤ 15 → fld p 3 1 ≤ 15 → (fld p 4 1 = 0 ∨ (4 ≤ fld p 4 1 ∧ fld p 4 1 ≤ 64)) →
      (fld p 5 1 = 0 ∨ (4 ≤ fld p 5 1 ∧ fld p 5 1 ≤ 12)) → fld p 6 1 ≤ 4 → fld p 7 1 = 0 →
      let keeps : Bool := fld p 0 2 = 0 && fld p 3 1 = 0 && fld p 4 3 = 0
      let q := plain (reqOf indigoCfgSpec r s)
      exec (.indigoCfg r) s = .next (conclude (reqOf indigoCfgSpec r s)
        (if keeps = true then { status := St.ok, payload := indigoReply none u, st := u }
         else { status := St.ok, payload := indigoReply (some q.2) q.1, names := q.2.named, due := q.2.dueOf, st := q.1 }) false)) ∧
    (Ready ochreCfgSpec r s → u.ochreFitted = true → u.calibrating = false →
      (fld p 0 2 = 0 ∨ (10 ≤ fld p 0 2 ∧ fld p 0 2 ≤ 200 ∧ fld p 0 2 % 2 = 0)) →
      (sfld p 2 2 = 0x7FFF ∨ (-100 ≤ sfld p 2 2 ∧ sfld p 2 2 ≤ (projected u).light.cfg.aprCeil)) →
      (fld p 4 2 = 0 ∨ (10300 ≤ fld p 4 2 ∧ fld p 4 2 ≤ 11300)) → fld p 6 1 ≤ 16 →
      (fld p 7 1 = 0 ∨ (20 ≤ fld p 7 1 ∧ fld p 7 1 ≤ 120)) →
      (fld p 8 4 = 0 ∨ (16 ≤ fld p 8 4 ∧ fld p 8 4 ≤ 16777216 ∧ fld p 8 4 % 16 = 0)) →
      (fld p 12 4 = 0 ∨ (1000 ≤ fld p 12 4 ∧ fld p 12 4 ≤ 200000)) → fld p 16 1 ≤ 1 → fld p 17 1 ≤ 1 → fld p 18 2 = 0 →
      let keeps : Bool := fld p 0 2 = 0 && sfld p 2 2 = 0x7FFF && fld p 4 2 = 0 && fld p 6 2 = 0 && fld p 8 8 = 0 && fld p 17 1 = 0
      let b := projected u
      let a := applyOchreCfg p b
      (keeps = true ∨ ochreRules u.planMode b a = true) →
      let q := schedule (reqOf ochreCfgSpec r s) p (altersTiming u.planMode b a) false (periodOf a u.planMode) false u
      exec (.ochreCfg r) s = .next (conclude (reqOf ochreCfgSpec r s)
        (if keeps = true then { status := St.ok, payload := ochreReply none u, st := u }
         else { status := St.ok, payload := ochreReply (some q.2) q.1, names := q.2.named, due := q.2.dueOf, st := q.1 }) false)) ∧
    (Ready ochreReadSpec r s → u.ochreFitted = true → fld p 0 1 ≤ 1 → fld p 1 3 = 0 → fld p 10 2 = 0 →
      (if fld p 0 1 = 1 then fld p 8 2 = 1 else 1 ≤ fld p 8 2 ∧ fld p 8 2 ≤ 250) →
      (u.indigo.map.nDts = 0 ∨ fld p 4 4 < u.indigo.map.nDts) →
      let o := u.ochre
      let zs := (o.zones.drop (fld p 4 4)).take (fld p 8 2)
      let sp := wholeSpec (if o.specBase ≤ fld p 4 4 then (o.specs[fld p 4 4 - o.specBase]?).getD [] else [])
      let ba := wholeSpec o.base
      let k := specScale 256 (sp ++ ba) 0
      let row (l : List Nat) := (List.range 128).flatMap (fun i => le4 ((l[i]?).getD 0 / 2 ^ k))
      let head (n scale : Nat) : List Byte :=
        padTo 4 (o.desc.take 4) ++ padTo 4 ((o.desc.drop 4).take 4) ++ le4 (((o.refUse.map (·.1)).getD 0) % 4294967296).toNat
          ++ le2 ((o.refUse.map (fun x => degCode x.2)).getD 0) ++ padTo 2 ((o.desc.drop 12).take 2) ++ le4 (fld p 4 4) ++ le2 n
          ++ le1 (fld p 0 1) ++ le1 scale ++ zeros 8
      exec (.ochreRead r) s = .next (conclude (reqOf ochreReadSpec r s)
        { status := St.ok, st := u,
          payload := if o.desc.isEmpty = true then head 0 0
            else if fld p 0 1 = 0 then head zs.length 0 ++ zs.flatMap dtsEntryBytes
            else head 1 k ++ row sp ++ row ba } false)) ∧
    (Ready refCoilCfgSpec r s → u.ochreFitted = true → u.calibrating = false →
      (fld p 0 1 = 0 ∨ ((fld p 0 1 = 1 ∨ fld p 0 1 = 2) ∧ fld p 1 1 ≤ 7 ∧ (fld p 2 1 = 1 ∨ fld p 2 1 = 2) ∧ fld p 3 1 = 0 ∧
        16 ≤ fld p 8 2 ∧ fld p 8 2 ≤ 2048 ∧ fld p 4 4 + fld p 8 2 ≤ 262144 ∧ fld p 10 2 = 0 ∧
        okOchre (applyRefCoil p (projected u)) u.planMode = true)) →
      let q := plain (reqOf refCoilCfgSpec r s)
      exec (.refCoilCfg r) s = .next (conclude (reqOf refCoilCfgSpec r s)
        { status := St.ok, payload := coilReply q.1, due := q.2.dueOf, st := q.1 } false)) ∧
    (Ready refCoilCfgSpec r s → u.ochreFitted = true → u.calibrating = false → fld p 0 1 = 0xFF → fld p 1 1 ≤ 7 → fld p 2 1 ≤ 2 →
      fld p 3 1 = 0 → (fld p 8 2 = 0 ∨ (16 ≤ fld p 8 2 ∧ fld p 8 2 ≤ 2048)) → fld p 4 4 + fld p 8 2 ≤ 262144 → fld p 10 2 = 0 →
      exec (.refCoilCfg r) s = .next (conclude (reqOf refCoilCfgSpec r s)
        { status := St.ok, payload := coilReply u, st := u } false))

/-- `CTX_SET`, `CTX_GET`, `CTX_ARM` and `CTX_DISARM` (R215, R216, R224, R242, R243): settings are held, arming starts a run,
disarming takes effect at the context's point (R224); a second disarm has a point of its own and the one in force names its
launch. A context whose width changes gives its bindings their share of it (R289). -/
def Obligations.ContextCommands : Prop :=
  ∀ (r : Req) (s : State),
    let u := begun r s
    let p := r.payload
    let k := r.target.toNat
    let c := ctx u k
    let w := ctxWhen u c
    (Ready ctxSetSpec r s → c.live = false → fld p 0 1 = 0 →
      exec (.ctxSet r) s = .next (conclude (reqOf ctxSetSpec r s)
        { status := St.ok, st := resizeBinding k (modCtx k (fun c => { c with cfg := ({} : Ctx).cfg }) u) } false)) ∧
    (Ready ctxSetSpec r s → c.live = false → fld p 0 1 ≠ 0 → (fld p 0 1 = 2 → u.ochreFitted = true) →
      setBad { c with cfg := p.take 56 } = false →
      exec (.ctxSet r) s = .next (conclude (reqOf ctxSetSpec r s)
        { status := St.ok, st := resizeBinding k (modCtx k (fun c => { c with cfg := p.take 56 }) u) } false)) ∧
    (Ready ctxGetSpec r s →
      exec (.ctxGet r) s = .next (conclude (reqOf ctxGetSpec r s)
        { status := St.ok, st := u,
          payload := c.cfg ++ le1 c.shown.code ++ le1 c.patW ++ zeros 2 ++ le4 c.seqRead ++ le4 c.trigCnt.toNat
            ++ le4 c.missed.toNat } false)) ∧
    (Ready ctxArmSpec r s → u.inMode armModes = true → fld p 0 1 ≤ 1 → fld p 1 3 = 0 →
      let u0 := lapsePoints k u
      let c0 := ctx u0 k
      let load := engineLoad u (c0 :: (ctxsWhere u Ctx.live).map (ctx u))
      let ring := ringRate u (c0 :: (ctxsWhere u Ctx.live).map (ctx u))
      c0.live = false → armReason u0 k load ring = 0 →
      exec (.ctxArm r) s = .next (conclude (reqOf ctxArmSpec r s)
        { status := St.ok, names := (ctxWhen u c0).count ≠ 2 ^ 64 - 1, due := (ctxWhen u c0).settle,
          payload := armReply 0 (ctxWhen u c0).count load ring,
          st := claimAtArm k (modCtx k (fun c => { (if fld p 0 1 = 1 then clearCounts c else c) with
            state := .armed, runC := 0, runW := 0, lines := 0, startAt := (ctxWhen u c0).due, effect := 2 ^ 64 - 1, jobs := [],
            cuts := [], stopping := none, tabs := tablesNow u k, lastLine := none, trigs := [], edges := [], marks := [],
            recent := none }) u0) } false)) ∧
    (Ready ctxDisarmSpec r s → fld p 0 1 ≤ 1 → fld p 1 3 = 0 → c.live = false →
      exec (.ctxDisarm r) s = .next (conclude (reqOf ctxDisarmSpec r s)
        { status := St.ok, st := u, payload := le1 0 ++ zeros 3 ++ le8 (2 ^ 64 - 1) } false)) ∧
    (Ready ctxDisarmSpec r s → fld p 0 1 ≤ 1 → fld p 1 3 = 0 → c.live = true → (c.state ≠ .disarming ∨ fld p 0 1 = 1) →
      exec (.ctxDisarm r) s = .next (conclude (reqOf ctxDisarmSpec r s)
        { status := St.ok, names := w.count ≠ 2 ^ 64 - 1, due := w.settle,
          payload := le1 (if (c.state = .capture ∨ c.state = .disarming) ∧ fld p 0 1 = 0 then 4 else 0) ++ zeros 3 ++ le8 w.count,
          st := atPoint k w.due (.disarm (tst (fld p 0 1) 0))
            (modCtx k (fun c => { c with effect := (if disarmDue c = true ∨ c.state = .disarming then c.effect else w.count) }) u) } false)) ∧
    (Ready ctxDisarmSpec r s → fld p 0 1 = 0 → fld p 1 3 = 0 → c.state = .disarming →
      exec (.ctxDisarm r) s = .next (conclude (reqOf ctxDisarmSpec r s)
        { status := St.ok, st := u, payload := le1 4 ++ zeros 3 ++ le8 c.effect, names := c.effect ≠ 2 ^ 64 - 1 } false))

/-- `PATTERN_SET`, `THRESH_LOAD` and `ALARM_ROUTE` (R244-R246): a pattern takes effect at the context's point, or at once in a
context that is not armed; a table no context uses is deleted or stored, once copies nothing reads are freed (R234) (a `DELETE` looks at no `DECODED_LEN` or check: DESIGN
CHOICE, log 205); the alarm pins are configured or cleared after what is due has been driven. -/
def Obligations.PatternAndAlarmCommands : Prop :=
  ∀ (r : Req) (s : State),
    let u := begun r s
    let p := r.payload
    let k := r.target.toNat
    let c := ctx u k
    let w := ctxWhen u c
    let v := freeCopies u
    (Ready patternSetSpec r s → fld p 1 3 = 0 → 1 ≤ fld p 0 1 → fld p 0 1 ≤ 64 → fld p 4 32 / 16 ^ fld p 0 1 = 0 →
      fld p 36 32 / 16 ^ fld p 0 1 = 0 → (c.live = true → fld p 0 1 ≤ c.n) →
      let a : CtxAct := .pattern (fld p 0 1) (BitVec.ofNat 256 (fld p 4 32)) (BitVec.ofNat 256 (fld p 36 32))
      exec (.patternSet r) s = .next (conclude (reqOf patternSetSpec r s)
        (if c.live = true then
          { status := St.ok, st := atPoint k w.due a u, payload := le8 w.count, names := w.count ≠ 2 ^ 64 - 1, due := w.settle }
         else { status := St.ok, st := applyPoint k a u.now u, payload := le8 (2 ^ 64 - 1) }) false)) ∧
    (Ready threshLoadSpec r s → fld p 2 1 = 1 → fld p 1 1 ≤ 63 → fld p 3 1 = 0 → fld p 4 4 ≤ 131071 → 1 ≤ fld p 8 4 →
      fld p 4 4 + fld p 8 4 ≤ 131072 → (tableUsers v (fld p 1 1)).isEmpty = true →
      let t := freeCopies { v with thresh.newest := v.thresh.newest.filter (fun t => t.1 ≠ fld p 1 1) }
      exec (.threshLoad r) s = .next (conclude (reqOf threshLoadSpec r s)
        { status := St.ok, st := t, payload := le4 (freeAfter t (fld p 1 1)) ++ le8 (2 ^ 64 - 1) } false)) ∧
    (∀ img, Ready threshLoadSpec r s → fld p 2 1 = 0 → fld p 1 1 ≤ 63 → fld p 3 1 = 0 → staged u (fld p 0 1) = some img →
      fld p 4 4 ≤ 131071 → 1 ≤ fld p 8 4 → fld p 4 4 + fld p 8 4 ≤ 131072 → (tableUsers v (fld p 1 1)).isEmpty = true →
      v.thresh.newest.find? (fun t => t.1 = fld p 1 1) = none → fld p 12 4 = 2 * fld p 8 4 →
      stageMismatch img (fld p 12 4) (fld p 16 4) = false →
      entriesHeld v.thresh.copies + fld p 8 4 ≤ Config.threshEntries →
      let t := freeCopies { v with
        thresh.copies := ({ id := v.thresh.nextId, first := fld p 4 4, entries := unitsOf img } : ThreshCopy) :: v.thresh.copies,
        thresh.nextId := v.thresh.nextId + 1,
        thresh.newest := (fld p 1 1, v.thresh.nextId) :: v.thresh.newest.filter (fun t => t.1 ≠ fld p 1 1) }
      exec (.threshLoad r) s = .next (conclude (reqOf threshLoadSpec r s)
        { status := St.ok, st := t, payload := le4 (freeAfter t (fld p 1 1)) ++ le8 (2 ^ 64 - 1) } false)) ∧
    (Ready alarmRouteSpec r s → fld p 0 1 ≤ 2 → fld p 6 2 = 0 →
      (fld p 0 1 = 0 → fld p 2 1 ≤ 2 ∧ fld p 3 1 ≤ 1 ∧ (fld p 2 1 = 1 → fld p 4 2 ≠ 0)) →
      let ks := (List.range 8).filter (tst (fld p 1 1))
      let v := alarmsBy u.now u
      let t := if fld p 0 1 = 0 then ks.foldl (fun s k => configPin (fld p 2 1) (fld p 3 1) (fld p 4 2) k s) v
        else if fld p 0 1 = 1 then ks.foldl (fun s k => clearPin k s) v else v
      exec (.alarmRoute r) s = .next (conclude (reqOf alarmRouteSpec r s)
        { status := St.ok, st := t, payload := alarmReply t } false))

/-- Records (R145, R272-R275): lists and reads answer what is held; a completed record is read back or mapped into BAR4; a release
frees records; the pool is configured while nothing uses it. -/
def Obligations.RecordCommands : Prop :=
  ∀ (r : Req) (s : State),
    let u := begun r s
    let p := r.payload
    -- in STANDBY a read-back takes the record memory out of self-refresh (R467)
    let memAwake (v : State) : State :=
      if v.power.mode = .standby then { v with mem.ch := v.mem.ch.map (fun m => { m with selfRefresh := false }) } else v
    (Ready recListSpec r s → (fld p 0 2 ≤ 256 ∨ fld p 0 2 = 0xFFFF) → 1 ≤ fld p 2 2 → fld p 2 2 ≤ 160 → fld p 4 4 ≤ 16383 →
      let all := (recsSorted u).filter (fun x => fld p 0 2 = 0xFFFF || x.ctx = fld p 0 2)
      let rest := all.filter (fun x => fld p 4 4 ≤ x.entry)
      let got := rest.take (fld p 2 2)
      exec (.recList r) s = .next (conclude (reqOf recListSpec r s)
        { status := St.ok, st := u,
          payload := le4 all.length ++ le4 (((rest.drop (fld p 2 2)).head?.map (·.entry)).getD 0xFFFFFFFF)
            ++ le4 (blocksFree u) ++ le2 got.length ++ zeros 2 ++ got.flatMap recEntry } false)) ∧
    (∀ x, Ready recFetchSpec r s → findRec (fld p 0 4) u = some x → fetchBad x p = false → x.phase = .done → x.lost = false →
      fld p 4 1 = 0 →
      exec (.recFetch r) s = .next (conclude (reqOf recFetchSpec r s)
        { status := if x.bad.any (fun w => fld p 8 8 / 8 ≤ w && w ≤ (fld p 8 8 + fld p 6 2 - 1) / 8) then St.degraded else St.ok,
          st := memAwake u,
          payload := le4 (fld p 0 4) ++ le8 (fld p 8 8) ++ le2 (fld p 6 2) ++ zeros 2 ++ le8 x.imageLen
            ++ maskBad x.bad (fld p 8 8) ((x.logical.drop (fld p 8 8)).take (fld p 6 2)) } false)) ∧
    (∀ x, Ready recFetchSpec r s → findRec (fld p 0 4) u = some x → fetchBad x p = false → x.phase = .done → x.lost = false →
      fld p 4 1 ≠ 0 →
      exec (.recFetch r) s = .next (conclude (reqOf recFetchSpec r s)
        { status := St.ok,
          st := { (memAwake u) with
            pool.pages := (List.range (fld p 18 2)).map (fun i => (fld p 16 2 + i, fld p 0 4, fld p 8 8 + i))
              ++ u.pool.pages.filter (fun y => y.1 < fld p 16 2 || fld p 16 2 + fld p 18 2 ≤ y.1) },
          payload := le4 (fld p 0 4) ++ le4 x.preBlocks ++ le4 x.postBlocks ++ le2 (fld p 18 2) ++ zeros 2 } false)) ∧
    (Ready recReleaseSpec r s → fld p 0 1 = 0 → fld p 1 1 = 0 → fld p 2 2 = 0 → 1 ≤ fld p 4 2 → fld p 4 2 ≤ 64 →
      fld p 6 2 = 0 →
      let q := releaseAll ((List.range (fld p 4 2)).map (fun i => fld p (8 + 4 * i) 4)) u
      let t := retryReserves q.2
      exec (.recRelease r) s = .next (conclude (reqOf recReleaseSpec r s)
        { status := if q.1.all (· = 0) then St.ok else St.degraded, st := t,
          payload := le2 (q.1.filter (· = 0)).length ++ zeros 2 ++ le4 (blocksFree t)
            ++ padTo (cdiv (fld p 4 2) 4 * 4) (q.1.flatMap le1) } false)) ∧
    (Ready recReleaseSpec r s → fld p 0 1 = 1 → fld p 1 1 = 0 → fld p 2 2 ≤ 256 → fld p 4 2 = 0 → fld p 6 2 = 0 →
      let own := ((u.pool.recs.filter (fun x => x.ctx = fld p 2 2 && x.phase ≠ .capture && x.phase ≠ .measuring)).map Record.handle)
      let t := retryReserves (own.foldl (fun s h => freeRec h s) u)
      exec (.recRelease r) s = .next (conclude (reqOf recReleaseSpec r s)
        { status := St.ok, st := t, payload := le2 own.length ++ zeros 2 ++ le4 (blocksFree t) } false)) ∧
    (Ready poolCfgSpec r s → fld p 0 1 ≤ 7 → fld p 1 3 = 0 → (fld p 4 4 = 0 ∨ (1024 ≤ fld p 4 4 ∧ fld p 4 4 ≤ 13312)) →
      fld p 8 4 ≤ 13312 → (fld p 12 4 = 0 ∨ (1 ≤ sfld p 12 4 ∧ sfld p 12 4 ≤ 8388607)) →
      (tst (fld p 0 1) 0 = true → r.target = 0xFFFF ∧ u.ctxs.toList.any Ctx.live = false ∧ u.indigo.raw = none ∧ u.pool.recs = [] ∧
        1024 ≤ fld p 4 4 ∧ fld p 4 4 ≤ 13312 ∧ fld p 4 4 ≤ poolMax u) →
      (tst (fld p 0 1) 1 = true → r.target ≠ 0xFFFF ∧ fld p 8 4 ≤ 13312) →
      (tst (fld p 0 1) 2 = true → r.target ≠ 0xFFFF ∧ 1 ≤ sfld p 12 4 ∧ sfld p 12 4 ≤ 8388607) →
      let k := r.target.toNat
      let a := if tst (fld p 0 1) 0 = true then { u with pool.blocks := fld p 4 4 } else u
      let b := if tst (fld p 0 1) 1 = true then modCtx k (fun c => { c with quota := fld p 8 4 }) a else a
      let t := retryReserves (if tst (fld p 0 1) 2 = true then modCtx k (fun c => { c with measThresh := fld p 12 4 }) b else b)
      exec (.poolCfg r) s = .next (conclude (reqOf poolCfgSpec r s)
        { status := St.ok, st := t,
          payload := le4 t.pool.blocks ++ le4 (blocksFree t) ++ le4 (tableFree t)
            ++ (if r.target = 0xFFFF then zeros 12 else le4 (ctx t k).quota ++ le4 (claimOf t k) ++ le4 (ctx t k).measThresh) }
        false)) ∧
    (Ready rawCaptureSpec r s →
      let tap := fld p 0 1
      let whole : Bool := tap = 0 || tap = 4
      let start := rawStart p u
      let j := projected u
      let bytes := rawBytes j tap (fld p 1 1) (fld p 8 4) (fld p 12 4)
      u.inMode (if 1 ≤ tap ∧ tap ≤ 3 then [.acoustic, .full] else [.warm, .acoustic, .full]) = true →
      (u.power.mode = .warm ∨ start.isSome = true) → u.indigo.raw = none → rawBad p j = false →
      (fld p 2 1 = 1 → u.power.mode ≠ .warm ∧ start.any (fun x => u.now + Config.leadTime ≤ x.2) = true) →
      (whole = true ∨ ((rawLineBytes j tap (fld p 8 4) * popCount 8 (fld p 1 1) * 1000000000000 : Nat) : Rat)
        ≤ ((rtReserve u : Rat) - rtArmed u) * (acceptedTl j : Rat)) →
      blocksOf (128 + bytes) ≤ blocksFree u → tableFree u ≠ 0 →
      ∃ (c : RawCapture) (x : Record), exec (.rawCapture r) s = .next (conclude (reqOf rawCaptureSpec r s)
          { status := St.ok, st := { (addRec x u) with indigo.raw := some c },
            payload := le8 ((start.map (·.1)).getD (2 ^ 64 - 1)) ++ le4 bytes } false) ∧
        c.tap = tap ∧ c.slots = by8 (fld p 1 1) ∧ c.first = fld p 4 4 ∧ c.count = fld p 8 4 ∧ c.lines = fld p 12 4 ∧
        c.start = start.map (·.1) ∧ c.bytes = bytes ∧ c.handle = x.handle ∧
        (whole = true → c.startAt = (start.map (·.2)).getD (rawWarmStart tap u)) ∧
        x.ctx = 256 ∧ x.phase = .capture ∧ x.postBlocks = blocksOf (128 + bytes))

/-- Zone cores from the host (R306-R309): a checked image is loaded into every named core, a binding is added, cores stop at
an invocation boundary, those that serve an armed context at its point, memories and registers are read. -/
def Obligations.CoreCommands : Prop :=
  ∀ (r : Req) (s : State),
    let u := begun r s
    let p := r.payload
    let k := r.target.toNat
    (∀ img, Ready coreLoadSpec r s → staged u (fld p 0 1) = some img → imageBad img = none → fld p 0 1 ≤ 3 → fld p 1 1 ≤ 1 →
      fld p 2 2 = 0 → (fld p 4 4 ≠ 0 → lowBit (fld p 4 4) = some k) → absentCores u k (fld p 4 4) = false →
      stageMismatch img (fld p 8 4) (fld p 12 4) = false →
      let cs := if fld p 4 4 = 0 then [k] else maskCores (fld p 4 4)
      let ks := boundOn u cs
      (∀ c ∈ cs, (core u c).state ≠ .running ∧ (core u c).state ≠ .retired) →
      let loads : Bool := fld p 1 1 = 0
      exec (.coreLoad r) s = .next (conclude (reqOf coreLoadSpec r s)
        { status := St.ok,
          payload := le1 0 ++ le1 (fld img 2 1) ++ le2 (fld img 4 2) ++ le4 0xFFFFFFFF
            ++ le4 (if loads = true then (cs.map (2 ^ ·)).sum else 0),
          st := if loads = true then ks.foldl (fun s x => gapJobs x s)
              (cs.foldl (fun s c => modCore c (Core.load img) s) (haltBare (ks.foldl (fun s x => dropBinding x s) u)))
            else u } false)) ∧
    (Ready coreStartSpec r s →
      let m := fld p 4 4
      let cs := maskCores m
      let c := ctx u (fld p 0 1)
      let armed := c.live && linesRun u c
      let w : CtxWhen := if armed then ctxWhen u c else { due := 0, count := 2 ^ 64 - 1, settle := none }
      let b := newBinding p c.n cs.length 0 (if armed then w.due else 0)
      absentCores u k m = false → c.source ≠ 0 → lowBit m = some k → (groupOf u (fld p 0 1)).isEmpty = true →
      (∀ d ∈ cs, ((core u d).state = .stopped ∨ (core u d).state = .running) ∧ (core u d).bindings.length < 4 ∧
        b.entry < (core u d).nInstr ∧ b.fits (core u d).unified = true ∧
        ((core u d).unified = true → fld p 17 1 = 0) ∧
        (core u d).bindings.any (fun x => bindingsMeet (core u d).unified b x) = false ∧
        burstOk u (planTs u) ((core u d).bindings ++ [b]) = true) →
      histOk b.histLen = true → b.stateLen ≤ 64 → b.stateLen % 2 = 0 → fld p 17 1 ≤ 3 → fld p 1 1 ≤ 1 → fld p 18 2 = 0 →
      1 ≤ b.budget → b.budget ≤ 8192 →
      let t := ((List.range cs.length).zip cs).foldl (fun s q => modCore q.2 (fun x =>
          let y := if x.state = .stopped then { x.clearRegs with state := .running, backAt := none } else x
          let z := if fld p 1 1 = 1 then y.clearCounts else y
          { (z.clearAreas { b with pos := q.1 }) with bindings := z.bindings ++ [{ b with pos := q.1 }], overTold := false }) s) u
      exec (.coreStart r) s = .next (conclude (reqOf coreStartSpec r s)
        { status := St.ok, st := t, names := w.count ≠ 2 ^ 64 - 1, due := w.settle,
          payload := le1 0 ++ le1 cs.length ++ zeros 2 ++ le4 b.nLocal ++ le8 w.count
            ++ le4 (progTime t (planTs t) (fld p 0 1)) } false)) ∧
    (Ready coreStopSpec r s → fld p 0 1 ≤ 3 → fld p 1 3 = 0 → lowBit (fld p 4 4) = some k → absentCores u k (fld p 4 4) = false →
      let cs := maskCores (fld p 4 4)
      let unbinds := tst (fld p 0 1) 1
      let hit := (ctxsWhere u Ctx.live).filter (fun x => cs.any (fun c =>
        (core u c).state = .running && ((core u c).binding x).isSome))
      (hit = [] ∨ tst (fld p 0 1) 0 = true) →
      let w : CtxWhen := ((hit.find? (fun x => (ctx u x).source = 1)).map (fun x => ctxWhen u (ctx u x))).getD
        { due := u.now, count := 2 ^ 64 - 1, settle := none }
      let ks := hit.filter (fun x => linesRun u (ctx u x))
      let later := cs.filter (fun c => ks.any (fun x => ((core u c).binding x).isSome))
      let all := haltCores (fld p 4 4) unbinds u
      let stopped := (List.range 32).filter (fun c =>
        (cs.contains c || (unbinds && (core all c).bindings.isEmpty)) && ((core all c).state = .stopped || (core all c).stopDue))
      exec (.coreStop r) s = .next (conclude (reqOf coreStopSpec r s)
        { status := St.ok, names := w.count ≠ 2 ^ 64 - 1, due := w.settle, payload := le8 w.count ++ le4 (coresMask stopped),
          st := ks.foldl (fun s x => atPoint x (u.now + Config.leadTime) (.halt (coresMask later) unbinds) s)
            (stopCores (coresMask (cs.filter (fun c => !later.contains c))) unbinds u) } false)) ∧
    (Ready coreReadSpec r s → absentCores u k 0 = false → fld p 1 1 ≤ 1 → fld p 6 2 = 0 →
      readRange (core u k) (fld p 0 1) (fld p 2 2) (fld p 4 2) = true → ((core u k).state = .retired → fld p 0 1 = 0) →
      let x := core u k
      let d := x.readData (fld p 0 1) (fld p 2 2) (fld p 4 2)
      exec (.coreRead r) s = .next (conclude (reqOf coreReadSpec r s)
        { status := St.ok, st := if fld p 1 1 = 1 then modCore k Core.clearCounts u else u,
          payload := le1 x.state.code ++ le1 (bit x.unified) ++ le2 x.nInstr
            ++ le4 (if fld p 0 1 = 0 ∧ x.state = .running then x.gapCount else x.invocations).toNat ++ le2 (fld p 2 2) ++ le2 (fld p 4 2) ++ zeros 4 ++ padTo (cdiv d.length 4 * 4) d } false))

/-- Streams and staging (R326-R330, R341-R344): configuration, saving and restoring a coder state, and bulk loading piece by piece. A save
inside a line pauses the stream at once; what of the line had come is coded with its row (log 74). -/
def Obligations.StreamCommands : Prop :=
  ∀ (r : Req) (s : State),
    let u := begun r s
    let p := r.payload
    let k := r.target.toNat
    let x := stream u k
    (Ready streamCfgSpec r s → fld p 0 1 = 0 → streamForm p = true →
      exec (.streamCfg r) s = .next (conclude (reqOf streamCfgSpec r s)
        { status := St.ok, st := u, payload := streamReply k u } false)) ∧
    (Ready streamCfgSpec r s → fld p 0 1 = 1 → streamForm p = true → (streamRuns u k = false ∨ cfgSame (newCfg p x) x = true) →
      streamBad k (k < 256 && (ctx u k).source = 1) (newCfg p x) = false →
      -- while a save inside a line is to be coded, the configuration follows it (log 74)
      let t := if x.owed.isSome = true then modStream k (fun x => { x with renew := x.renew ++ [p] }) u
        else forwardSync (streamStopped k (modStream k (fun x => { newCfg p x with
          paused := false, resync := x.resync || !x.configured || x.paused, resumed := x.resumed && !(!x.configured || x.paused),
          resumeAt := if (!x.configured || x.paused) = true then none else x.resumeAt }) u))
      exec (.streamCfg r) s = .next (conclude (reqOf streamCfgSpec r s)
        { status := St.ok, st := t, payload := streamReply k t } false)) ∧
    (Ready streamCfgSpec r s → fld p 0 1 = 2 → streamForm p = true → streamRuns u k = false →
      let t := forwardSync (modStream k (fun x => { tick := x.tick, saved := x.saved }) u)
      exec (.streamCfg r) s = .next (conclude (reqOf streamCfgSpec r s)
        { status := St.ok, st := t, payload := streamReply k t } false)) ∧
    (Ready streamSaveSpec r s → k ≠ 257 → streamRuns u k = true →
      let v := closeBlock k u
      (lineInProgress u k = none → exec (.streamSave r) s = .next (conclude (reqOf streamSaveSpec r s)
        { status := St.ok,
          st := (modStream k (fun x => { x with paused := true, saved := some (x.lineSeq.toNat, x.secs, x.tick) }) v).took,
          payload := withCrc (coderState k (savedAt (stream v k)) v) } false)) ∧
      ∀ q n, lineInProgress u k = some (q, n) → exec (.streamSave r) s = .next (conclude (reqOf streamSaveSpec r s)
        { status := St.ok, st := (modStream k (fun x => { x with paused := true, owed := some (q, n) }) u).took,
          payload := withCrc (coderState k (savedIn x q n) u) } false)) ∧
    (Ready streamRestoreSpec r s → streamRuns u k = false → k ≠ 257 → x.configured = true → fld p 0 1 = 1 → fld p 2 2 = k →
      fld p 1 1 = (if codesRle u k then 1 else 2) → fld p 24 4 = (streamSpan u k).1 → fld p 28 4 = (streamSpan u k).2 →
      fld p 60 4 = (crc32c (p.take 60)).toNat →
      let w : CtxWhen := if k < 256 then ctxWhen u (ctx u k)
        else { due := u.now + Config.leadTime, count := 2 ^ 64 - 1, settle := none }
      exec (.streamRestore r) s = .next (conclude (reqOf streamRestoreSpec r s)
        { status := St.ok, names := w.count ≠ 2 ^ 64 - 1, due := w.settle, payload := le8 w.count,
          st := modStream k (fun x => { x with
            paused := false, resync := false, resumed := true, resumeAt := some w.due, carry := 0, longRun := false,
            nextSeq := BitVec.ofNat 32 (fld p 4 4) + 1, drops := BitVec.ofNat 32 (fld p 16 4),
            secs := if x.paused = true then x.secs else x.secsAfter (fld p 8 4) }) (endSave k u) } false)) ∧
    (Ready bulkLoadSpec r s → fld p 0 1 ≤ 3 → fld p 1 1 ≤ 7 → tst (fld p 1 1) 2 = true →
      exec (.bulkLoad r) s = .next (conclude (reqOf bulkLoadSpec r s)
        { status := St.ok, st := setStage (fld p 0 1) {} u, payload := bulkReply (fld p 0 1) (setStage (fld p 0 1) {} u) } false)) ∧
    (Ready bulkLoadSpec r s → fld p 0 1 ≤ 3 → fld p 1 1 ≤ 3 → fld p 2 2 = 0 → fld p 18 2 = 0 → fld p 16 2 % 2 = 0 →
      2 ≤ fld p 16 2 → fld p 16 2 ≤ 4056 → (tst (fld p 1 1) 1 = true ∨ fld p 12 4 = 0) →
      (if tst (fld p 1 1) 0 then fld p 4 4 = 0 ∧ fld p 8 4 % 2 = 0 ∧ 2 ≤ fld p 8 4 ∧ fld p 8 4 ≤ 2097216
        else fld p 8 4 = 0 ∧ (stageOf u (fld p 0 1)).phase = 1 ∧ fld p 4 4 = (stageOf u (fld p 0 1)).accepted) →
      let b : StageBuf := if tst (fld p 1 1) 0 then { phase := 1, declared := fld p 8 4 } else stageOf u (fld p 0 1)
      let q := bulkPiece b ((p.drop 20).take (fld p 16 2)) (tst (fld p 1 1) 1) (fld p 12 4)
      let t := setStage (fld p 0 1) q.2 u
      q.1 = St.ok →
      exec (.bulkLoad r) s = .next (conclude (reqOf bulkLoadSpec r s)
        { status := St.ok, st := t, payload := bulkReply (fld p 0 1) t } false))

/-- `PTP_CFG`, `PTP_STATUS`, `TIME_GET` and `DOMAIN_SELECT` (R413-R416): domains are configured and selected (one that is
configured while it is selected stays so: DESIGN CHOICE, log 189), time is read. -/
def Obligations.TimeCommands : Prop :=
  ∀ (r : Req) (s : State),
    let u := begun r s
    let p := r.payload
    (Ready ptpCfgSpec r s → fld p 0 1 ≤ 1 → fld p 1 1 ≤ 2 → ptpCfgBad (fld p 1 1 = 1) p = false →
      let d := fld p 0 1
      let t := if fld p 1 1 = 1 then restartDomain d (p.drop 2) u
        else if fld p 1 1 = 2 then disableDomain d u else u
      exec (.ptpCfg r) s = .next (conclude (reqOf ptpCfgSpec r s)
        { status := St.ok, st := t, payload := le1 d ++ le1 (if (domain t d).phase = 0 then 2 else 1) ++ (domain t d).cfg } false)) ∧
    (Ready ptpStatusSpec r s → exec (.ptpStatus r) s = .next (conclude (reqOf ptpStatusSpec r s)
        { status := St.ok, st := u, payload := timeHead u ++ domainBytes (domain u 0) ++ domainBytes (domain u 1) } false)) ∧
    (Ready timeGetSpec r s → exec (.timeGet r) s = .next (conclude (reqOf timeGetSpec r s)
        { status := St.ok, st := u,
          payload := leBytes 6 (u.devSec u.now) ++ le2 ((u.devAt u.now / 1000 - u.devNs u.now) * 65536).floor.toNat ++ le4 (u.devSubNs u.now)
          ++ le4 (u.stamp u.now) ++ le1 u.time.state ++ zeros 3 } false)) ∧
    -- an automatic change due by then comes first (R397)
    (Ready domainSelectSpec r s → let c := dueChanges u
      (fld p 0 1 = 0xFF ∨ (fld p 0 1 ≤ 1 ∧ (domain c (fld p 0 1)).phase = 2)) → fld p 1 1 ≤ 7 →
      fld p 2 1 ≤ 7 → fld p 3 1 = 0 → fld p 4 2 ≤ 10000 → fld p 6 2 = 0 →
      let v := rebase c.now c
      let pick (k : Nat) (old : Bool) : Bool := if tst (fld p 2 1) k then tst (fld p 1 1) k else old
      let w := { v with
        time.auto := pick 0 v.time.auto, time.revert := pick 1 v.time.revert, time.hold := pick 2 v.time.hold,
        time.slewMax := if fld p 4 2 = 0 then v.time.slewMax else fld p 4 2,
        time.stepLimit := if fld p 8 4 = 0xFFFFFFFF then v.time.stepLimit else fld p 8 4 }
      let t := if fld p 0 1 ≤ 1 && w.time.selected ≠ some (fld p 0 1) then selectDomain (fld p 0 1) w else w
      exec (.domainSelect r) s = .next (conclude (reqOf domainSelectSpec r s)
        { status := St.ok, st := t, payload := timeHead t } false))

/-- `TIM_CFG`, `TIM_READ` and `LAUNCH_SYNC` (R408-R411, R417-R419): channels are configured and their results taken oldest
first, a launch lock begins and is released; in SURVEY it names no boundary (DESIGN CHOICE, log 211). -/
def Obligations.IntervalAndLockCommands : Prop :=
  ∀ (r : Req) (s : State),
    let u := begun r s
    let p := r.payload
    (Ready timCfgSpec r s → timCfgBad p = false →
      let c : TimChan := { cfg := (p.take 16).set 6 0, gateAt := u.devPs u.now }
      let trim := if tst (fld p 6 1) 0 then Vector.ofFn (fun i => sfld p (16 + 2 * i.val) 2) else u.tim.trim
      exec (.timCfg r) s = .next (conclude (reqOf timCfgSpec r s)
        { status := St.ok, st := { u with tim := { u.tim with chans := vset u.tim.chans (fld p 0 1) c, trim := trim } },
          payload := c.cfg ++ trim.toList.flatMap (leInt 2) } false)) ∧
    (Ready timReadSpec r s → fld p 0 1 ≤ 3 → fld p 1 1 = 0 → 1 ≤ fld p 2 2 → fld p 2 2 ≤ 250 →
      let c := vget u.tim.chans (fld p 0 1)
      let rs := c.results.take (fld p 2 2)
      exec (.timRead r) s = .next (conclude (reqOf timReadSpec r s)
        { status := St.ok,
          st := { u with tim.chans := vset u.tim.chans (fld p 0 1) { c with results := c.results.drop (fld p 2 2) } },
          payload := le1 (fld p 0 1) ++ le1 c.mode ++ le2 rs.length ++ le4 c.dropped.toNat ++ le4 c.missed.toNat ++ zeros 4
            ++ rs.flatMap (timEntry c.mode) } false)) ∧
    (Ready launchSyncSpec r s → fld p 1 1 ≤ 3 → fld p 2 1 ≤ 1 → fld p 4 4 ≤ 1999999999 → fld p 8 4 ≤ fld p 12 4 →
      (fld p 0 1 = 0 → (fld p 8 4 = 0 ∨ (5000 ≤ fld p 8 4 ∧ fld p 8 4 ≤ 2000000)) →
        exec (.launchSync r) s = .next (conclude (reqOf launchSyncSpec r s)
          { status := St.ok, st := u, payload := syncReply (2 ^ 64 - 1) (2 ^ 32 - 1) u } false)) ∧
      (fld p 0 1 = 1 → u.power.mode ≠ .standby → u.inPair = false → 1 ≤ fld p 3 1 → 5000 ≤ fld p 8 4 → fld p 8 4 ≤ 2000000 →
        syncRules p (projected u) = true →
        let t := beginLock p u
        let q := schedule (reqOf launchSyncSpec r s) p true true (fld p 3 1 * fld p 8 4 * 1000) false t
        (t.light.running = false → exec (.launchSync r) s = .next (conclude (reqOf launchSyncSpec r s)
          { status := St.ok, st := t, names := true, payload := syncReply t.light.launches (2 ^ 32 - 1) t } false)) ∧
        (t.light.running = true → t.runMode = .survey → exec (.launchSync r) s = .next (conclude (reqOf launchSyncSpec r s)
          { status := St.ok, st := t, payload := syncReply (2 ^ 64 - 1) (2 ^ 32 - 1) t } false)) ∧
        (t.light.running = true → t.runMode ≠ .survey → exec (.launchSync r) s = .next (conclude (reqOf launchSyncSpec r s)
          { status := St.ok, st := q.1, names := q.2.named, due := q.2.dueOf,
            payload := syncReply (if q.2.named = true then q.2.count else t.light.launches) (2 ^ 32 - 1) q.1 } false))) ∧
      (fld p 0 1 = 2 → (fld p 8 4 = 0 ∨ (5000 ≤ fld p 8 4 ∧ fld p 8 4 ≤ 2000000)) →
        -- the free-running period is DIVIDER x P at the command, on the grid of R18 (R411; log 219)
        let p' := p.take 16 ++ le8 (freeTl (projected u))
        let q := schedule (reqOf launchSyncSpec r s) p' (u.lock.phase ≠ 0 && u.planMode ≠ .survey) false
          (applySync p' (projected u)).light.plan.tl false u
        let v := endWaiting (freeTl u) u
        (u.lock.phase = 1 → exec (.launchSync r) s = .next (conclude (reqOf launchSyncSpec r s)
          { status := St.ok, st := v, payload := syncReply (2 ^ 64 - 1) (2 ^ 32 - 1) v } false)) ∧
        (u.lock.phase ≠ 1 → exec (.launchSync r) s = .next (conclude (reqOf launchSyncSpec r s)
          { status := St.ok, st := q.1, names := q.2.named, due := q.2.dueOf,
            payload := syncReply (if q.2.named = true then q.2.count else 2 ^ 64 - 1)
              (if q.2.named = true then q.2.stamp else 2 ^ 32 - 1) q.1 } false))))

/-- Mordant (R200-R203): a run is accepted and starts after its reply; the blob is read from a snapshot; a restore loads the
sections that pass; the quality report is answered and may clear the requests. -/
def Obligations.CalibrationCommands : Prop :=
  ∀ (r : Req) (s : State),
    let u := begun r s
    let p := r.payload
    (Ready calRunSpec r s → u.inMode [.warm, .acoustic, .survey, .full] = true → u.power.trans = none → u.longBusy 0x70 = false →
      u.calibrating = false → 1 ≤ fld p 0 1 → fld p 0 1 ≤ 127 → fld p 1 3 = 0 →
      exec (.calRun r) s = .next (conclude (reqOf calRunSpec r s)
        { status := St.accepted, st := u, after := startRun ((List.range 7).filter (tst (fld p 0 1))) r.tag false } false)) ∧
    (Ready calSaveSpec r s → fld p 0 4 % 4 = 0 → 4 ≤ fld p 4 2 → fld p 4 2 ≤ 4032 → fld p 4 2 % 4 = 0 → fld p 6 2 = 0 →
      fld p 0 4 + fld p 4 2 ≤ 12288 → fld p 0 4 ≠ 0 → ∀ b g, u.cal.snap = some (b, g) →
      exec (.calSave r) s = .next (conclude (reqOf calSaveSpec r s)
        { status := St.ok, st := u,
          payload := le4 g.toNat ++ le4 (fld p 0 4) ++ le2 (fld p 4 2) ++ zeros 2 ++ le4 12288
            ++ (b.drop (fld p 0 4)).take (fld p 4 2) } false)) ∧
    (Ready calSaveSpec r s → fld p 0 4 = 0 → 4 ≤ fld p 4 2 → fld p 4 2 ≤ 4032 → fld p 4 2 % 4 = 0 → fld p 6 2 = 0 →
      u.cal.run = none →
      let b := makeBlob u.cal.steps u.cal.gen (naMask u) u.cal.loAt (u.cal.coilCh, u.cal.coilRtd) u
      exec (.calSave r) s = .next (conclude (reqOf calSaveSpec r s)
        { status := St.ok, st := { u with cal.snap := some (b, u.cal.gen) },
          payload := le4 u.cal.gen.toNat ++ le4 0 ++ le2 (fld p 4 2) ++ zeros 2 ++ le4 12288 ++ (b.drop 0).take (fld p 4 2) } false)) ∧
    (∀ x, Ready calSaveSpec r s → fld p 0 4 = 0 → 4 ≤ fld p 4 2 → fld p 4 2 ≤ 4032 → fld p 4 2 % 4 = 0 → fld p 6 2 = 0 →
      u.cal.run = some x →
      let b := makeBlob x.held x.heldGen x.heldNa x.heldLo x.heldCoil u
      exec (.calSave r) s = .next (conclude (reqOf calSaveSpec r s)
        { status := St.ok, st := { u with cal.snap := some (b, x.heldGen) },
          payload := le4 x.heldGen.toNat ++ le4 0 ++ le2 (fld p 4 2) ++ zeros 2 ++ le4 12288 ++ (b.drop 0).take (fld p 4 2) }
        false)) ∧
    (Ready calRestoreSpec r s → u.inMode [.standby, .warm] = true → fld p 0 1 ≤ 3 → 1 ≤ fld p 1 1 → fld p 1 1 ≤ 127 →
      fld p 2 2 = 0 → fld p 4 4 = 12288 →
      let b := vget u.stages (fld p 0 1)
      let img := b.decoded
      b.phase = 2 → img.length = 12288 → fld p 8 4 = (crc32c img).toNat →
      fld img 12284 4 = (crc32c (img.take 12284)).toNat → fld img 0 2 = 1 → fld img 2 1 = u.part.caps.toNat % 256 →
      fld img 3 1 = u.part.caps.toNat / 2 ^ 18 % 4 → fld img 4 8 = u.part.dieId.toNat →
      let rs := (List.range 7).map (restoreReason u img (fld p 1 1))
      let load := (List.range 7).filter (fun k => (rs[k]?).getD 1 = 0)
      let t := load.foldl (fun st k => loadSection img k st) u
      exec (.calRestore r) s = .next (conclude (reqOf calRestoreSpec r s)
        { status := if (List.range 7).all (fun k => !tst (fld p 1 1) k || (rs[k]?).getD 1 = 0) then St.ok else St.degraded, st := t,
          payload := rs.flatMap (fun x => le1 x) ++ le1 ((load.map (2 ^ ·)).sum) ++ le4 t.cal.gen.toNat } false)) ∧
    (Ready calQualitySpec r s → fld p 0 1 ≤ 1 → fld p 1 3 = 0 → u.cal.run = none →
      exec (.calQuality r) s = .next (conclude (reqOf calQualitySpec r s)
        { status := St.ok, st := if fld p 0 1 = 1 then clearRequests (List.range 7) u else u,
          payload := le4 u.cal.gen.toNat ++ le1 u.cal.requested.toNat ++ zeros 3
            ++ ((List.range 7).zip u.cal.steps.toList).flatMap (fun x => qualityStep u (naMask u) x.2 x.1) } false)) ∧
    (∀ x, Ready calQualitySpec r s → fld p 0 1 ≤ 1 → fld p 1 3 = 0 → u.cal.run = some x →
      exec (.calQuality r) s = .next (conclude (reqOf calQualitySpec r s)
        { status := St.ok, st := if fld p 0 1 = 1 then clearRequests (List.range 7) u else u,
          payload := le4 x.heldGen.toNat ++ le1 x.heldReq.toNat ++ zeros 3
            ++ ((List.range 7).zip x.held.toList).flatMap (fun y => qualityStep u x.heldNa y.2 y.1) } false))

/-- `MEM_STATUS`, `MEM_TRAIN` and `MEM_MAP` (R475-R477): the channels are reported and their counters cleared, a training is
accepted and begins, bank hashes and page policies are set. -/
def Obligations.MemoryCommands : Prop :=
  ∀ (r : Req) (s : State),
    let u := begun r s
    let p := r.payload
    let masks : Prop := ∀ c, c < 4 → fld p (4 + c) 1 ≤ 2 ∧ fld p (8 + 4 * c) 4 % 16 = 0 ∧ fld p (8 + 4 * c) 4 < 2 ^ 21
    (Ready memStatusSpec r s → fld p 0 1 ≤ 1 → fld p 1 3 = 0 →
      exec (.memStatus r) s = .next (conclude (reqOf memStatusSpec r s)
        { status := St.ok, payload := memStatusReply u,
          st := if fld p 0 1 = 1 then
            { u.took with mem.ch := u.mem.ch.map (fun m => { m with
                eccCorr := 0, eccUncorr := 0, rtDrop := 0, postponeMax := 0, overSeen := rtLoadOver u.took }) }
          else u.took } false)) ∧
    (Ready memTrainSpec r s → u.inMode [.warm, .acoustic, .survey, .full] = true → recording u = false → u.longBusy 0x79 = false →
      u.longBusy 0xF1 = false → u.longBusy 0xF2 = false → (u.pool.recs = [] ∨ ∀ c, c < 4 → tst (fld p 0 1) c = true → (mch u c).live = true) → 1 ≤ fld p 0 1 → fld p 0 1 ≤ 15 → (fld p 1 1 = 0 ∨ (4 ≤ fld p 1 1 ∧ fld p 1 1 ≤ 64)) → fld p 2 2 = 0 →
      exec (.memTrain r) s = .next (conclude (reqOf memTrainSpec r s)
        { status := St.accepted,
          st := nextTraining { left := (List.range 4).filter (tst (fld p 0 1)), tag := r.tag, began := u.now }
            { u with mem.eyeMin := keepN 0 (fld p 1 1) u.mem.eyeMin } } false)) ∧
    (Ready memMapSpec r s → fld p 0 1 = 0 → fld p 1 3 = 0 → masks →
      exec (.memMap r) s = .next (conclude (reqOf memMapSpec r s)
        { status := St.ok, st := u, payload := memMapReply u 0 } false)) ∧
    (Ready memMapSpec r s → fld p 0 1 = 2 → fld p 1 3 = 0 → masks →
      let t := (List.range 4).foldl (fun s c => setPolicy c (fld p (4 + c) 1) s) u
      exec (.memMap r) s = .next (conclude (reqOf memMapSpec r s)
        { status := St.ok, st := t, payload := memMapReply t 2 } false)) ∧
    (Ready memMapSpec r s → fld p 0 1 = 1 → fld p 1 3 = 0 → masks →
      ((List.range 4).all (fun i => maskOk (fld p (8 + 4 * i) 4)) = true) → u.power.mode = .warm → recording u = false →
      u.pool.recs = [] → u.longBusy 0x79 = false → u.longBusy 0xF1 = false → u.longBusy 0xF2 = false →
      let v := (List.range 4).foldl (fun s c => setPolicy c (fld p (4 + c) 1) s) u
      let t := { v with
        mem.bankSel := Vector.ofFn (fun i => BitVec.ofNat 32 (fld p (8 + 4 * i.val) 4)),
        mem.ch := v.mem.ch.map (fun m => { m with preds := Vector.replicate 16 2 }) }
      exec (.memMap r) s = .next (conclude (reqOf memMapSpec r s)
        { status := St.ok, st := t, payload := memMapReply t 1 } false))

/-- `AUX_CFG`, `AUX_READ` and `AMON_CFG` (R444-R446): a channel is configured or disabled while nothing claims it, its results are
taken oldest first, a monitor takes its configuration. -/
def Obligations.SensorCommands : Prop :=
  ∀ (r : Req) (s : State),
    let u := begun r s
    let p := r.payload
    (Ready auxCfgSpec r s → fld p 0 1 ≤ 7 → fld p 1 1 ≤ 2 → auxBad (fld p 1 1 = 1) p = false →
      let n := fld p 0 1
      let c := aux u n
      (fld p 1 1 = 0 ∨ claimed u n = false) →
      (auxArmed u n = false ∨ fld p 1 1 = 0 ∨ (fld p 1 1 = 1 ∧ fld p 2 1 = fld c.cfg 2 1 ∧ fld p 4 1 = c.odr) ∨
        (fld p 1 1 = 2 ∧ c.enabled = false)) →
      (fld p 1 1 = 1 → u.ochre.coilDue = none ∨ tst (fld p 11 1) 2 = false ∨ reqExc p 0 = vget u.aux.exc 0) →
      let t := if fld p 1 1 = 1 then auxConfigure p n u
        else if fld p 1 1 = 2 then amonLatch (modAux n (fun c => { c with enabled := false, cfg := [by8 n, 2] ++ c.cfg.drop 2 }) u) else u
      exec (.auxCfg r) s = .next (conclude (reqOf auxCfgSpec r s)
        { status := St.ok, st := t, payload := auxReply t n } false)) ∧
    (Ready auxReadSpec r s → fld p 0 1 ≤ 7 → fld p 1 1 = 0 → 1 ≤ fld p 2 2 → fld p 2 2 ≤ 250 →
      let n := fld p 0 1
      let got := (aux u n).buf.take (fld p 2 2)
      exec (.auxRead r) s = .next (conclude (reqOf auxReadSpec r s)
        { status := St.ok, st := modAux n (fun c => { c with buf := c.buf.drop (fld p 2 2) }) u,
          payload := le1 n ++ zeros 1 ++ le2 got.length ++ le4 (min (2 ^ 32 - 1) ((aux u n).dropped.toNat)) ++ le1 u.aux.lastWakeCh
            ++ zeros 3 ++ leInt 4 u.aux.lastWake ++ got.flatMap auxEntry } false)) ∧
    (Ready auxReadSpec r s → (fld p 0 1 ≤ 7 ∨ fld p 0 1 = 0xFF) → fld p 1 1 = 0 → fld p 2 2 = 0 →
      let chs := if fld p 0 1 = 0xFF then List.range 8 else [fld p 0 1]
      let got := chs.filterMap (fun i => (aux u i).last)
      exec (.auxRead r) s = .next (conclude (reqOf auxReadSpec r s)
        { status := St.ok, st := u,
          payload := le1 (fld p 0 1) ++ zeros 1 ++ le2 got.length
            ++ le4 (min (2 ^ 32 - 1) ((chs.map (fun i => (aux u i).dropped.toNat)).sum)) ++ le1 u.aux.lastWakeCh
            ++ zeros 3 ++ leInt 4 u.aux.lastWake ++ got.flatMap auxEntry } false)) ∧
    (Ready amonCfgSpec r s → (fld p 1 1 = 2 → u.ochreFitted = true) → amonBad u p = false →
      let k := fld p 0 1
      let cfg := (p.drop 1).take 17
      let t := if fld p 1 1 = 0xFF then u
        else if fld p 1 1 = 0 then { u with aux.amon := vset u.aux.amon k { cfg := cfg } }
        else { u with aux.amon := vmod u.aux.amon k (fun a => { a with next := some cfg }) }
      exec (.amonCfg r) s = .next (conclude (reqOf amonCfgSpec r s)
        { status := St.ok, st := t, payload := amonReply t k } false))

/-- `PAIR_CFG`, `PAIR_STATUS` and `CASTLE` (R504, R509, R521-R523): the pair is configured, reported and switched; a castle takes
effect at a boundary both devices name, or at once when no launches run. -/
def Obligations.PairCommands : Prop :=
  ∀ (r : Req) (s : State),
    let u := begun r s
    let p := r.payload
    (Ready pairCfgSpec r s → u.pairFitted = true → fld p 3 1 = 0 → fld p 10 2 = 0 → fld p 2 1 ≤ 3 → fld p 8 2 ≤ 16383 →
      (1 ≤ fld p 1 1 ∧ fld p 1 1 ≤ 2 ∨ fld p 0 1 ≠ 1 ∧ fld p 1 1 = 0) →
      (100000 ≤ fld p 4 4 ∧ fld p 4 4 ≤ 10000000 ∨ fld p 0 1 ≠ 1 ∧ fld p 4 4 = 0) →
      (fld p 0 1 = 0 → exec (.pairCfg r) s = .next (conclude (reqOf pairCfgSpec r s)
        { status := St.ok, st := u, payload := pairCfgReply u } false)) ∧
      (fld p 0 1 = 1 → u.inMode [.standby, .warm] = true → planRules u u (configurePair p u) = true →
        exec (.pairCfg r) s = .next (conclude (reqOf pairCfgSpec r s)
          { status := St.ok, st := configurePair p u, payload := pairCfgReply (configurePair p u) } false)) ∧
      (fld p 0 1 = 2 → u.inMode [.standby, .warm] = true →
        let t := { u with pair := { takeovers := u.pair.takeovers } }
        exec (.pairCfg r) s = .next (conclude (reqOf pairCfgSpec r s)
          { status := St.ok, st := t, payload := pairCfgReply t } false))) ∧
    (Ready pairStatusSpec r s → u.pairFitted = true →
      exec (.pairStatus r) s = .next (conclude (reqOf pairStatusSpec r s)
        { status := St.ok, st := u, payload := pairStatusReply u } false)) ∧
    (Ready castleSpec r s → u.pairFitted = true → (fld p 0 1 = 1 ∨ fld p 0 1 = 2) → fld p 1 3 = 0 →
      castleAllowed (fld p 0 1) u = true → u.pair.castle = none → u.pair.tests = [] → u.pair.deferSurvey = false →
      let mine : Bool := r.src ≠ .partner
      let after : PairPhase := if fld p 0 1 = 2 then .paired else if mine = true then .solo else .yielded
      let told (count : Nat) : State := if mine = true then send (.castle (by8 (fld p 0 1)) count) u else u
      (∀ h, nextCount u = some h → exec (.castle r) s = .next (conclude (reqOf castleSpec r s)
        { status := St.ok, payload := le8 (h + 1) ++ le1 after.code ++ zeros 3,
          st := { (told (h + 1)) with pair.castle := some (by8 (fld p 0 1), h + 1, mine) } } false)) ∧
      (nextCount u = none → exec (.castle r) s = .next (conclude (reqOf castleSpec r s)
        { status := St.ok, payload := le8 u.light.launches ++ le1 after.code ++ zeros 3, st := told u.light.launches,
          after := castleAt (by8 (fld p 0 1)) mine u.light.launches } false)))

/-- `SET_MODE` (R534, R536, R548): the mode in force with no change under way stays; otherwise the transition begins; the wake
settings are taken where the request sets them; the duty cycle ends; the reply tells what will happen; leaving `STANDBY` for a mode with light is
followed by the leakage test, and only then by the drive channels (R75). -/
def Obligations.ModeCommand : Prop :=
  ∀ (r : Req) (s : State),
    let u := begun r s
    let p := r.payload
    let m := fld p 0 1
    let sets : Bool := tst (fld p 1 1) 0
    Ready setModeSpec r s → m ≤ 6 → fld p 1 1 ≤ 3 → fld p 22 2 = 0 → (sets = true → wakeBad p = false) →
      (u.ochreFitted = true ∨ (ochreMode m = false ∧
        (sets = true → ochreMode (fld p 2 1) = false ∧ ochreMode (fld p 3 1) = false ∧ ochreMode (fld p 4 1) = false))) →
      modeWrong m u = false → (u.power.xtalOk = true ∨ 2 ≤ m) → u.calibrating = false → modeParam m (projected u) = false →
      (m = 1 → u.aux.chans.toList.any (fun c => c.enabled && c.wakeEn) = true) →
      let v := { u with power.duty := .none, power.wake := if sets = true then newWake p u.power.wake else u.power.wake }
      let same : Bool := Mode.ofCode m = u.power.mode && u.power.trans.isNone
      let t := if same = true then v else beginTransition (Mode.ofCode m) 0 r.tag 0 v
      let warmed := (u.power.trans.map (fun x => decide (x.to_ = .warm) || x.to_.measures)).getD false
      exec (.setMode r) s = .next (conclude (reqOf setModeSpec r s)
        { status := St.ok, st := t,
          payload := le1 u.power.mode.code ++ le1 (if same = true then 0xFF else m)
            ++ le1 (flags [!same && (t.power.trans.map (·.survey)).getD false,
                !same && u.power.mode = .standby && (Mode.ofCode m).measures, v.power.wake.duty && v.power.wake.period ≠ 0])
            ++ le1 u.power.lastWake.toNat ++ le4 (if same = true then 0 else expectMs u t) ++ le4 (timerNext v)
            ++ le2 u.power.timerSkipped.toNat ++ zeros 2,
          after := if u.power.mode = .standby ∧ 3 ≤ m ∧ m ≤ 6 ∧ warmed = false
            then fun x => refreshDrives (leakageTest (Config.leakTest x.freeIdx) x) else id } false)

/-! ### Registers and links -/

/-- The doorbells, base registers and enables of a queue (R354-R356, R365): a tail beyond the queue and a base written while the
queue is enabled or busy set QERR and change nothing else; writing a base restarts the queue's positions. -/
def Obligations.QueueRegisters : Prop :=
  ∀ (q : Fin 2) (reg : QueueReg) (v : U32) (s : State), s.hostUp = true →
    let x := getQ q.val s
    (v.toNat % 65536 < 2 ^ x.sizeLog2 → exec (.sqTailWrite q v) s = .next (setQ q.val { x with tail := v.setWidth 16 } s)) ∧
    (2 ^ x.sizeLog2 ≤ v.toNat % 65536 → exec (.sqTailWrite q v) s = .next (setQ q.val { x with qerr := true } s)) ∧
    exec (.cqHeadWrite q v) s = .next (setQ q.val { x with head := v.setWidth 16 } s) ∧
    (v.getLsbD 0 = true → exec (.enable q v) s =
      .next (setQ q.val { x with enable := true, lastSeq := if x.enable = true then x.lastSeq else none } s)) ∧
    (v.getLsbD 0 = false → exec (.enable q v) s = .next (setQ q.val { x with enable := false } s)) ∧
    (x.enable = false → qIdle q.val s = true → ∀ y : PQueue,
      y = { x with cqPos := 0, phase := true, sqHead := 0, latched := 0 } →
      exec (.queueBaseSizeWrite q .sqBaseLo v) s = .next (setQ q.val
        { y with sqBase := BitVec.ofNat 64 (x.sqBase.toNat / 2 ^ 32 * 2 ^ 32 + v.toNat / 4096 * 4096) } s) ∧
      exec (.queueBaseSizeWrite q .sqBaseHi v) s = .next (setQ q.val
        { y with sqBase := BitVec.ofNat 64 (x.sqBase.toNat % 2 ^ 32 + v.toNat * 2 ^ 32) } s) ∧
      exec (.queueBaseSizeWrite q .cqBaseLo v) s = .next (setQ q.val
        { y with cqBase := BitVec.ofNat 64 (x.cqBase.toNat / 2 ^ 32 * 2 ^ 32 + v.toNat / 4096 * 4096) } s) ∧
      exec (.queueBaseSizeWrite q .cqBaseHi v) s = .next (setQ q.val
        { y with cqBase := BitVec.ofNat 64 (x.cqBase.toNat % 2 ^ 32 + v.toNat * 2 ^ 32) } s) ∧
      (v.toNat / 16 % 16 ≠ x.sizeLog2 → 4 ≤ v.toNat / 16 % 16 → v.toNat / 16 % 16 ≤ 12 →
        exec (.queueBaseSizeWrite q .size v) s = .next (setQ q.val { y with sizeLog2 := v.toNat / 16 % 16 } s)) ∧
      (v.toNat / 16 % 16 ≠ x.sizeLog2 → (v.toNat / 16 % 16 < 4 ∨ 12 < v.toNat / 16 % 16) →
        exec (.queueBaseSizeWrite q .size v) s = .next (setQ q.val { x with qerr := true } s))) ∧
    (v.toNat / 16 % 16 = x.sizeLog2 → exec (.queueBaseSizeWrite q .size v) s = .next s) ∧
    ((x.enable = true ∨ qIdle q.val s = false) → (reg = .size → v.toNat / 16 % 16 ≠ x.sizeLog2) →
      exec (.queueBaseSizeWrite q reg v) s = .next (setQ q.val { x with qerr := true } s))

/-- `CMD_CTRL`, the key registers, the W1C flags and the other registers of BAR0 (R355, R362, R552-R559): KEY_CLEAR wins over
KEY_LOAD; a flag written 1 is cleared unless the hardware sets it in the cycle; an access of another size or alignment is
discarded. -/
def Obligations.ControlRegisters : Prop :=
  ∀ (v hw : U32) (q : Fin 2) (k : Fin 8) (off size : Nat) (s : State), s.hostUp = true →
    let key (clear load : Bool) : Option (List Byte) := if clear then none else if load then some s.cmd.keyStage else s.cmd.key
    let ctrl : State := { s with cmd.authRequired := v.getLsbD 0, cmd.key := key (v.getLsbD 3) (v.getLsbD 1) }
    exec (.keyLoad v) s = .next ctrl ∧ exec (.keyClear v) s = .next ctrl ∧
    exec (.w1cClear .irqCause v hw) s =
      .next { s with link.irqCause := (s.link.irqCause &&& ~~~(v.setWidth 16)) ||| hw.setWidth 16 } ∧
    exec (.w1cClear (.alarmSummary k) v hw) s =
      .next { s with link.alarmSum := vset s.link.alarmSum k.val ((vget s.link.alarmSum k.val &&& ~~~v) ||| hw) } ∧
    (∃ y : PQueue, exec (.w1cClear (.qStatus q) v hw) s = .next (setQ q.val y s) ∧
      y.qerr = (((getQ q.val s).qerr && !v.getLsbD 1) || hw.getLsbD 1) ∧
      y.fetchErr = (((getQ q.val s).fetchErr && !v.getLsbD 2) || hw.getLsbD 2) ∧ y.tail = (getQ q.val s).tail ∧
      y.enable = (getQ q.val s).enable) ∧
    exec (.registerWrite 0x204 4 v) s = .next ctrl ∧
    (v.toNat % 128 ≤ 64 → exec (.registerWrite 0x420 4 v) s = .next { s with evq.level := v.toNat % 128 }) ∧
    exec (.registerWrite 0x804 4 v) s = .next { s with link.holdoff := v.setWidth 16 } ∧
    exec (.registerWrite (0x220 + 4 * k.val) 4 v) s = .next { s with
      cmd.keyStage := s.cmd.keyStage.take (4 * k.val) ++ le4 v.toNat ++ s.cmd.keyStage.drop (4 * k.val + 4) } ∧
    ((size ≠ 4 ∨ off % 4 ≠ 0) → exec (.registerWrite off size v) s = .next s)

/-- The event-queue port (R331-R340): a read returns the next word of a complete item and moves on, or the EVENT_IDLE word; a
mark, a rewind, a release and a flush move the points, what was decided in the flush's own cycle follows its mark; `EVT_LOST` is
cleared by its read. An item is admitted whole when the words free at the start of the cycle hold it, else dropped whole and
counted; the queue never holds more than 64 words. -/
def Obligations.EventPort : Prop :=
  (∀ (t : Ps) (parity drop : Bool) (s : State), s.hostUp = true →
    let u := s.adv t
    (∀ it w, s.evq.fwdOn = false → s.evq.items[s.evq.rdItem]? = some it → it.doneAt ≤ u.cycle →
      it.words[s.evq.rdWord]? = some w → parity = false → it.poison[s.evq.rdWord]? = some false →
      ∃ v, exec (.evtDataLoRead t parity) s = .next v ∧ v.outbox = .regRead 0x0400 (w.extractLsb' 0 32) :: s.outbox ∧
        v.evq.dataHi = w.extractLsb' 32 32 ∧ v.evq.items = s.evq.items ∧ v.evq.mark = s.evq.mark ∧
        v.evq.tag.getLsbD 0 = decide (s.evq.rdWord = 0) ∧
        v.evq.tag.getLsbD 1 = decide (s.evq.rdWord + 1 = it.words.length) ∧
        v.evq.tag.getLsbD 2 = false ∧ v.evq.tag.getLsbD 3 = false ∧
        (s.evq.rdWord + 1 < it.words.length → v.evq.rdItem = s.evq.rdItem ∧ v.evq.rdWord = s.evq.rdWord + 1) ∧
        (s.evq.rdWord + 1 = it.words.length → v.evq.rdItem = s.evq.rdItem + 1 ∧ v.evq.rdWord = 0)) ∧
    ((s.evq.fwdOn = true ∨ ∀ it, s.evq.items[s.evq.rdItem]? = some it → u.cycle < it.doneAt) →
      exec (.evtDataLoRead t parity) s = .next { u with
        outbox := .regRead 0x0400 (BitVec.ofNat 32 (s.cmd.epoch.toNat * 65536)) :: s.outbox,
        evq.dataHi := BitVec.ofNat 32 (u.stamp u.now), evq.tag := 7 }) ∧
    exec (.evtLostRead drop) s = .next { s with
      outbox := .regRead 0x0424 s.evq.lost :: s.outbox, evq.lost := if drop then 1 else 0 } ∧
    (s.evq.fwdOn = false → exec .evtMark s = .next { s with evq.mark := s.evq.rdItem }) ∧
    (s.evq.fwdOn = false → ∃ v, exec .evtRewind s = .next v ∧ v.evq.rdItem = s.evq.mark ∧ v.evq.rdWord = 0 ∧
      v.evq.items = s.evq.items ∧ v.evq.mark = s.evq.mark) ∧
    (s.evq.fwdOn = false → ∃ v, exec .evtRelease s = .next v ∧ v.evq.items = s.evq.items.drop s.evq.rdItem ∧
      v.evq.rdItem = 0 ∧ v.evq.rdWord = s.evq.rdWord ∧ v.evq.mark = s.evq.mark - s.evq.rdItem) ∧
    ∃ v it, exec (.evtFlush t) s = .next v ∧ it.words.length = 2 ∧ v.evq.rdItem = 0 ∧ v.evq.rdWord = 0 ∧ v.evq.mark = 0 ∧
      v.evq.lost = s.evq.lost ∧ v.evq.forward = [] ∧
      v.evq.items = (s.evq.items.filter (fun x => x.cyc = u.cycle)).foldl (fun l x => placeItem x l) [it]) ∧
  ∀ (type : Nat) (body : List Byte) (s : State),
    let n := cdiv body.length 8 + 1
    -- while forwarding runs, what was complete has left the queue (R340)
    let q := s.evq.forwarded s.cycle
    let t := evtItem type body s
    (s.evq.used ≤ 64 → t.evq.used ≤ 64) ∧
    (n ≤ q.free s.cycle → t.evq.used = q.used + n ∧ t.evq.lost = s.evq.lost ∧ t.evq.rdItem = s.evq.rdItem) ∧
    (q.free s.cycle < n → t.evq.items = q.items ∧ t.evq.lost = satInc s.evq.lost)

/-- SMBus and the board record (R362, R562-R564): a write without a good PEC changes nothing; the key is loaded and cleared; the
record is staged, checked at the commit, and held for the next start once it is in flash. A PCIe reset returns both queues, the interrupt registers and the MSI-X table to
reset and unmaps BAR4 (R554); PERST_N and the Ethernet ports follow their pins; PD1 to PD7 restart on leaving a boundary-scan instruction (R566). -/
def Obligations.LinksAndSmbus : Prop :=
  (∀ (key d : List Byte) (v : U16) (code : Byte) (s : State), s.poweredUp = true →
    (key.length = 32 → exec (.smbKeyWrite key true) s = .next { s with cmd.key := some key }) ∧
    (v.getLsbD 0 = true → exec (.smbKeyClear v true) s = .next { s with cmd.key := none }) ∧
    exec (.smbRegisterWrite 0x30 v true) s = .next { s with link.boardPtr := v.setWidth 5 } ∧
    exec (.boardData (some d) true) s = .next { s with
      link.boardPtr := s.link.boardPtr + 8, link.boardStaged := true,
      link.boardStage := recordWrite s.link.boardStage d (s.link.boardPtr.toNat * 4) } ∧
    exec (.boardData none true) s = .next { s with
      link.boardPtr := s.link.boardPtr + 8,
      outbox := .smbData (recordRead (if s.link.boardStaged then s.link.boardStage else s.link.board) (s.link.boardPtr.toNat * 4))
        :: s.outbox } ∧
    (s.link.boardWriting = none → fld s.link.boardStage 124 4 = (crc32c (s.link.boardStage.take 124)).toNat →
      exec (.boardCommit true) s = .next { s with link.boardWriting := some s.link.boardStage, link.boardReject := false }) ∧
    (s.link.boardWriting = none → fld s.link.boardStage 124 4 ≠ (crc32c (s.link.boardStage.take 124)).toNat →
      exec (.boardCommit true) s = .next { s with link.boardReject := true }) ∧
    (∀ w, s.link.boardWriting = some w →
      exec .boardRecordWritten s = .next { s with link.boardNext := some w, link.boardWriting := none }) ∧
    exec (.smbKeyWrite key false) s = .next s ∧ exec (.smbKeyClear v false) s = .next s ∧
    exec (.boardData (some d) false) s = .next s ∧ exec (.boardCommit false) s = .next s ∧
    exec (.smbRegisterWrite code v false) s = .next s) ∧
  (∀ (k : PcieResetKind) (t : Ps) (port : Fin 2) (b : BootIn) (s : State),
    (s.poweredUp = true → ∃ v, exec (.pcieReset k) s = .next v ∧ v = (if k = .perst then
        { (resetPcie s) with link.perstN := false, link.pcieUp := false } else resetPcie s)) ∧
    exec .perstNDeassert s = .next { s with link.perstN := true, link.pcieUp := s.poweredUp } ∧
    exec (.ethLinkDown t port) s = .next (if port = 0 then { (s.adv t) with link.eth0 := false } else { (s.adv t) with link.eth1 := false }) ∧
    (s.poweredUp = true → exec (.ethLinkUp t port) s =
      .next (if port = 0 then { (s.adv t) with link.eth0 := true } else { (s.adv t) with link.eth1 := true })) ∧
    (s.poweredUp = true → s.link.perstN = false → s.power.mode = .standby →
      exec (.jtagInstructionExit t b) s = .next (jtagRestart b (s.adv t))))

/-! ### Transport events -/

/-- What reaches the device, and what waits in it (R356-R376, R602): entries are fetched while their queue may fetch, datagrams
are taken or buffered, held commands are tried again or end, the partner's requests run in order behind one that is held and, with a
flush, behind a recovery (log 143), the partner's answer completes a mirrored command, and a recovery finishes. -/
def Obligations.TransportEvents : Prop :=
  ∀ (t : Ps) (q : Fin 2) (e : Option SqEntry) (es e1 : List EntryHdr) (port : Fin 2) (id : Nat) (low : U32) (bytes : List Byte)
    (urgent : Bool) (src : Source) (op status cause : Byte) (r : Req) (unit : U16) (s : State),
    let u := s.adv t
    (mayFetch q.val u = true → exec (.sqEntryFetch t q e) s = .next (fetchEntry q e u)) ∧
    (udpLost u = false → ipUp port.val u = true → u.cmd.recovery = none → u.mgmt.down = false →
      exec (.udpDatagram t port id low bytes) s = .next (takeDatagram id low bytes u)) ∧
    (udpLost u = false → ipUp port.val u = true → (u.cmd.recovery.isSome = true ∨ u.mgmt.down = true) →
      exec (.udpDatagram t port id low bytes) s = .next (bufferDatagram port.val (id, low, bytes) u)) ∧
    (∀ h rest, (udpQ id urgent u).held = h :: rest → h.1 + 10000000000 ≤ u.now → u.cmd.recovery = none → u.pathDown = false →
      exec (.udpGap t id urgent) s = .next (skipGap id urgent u)) ∧
    (s.hostUp = true → u.pathDown = false → u.cmd.recovery = none → exec (.flush t q es) s = .next (flushQueue q es u)) ∧
    (s.hostUp = true → u.pathDown = false → u.cmd.recovery.isSome = true → exec (.flush t q es) s =
      .next (setQ q.val { (getQ q.val u) with flush := some ((getQ q.val u).sqHead, (getQ q.val u).tail.toNat, es) } u)) ∧
    (∀ h, heldOf src u = some h → u.pathDown = false → u.cmd.recovery = none → u.cmd.mirror = none →
      h.tried + 100000000 ≤ u.now → exec (.deferRetry t src) s = .next (drainPartner 64 (retry src h u))) ∧
    (∀ h, heldOf src u = some h → u.pathDown = false → u.cmd.recovery = none → h.first + 100000000000 ≤ u.now →
      exec (.deferTimeout t src) s =
        .next (drainPartner 64 (conclude h.req (reject St.timeout (unhold src u)) false))) ∧
    ((arrived r s).pathDown = false → (arrived r s).inPair = true →
      exec (.mirroredRequest op r) s = .next (partnerRequest op r (arrived r s))) ∧
    ((arrived r s).pathDown = false → (arrived r s).inPair = true → (arrived r s).cmd.recovery.isSome = true →
      exec (.mirroredRequest op r) s = .next (enqueue (partnerFetched op r (arrived r s)) (arrived r s))) ∧
    (∀ m, u.cmd.mirror = some m → u.pathDown = false → exec (.mirrorReply t status) s = .next (mirrorDone status m u)) ∧
    (∀ m, u.cmd.mirror = some m → u.pathDown = false → m.sent + 50000000 ≤ u.now →
      exec (.mirrorTimeout t) s = .next (mirrorDone (by8 St.timeout) m u)) ∧
    (∀ x, u.pathDown = false → u.cmd.recovery = some x → exec (.recovery t cause unit es e1) s =
      .next (drainPartner 64 (finishRecovery x es e1 u))) ∧
    (∀ x, u.pathDown = false → u.cmd.recovery = none → cause.toNat ≤ 5 → (startRecovery cause unit [] u).cmd.recovery = some x →
      exec (.recovery t cause unit es e1) s =
        .next (drainPartner 64 (finishRecovery x es e1 (startRecovery cause unit [] u)))) ∧
    (u.pathDown = false → u.cmd.recovery = none → 5 < cause.toNat → exec (.recovery t cause unit es e1) s = .next u)

/-! ### Lines and launches -/

/-- Launches and what comes of them (R50, R56-R60, R89, R142, R161, R162): a launch instant is a boundary or another slot's
launch; a line leaves its queue when it is processed; an accumulation that is complete makes an update ready and the next one
starts; a drain ends, and a switch it let move settles 50 ms later. -/
def Obligations.LineEvents : Prop :=
  ∀ (t : Ps) (d : LineIn) (od : OchreIn) (rd : List (Nat × Fin 4)) (gap : Bool) (r : LaunchRec) (s : State),
    let u := s.adv t
    (s.light.running = true → s.light.draining = false → waitsForEdge s = false → s.light.nextSlot = 0 →
      exec .launch s = .next (boundary s.light.nextAt (s.adv s.light.nextAt))) ∧
    (s.light.running = true → s.light.draining = false → waitsForEdge s = false → s.light.nextSlot ≠ 0 →
      exec .launch s = .next (nextLaunch s.light.nextAt (launchSlot s.light.nextSlot s.light.nextAt
        (takeSlot s.light.nextSlot (s.light.launches - 1) (s.adv s.light.nextAt))))) ∧
    (∀ g, s.light.running = false → s.fibre.gambit = some g → surveying s = true → s.light.switching = none →
      exec .launch s = .next (surveyLaunch g s)) ∧
    (∀ g rest w, w = (let x := s.adv s.light.nextAt; beginSteps x.now (restartAcc (restartAllSlots { x with light.draining := false }))) →
      s.light.draining = true → w.light.segs = g :: rest →
      let v := if g.portMove = true then moveNow w else w
      exec .drainEnd s = .next (if g.waits = true then v else { v with light.nextAt := g.start, light.nextSlot := 0 }) ∧
      (s.cal.run = none → w.light.draining = false ∧ w.light.segs = s.light.segs ∧ w.indigo.restart = 0xFF ∧
        w.ochre.acc = { since := w.now } ∧ w.now = (s.adv s.light.nextAt).now)) ∧
    (∀ w, s.light.switching = some w → exec .portSwitchSettled s =
      .next (let v := resetDark (resetChecks { (s.adv w.2) with light.switching := none })
        if v.fibre.gambit.isSome = true then surveyBack v else if delayRuns v = true then homeSwitch w.1 v else loadRef w.1 v)) ∧
    (s.light.switching = none → exec .portSwitchSettled s = .next s) ∧
    (s.light.inflight.find? (fun x => !x.ochre) = some r → exec (.dasLine d) s = .next (dasLine r d s)) ∧
    (s.light.inflight.find? (fun x => x.ochre) = some r →
      let v := changesFor r.at_ { (s.adv (ochreAt s r)) with light.inflight := s.light.inflight.erase r }
      exec (.ochreLine od) s = .next (ochreAdd r od
        (if r.stale = true then v else aprCheck r (powerTrace (lanes v r (rxCodes v od.rx))) od.peaks v))) ∧
    (s.ochre.cfg.acc ≤ s.ochre.acc.done → ∃ v, exec .accumulationEnd s = .next v ∧ v = { s with ochre := v.ochre } ∧
      v.ochre.acc = {} ∧ v.ochre.coil = s.ochre.coilDue ∧ v.ochre.coilNext = none ∧
      v.ochre.ready.map (·.acc) = some s.ochre.acc ∧ v.ochre.zones = s.ochre.zones) ∧
    (∀ w, u.ochre.ready = some w →
      let l := (ochreIssue w u).1
      let v := amonDts l (dwellUpdate l.count (ochreIssue w u).2)
      exec (.ochreUpdate t rd) s = .next (flushPoints (lineToContexts (lineContexts v 2 l.port)
        (srcOf 2 l (tst l.lflags 0 || l.count = 0) v.now (BitVec.ofNat 4 (flags v.alarm.level.toList))) rd v))) ∧
    (∀ c, u.indigo.raw = some c → (c.tap = 0 ∨ c.tap = 4) → c.startAt ≤ u.now →
      exec (.rawCaptureCopyDone t gap) s = .next (rawDone { c with
        data := rawCopy c u.freeIdx u.indigo, full := gap } u.took))

/-- Light and drives (R68, R70, R76-R82): the case temperature moves the derating and what is held of it (a changed `KNEE` does not
wait: DESIGN CHOICE, log 193); a shorted channel is retired; an open SOA is fatal; a probe run is counted, and one failure with every
slot dark or two in a row confirm `OPEN` (cadence, streak and the item of a pass in the dark: DESIGN CHOICE, logs 194, 195). -/
def Obligations.LightEvents : Prop :=
  ∀ (t : Ps) (temp diff : Int) (ch : Fin 8) (pass : Bool) (s : State),
    let u := s.adv t
    (s.power.sleeping = false →
      let v := { u with power.tCase := temp }
      exec (.caseTempSample t temp) s =
        .next (newHeld (refreshDrives (retakeHeld (measureDrives v)))) ∧
      (∀ x : State, let y := retakeHeld x
        y = { x with light := y.light } ∧ y.light.derate = derateOf x.light.cfg.knee x.power.tCase)) ∧
    ((vget s.light.ldc ch.val).enabled = true → shortLimit (vget s.light.ldc ch.val) < (diff.natAbs : Rat) →
      exec (.ldShortDetect t ch diff) s = .next (retireDrive ch.val 0 (diff % 4294967296).toNat u)) ∧
    ((vget s.light.ldc ch.val).enabled = false ∨ (diff.natAbs : Rat) ≤ shortLimit (vget s.light.ldc ch.val) →
      exec (.ldShortDetect t ch diff) s = .next u) ∧
    ((vget s.light.ldc 2).enabled = true → (gatePulses u).any (20000 ≤ ·) = true →
      exec (.soaOpenConfirm t diff) s = .next (soaOpen 2 diff u)) ∧
    ((gatePulses u).any (20000 ≤ ·) = false → exec (.soaOpenConfirm t diff) s = .next u) ∧
    ((vget s.light.ldc 2).enabled = true → (gatePulses u).any (· < 20000) = true →
      (allDark u = true ∨ 1024 ≤ s.light.probeCount) →
      let n := s.light.probeStreak
      let v := { u with
        light.probeRuns := min 65535 (s.light.probeRuns + 1), light.probeCount := 0,
        light.probeFails := if pass = true then s.light.probeFails else min 65535 (s.light.probeFails + 1),
        light.probeStreak := if pass = true then 0 else n + 1 }
      (pass = true → allDark u = false → exec (.soaProbe t pass) s = .next v) ∧
      (pass = true → allDark u = true →
        exec (.soaProbe t pass) s = .next (raise { code := 0x0206, unit := 0x0182, a0 := u.indigo.dark.toNat } v)) ∧
      (pass = false → allDark u = true → exec (.soaProbe t pass) s = .next (soaOpen 4 0 v)) ∧
      (pass = false → allDark u = false → 1 ≤ n → exec (.soaProbe t pass) s = .next (soaOpen 3 0 v)) ∧
      (pass = false → allDark u = false → n = 0 → exec (.soaProbe t pass) s = .next v)) ∧
    (allDark u = false → s.light.probeCount < 1024 → exec (.soaProbe t pass) s = .next u)

/-- The receivers (R102, R104, R110, R174): the Ochre side band is lost, which marks what was launched up to 10 µs before, and comes
back; the Indigo reference is lost, told once, and comes back; a lane's self-test ends (which step ends `LANE_SUSPECT`: DESIGN CHOICE,
log 171). -/
def Obligations.ReceiverEvents : Prop :=
  ∀ (t : Ps) (pass : Bool) (pct : Nat) (lane : Fin 9) (s : State),
    let u := s.adv t
    (s.ochre.sideLost = false →
      let from_ := u.now - 10000000
      exec (.sidebandLost t pct) s = .next (raise { code := 0x0401, unit := 0x0101, a0 := pct } { u with
        ochre.sideLost := true
        ochre.ready := s.ochre.ready.map (fun r => { r with acc := { r.acc with lost := r.acc.lost || from_ ≤ r.acc.lastAt } })
        ochre.acc.lost := s.ochre.acc.lost || (s.ochre.acc.done ≠ 0 && from_ ≤ s.ochre.acc.lastAt)
        light.inflight := s.light.inflight.map (fun x => if x.ochre && from_ ≤ x.at_ then { x with sideLost := true } else x) })) ∧
    (s.ochre.sideLost = true → exec (.sidebandLost t pct) s = .next u) ∧
    (s.ochre.sideLost = true → exec (.sidebandRecovered t) s = .next (restartAcc { u with ochre.sideLost := false })) ∧
    (s.ochre.sideLost = false → exec (.sidebandRecovered t) s = .next u) ∧
    (s.indigo.refLost = false → exec (.refLost t pct) s =
      .next (drift 2 1 (raise { code := 0x0305, unit := 0x0100, a0 := pct } { u with indigo.refLost := true }))) ∧
    (s.indigo.refLost = true → exec (.refLost t pct) s = .next u) ∧
    exec (.refResume t) s = .next { u with indigo.refLost := false } ∧
    (∀ q, s.indigo.suspect = some q → q.stage = .spareTest → lane.val = q.spare → pass = true →
      exec (.laneSelfTestDone t lane pass) s = .next { u with
        indigo.suspect := some { q with stage := .moving },
        indigo.moves := s.indigo.moves ++ [{ slot := q.slot, lane := q.spare, at_ := moveAt u }] }) ∧
    (∀ q, s.indigo.suspect = some q → q.stage = .oldTest → lane.val = q.old → pass = true →
      exec (.laneSelfTestDone t lane pass) s =
        .next (laneFault 0x0302 lane q.slot 0 false { u with indigo.suspect := none, indigo.spare := some lane.val })) ∧
    (∀ q, s.indigo.suspect = some q → q.stage = .oldTest → lane.val = q.old → pass = false →
      exec (.laneSelfTestDone t lane pass) s =
        .next (laneFault 0x0300 lane q.slot 0 true (retireLane lane { u with indigo.suspect := none })))

/-! ### Surveys and calibration -/

/-- A survey ends on the first port left: its end, trace, reflections and proposals are stored (R36, R37, R39), its item is queued, and
the switch goes on or back (R35); a calibration step's values apply, within its limit or beyond, or its earlier ones stay after a
timeout, and the run goes on (R183, R193); a drift indicator past its limit sets its bit and queues one item (R197, R198). -/
def Obligations.SurveyAndCalibrationEvents : Prop :=
  ∀ (t : Ps) (d : SurveyIn) (c : CalIn) (step : Fin 7) (value : Int) (s : State),
    let u := s.adv t
    (∀ g port rest, s.fibre.gambit = some g → g.item = none → g.ports = port :: rest →
      let x := storeSurvey port g.range d u
      let v := portSurveyed g port 0x00 (surveyStatus (x.portOf port)) x
      let w := portSurveyed g port 0x01 St.timeout u
      (s.light.switching = none → u.now ≤ g.since + 30000000000000 → exec (.surveyDone t d) s = .next (if (g.entry && entryRefused v) = true then failEntry St.badParam v else v)) ∧
      (g.since + 30000000000000 ≤ u.now →
        exec (.surveyTimeout t) s = .next (if g.entry = true then failEntry St.timeout w else w)) ∧
      (g.since + 30000000000000 < u.now → exec (.surveyDone t d) s = .next u) ∧
      (u.now < g.since + 30000000000000 → exec (.surveyTimeout t) s = .next u)) ∧
    (∀ port range, port = 1 ∨ port = 2 →
      let p := s.portOf port
      let found := reflectionsOf (cmSample p.groupIndex (range * 10000)) d.peaks
      let e := findEnd (Config.smooth d.trace) d.floor found p.groupIndex (range * 10000)
      let tl := proposedTl s (p.groupIndex * e.cm)
      ∃ v, ((storeSurvey port range d s).portOf port).survey = some v ∧
        (storeSurvey port range d s).portOf (3 - port) = s.portOf (3 - port) ∧
        ((storeSurvey port range d s).portOf port).currentEnd = e.cm ∧ v.endCm = e.cm ∧ v.gi = p.groupIndex ∧
        v.isFloor = e.isFloor ∧ v.noBack = e.noBack ∧ v.isRange = e.isRange ∧ v.profile = Config.smooth d.trace ∧
        v.floor = d.floor ∧ v.refls.length = min 64 found.length ∧ v.propTl = tl ∧
        v.propSlots = proposedSlots s port tl ∧ v.propPower ≤ s.light.cfg.aprCeil) ∧
    (∀ r k rest, s.cal.run = some r → r.started = true → s.cmd.recovery = none → r.todo = k :: rest →
      exec (.calStepDone t c) s = .next (advanceRun 8 { r with
        todo := rest, ok := if stepInLimit k c.figure = true then r.ok + 2 ^ k else r.ok,
        out := if stepInLimit k c.figure = true then r.out else r.out + 2 ^ k } (leaveStep k (applyStep k c u))) ∧
      exec (.calStepTimeout t) s = .next (advanceRun 8 { r with todo := rest, late := r.late + 2 ^ k }
        (leaveStep k { u with cal.steps := vmod s.cal.steps k (fun x => { x with result := 1, refreshed := false }) }))) ∧
    (∀ k, k < 7 → let w := putStep k (stepValues k c s) c.ref s
      w.cal.gen = s.cal.gen + 1 ∧ vget w.cal.steps k = stepValues k c s ∧
      ((vget s.cal.crossed k).1 ≠ s.cycle + 1 → w.cal.requested = s.cal.requested &&& ~~~(mask7 k)) ∧
      ((vget s.cal.crossed k).1 = s.cycle + 1 → w.cal.requested = s.cal.requested)) ∧
    (s.inMode [.warm, .acoustic, .survey, .full] = true → driftPasses step.val value u = true →
      let was := s.cal.requested.getLsbD step.val
      ∃ v, v.cal.requested = s.cal.requested ||| mask7 step.val ∧ v.cal.gen = s.cal.gen ∧ v.cal.steps = s.cal.steps ∧
        exec (.calDrift t step value) s = .next (if was = true then v else
          raise { code := 0x0500, a0 := v.cal.requested.toNat, a1 := v.cal.gen.toNat } v)) ∧
    ((s.inMode [.warm, .acoustic, .survey, .full] = false ∨ driftPasses step.val value u = false) →
      exec (.calDrift t step value) s = .next u)

/-! ### Inputs, the interval unit and alarm outputs -/

/-- A `TIN` edge is noted, feeds the launch lock, the interval unit and the contexts it triggers (R219, R220, R402, R408); windows and
gates of the interval unit end; a lock that saw no edge in time fails or flywheels (R408, R410); a pulse, a frame and a hold-off
end (R227, R231, R557). -/
def Obligations.InputAndAlarmEvents : Prop :=
  ∀ (t : Ps) (pin4 : Fin 4) (k : Fin 8) (rising : Bool) (code : Byte) (s : State),
    let u := s.adv t
    (s.power.sleeping = true → exec (.tinEdge t pin4 rising) s =
      .next { u with alarm.level := vset s.alarm.level pin4.val rising }) ∧
    (s.power.sleeping = false →
      let v := lockTin pin4.val rising (timFeed pin4.val (!rising) u.now
        { u with alarm.level := vset s.alarm.level pin4.val rising })
      ((vget v.alarm.accept pin4.val).any (fun a => decide (v.now < a + 10000)) = true →
        exec (.tinEdge t pin4 rising) s = .next v) ∧
      ((vget v.alarm.accept pin4.val).any (fun a => decide (v.now < a + 10000)) = false →
        exec (.tinEdge t pin4 rising) s = .next ((List.range 256).foldl (fun w c => tinContext pin4.val rising c w)
          { v with alarm.accept := vset v.alarm.accept pin4.val (some v.now) }))) ∧
    (s.power.sleeping = false → timSource code.toNat = true →
      exec (.timEdge t code rising) s = .next (timFeed code.toNat rising t u)) ∧
    exec (.timWindowExpiry t pin4) s = .next { u with tim.chans := vmod s.tim.chans pin4.val (expire (u.devPs u.now)) } ∧
    exec (.timGateEnd t pin4) s = .next { u with tim.chans := vmod s.tim.chans pin4.val (gateOut (u.devPs u.now)) } ∧
    (s.lock.phase = 1 → s.lock.nEdges ≤ 256 → s.lock.since + 1000000000000 ≤ u.now →
      exec (.timSyncFail t) s = .next (dropLock (lockFault 0x0806 u))) ∧
    (∀ e es, s.lock.phase = 2 → s.lock.edges = e :: es → 2 * e + 5 * s.lock.pBar ≤ 2 * u.now → s.lock.lostTold = false →
      exec (.timMarkerLost t) s =
        .next (let v := lockFault 0x0804 u; { v with lock.phase := 3, lock.lostTold := true })) ∧
    ((pin s k.val).mode = 1 → (pin s k.val).asserted = true →
      let e := (pin s k.val).endAt
      let m := max e (pin s k.val).edgeAt
      exec (.almPulseEnd k) s = .next (alarmsBy e (s.adv e)) ∧
      (s.alarm.due = [] → s.alarm.frame = none →
        (∀ j : Fin 8, j ≠ k → (pin s j.val).mode ≠ 1 ∨ (pin s j.val).asserted = false ∨ e < (pin s j.val).endAt) →
        exec (.almPulseEnd k) s =
          .next (send (.almPin k.val false m)
            (setPin k.val { pin s k.val with asserted := false, endedAt := m } (s.adv e))))) ∧
    (∀ e, s.alarm.frame = some e →
      exec .almsFrameEnd s = .next (alarmsBy e (s.adv e)) ∧
      (s.alarm.due = [] → (∀ j : Fin 8, (pin s j.val).mode ≠ 1 ∨ (pin s j.val).asserted = false ∨ e < (pin s j.val).endAt) →
        (∀ w rest, s.alarm.queue = w :: rest →
          exec .almsFrameEnd s = .next (startFrame w e { (s.adv e) with alarm.frame := none, alarm.queue := rest })) ∧
        (s.alarm.queue = [] → exec .almsFrameEnd s = .next (startIdle e { (s.adv e) with alarm.frame := none })))) ∧
    (∀ e, s.link.holdoffEnd = some e → s.link.holdoffHit = false →
      exec .alarmHoldoffEnd s = .next { (s.adv e) with link.holdoffEnd := none }) ∧
    (∀ e, s.link.holdoffEnd = some e → s.link.holdoffHit = true → s.link.holdoff ≠ 0 →
      let v := reqVector 2 { (s.adv e) with link.holdoffEnd := none, link.holdoffHit := false }
      exec .alarmHoldoffEnd s = .next { v with link.holdoffEnd := some (v.now + s.link.holdoff.toNat * 1000000) })

/-! ### Zone cores, records and streams -/

/-- What happens to a zone core (R295-R301): a sample reaches it or is dropped; a spent budget cuts the invocation; a deadline
takes 0 for the zone-sample whose bits are not in and counts it late; a parity error, on a core that runs or is read, resets or
spoils; a core due to retire does, and one due back runs. -/
def Obligations.ZoneCoreEvents : Prop :=
  ∀ (t : Ps) (c : Fin 32) (k : Fin 256) (a : Nat) (s : State),
    let u := s.adv t
    let x := core s c.val
    (∀ m rest, x.bus = m :: rest → x.buffer.length < 64 → exec (.zoneSampleToCore c) s =
      .next (startNext c.val (modCore c.val (fun y => { y with bus := rest, buffer := y.buffer ++ [m] }) s))) ∧
    (∀ m rest, x.bus = m :: rest → 64 ≤ x.buffer.length → exec (.zoneSampleToCore c) s =
      .next (deliver m 0 (modCore c.val (fun y => { y with bus := rest, inDrop := satInc y.inDrop }) s))) ∧
    (∀ m, x.inv = some m → x.rep = 0 → x.budget ≤ x.cycles →
      let v := modCore c.val (fun y => { y with overruns := satInc y.overruns, lastOverPc := y.pc, overTold := true }) s
      exec (.coreBudgetCut c) s = .next (endInv c.val 0 false
        (if x.overTold = true then v else raise { code := 0x0604, unit := c.val, a0 := x.pc.toNat, a1 := x.ctx0 } v))) ∧
    (∀ j rest r, (ctx s k.val).jobs = j :: rest →
      (List.range j.bits.length).find? (fun r => (j.bits[r]?).getD none = none) = some r →
      ∃ v, exec (.coreDeadline k) s = .next (flushAlarms (finishJobs (rest.length + 2) k.val (modCtx k.val (fun y => { y with
          jobs := { j with bits := j.bits.set r (some 0) } :: rest }) v))) ∧
        (coreAt s k.val (r % (groupOf s k.val).length) = none → v = s) ∧
        (∀ d, coreAt s k.val (r % (groupOf s k.val).length) = some d →
          v = markLate d k.val j.line.seq r s)) ∧
    -- a zone-sample of a context that waits for no bits is late all the same (R298)
    (∀ d m, (ctx s k.val).jobs = [] → oldestSample s k.val = some (d, m) →
      exec (.coreDeadline k) s = .next (markLate d k.val m.seq m.zone s)) ∧
    (∀ q r, (core (markLate c.val k.val q r s) c.val).late = satInc x.late) ∧
    (((ctx s k.val).jobs = [] ∧ oldestSample s k.val = none ∨
        ∃ j rest, (ctx s k.val).jobs = j :: rest ∧ ∀ r < j.bits.length, (j.bits[r]?).getD none ≠ none) →
      exec (.coreDeadline k) s = .next s) ∧
    (x.state ≠ .retired →
      let again := x.iParAt.any (fun f => decide (u.now ≤ f + 10000000000000))
      exec (.zcImemParity t c a) s = .next (startRecovery 0 (BitVec.ofNat 16 c.val)
        [.fault 0x0600 c.val 0 (BitVec.ofNat 32 a) (BitVec.ofNat 32 x.ctx0) false]
        (resetCore c.val (modCore c.val (fun y => { y with
          iParAt := if again = true then x.iParAt else some u.now, retireDue := y.retireDue || again }) u)))) ∧
    (x.state ≠ .retired →
      let recent := u.now :: x.dParAt.filter (fun f => u.now < f + 1000000000000)
      exec (.zcDmemParity t c a) s = .next (raise { code := 0x0601, unit := c.val, a0 := a, a1 := x.ctx0 }
        (modCore c.val (fun y => { y with
          spoiled := y.spoiled || y.inv.isSome, parity := satInc y.parity, dParAt := recent,
          retireDue := y.retireDue || 16 ≤ recent.length }) u))) ∧
    (x.retireDue = true → x.state ≠ .retired → exec (.zcRetired t c) s =
      .next (retireCore c.val (modCore c.val (fun y => { y with retireDue := false }) u))) ∧
    (∀ b, x.backAt = some b → x.state = .stopped → x.bindings ≠ [] → b ≤ u.now → exec (.coreMoveStart t c) s =
      .next (modCore c.val (fun y => { y.clearRegs with state := .running, backAt := none }) u)) ∧
    (x.bindings = [] → exec (.coreMoveStart t c) s = .next u)

/-- A record's read-back, a block's age, a block sent and forwarded items (R255, R320-R325, R340): a block in its ring is written at
the producer's place and counted, one with no room is dropped and counted. -/
def Obligations.StreamEvents : Prop :=
  ∀ (t : Ps) (handle consumer : U32) (k : Nat) (room : Bool) (s : State),
    let u := s.adv t
    (∀ r, findRec handle.toNat u = some r → r.readBack = false → r.phase = .measuring → r.ctx ≠ 256 →
      exec (.readbackDone t handle) s = .next (completeRec handle.toNat
        (modRec handle.toNat (fun x => { x with readBack := true }) u))) ∧
    (∀ r, findRec handle.toNat u = some r → r.readBack = false → r.phase = .capture → r.ctx ≠ 256 →
      exec (.readbackDone t handle) s = .next (modRec handle.toNat (fun x => { x with readBack := true }) u)) ∧
    (∀ x, (stream s k).opened.head? = some x →
      let v := s.adv (x + (stream s k).maxAge * 1000000000)
      (lineInProgress v k = none → exec (.blockAgeExpiry k) s = .next (closeBlock k v)) ∧
      ((lineInProgress v k).isSome = true →
        exec (.blockAgeExpiry k) s = .next (modStream k (fun y => { y with closeDue := true }) v))) ∧
    (k ≤ 256 → (stream u k).waiting = [] → exec (.blockSend t k consumer room) s = .next u) ∧
    (∀ b rest, k ≤ 256 → (stream u k).waiting = b :: rest → (stream u k).transport = 1 →
      let x := stream u k
      let full (c : U32) : Prop := x.ringSlots ≤ (x.producer - c).toNat
      let bytes := b.bytes k (x.afterDrop || b.after) (b.pastDrops.getD x.drops)
      -- the block goes to its slot, then PRODUCER to the control area (R322)
      let slot : U64 := x.ringBase + BitVec.ofNat 64 (4096 + x.producer.toNat % x.ringSlots * 32768)
      ((¬ full x.consumer ∨ ¬ full consumer) → u.hostUp = true → ∃ v w, exec (.blockSend t k consumer room) s = .next v ∧
        v = blockIrq k (b.padFrom < 4096) w ∧
        w.outbox = .hostWrite k (x.ringBase + 4) (le4 (x.producer + 1).toNat) :: .hostWrite k slot bytes :: u.outbox ∧
        (stream w k).producer = x.producer + 1 ∧ (stream w k).waiting = rest ∧ (stream w k).sent = x.sent + 1 ∧
        (stream w k).afterDrop = false ∧ (stream w k).drops = x.drops) ∧
      ((u.hostUp = false ∨ (full x.consumer ∧ full consumer)) → b.pastDrops = none →
        ∃ v, exec (.blockSend t k consumer room) s = .next v ∧ v.outbox = u.outbox ∧
          (stream v k).drops = satInc x.drops ∧ (stream v k).afterDrop = true ∧ (stream v k).waiting = rest ∧
          (stream v k).producer = x.producer)) ∧
    (∀ b rest, k ≤ 256 → (stream u k).waiting = b :: rest → (stream u k).transport ≠ 1 →
      let x := stream u k
      -- what an unread resynchronisation left behind counts its own drops (R324)
      let bytes := b.bytes k (x.afterDrop || b.after) (b.pastDrops.getD x.drops)
      (room = true → ethUp u x.transport = true → ∃ v, exec (.blockSend t k consumer room) s = .next v ∧
        v.outbox = (fragments k b.node b.seq x u.cmd.key bytes).reverse.map
            (Out.datagram k (x.transport - 2) x.destAddr x.destPort)
          ++ u.outbox ∧ (stream v k).waiting = rest ∧ (stream v k).sent = x.sent + 1 ∧ (stream v k).afterDrop = false) ∧
      ((room = false ∨ ethUp u x.transport = false) → b.pastDrops = none →
        ∃ v, exec (.blockSend t k consumer room) s = .next v ∧
          v.outbox = u.outbox ∧ (stream v k).waiting = rest ∧ (stream v k).drops = satInc x.drops ∧
          (stream v k).afterDrop = true)) ∧
    -- only items complete by then are forwarded (R340)
    (let q := u.evq.forwarded (u.cycle + 1)
      let z := stream u 257
      (q.forward = [] → exec (.evtForwardSend t room) s = .next { u with evq := q }) ∧
      (q.forward ≠ [] → (room = false ∨ ethUp u z.transport = false) →
        exec (.evtForwardSend t room) s = .next { u with
          evq := { q with forward := q.forward.drop 16, lost := satAdd q.lost (q.forward.take 16).length } }) ∧
      (q.forward ≠ [] → room = true → ethUp u z.transport = true →
        ∃ v d, exec (.evtForwardSend t room) s = .next v ∧
          v.outbox = .datagram 257 (z.transport - 2) z.destAddr z.destPort d :: u.outbox ∧
          v.evq.forward = q.forward.drop 16 ∧ v.evq.items = q.items ∧ v.evq.fwdSeq = u.evq.fwdSeq + 1 ∧
          v.evq.lost = u.evq.lost))

/-! ### Time -/

/-- Time (R389-R399): an Announce and a pair of messages reach a domain that is on; a domain loses lock at a time-out and is
taken back on revert; each second of device time queues an epoch item; the OCXO warms, is lost and comes back. -/
def Obligations.TimeEvents : Prop :=
  ∀ (t : Ps) (d : Fin 2) (src : PtpFrom) (a : PtpAnnounce) (rx tx : Nat) (two : Bool) (sync : Int) (fu : Option Int)
    (t4 freq : Int) (s : State),
    let u := s.adv t
    let x := domain u d.val
    let pair : PtpMsg := .pair src rx tx two sync fu t4 freq
    (u.pathDown = false → (if x.port = 0 then u.link.eth0 else u.link.eth1) = true → x.phase ≠ 0 → x.hears src = true →
      -- the best time transmitter heard (R391)
      exec (.ptpMessage t d (.announce src a)) s = .next (setDomain d.val (takeAnnounce src a u.now x) u) ∧
      (let y := takeAnnounce src a u.now x;
        (x.masters = [] → y.gm = a.gm ∧ y.steps = a.steps ∧ y.utc = a.utc ∧ y.sender = some src.id ∧ y.lastAnn = u.now) ∧
        (y.sender = some src.id ∨ ∃ m ∈ x.masters, y.sender = some m.id ∧ y.gm = m.data.gm ∧ u.now < m.at_ + x.annTime m.data.interval)) ∧
      (x.sender ≠ some src.id → exec (.ptpMessage t d pair) s = .next u)) ∧
    (∀ t1, u.pathDown = false → (if x.port = 0 then u.link.eth0 else u.link.eth1) = true → x.phase ≠ 0 → x.hears src = true →
      x.sender = some src.id → (if two = true then fu = some t1 else sync = t1) →
      -- the four instants, moved from the MAC to the balls with the board delays added (R393)
      let t2 := x.copyPs rx + (if x.port = 0 then -211648 else -211904) + x.boardRx
      let t3 := x.copyPs tx + (if x.port = 0 then 83328 else 83584) + x.boardTx
      let o := ((t1 - t2) + (t4 - t3)) / 2 + x.asym
      let path := (((t2 - t1) + (t4 - t3)) / 2).toNat
      let y := { x with syncRx := x.syncRx + 1 }
      let v := send (.delayReq x.port (fld x.cfg 1 1) tx) (setDomain d.val y u)
      (x.synced = true → exec (.ptpMessage t d pair) s = .next (ptpOffset d.val o path freq v) ∧
        (x.phase = 2 → x.outlier < o.natAbs → exec (.ptpMessage t d pair) s =
          .next (setDomain d.val { y with outliers := satInc y.outliers } v))) ∧
      (x.synced = false → exec (.ptpMessage t d pair) s =
        .next (ptpOffset d.val 0 path freq (setDomain d.val { y.moveCopy o y.cRate u.now with synced := true } v)))) ∧
    ((u.pathDown = true ∨ (if x.port = 0 then u.link.eth0 else u.link.eth1) = false ∨ x.phase = 0 ∨ x.hears src = false) →
      exec (.ptpMessage t d (.announce src a)) s = .next u ∧ exec (.ptpMessage t d pair) s = .next u) ∧
    (x.phase = 2 →
      let v := selectedLost d.val (raise { code := 0x0800, unit := 0x0130 + d.val }
        (setDomain d.val { x with phase := 3, streak := 0, lockedAt := none } u))
      (x.lastAnn + x.annTime x.annEvery ≤ u.now → exec (.announceTimeout t d) s = .next v) ∧ (x.lastPair + x.lossTime ≤ u.now → exec (.lossTimeout t d) s = .next v)) ∧
    (x.phase ≠ 2 → exec (.announceTimeout t d) s = .next u ∧ exec (.lossTimeout t d) s = .next u) ∧
    (u.now < x.lastAnn + x.annTime x.annEvery → exec (.announceTimeout t d) s = .next u) ∧
    (u.now < x.lastPair + x.lossTime → exec (.lossTimeout t d) s = .next u) ∧
    (∀ l, (domain u 0).lockedAt = some l → (domain u 0).phase = 2 → u.time.revert = true → u.time.selected = some 1 →
      l + 60000000000000 ≤ u.now → exec (.domainRevert t) s = .next (selectDomain 0 u)) ∧
    exec (.slewDone t) s = .next (if u.time.hold = true then u else rebase u.now u) ∧
    (s.power.sleeping = false → s.power.starting = false → nextSecond s ≤ t →
      let w := s.adv (nextSecond s)
      let e := epochItem false (w.devSec w.now) 0 w
      exec (.secondTick t) s = .next (timFeed 0x30 false e.now (tickZones
        (modStream 256 (fun y => { y with secs := y.secs + 1, tick := y.tick + 1 }) (if streamRuns e 256 = true then statusLine e else e))))) ∧
    ((s.power.sleeping = true ∨ s.power.starting = true ∨ t < nextSecond s) → exec (.secondTick t) s = .next u) ∧
    (∀ n, n = (match u.time.ocxoLast with
        | some l => if (freq - l).natAbs < 2000 then u.time.ocxoStreak + 1 else 0
        | none => 0) →
      exec (.ocxoAverage t freq) s = .next { u with
        time.ocxoLast := some freq, time.ocxoPresent := true, time.ocxoStreak := n,
        time.ocxoWarm := u.time.ocxoWarm || (u.time.ocxoRdy && 30 ≤ n) }) ∧
    exec (.ocxoRdyChange t false) s = .next { u with time.ocxoRdy := false, time.ocxoWarm := false } ∧
    exec (.ocxoRdyChange t true) s = .next { u with
      time.ocxoRdy := true, time.ocxoWarm := u.time.ocxoWarm || (u.time.ocxoPresent && 30 ≤ u.time.ocxoStreak) } ∧
    exec (.ocxoLost t) s = .next (raise { code := 0x0803, unit := 0x0190 }
      { u with time.ocxoPresent := false, time.ocxoWarm := false, time.ocxoStreak := 0, time.ocxoLast := none }) ∧
    exec (.ocxoSignalReturn t) s = .next (endBound 0x0803 { u with time.ocxoPresent := true })

/-! ### Sensors and record memory -/

/-- An auxiliary channel that does not convert changes nothing; a conversion is kept in the channel's buffer and reaches the
monitors and the contexts (R422-R437, R439); a low VREF is told once (R440, R447); the coil's thermometer is checked when a coil is due. -/
def Obligations.AuxEvents : Prop :=
  ∀ (t : Ps) (ch : Fin 8) (raw : BitVec 24) (det : AuxDetect) (rd : List (Nat × Fin 4)) (mv : Nat) (s : State),
    let u := s.adv t
    let n := ch.val
    (converts u n = false → exec (.auxResult t ch raw det rd) s = .next u) ∧
    (converts u n = true →
      let q := convert u n raw det (aux u n)
      let w := wakeStep u q.1 q.2
      let kept (x : AuxRes) (told : Bool) : State := modAux n (fun _ => { (w.1.keep x) with openTold := told }) u
      let feeds (x : AuxRes) (v : State) : State := auxLines n rd (amonFeed 3 n (fun _ => (x.r : Rat)) ((x.flags &&& 7) = 0) v)
      let same := kept q.1 w.1.openTold
      -- an ordinary result, and one of a channel whose open sensor has been told
      ((tst q.1.flags 1 = false ∨ w.1.openTold = true) → w.2 = false → (measuresCoil u n = false ∨ u.power.sleeping = true) →
        exec (.auxResult t ch raw det rd) s = .next (feeds q.1 same)) ∧
      -- the coil's thermometer
      ((tst q.1.flags 1 = false ∨ w.1.openTold = true) → measuresCoil u n = true → u.power.sleeping = false →
        exec (.auxResult t ch raw det rd) s = .next (feeds q.1 (coilResult q.1 same))) ∧
      -- a result that wakes the device
      (tst q.1.flags 1 = false → u.power.sleeping = true → w.2 = true →
        let x := { q.1 with flags := q.1.flags + 32 }
        exec (.auxResult t ch raw det rd) s = .next (feeds x
          (requestWake 3 (keepWake n x.r (kept x w.1.openTold))))) ∧
      -- of the requests of one cycle the last in ascending channel order stays (R439)
      (∀ v : State, v.aux.lastWakeAt = none → keepWake n q.1.r v = { v with
        aux.lastWakeCh := n, aux.lastWake := q.1.r, aux.lastWakeAt := some v.now }) ∧
      -- an open sensor, told once
      (tst q.1.flags 1 = true → w.1.openTold = false →
        let v := raise { code := 0x0900, unit := 0x0140 + n, a0 := (q.1.r % 4294967296).toNat, a1 := q.1.flags } (kept q.1 true)
        exec (.auxResult t ch raw det rd) s = .next (feeds q.1 (if (measuresCoil v n && !v.power.sleeping) = true then coilResult q.1 v else v)))) ∧
    (450 ≤ mv → exec (.amonVrefLow t mv) s = .next { u with aux.vrefMv := mv, aux.vrefLow := false }) ∧
    (mv < 450 → s.aux.vrefLow = true → exec (.amonVrefLow t mv) s = .next { u with aux.vrefMv := mv }) ∧
    (mv < 450 → s.aux.vrefLow = false → exec (.amonVrefLow t mv) s =
      .next (raise { code := 0x0901, unit := 0x0148, a0 := mv } { u with aux.vrefMv := mv, aux.vrefLow := true })) ∧
    (∀ q, s.ochre.coilDue = some q → s.inMode [.warm, .acoustic, .survey, .full] = true →
      exec (.refResistorCheck t) s =
        .next (modAux q.auxCh (fun c => { c with refLeft := 4, refHold := (c.last.map (·.r)).getD 0 }) u)) ∧
    (s.ochre.coilDue = none → exec (.refResistorCheck t) s = .next u)

/-- Record memory (R455-R470): a refresh is issued when the bank is idle or eight are postponed, and makes up for those (how is the
model's reading, log 212); an uncorrectable error is
counted, told and disables its channel at the sixteenth within a second; training, its request and its results; a scrub pass. -/
def Obligations.MemoryEvents : Prop :=
  ∀ (t : Ps) (ch : Fin 4) (bank : Fin 16) (idle : Bool) (f k wd : Nat) (o : Fin 1792) (reader : MemReader) (rec : Option Nat)
    (chans : BitVec 4) (d : TrainIn) (s : State),
    let u := s.adv t
    let c := ch.val
    let addr := f * 1792 + o.val
    let m := mch u c
    (m.live = true → m.selfRefresh = false → s.power.sleeping = false → ∃ n : MemCh,
      n = { m with tDram := (Config.reading 10 s.freeIdx).toInt % 32768, refreshX := n.refreshX } ∧ n.refreshX ≤ 2 ∧
      (10500 < n.tDram → n.refreshX = 2) ∧
      ((idle = true ∨ 8 < m.postponed + 1) → exec (.refreshDue ch bank idle) s = .next (send (.refresh c bank.val)
        (modMem c (fun _ => { n.takeSet with postponed := 0, refreshes := m.refreshes + (m.postponed + 1) }) s.took))) ∧
      (idle = false → m.postponed + 1 ≤ 8 → exec (.refreshDue ch bank idle) s = .next (modMem c (fun _ => { n with
        postponed := m.postponed + 1, postponeMax := max m.postponeMax (m.postponed + 1) }) s.took))) ∧
    (memPlace u addr = none → exec (.memEccUncorr t f o reader rec wd) s = .next u) ∧
    (∀ p, memPlace u addr = some p →
      let w := touch p u
      let near := (mch w p.chan).uncorrAt.filter (fun x => u.now < x + 1000000000000)
      let v := raise { code := 0x0A01, unit := 0x0120 + p.chan, a0 := addr % 2 ^ 32, a1 := addr / 2 ^ 32 }
        (modMem p.chan (fun y => { y with
          eccUncorr := satInc y.eccUncorr, lastUncorr := BitVec.ofNat 32 p.burst, uncorrAt := near ++ [u.now] }) w)
      (near.length < 15 → exec (.memEccUncorr t f o reader none wd) s = .next v) ∧
      (15 ≤ near.length → exec (.memEccUncorr t f o reader none wd) s =
        .next (disableChannels [(p.chan, 6)] (modMem p.chan (fun y => { y with uncorrAt := [] }) v))) ∧
      (∀ h, near.length < 15 → exec (.memEccUncorr t f o reader (some h) wd) s =
        .next (if reader = .firmware ∨ addr < 1073741824 then v else modRec h (fun r => { r with bad := wd :: r.bad }) v))) ∧
    (∀ p, memPlace u addr = some p →
      let n := (liveChans u).length
      addr < n * 3758096384 ∧ (liveChans u)[f % n]? = some p.chan ∧ p.row = f / n / 16 ∧ p.bank = bankOf u (f / n) ∧
        p.offset = o.val ∧ p.burst = f / n * 28 + o.val / 64) ∧
    (k ≠ 0 → m.live = true → s.inMode [.warm, .acoustic, .survey, .full, .calibrate] = true →
      let sec := u.devSec u.now
      let v := modMem c (fun y => { y with eccCorr := satAdd y.eccCorr k, corrSec := some sec }) u
      let where_ : Nat × Nat := ((Config.reading 20 v.freeIdx).toNat, (Config.reading 21 v.freeIdx).toNat % 4)
      (m.corrSec = some sec → exec (.scrubPass t ch k) s = .next v) ∧
      (m.corrSec ≠ some sec → exec (.scrubPass t ch k) s =
        .next (raise { code := 0x0A00, unit := 0x0120 + c, a0 := where_.1, a1 := where_.2 } v.took))) ∧
    exec (.phyFault t chans) s = .next (disableChannels
      (((List.range 4).filter (fun i => chans.getLsbD i)).map (fun i => (i, 7))) u) ∧
    (∀ x, s.mem.dropAt = some x → x + 1000000000000 ≤ u.now → exec (.rtDropEpisodeEnd t) s = .next { u with mem.dropAt := none }) ∧
    (s.power.mode = .standby → m.live = true →
      exec (.selfRefreshReturn ch) s = .next (modMem c (fun y => { y with selfRefresh := true }) s)) ∧
    (m.live = true → m.drift = false → exec (.memTrainReq t ch) s =
      .next (raise { code := 0x0A06, unit := 0x0120 + c } (modMem c (fun y => { y with drift := true }) u))) ∧
    (∀ x rest, s.mem.train = some x → x.left = c :: rest →
      let r := trainReason u.mem.eyeMin d
      let v := modMem c (fun y => { y with
        training := false, trainSec := BitVec.ofNat 32 (u.devSec u.now),
        trained := r = 0, drift := y.drift && r = 5 }) u
      let z : Training := { x with left := rest }
      (r = 0 → m.live = true → exec (.memTrainChannelDone t d) s =
        .next (nextTraining z (modMem c (fun y => { y with newSet := some (eyesOf d, centresOf d, d.tapFs) }) v))) ∧
      (r = 0 → m.live = false → exec (.memTrainChannelDone t d) s = .next (nextTraining z (returnChannel c d v))) ∧
      (r = 5 → m.live = true → exec (.memTrainChannelDone t d) s = .next (nextTraining { z with late := true } v)) ∧
      (r ≠ 0 → r ≠ 5 → m.live = true → exec (.memTrainChannelDone t d) s =
        .next (nextTraining { z with degraded := true } (disableChannels [(c, r)] { v with mem.train := some z }))) ∧
      (r ≠ 0 → m.live = false → exec (.memTrainChannelDone t d) s =
        .next (nextTraining { z with degraded := true, late := x.late || r = 5 } (modMem c (fun y => { y with reason := r }) v))))

/-! ### Management controllers -/

/-- A controller fails by its watchdog or its lockstep; the standby that is ready takes over and starts a recovery; a retest
makes it ready or retires it; with none ready the device goes safe and the command path is down until it restarts; a firmware
update and the self-test end (R494-R502). -/
def Obligations.ControllerEvents : Prop :=
  ∀ (t : Ps) (pass verified back : Bool) (d : SelfTestIn) (s : State),
    let u := s.adv t
    (s.poweredUp = true → s.mgmt.down = false →
      exec (.mgmtWatchdog t) s = .next (controllerFails 4 u) ∧ exec (.mgmtLockstep t) s = .next (controllerFails 5 u) ∧
      (s.mgmt.failed = none → controllerFails 4 u = { u with mgmt.failed := some 4, mgmt.failedAt := u.now })) ∧
    (∀ c, s.poweredUp = true → s.mgmt.down = false → s.mgmt.ready = true → s.mgmt.failed = some c →
      let told : List FollowItem := if c = 7 then [] else [.fault 0x0B00 (mgmtUnit s.mgmt.activeB) 0 0 0 false]
      let v := { u with
        mgmt.activeB := !s.mgmt.activeB, mgmt.ready := false, mgmt.retest := true, mgmt.failed := none,
        mgmt.runningB := if c = 7 then s.mgmt.preferredB else s.mgmt.runningB }
      exec (.mgmtTakeover t) s = .next (startRecovery 2 0xFFFF
        (told ++ [.takeover 0 c (itemSlots u) (itemSlots u) (BitVec.allOnes 64)]) v)) ∧
    (s.poweredUp = true → s.mgmt.down = false → s.mgmt.retest = true → pass = true →
      exec (.mgmtRetestDone t pass) s = .next { u with mgmt.retest := false, mgmt.ready := true }) ∧
    (s.poweredUp = true → s.mgmt.down = false → s.mgmt.retest = true → pass = false → ∃ v : State,
      exec (.mgmtRetestDone t pass) s = .next (raise { code := 0x0B01, unit := mgmtUnit (!s.mgmt.activeB), retired := true } v) ∧
        v.mgmt.retest = false ∧ (s.mgmt.activeB = false → v.mgmt.retiredB = true ∧ v.mgmt.retiredA = s.mgmt.retiredA) ∧
        (s.mgmt.activeB = true → v.mgmt.retiredA = true ∧ v.mgmt.retiredB = s.mgmt.retiredB)) ∧
    (∀ c, s.poweredUp = true → s.mgmt.down = false → s.mgmt.ready = false → s.mgmt.failed = some c → c ≠ 7 → ∃ v, exec (.mgmtNoController t) s = .next v ∧
      v.mgmt.down = true ∧ v.mgmt.failed = none ∧ v.pathDown = true ∧
      v.outbox = (fatalSafe { code := 0x0B02, unit := mgmtUnit s.mgmt.activeB } false u).outbox) ∧
    (s.poweredUp = true → s.mgmt.down = true → exec (.commandPathRestart t) s =
      .next (startRecovery 5 0xFFFF [] (bootController (let v := takeBuffers u; { v with mgmt.down := false })))) ∧
    (∀ tag act img x, u.mgmt.update = some (tag, act, img, x) → u.pathDown = false →
      exec (.fwUpdateDone t verified back) s = .next (finishUpdate tag act img verified back u)) ∧
    (∀ tag tests, u.mgmt.selfTest = some (tag, tests) → u.pathDown = false →
      exec (.selfTestDone t d) s = .next (finishTests tag tests d u))

/-! ### The pair -/

/-- The pair (R504-R513): heartbeats are sent and taken; a silent partner is declared lost, and with automatic takeover this
device goes on alone; lanes go down (both when every heartbeat is lost: DEDUCED, log 214) and the link comes up; a through-fibre
window is noted. -/
def Obligations.PairEvents : Prop :=
  ∀ (t : Ps) (lane : Fin 2) (slot : Fin 8) (power : Int) (delay : Nat) (h : Heartbeat) (hello : PartnerHello) (s : State),
    let u := s.adv t
    (s.inPair = true → s.power.sleeping = false →
      exec .heartbeatTx s = .next { s with outbox := .heartbeat (heartbeatOf s) :: s.outbox } ∧
      exec (.heartbeatRx t h) s = .next (heartbeat h u) ∧ exec (.plinkUp t hello) s = .next (linkUp hello u)) ∧
    (s.inPair = true → s.power.sleeping = false →
      (lane = 0 → s.pair.lane0 = true → exec (.pairLaneDown t lane) s =
        .next (raise { code := 0x0C02, unit := 0x0150 } { u with pair.lane0 := false })) ∧
      (lane = 1 → s.pair.lane1 = true → exec (.pairLaneDown t lane) s =
        .next (raise { code := 0x0C02, unit := 0x0150 } { u with pair.lane1 := false }))) ∧
    (s.power.sleeping = false → s.pair.lastHb + 4000000 ≤ u.now →
      exec (.partnerLost t) s = .next (declareLost 0 u) ∧
      ((s.pair.phase = .paired ∨ s.pair.phase = .yielded) → s.pair.autoTake = false → declareLost 0 u =
        { u with pair.lane0 := false, pair.lane1 := false, pair.phase := .linkLost, pair.lossCause := 0,
                 pair.partnerState := 0xFF }) ∧
      (s.pair.phase ≠ .paired → s.pair.phase ≠ .yielded →
        declareLost 0 u = { u with pair.lane0 := false, pair.lane1 := false })) ∧
    (u.now < s.pair.lastHb + 4000000 → exec (.partnerLost t) s = .next u) ∧
    (s.power.sleeping = false → exec (.thruWindowEnd t slot power delay) s = .next (thruWindow slot.val power delay u)) ∧
    (s.pair.phase = .paired → s.pair.tests = [] → thruPresent s.pair power = true → thruWindow slot.val power delay s =
      { s with pair.thruHist := ((power, delay) :: s.pair.thruHist).take 256, pair.absent := 0, pair.thruLost := false }) ∧
    (s.pair.phase = .paired → s.pair.tests = [] → thruPresent s.pair power = false →
      let v := { s with
        pair.thruHist := ((power, delay) :: s.pair.thruHist).take 256, pair.absent := s.pair.absent + 1,
        pair.thruLost := s.pair.thruLost || 64 ≤ s.pair.absent + 1 }
      thruWindow slot.val power delay s = (if 64 ≤ s.pair.absent + 1 ∧ s.pair.thruLost = false then
        raise { code := 0x0C04, unit := 0x0150 } v else v))

/-! ### Modes and power -/

/-- Modes (R536-R544): a transition that is complete is told with its item; wake requests are noted asleep, held while the
device goes to sleep and otherwise counted; a wake loads the store that sleep left; a dwell ends in a linger and a linger in the
sleep that was left. -/
def Obligations.ModeEvents : Prop :=
  ∀ (t : Ps) (b : BootIn) (s : State),
    let u := s.adv t
    exec (.modeChange t) s = .next (endTransition u) ∧
    (∀ x, u.power.trans = some x → notYet x u = true → endTransition u = u) ∧
    (s.power.sleeping = true → s.power.waking = none → exec (.wakeN t) s =
      .next { u with power.waking := some 1, power.wakeAt := u.now, power.wakeOther := false }) ∧
    (s.power.sleeping = false → u.enteringSleep = true →
      exec (.wakeN t) s = .next { u with power.wakeReq := s.power.wakeReq ++ [1] }) ∧
    (s.power.sleeping = false → u.enteringSleep = false → exec (.wakeN t) s = .next u) ∧
    (s.power.wake.period ≠ 0 → s.power.sleeping = true → s.power.waking = none → exec (.wakeTimer t) s =
      .next { u with power.waking := some 2, power.wakeAt := u.now, power.wakeOther := false }) ∧
    (s.power.wake.period ≠ 0 → s.power.sleeping = false → u.enteringSleep = false → s.power.starting = false →
      s.power.supplyOut = none →
      exec (.wakeTimer t) s = .next { u with power.timerSkipped := satInc s.power.timerSkipped }) ∧
    (s.power.wake.period = 0 → exec (.wakeTimer t) s = .next u) ∧
    (∀ c, s.power.waking = some c → s.power.sleeping = true → exec (.wake t b) s = .next (wakeUp c b u)) ∧
    (s.power.waking = none → exec (.wake t b) s = .next u) ∧
    (∀ x, s.power.duty = .dwell 0 x → x ≤ u.now →
      exec (.dutyDwellEnd t) s = .next { u with power.duty := .linger (u.now + s.power.wake.lingerS * 1000000000000) }) ∧
    (∀ n x, s.power.duty = .dwell n x → (n ≠ 0 ∨ u.now < x) → exec (.dutyDwellEnd t) s = .next u) ∧
    (∀ x, s.power.duty = .linger x → x ≤ u.now → u.calibrating = false → s.power.sleeping = false → u.enteringSleep = false →
      s.power.supplyOut = none →
      exec (.dutyLingerEnd t) s = .next (beginTransition s.power.sleptIn 4 0 0 { u with power.duty := .none }))

/-- Power (R488, R531, R545, R546, R593-R597): a thermal trip and a lost reference clock make the device safe; the TEC limit and a crystal failure
are told once; a supply outside its range for 10 µs or more stops the device until it is back; power up and down. -/
def Obligations.PowerEvents : Prop :=
  ∀ (t : Ps) (ev : Fin 4) (temp dev cur : Int) (stopped : Bool) (supply : Fin 8) (mv us : Nat) (b : BootIn) (s : State),
    let u := s.adv t
    (s.poweredUp = true → ev = 0 → 12700 < temp → exec (.thermalTrip t ev temp) s =
      .next (fatalSafe { code := 0x0D00, evidence := 0, a0 := argInt temp } false { u with power.tCase := temp })) ∧
    (s.poweredUp = true → ev ≠ 0 → 14000 < temp → exec (.thermalTrip t ev temp) s =
      .next (fatalSafe { code := 0x0D00, evidence := ev.val, a0 := argInt temp } false u)) ∧
    ((ev = 0 → temp ≤ 12700) → (ev ≠ 0 → temp ≤ 14000) → exec (.thermalTrip t ev temp) s = .next u) ∧
    (tecAtLimit dev cur = true ↔ 100 < dev.natAbs ∧ 2500000 ≤ cur.natAbs) ∧
    (tecAtLimit dev cur = true → s.poweredUp = true → s.power.tecLimited = false → s.power.mode ≠ .standby →
      exec (.tecLimit t dev cur) s =
      .next (raise { code := 0x0D01, unit := 0x0187, a0 := argInt dev, a1 := argInt cur }
        { u with power.tecLimited := true, power.thermalCoarse := true })) ∧
    ((s.power.tecLimited = true ∨ tecAtLimit dev cur = false) → exec (.tecLimit t dev cur) s = .next u) ∧
    (s.poweredUp = true → exec (.refclkLost t) s = .next (fatalSafe { code := 0x0D03, a0 := s.power.mode.code } false u)) ∧
    (s.poweredUp = true → s.power.xtalOk = true → exec (.xtalFail t stopped) s =
      .next (raise { code := 0x0E01, evidence := if stopped = true then 1 else 0 } { u with power.xtalOk := false })) ∧
    (s.power.xtalOk = false → exec (.xtalFail t stopped) s = .next u ∧
      exec (.xtalRestored t) s = .next (endBound 0x0E01 { u with power.xtalOk := true })) ∧
    (supplyBad supply.val mv = true ↔ mv < (supplyRange supply.val).1 ∨ (supplyRange supply.val).2 < mv) ∧
    ((supply = 5 ∨ supplyBad supply.val mv = false ∨ us < 10) → exec (.supplyFault t supply mv us) s = .next u) ∧
    (supply ≠ 5 → supplyBad supply.val mv = true → 10 ≤ us → s.power.sleeping = false → s.power.starting = false →
      s.power.supplyOut = none →
      exec (.supplyFault t supply mv us) s = .next (supplyLost supply.val mv us u) ∧ (supplyLost supply.val mv us u).power.trans = none ∧
      (supplyLost supply.val mv us u).power.supplyOut = some (supply.val, mv, us)) ∧
    (∀ n x y, supply ≠ 5 → supplyBad supply.val mv = true → 10 ≤ us → s.power.sleeping = false → s.power.starting = false →
      s.power.supplyOut = some (n, x, y) →
      n ≠ supply.val → exec (.supplyFault t supply mv us) s = .next { u with power.supplyOut := some (n, x, y + us) }) ∧
    (∀ n x y, s.power.supplyOut = some (n, x, y) → ∃ v, exec (.supplyRestored t b) s = .next (tellStart (startRecovery 5 0xFFFF
      [.fault 0x0E00 0xFFFF (by8 n) (BitVec.ofNat 32 x) (BitVec.ofNat 32 (min y (2 ^ 32 - 1))) false] v)) ∧
      v = startDomains b (resetSettings (timeWake u)) ∧ v.power.mode = .standby ∧ v.power.supplyOut = none ∧
      v.mgmt.down = false) ∧
    exec .powerDown s = .next (offState s) ∧
    (s.power.starting = true → exec .startUpAbort s = .next (offState s)) ∧
    ((offState s).power.starting = true ∧ (offState s).power.vddAon = false ∧ (offState s).cmd = State.reset.cmd ∧
      (offState s).pool = State.reset.pool ∧ (offState s).ctxs = State.reset.ctxs ∧ (offState s).link.board = s.link.board ∧
      (offState s).pending = s.pending) ∧
    (s.power.starting = true → ∃ v, exec (.powerUp t b) s = .next (tellStart v) ∧ v.power.mode = .standby ∧
      v.power.starting = false ∧ v.power.sleeping = false ∧ v.power.vddAon = true ∧ v.mgmt.validA = b.imageAValid ∧
      v.mgmt.validB = b.imageBValid ∧ v.link.pcieUp = s.link.perstN)

/-! ### What every command and every fault share -/

/-- The checks that every command has, in their order (R350 steps 5 to 8), and the answer of a request that fails one: its status
and no change. A request whose turn has not come changes nothing; during an entry to sleep a command that is fitted is answered
`WRONG_MODE` (R4, R537). A busy command that may be held is held and answered later, and nothing else changes (R370); one that may
not is answered `BUSY`. -/
def Obligations.HeaderChecks : Prop :=
  ∀ (sp : CmdSpec) (body : Fetched → State → Ans) (r : Req) (s : State),
    let u := begun r s
    let mirror := r.flags.getLsbD flMirror
    let pcie : Prop := ∃ q, r.src = .pcie q
    let urgentOrAuth : Prop := r.flags.getLsbD flUrgent = true ∨ r.flags.getLsbD flAuth = true
    let f := reqOf sp r s
    let reserved : Prop := r.flags.getLsbD 6 = true ∨ r.flags.getLsbD 7 = true ∨ r.rsv ≠ 0 ∨ (mirror = true ∧ sp.mirror = false)
    (((arrived r s).pathDown || (arrived r s).cmd.recovery.isSome || passedOver (reqOf sp r s) (arrived r s)) = true →
      perform sp body r s = arrived r s) ∧
    (((arrived r s).pathDown || (arrived r s).cmd.recovery.isSome || passedOver (reqOf sp r s) (arrived r s)) = false →
      (∀ st, preCheck sp (reqOf sp r s) u = some st →
        perform sp body r s = conclude (reqOf sp r s) { status := st, st := u } false) ∧
      (preCheck sp (reqOf sp r s) u = none → u.enteringSleep = true →
        ((body (reqOf sp r s) u).status ≠ St.notFitted →
          perform sp body r s = conclude (reqOf sp r s) { status := St.wrongMode, st := u } false) ∧
        ((body (reqOf sp r s) u).status = St.notFitted →
          perform sp body r s = conclude (reqOf sp r s) (body (reqOf sp r s) u) false))) ∧
    (u.mgmt.bootRom = true → sp.bootRom = false → preCheck sp (reqOf sp r s) u = some St.wrongMode) ∧
    ((u.mgmt.bootRom = false ∨ sp.bootRom = true) →
      (mirror = true → u.pairFitted = false → preCheck sp (reqOf sp r s) u = some St.notFitted) ∧
      ((mirror = false ∨ u.pairFitted = true) →
        ((reserved ∨ (pcie ∧ urgentOrAuth)) → preCheck sp (reqOf sp r s) u = some St.badParam) ∧
        (¬ reserved → ¬ (pcie ∧ urgentOrAuth) →
          (sp.target.accepts r.target.toNat = false → preCheck sp (reqOf sp r s) u = some St.badTarget) ∧
          (sp.target.accepts r.target.toNat = true →
            (sp.len r.payload = false → preCheck sp (reqOf sp r s) u = some St.badLength) ∧
            (sp.len r.payload = true → preCheck sp (reqOf sp r s) u = none))))) ∧
    (Ready sp r s →
      ((body f u).status = St.busy → f.has flDefer = true → perform sp body r s = { u with
        cmd.fetched := u.cmd.fetched.eraseP f.same,
        cmd.held := u.cmd.held ++ [{ req := f, first := u.now, tried := u.now }] }) ∧
      (((body f u).status ≠ St.busy ∨ f.has flDefer = false) → perform sp body r s = conclude f (body f u) false))

/-- `NOP` accepts any payload, answers `OK` and repeats it with its check; it changes nothing of its own (R378; R361's
resynchronisation is done before it executes). -/
def Obligations.NopRepeats : Prop :=
  ∀ (r : Req) (s : State),
    (∀ p, nopSpec.len p = true) ∧
    (Ready nopSpec r s →
      exec (.nop r) s = .next (conclude (reqOf nopSpec r s)
        { status := St.ok, st := begun r s, payload := r.payload } false) ∧
      (mkReply (reqOf nopSpec r s) St.ok r.payload 0 0).payload = r.payload ++ le4 (crc32c r.payload).toNat)

/-- A reply on PCIe asks for vector 0 when the command has `NOTIFY`, and so does every abort completion of a recovery (R358); while the
vector is masked the request is kept as its pending bit. -/
def Obligations.NotifyRequests : Prop :=
  ∀ (q : Fin 2) (f : Fetched) (r : Reply) (abort : Bool) (s : State), f.src = .pcie q →
    s.cmd.orphans.any (fun o => o.1 = f.src ∧ o.2 = f.seq) = false → (f.has flNotify = true ∨ abort = true) →
    let t := answer f r abort s
    t.link.irqCause.getLsbD 0 = true ∧ (s.link.masked 0 = true → t.link.msixPend.getLsbD 0 = true) ∧
      ∃ o rest, t.outbox = (if s.link.masked 0 = true then [] else [.msix 0]) ++ o :: rest ∧
        (∃ a b c d e, o = .cqEntry q.val a b c d e r) ∧ (rest = s.outbox ∨ rest = .replyWrite q.val f.reply r.payload :: s.outbox)

/-- Start-up that a supply stops is over without trace, and starts again when the supplies are back (R595). -/
def Obligations.StartUpAbort : Prop :=
  ∀ (t : Ps) (b : BootIn) (s : State), s.power.starting = true →
    ∃ v, exec .startUpAbort s = .next v ∧ v.power.starting = true ∧ v.evq = State.reset.evq ∧ v.fault = State.reset.fault ∧
      v.outbox = s.outbox ∧ ∃ w, exec (.powerUp t b) v = .next w ∧ w.power.starting = false ∧ w.power.mode = .standby

/-! ### Reset -/

/-- What the spec gives the registers at reset; the memories of the zone cores are in their canonical form there (the form is the
model's, log 1). -/
def Obligations.ResetValues : Prop :=
  let s := State.reset
  s.pending = [] ∧ s.cmd.epoch = 1 ∧ s.cmd.recoveries = 0 ∧ s.cmd.authRequired = false ∧ s.cmd.key = none ∧
  s.power.mode = .standby ∧ s.power.trans = none ∧ s.power.wake.timerMode = .standby ∧ s.power.wake.wakeNMode = .standby ∧
  s.power.wake.auxMode = .standby ∧ s.power.wake.duty = false ∧ s.power.wake.period = 0 ∧
  (∀ q : Fin 2, let x := getQ q.val s
    x.tail = 0 ∧ x.head = 0 ∧ x.sqBase = 0 ∧ x.cqBase = 0 ∧ x.enable = false ∧ x.sizeLog2 = 4 ∧ x.qerr = false ∧
      x.fetchErr = false ∧ x.sqHead = 0 ∧ x.cqPos = 0 ∧ x.phase = true ∧ qIdle q.val s = true) ∧
  s.evq.items = [] ∧ s.evq.lost = 0 ∧ s.fault.log = [] ∧ s.fault.table = [] ∧ s.fault.latch = false ∧
  s.light.plan.tl = 1250000000 ∧ s.light.plan.nSlots = 1 ∧ s.light.plan.pulse = false ∧ s.light.plan.chirpLen = 200 ∧
  s.light.plan.chirpBw = 160 ∧ s.light.plan.taper = 10 ∧ s.light.plan.pulseLen = 50 ∧ s.light.plan.dirMask = 0xAA ∧
  s.light.plan.power = 100 ∧ s.light.cfg.closed = false ∧ s.light.cfg.pumpEn = 7 ∧ s.light.cfg.rampStep = 5 ∧
  s.light.cfg.knee = 95 ∧ s.light.cfg.aprLevel = 100 ∧ s.light.cfg.aprCeil = 270 ∧ s.light.cfg.reflLimit = -300 ∧
  s.light.cfg.lossDrop = 60 ∧ s.light.running = false ∧
  s.cal.gen = 0 ∧ s.cal.requested = 0 ∧ s.pool.blocks = 13312 ∧ s.pool.recs = [] ∧
  s.time.selected = none ∧ s.time.slewMax = 100 ∧ s.time.stepLimit = 1000 ∧ s.time.auto = true ∧ s.mem.eyeMin = 12 ∧
  (∀ k : Fin 32, (core s k.val).state = .empty) ∧ (∀ k : Fin 256, (ctx s k.val).live = false) ∧
  (∀ k : Fin 258, (stream s k.val).configured = false) ∧ (∀ k : Fin 8, (aux s k.val).enabled = false) ∧
  (∀ k : Fin 7, (vget s.cal.steps k.val).st = 0 ∧ (vget s.cal.steps k.val).result = 0xFF) ∧
  s.memOk = true


/-- The reply of a command (R349): its header echoes the request's, carries the epoch under which the command was received, and
its payload ends with its check. On PCIe the payload goes to `REPLY_ADDR` (whether that write fails is the host's side: a free value,
log 209), the entry is written at the queue's position with its phase and `SQ_HEAD`, and the position moves on round the ring,
changing the phase at its end (R354). -/
def Obligations.Replies : Prop :=
  (∀ (f : Fetched) (status flags_ partner : Nat) (payload : List Byte), status < 256 → flags_ < 256 → partner < 256 →
      let r := mkReply f status payload flags_ partner
      r.opcode = f.opcode ∧ r.status.toNat = status ∧ r.tag = f.tag ∧ r.epoch = f.epoch ∧ r.seq = f.seq ∧
        r.partner.toNat = partner ∧ r.flags.toNat = flags_ ∧
        (payload ≠ [] → r.payload.length = payload.length + 4 ∧ fld r.payload payload.length 4 = (crc32c payload).toNat) ∧
        (payload = [] → f.opcode ≠ 0 → r.payload = [])) ∧
  (∀ (q : Fin 2) (f : Fetched) (r : Reply) (abort : Bool) (s : State),
      s.cmd.orphans.any (fun o => o.1 = f.src ∧ o.2 = f.seq) = false →
      let x := getQ q.val s
      let t := writeCq q.val f r abort s
      let y := getQ q.val t
      let written : Bool := !r.payload.isEmpty && f.reply ≠ 0 && !Config.replyWriteFails s.freeIdx
      let sent := Out.cqEntry q.val x.cqPos x.phase x.sqHead written (!r.payload.isEmpty && !written) r ::
        (if written = true then .replyWrite q.val f.reply r.payload :: s.outbox else s.outbox)
      ((f.has flNotify = true ∨ abort = true) →
        t.outbox = (if s.link.masked 0 = true then sent else .msix 0 :: sent) ∧ t.link.irqCause.getLsbD 0 = true) ∧
      (f.has flNotify = false → abort = false → t.outbox = sent ∧ t.link = s.link) ∧
      (x.cqPos + 1 = x.size → y = { x with cqPos := 0, phase := !x.phase }) ∧
      (x.cqPos + 1 ≠ x.size → y = { x with cqPos := x.cqPos + 1 }) ∧
      getQ (1 - q.val) t = getQ (1 - q.val) s ∧ t.evq = s.evq ∧ t.fault = s.fault ∧ t.light = s.light ∧ t.cores = s.cores)

/-- A fault is logged, counted in the table without wrapping, and queues its item with the count and the log's index; an item
that does not fit is counted as lost and nothing else of the fault is (R385, R480, R483). A fatal fault also sets the latch and
leaves no light and STANDBY as the mode unless the device sleeps (R488, R489). -/
def Obligations.FaultRaised : Prop :=
  (∀ (o : FaultOcc) (c : Nat) (s : State), faultClass o.code = some c →
      let t := raise o s
      let n := faultCount o.code s.fault.table
      (∃ e rest, t.fault.log = e :: rest ∧ e.code = BitVec.ofNat 16 o.code ∧ e.arg = BitVec.ofNat 32 (o.logArg.getD o.a0) ∧
        e.index = s.fault.logNext ∧ e.epoch = s.cmd.epoch ∧ rest = s.fault.log.take 4095) ∧
      t.fault.logNext = s.fault.logNext + 1 ∧
      faultCount o.code t.fault.table = (if n = 2 ^ 32 - 1 then n else n + 1) ∧
      (∀ k, k ≠ o.code → faultCount k t.fault.table = faultCount k s.fault.table) ∧
      t.fault.latch = s.fault.latch ∧ t.power = s.power ∧ t.light = s.light ∧ t.cores = s.cores ∧ t.cmd = s.cmd ∧
      (faultQueued o.code = false → t.evq = s.evq ∧ t.fault.unread = s.fault.unread) ∧
      -- while forwarding runs, what was complete has left the queue (R340)
      let q := s.evq.forwarded s.cycle
      (faultQueued o.code = true → 4 ≤ q.free s.cycle →
        t.fault.unread = true ∧ t.evq.used = q.used + 4 ∧ t.evq.lost = s.evq.lost) ∧
      (faultQueued o.code = true → q.free s.cycle < 4 →
        t.fault.unread = s.fault.unread ∧ t.evq.items = q.items ∧ t.evq.lost = satInc s.evq.lost)) ∧
  (∀ (o : FaultOcc) (perm : Bool) (s : State),
      let t := fatalSafe o perm s
      t.fault.latch = true ∧ (s.fault.permanent = true → t.fault.permanent = true) ∧ (perm = true → t.fault.permanent = true) ∧
      t.fault.fatalCode = some (s.fault.fatalCode.getD o.code) ∧
      (s.power.sleeping = false → t.power.mode = .standby ∧ t.light.running = false) ∧
      (s.power.sleeping = true → t.power = s.power ∧ t.light = s.light))

/-- What answering a command changes beside the command's own effect: the command path's own records, what is sent, the interrupt
cause and the fault log; nothing else of the device (R349, R358, R364). -/
def Obligations.AnswersFrame : Prop :=
  ∀ (f : Fetched) (a : Ans), (∀ u, a.after u = u) →
    let t := conclude f a false
    t = { a.st with cmd := t.cmd, outbox := t.outbox, link := t.link, fault := t.fault, freeIdx := t.freeIdx } ∧
    t.link = { a.st.link with irqCause := t.link.irqCause, msixPend := t.link.msixPend } ∧
    t.cmd.key = a.st.cmd.key ∧ t.cmd.epoch = a.st.cmd.epoch ∧ t.fault.latch = a.st.fault.latch ∧
    t.fault.unread = a.st.fault.unread

/-- What every command comes to, in every state: a next state, so that each of the 238 completes and none stops the model; the queue
as it was; the capability word and the die identity as they were (R1, R199); and every zone-core memory in its canonical form if
all were (R280; the form is the model's). So with every step, which takes the command at the front of the queue (log 3). -/
def Obligations.EveryStep : Prop :=
  (∀ (c : Instr) (s : State), ∃ t, exec c s = .next t ∧ t.pending = s.pending ∧ t.part = s.part ∧
    (s.memOk = true → t.memOk = true)) ∧
  ∀ s : State, ∃ t, step s = .next t ∧ t.pending = s.pending.tail ∧ t.part = s.part ∧ (s.memOk = true → t.memOk = true)
end

