-- ==== Sys2Proof/Laws/State.lean ====
section
/-! SUPPORT. Laws/State.lean: one lemma per field of the state and named update: a field the update does not write is as
before; what it writes, it writes so. -/

namespace Sys2Proof.Machine

open Sys2Proof

@[simp] theorem State.adv_now (t : Ps) (s : State) : (s.adv t).now = max s.now t := rfl
@[simp] theorem State.took_freeIdx (s : State) : s.took.freeIdx = s.freeIdx + 1 := rfl
@[simp] theorem send_outbox (o : Out) (s : State) : (send o s).outbox = o :: s.outbox := rfl
@[simp] theorem reqVector_outbox (v : Nat) (s : State) :
    (reqVector v s).outbox = if s.link.masked v then s.outbox else .msix v :: s.outbox := rfl
@[simp] theorem modCore_cores (c : Nat) (f : Core → Core) (s : State) : (modCore c f s).cores = vmod s.cores c f := rfl
@[simp] theorem modCtx_ctxs (k : Nat) (f : Ctx → Ctx) (s : State) : (modCtx k f s).ctxs = vmod s.ctxs k f := rfl
@[simp] theorem modStream_streams (k : Nat) (f : Stream → Stream) (s : State) :
    (modStream k f s).streams = vmod s.streams k f := rfl

@[simp] theorem State.adv_pending (t : Ps) (s : State) : (s.adv t).pending = s.pending := rfl
@[simp] theorem State.adv_freeIdx (t : Ps) (s : State) : (s.adv t).freeIdx = s.freeIdx := rfl
@[simp] theorem State.adv_outbox (t : Ps) (s : State) : (s.adv t).outbox = s.outbox := rfl
@[simp] theorem State.adv_part (t : Ps) (s : State) : (s.adv t).part = s.part := rfl
@[simp] theorem State.adv_cmd (t : Ps) (s : State) : (s.adv t).cmd = s.cmd := rfl
@[simp] theorem State.adv_evq (t : Ps) (s : State) : (s.adv t).evq = s.evq := rfl
@[simp] theorem State.adv_fault (t : Ps) (s : State) : (s.adv t).fault = s.fault := rfl
@[simp] theorem State.adv_mgmt (t : Ps) (s : State) : (s.adv t).mgmt = s.mgmt := rfl
@[simp] theorem State.adv_pair (t : Ps) (s : State) : (s.adv t).pair = s.pair := rfl
@[simp] theorem State.adv_power (t : Ps) (s : State) : (s.adv t).power = s.power := rfl
@[simp] theorem State.adv_link (t : Ps) (s : State) : (s.adv t).link = s.link := rfl
@[simp] theorem State.adv_fibre (t : Ps) (s : State) : (s.adv t).fibre = s.fibre := rfl
@[simp] theorem State.adv_light (t : Ps) (s : State) : (s.adv t).light = s.light := rfl
@[simp] theorem State.adv_time (t : Ps) (s : State) : (s.adv t).time = s.time := rfl
@[simp] theorem State.adv_indigo (t : Ps) (s : State) : (s.adv t).indigo = s.indigo := rfl
@[simp] theorem State.adv_ochre (t : Ps) (s : State) : (s.adv t).ochre = s.ochre := rfl
@[simp] theorem State.adv_lock (t : Ps) (s : State) : (s.adv t).lock = s.lock := rfl
@[simp] theorem State.adv_cal (t : Ps) (s : State) : (s.adv t).cal = s.cal := rfl
@[simp] theorem State.adv_stages (t : Ps) (s : State) : (s.adv t).stages = s.stages := rfl
@[simp] theorem State.adv_ctxs (t : Ps) (s : State) : (s.adv t).ctxs = s.ctxs := rfl
@[simp] theorem State.adv_alarm (t : Ps) (s : State) : (s.adv t).alarm = s.alarm := rfl
@[simp] theorem State.adv_thresh (t : Ps) (s : State) : (s.adv t).thresh = s.thresh := rfl
@[simp] theorem State.adv_pool (t : Ps) (s : State) : (s.adv t).pool = s.pool := rfl
@[simp] theorem State.adv_cores (t : Ps) (s : State) : (s.adv t).cores = s.cores := rfl
@[simp] theorem State.adv_streams (t : Ps) (s : State) : (s.adv t).streams = s.streams := rfl
@[simp] theorem State.adv_tim (t : Ps) (s : State) : (s.adv t).tim = s.tim := rfl
@[simp] theorem State.adv_aux (t : Ps) (s : State) : (s.adv t).aux = s.aux := rfl
@[simp] theorem State.adv_mem (t : Ps) (s : State) : (s.adv t).mem = s.mem := rfl
@[simp] theorem State.adv_store (t : Ps) (s : State) : (s.adv t).store = s.store := rfl

@[simp] theorem State.took_pending (s : State) : (s.took).pending = s.pending := rfl
@[simp] theorem State.took_now (s : State) : (s.took).now = s.now := rfl
@[simp] theorem State.took_outbox (s : State) : (s.took).outbox = s.outbox := rfl
@[simp] theorem State.took_part (s : State) : (s.took).part = s.part := rfl
@[simp] theorem State.took_cmd (s : State) : (s.took).cmd = s.cmd := rfl
@[simp] theorem State.took_evq (s : State) : (s.took).evq = s.evq := rfl
@[simp] theorem State.took_fault (s : State) : (s.took).fault = s.fault := rfl
@[simp] theorem State.took_mgmt (s : State) : (s.took).mgmt = s.mgmt := rfl
@[simp] theorem State.took_pair (s : State) : (s.took).pair = s.pair := rfl
@[simp] theorem State.took_power (s : State) : (s.took).power = s.power := rfl
@[simp] theorem State.took_link (s : State) : (s.took).link = s.link := rfl
@[simp] theorem State.took_fibre (s : State) : (s.took).fibre = s.fibre := rfl
@[simp] theorem State.took_light (s : State) : (s.took).light = s.light := rfl
@[simp] theorem State.took_time (s : State) : (s.took).time = s.time := rfl
@[simp] theorem State.took_indigo (s : State) : (s.took).indigo = s.indigo := rfl
@[simp] theorem State.took_ochre (s : State) : (s.took).ochre = s.ochre := rfl
@[simp] theorem State.took_lock (s : State) : (s.took).lock = s.lock := rfl
@[simp] theorem State.took_cal (s : State) : (s.took).cal = s.cal := rfl
@[simp] theorem State.took_stages (s : State) : (s.took).stages = s.stages := rfl
@[simp] theorem State.took_ctxs (s : State) : (s.took).ctxs = s.ctxs := rfl
@[simp] theorem State.took_alarm (s : State) : (s.took).alarm = s.alarm := rfl
@[simp] theorem State.took_thresh (s : State) : (s.took).thresh = s.thresh := rfl
@[simp] theorem State.took_pool (s : State) : (s.took).pool = s.pool := rfl
@[simp] theorem State.took_cores (s : State) : (s.took).cores = s.cores := rfl
@[simp] theorem State.took_streams (s : State) : (s.took).streams = s.streams := rfl
@[simp] theorem State.took_tim (s : State) : (s.took).tim = s.tim := rfl
@[simp] theorem State.took_aux (s : State) : (s.took).aux = s.aux := rfl
@[simp] theorem State.took_mem (s : State) : (s.took).mem = s.mem := rfl
@[simp] theorem State.took_store (s : State) : (s.took).store = s.store := rfl

@[simp] theorem send_pending (o : Out) (s : State) : (send o s).pending = s.pending := rfl
@[simp] theorem send_now (o : Out) (s : State) : (send o s).now = s.now := rfl
@[simp] theorem send_freeIdx (o : Out) (s : State) : (send o s).freeIdx = s.freeIdx := rfl
@[simp] theorem send_part (o : Out) (s : State) : (send o s).part = s.part := rfl
@[simp] theorem send_cmd (o : Out) (s : State) : (send o s).cmd = s.cmd := rfl
@[simp] theorem send_evq (o : Out) (s : State) : (send o s).evq = s.evq := rfl
@[simp] theorem send_fault (o : Out) (s : State) : (send o s).fault = s.fault := rfl
@[simp] theorem send_mgmt (o : Out) (s : State) : (send o s).mgmt = s.mgmt := rfl
@[simp] theorem send_pair (o : Out) (s : State) : (send o s).pair = s.pair := rfl
@[simp] theorem send_power (o : Out) (s : State) : (send o s).power = s.power := rfl
@[simp] theorem send_link (o : Out) (s : State) : (send o s).link = s.link := rfl
@[simp] theorem send_fibre (o : Out) (s : State) : (send o s).fibre = s.fibre := rfl
@[simp] theorem send_light (o : Out) (s : State) : (send o s).light = s.light := rfl
@[simp] theorem send_time (o : Out) (s : State) : (send o s).time = s.time := rfl
@[simp] theorem send_indigo (o : Out) (s : State) : (send o s).indigo = s.indigo := rfl
@[simp] theorem send_ochre (o : Out) (s : State) : (send o s).ochre = s.ochre := rfl
@[simp] theorem send_lock (o : Out) (s : State) : (send o s).lock = s.lock := rfl
@[simp] theorem send_cal (o : Out) (s : State) : (send o s).cal = s.cal := rfl
@[simp] theorem send_stages (o : Out) (s : State) : (send o s).stages = s.stages := rfl
@[simp] theorem send_ctxs (o : Out) (s : State) : (send o s).ctxs = s.ctxs := rfl
@[simp] theorem send_alarm (o : Out) (s : State) : (send o s).alarm = s.alarm := rfl
@[simp] theorem send_thresh (o : Out) (s : State) : (send o s).thresh = s.thresh := rfl
@[simp] theorem send_pool (o : Out) (s : State) : (send o s).pool = s.pool := rfl
@[simp] theorem send_cores (o : Out) (s : State) : (send o s).cores = s.cores := rfl
@[simp] theorem send_streams (o : Out) (s : State) : (send o s).streams = s.streams := rfl
@[simp] theorem send_tim (o : Out) (s : State) : (send o s).tim = s.tim := rfl
@[simp] theorem send_aux (o : Out) (s : State) : (send o s).aux = s.aux := rfl
@[simp] theorem send_mem (o : Out) (s : State) : (send o s).mem = s.mem := rfl
@[simp] theorem send_store (o : Out) (s : State) : (send o s).store = s.store := rfl

@[simp] theorem reqVector_pending (v : Nat) (s : State) : (reqVector v s).pending = s.pending := rfl
@[simp] theorem reqVector_now (v : Nat) (s : State) : (reqVector v s).now = s.now := rfl
@[simp] theorem reqVector_freeIdx (v : Nat) (s : State) : (reqVector v s).freeIdx = s.freeIdx := rfl
@[simp] theorem reqVector_part (v : Nat) (s : State) : (reqVector v s).part = s.part := rfl
@[simp] theorem reqVector_cmd (v : Nat) (s : State) : (reqVector v s).cmd = s.cmd := rfl
@[simp] theorem reqVector_evq (v : Nat) (s : State) : (reqVector v s).evq = s.evq := rfl
@[simp] theorem reqVector_fault (v : Nat) (s : State) : (reqVector v s).fault = s.fault := rfl
@[simp] theorem reqVector_mgmt (v : Nat) (s : State) : (reqVector v s).mgmt = s.mgmt := rfl
@[simp] theorem reqVector_pair (v : Nat) (s : State) : (reqVector v s).pair = s.pair := rfl
@[simp] theorem reqVector_power (v : Nat) (s : State) : (reqVector v s).power = s.power := rfl
@[simp] theorem reqVector_fibre (v : Nat) (s : State) : (reqVector v s).fibre = s.fibre := rfl
@[simp] theorem reqVector_light (v : Nat) (s : State) : (reqVector v s).light = s.light := rfl
@[simp] theorem reqVector_time (v : Nat) (s : State) : (reqVector v s).time = s.time := rfl
@[simp] theorem reqVector_indigo (v : Nat) (s : State) : (reqVector v s).indigo = s.indigo := rfl
@[simp] theorem reqVector_ochre (v : Nat) (s : State) : (reqVector v s).ochre = s.ochre := rfl
@[simp] theorem reqVector_lock (v : Nat) (s : State) : (reqVector v s).lock = s.lock := rfl
@[simp] theorem reqVector_cal (v : Nat) (s : State) : (reqVector v s).cal = s.cal := rfl
@[simp] theorem reqVector_stages (v : Nat) (s : State) : (reqVector v s).stages = s.stages := rfl
@[simp] theorem reqVector_ctxs (v : Nat) (s : State) : (reqVector v s).ctxs = s.ctxs := rfl
@[simp] theorem reqVector_alarm (v : Nat) (s : State) : (reqVector v s).alarm = s.alarm := rfl
@[simp] theorem reqVector_thresh (v : Nat) (s : State) : (reqVector v s).thresh = s.thresh := rfl
@[simp] theorem reqVector_pool (v : Nat) (s : State) : (reqVector v s).pool = s.pool := rfl
@[simp] theorem reqVector_cores (v : Nat) (s : State) : (reqVector v s).cores = s.cores := rfl
@[simp] theorem reqVector_streams (v : Nat) (s : State) : (reqVector v s).streams = s.streams := rfl
@[simp] theorem reqVector_tim (v : Nat) (s : State) : (reqVector v s).tim = s.tim := rfl
@[simp] theorem reqVector_aux (v : Nat) (s : State) : (reqVector v s).aux = s.aux := rfl
@[simp] theorem reqVector_mem (v : Nat) (s : State) : (reqVector v s).mem = s.mem := rfl
@[simp] theorem reqVector_store (v : Nat) (s : State) : (reqVector v s).store = s.store := rfl

@[simp] theorem logEntry_pending (code arg : Nat) (s : State) : (logEntry code arg s).pending = s.pending := rfl
@[simp] theorem logEntry_now (code arg : Nat) (s : State) : (logEntry code arg s).now = s.now := rfl
@[simp] theorem logEntry_freeIdx (code arg : Nat) (s : State) : (logEntry code arg s).freeIdx = s.freeIdx := rfl
@[simp] theorem logEntry_outbox (code arg : Nat) (s : State) : (logEntry code arg s).outbox = s.outbox := rfl
@[simp] theorem logEntry_part (code arg : Nat) (s : State) : (logEntry code arg s).part = s.part := rfl
@[simp] theorem logEntry_cmd (code arg : Nat) (s : State) : (logEntry code arg s).cmd = s.cmd := rfl
@[simp] theorem logEntry_evq (code arg : Nat) (s : State) : (logEntry code arg s).evq = s.evq := rfl
@[simp] theorem logEntry_mgmt (code arg : Nat) (s : State) : (logEntry code arg s).mgmt = s.mgmt := rfl
@[simp] theorem logEntry_pair (code arg : Nat) (s : State) : (logEntry code arg s).pair = s.pair := rfl
@[simp] theorem logEntry_power (code arg : Nat) (s : State) : (logEntry code arg s).power = s.power := rfl
@[simp] theorem logEntry_link (code arg : Nat) (s : State) : (logEntry code arg s).link = s.link := rfl
@[simp] theorem logEntry_fibre (code arg : Nat) (s : State) : (logEntry code arg s).fibre = s.fibre := rfl
@[simp] theorem logEntry_light (code arg : Nat) (s : State) : (logEntry code arg s).light = s.light := rfl
@[simp] theorem logEntry_time (code arg : Nat) (s : State) : (logEntry code arg s).time = s.time := rfl
@[simp] theorem logEntry_indigo (code arg : Nat) (s : State) : (logEntry code arg s).indigo = s.indigo := rfl
@[simp] theorem logEntry_ochre (code arg : Nat) (s : State) : (logEntry code arg s).ochre = s.ochre := rfl
@[simp] theorem logEntry_lock (code arg : Nat) (s : State) : (logEntry code arg s).lock = s.lock := rfl
@[simp] theorem logEntry_cal (code arg : Nat) (s : State) : (logEntry code arg s).cal = s.cal := rfl
@[simp] theorem logEntry_stages (code arg : Nat) (s : State) : (logEntry code arg s).stages = s.stages := rfl
@[simp] theorem logEntry_ctxs (code arg : Nat) (s : State) : (logEntry code arg s).ctxs = s.ctxs := rfl
@[simp] theorem logEntry_alarm (code arg : Nat) (s : State) : (logEntry code arg s).alarm = s.alarm := rfl
@[simp] theorem logEntry_thresh (code arg : Nat) (s : State) : (logEntry code arg s).thresh = s.thresh := rfl
@[simp] theorem logEntry_pool (code arg : Nat) (s : State) : (logEntry code arg s).pool = s.pool := rfl
@[simp] theorem logEntry_cores (code arg : Nat) (s : State) : (logEntry code arg s).cores = s.cores := rfl
@[simp] theorem logEntry_streams (code arg : Nat) (s : State) : (logEntry code arg s).streams = s.streams := rfl
@[simp] theorem logEntry_tim (code arg : Nat) (s : State) : (logEntry code arg s).tim = s.tim := rfl
@[simp] theorem logEntry_aux (code arg : Nat) (s : State) : (logEntry code arg s).aux = s.aux := rfl
@[simp] theorem logEntry_mem (code arg : Nat) (s : State) : (logEntry code arg s).mem = s.mem := rfl
@[simp] theorem logEntry_store (code arg : Nat) (s : State) : (logEntry code arg s).store = s.store := rfl

@[simp] theorem endBound_pending (code : Nat) (s : State) : (endBound code s).pending = s.pending := rfl
@[simp] theorem endBound_now (code : Nat) (s : State) : (endBound code s).now = s.now := rfl
@[simp] theorem endBound_freeIdx (code : Nat) (s : State) : (endBound code s).freeIdx = s.freeIdx := rfl
@[simp] theorem endBound_outbox (code : Nat) (s : State) : (endBound code s).outbox = s.outbox := rfl
@[simp] theorem endBound_part (code : Nat) (s : State) : (endBound code s).part = s.part := rfl
@[simp] theorem endBound_cmd (code : Nat) (s : State) : (endBound code s).cmd = s.cmd := rfl
@[simp] theorem endBound_evq (code : Nat) (s : State) : (endBound code s).evq = s.evq := rfl
@[simp] theorem endBound_mgmt (code : Nat) (s : State) : (endBound code s).mgmt = s.mgmt := rfl
@[simp] theorem endBound_pair (code : Nat) (s : State) : (endBound code s).pair = s.pair := rfl
@[simp] theorem endBound_power (code : Nat) (s : State) : (endBound code s).power = s.power := rfl
@[simp] theorem endBound_link (code : Nat) (s : State) : (endBound code s).link = s.link := rfl
@[simp] theorem endBound_fibre (code : Nat) (s : State) : (endBound code s).fibre = s.fibre := rfl
@[simp] theorem endBound_light (code : Nat) (s : State) : (endBound code s).light = s.light := rfl
@[simp] theorem endBound_time (code : Nat) (s : State) : (endBound code s).time = s.time := rfl
@[simp] theorem endBound_indigo (code : Nat) (s : State) : (endBound code s).indigo = s.indigo := rfl
@[simp] theorem endBound_ochre (code : Nat) (s : State) : (endBound code s).ochre = s.ochre := rfl
@[simp] theorem endBound_lock (code : Nat) (s : State) : (endBound code s).lock = s.lock := rfl
@[simp] theorem endBound_cal (code : Nat) (s : State) : (endBound code s).cal = s.cal := rfl
@[simp] theorem endBound_stages (code : Nat) (s : State) : (endBound code s).stages = s.stages := rfl
@[simp] theorem endBound_ctxs (code : Nat) (s : State) : (endBound code s).ctxs = s.ctxs := rfl
@[simp] theorem endBound_alarm (code : Nat) (s : State) : (endBound code s).alarm = s.alarm := rfl
@[simp] theorem endBound_thresh (code : Nat) (s : State) : (endBound code s).thresh = s.thresh := rfl
@[simp] theorem endBound_pool (code : Nat) (s : State) : (endBound code s).pool = s.pool := rfl
@[simp] theorem endBound_cores (code : Nat) (s : State) : (endBound code s).cores = s.cores := rfl
@[simp] theorem endBound_streams (code : Nat) (s : State) : (endBound code s).streams = s.streams := rfl
@[simp] theorem endBound_tim (code : Nat) (s : State) : (endBound code s).tim = s.tim := rfl
@[simp] theorem endBound_aux (code : Nat) (s : State) : (endBound code s).aux = s.aux := rfl
@[simp] theorem endBound_mem (code : Nat) (s : State) : (endBound code s).mem = s.mem := rfl
@[simp] theorem endBound_store (code : Nat) (s : State) : (endBound code s).store = s.store := rfl

@[simp] theorem setQ_pending (q : Nat) (x : PQueue) (s : State) : (setQ q x s).pending = s.pending := by unfold setQ; split <;> rfl
@[simp] theorem setQ_now (q : Nat) (x : PQueue) (s : State) : (setQ q x s).now = s.now := by unfold setQ; split <;> rfl
@[simp] theorem setQ_freeIdx (q : Nat) (x : PQueue) (s : State) : (setQ q x s).freeIdx = s.freeIdx := by unfold setQ; split <;> rfl
@[simp] theorem setQ_outbox (q : Nat) (x : PQueue) (s : State) : (setQ q x s).outbox = s.outbox := by unfold setQ; split <;> rfl
@[simp] theorem setQ_part (q : Nat) (x : PQueue) (s : State) : (setQ q x s).part = s.part := by unfold setQ; split <;> rfl
@[simp] theorem setQ_evq (q : Nat) (x : PQueue) (s : State) : (setQ q x s).evq = s.evq := by unfold setQ; split <;> rfl
@[simp] theorem setQ_fault (q : Nat) (x : PQueue) (s : State) : (setQ q x s).fault = s.fault := by unfold setQ; split <;> rfl
@[simp] theorem setQ_mgmt (q : Nat) (x : PQueue) (s : State) : (setQ q x s).mgmt = s.mgmt := by unfold setQ; split <;> rfl
@[simp] theorem setQ_pair (q : Nat) (x : PQueue) (s : State) : (setQ q x s).pair = s.pair := by unfold setQ; split <;> rfl
@[simp] theorem setQ_power (q : Nat) (x : PQueue) (s : State) : (setQ q x s).power = s.power := by unfold setQ; split <;> rfl
@[simp] theorem setQ_link (q : Nat) (x : PQueue) (s : State) : (setQ q x s).link = s.link := by unfold setQ; split <;> rfl
@[simp] theorem setQ_fibre (q : Nat) (x : PQueue) (s : State) : (setQ q x s).fibre = s.fibre := by unfold setQ; split <;> rfl
@[simp] theorem setQ_light (q : Nat) (x : PQueue) (s : State) : (setQ q x s).light = s.light := by unfold setQ; split <;> rfl
@[simp] theorem setQ_time (q : Nat) (x : PQueue) (s : State) : (setQ q x s).time = s.time := by unfold setQ; split <;> rfl
@[simp] theorem setQ_indigo (q : Nat) (x : PQueue) (s : State) : (setQ q x s).indigo = s.indigo := by unfold setQ; split <;> rfl
@[simp] theorem setQ_ochre (q : Nat) (x : PQueue) (s : State) : (setQ q x s).ochre = s.ochre := by unfold setQ; split <;> rfl
@[simp] theorem setQ_lock (q : Nat) (x : PQueue) (s : State) : (setQ q x s).lock = s.lock := by unfold setQ; split <;> rfl
@[simp] theorem setQ_cal (q : Nat) (x : PQueue) (s : State) : (setQ q x s).cal = s.cal := by unfold setQ; split <;> rfl
@[simp] theorem setQ_stages (q : Nat) (x : PQueue) (s : State) : (setQ q x s).stages = s.stages := by unfold setQ; split <;> rfl
@[simp] theorem setQ_ctxs (q : Nat) (x : PQueue) (s : State) : (setQ q x s).ctxs = s.ctxs := by unfold setQ; split <;> rfl
@[simp] theorem setQ_alarm (q : Nat) (x : PQueue) (s : State) : (setQ q x s).alarm = s.alarm := by unfold setQ; split <;> rfl
@[simp] theorem setQ_thresh (q : Nat) (x : PQueue) (s : State) : (setQ q x s).thresh = s.thresh := by unfold setQ; split <;> rfl
@[simp] theorem setQ_pool (q : Nat) (x : PQueue) (s : State) : (setQ q x s).pool = s.pool := by unfold setQ; split <;> rfl
@[simp] theorem setQ_cores (q : Nat) (x : PQueue) (s : State) : (setQ q x s).cores = s.cores := by unfold setQ; split <;> rfl
@[simp] theorem setQ_streams (q : Nat) (x : PQueue) (s : State) : (setQ q x s).streams = s.streams := by unfold setQ; split <;> rfl
@[simp] theorem setQ_tim (q : Nat) (x : PQueue) (s : State) : (setQ q x s).tim = s.tim := by unfold setQ; split <;> rfl
@[simp] theorem setQ_aux (q : Nat) (x : PQueue) (s : State) : (setQ q x s).aux = s.aux := by unfold setQ; split <;> rfl
@[simp] theorem setQ_mem (q : Nat) (x : PQueue) (s : State) : (setQ q x s).mem = s.mem := by unfold setQ; split <;> rfl
@[simp] theorem setQ_store (q : Nat) (x : PQueue) (s : State) : (setQ q x s).store = s.store := by unfold setQ; split <;> rfl

@[simp] theorem modUdp_pending (id : Nat) (u : Bool) (f : UQueue → UQueue) (s : State) : (modUdp id u f s).pending = s.pending := rfl
@[simp] theorem modUdp_now (id : Nat) (u : Bool) (f : UQueue → UQueue) (s : State) : (modUdp id u f s).now = s.now := rfl
@[simp] theorem modUdp_freeIdx (id : Nat) (u : Bool) (f : UQueue → UQueue) (s : State) : (modUdp id u f s).freeIdx = s.freeIdx := rfl
@[simp] theorem modUdp_outbox (id : Nat) (u : Bool) (f : UQueue → UQueue) (s : State) : (modUdp id u f s).outbox = s.outbox := rfl
@[simp] theorem modUdp_part (id : Nat) (u : Bool) (f : UQueue → UQueue) (s : State) : (modUdp id u f s).part = s.part := rfl
@[simp] theorem modUdp_evq (id : Nat) (u : Bool) (f : UQueue → UQueue) (s : State) : (modUdp id u f s).evq = s.evq := rfl
@[simp] theorem modUdp_fault (id : Nat) (u : Bool) (f : UQueue → UQueue) (s : State) : (modUdp id u f s).fault = s.fault := rfl
@[simp] theorem modUdp_mgmt (id : Nat) (u : Bool) (f : UQueue → UQueue) (s : State) : (modUdp id u f s).mgmt = s.mgmt := rfl
@[simp] theorem modUdp_pair (id : Nat) (u : Bool) (f : UQueue → UQueue) (s : State) : (modUdp id u f s).pair = s.pair := rfl
@[simp] theorem modUdp_power (id : Nat) (u : Bool) (f : UQueue → UQueue) (s : State) : (modUdp id u f s).power = s.power := rfl
@[simp] theorem modUdp_link (id : Nat) (u : Bool) (f : UQueue → UQueue) (s : State) : (modUdp id u f s).link = s.link := rfl
@[simp] theorem modUdp_fibre (id : Nat) (u : Bool) (f : UQueue → UQueue) (s : State) : (modUdp id u f s).fibre = s.fibre := rfl
@[simp] theorem modUdp_light (id : Nat) (u : Bool) (f : UQueue → UQueue) (s : State) : (modUdp id u f s).light = s.light := rfl
@[simp] theorem modUdp_time (id : Nat) (u : Bool) (f : UQueue → UQueue) (s : State) : (modUdp id u f s).time = s.time := rfl
@[simp] theorem modUdp_indigo (id : Nat) (u : Bool) (f : UQueue → UQueue) (s : State) : (modUdp id u f s).indigo = s.indigo := rfl
@[simp] theorem modUdp_ochre (id : Nat) (u : Bool) (f : UQueue → UQueue) (s : State) : (modUdp id u f s).ochre = s.ochre := rfl
@[simp] theorem modUdp_lock (id : Nat) (u : Bool) (f : UQueue → UQueue) (s : State) : (modUdp id u f s).lock = s.lock := rfl
@[simp] theorem modUdp_cal (id : Nat) (u : Bool) (f : UQueue → UQueue) (s : State) : (modUdp id u f s).cal = s.cal := rfl
@[simp] theorem modUdp_stages (id : Nat) (u : Bool) (f : UQueue → UQueue) (s : State) : (modUdp id u f s).stages = s.stages := rfl
@[simp] theorem modUdp_ctxs (id : Nat) (u : Bool) (f : UQueue → UQueue) (s : State) : (modUdp id u f s).ctxs = s.ctxs := rfl
@[simp] theorem modUdp_alarm (id : Nat) (u : Bool) (f : UQueue → UQueue) (s : State) : (modUdp id u f s).alarm = s.alarm := rfl
@[simp] theorem modUdp_thresh (id : Nat) (u : Bool) (f : UQueue → UQueue) (s : State) : (modUdp id u f s).thresh = s.thresh := rfl
@[simp] theorem modUdp_pool (id : Nat) (u : Bool) (f : UQueue → UQueue) (s : State) : (modUdp id u f s).pool = s.pool := rfl
@[simp] theorem modUdp_cores (id : Nat) (u : Bool) (f : UQueue → UQueue) (s : State) : (modUdp id u f s).cores = s.cores := rfl
@[simp] theorem modUdp_streams (id : Nat) (u : Bool) (f : UQueue → UQueue) (s : State) : (modUdp id u f s).streams = s.streams := rfl
@[simp] theorem modUdp_tim (id : Nat) (u : Bool) (f : UQueue → UQueue) (s : State) : (modUdp id u f s).tim = s.tim := rfl
@[simp] theorem modUdp_aux (id : Nat) (u : Bool) (f : UQueue → UQueue) (s : State) : (modUdp id u f s).aux = s.aux := rfl
@[simp] theorem modUdp_mem (id : Nat) (u : Bool) (f : UQueue → UQueue) (s : State) : (modUdp id u f s).mem = s.mem := rfl
@[simp] theorem modUdp_store (id : Nat) (u : Bool) (f : UQueue → UQueue) (s : State) : (modUdp id u f s).store = s.store := rfl

@[simp] theorem dropFetched_pending (g : Fetched) (s : State) : (dropFetched g s).pending = s.pending := rfl
@[simp] theorem dropFetched_now (g : Fetched) (s : State) : (dropFetched g s).now = s.now := rfl
@[simp] theorem dropFetched_freeIdx (g : Fetched) (s : State) : (dropFetched g s).freeIdx = s.freeIdx := rfl
@[simp] theorem dropFetched_outbox (g : Fetched) (s : State) : (dropFetched g s).outbox = s.outbox := rfl
@[simp] theorem dropFetched_part (g : Fetched) (s : State) : (dropFetched g s).part = s.part := rfl
@[simp] theorem dropFetched_evq (g : Fetched) (s : State) : (dropFetched g s).evq = s.evq := rfl
@[simp] theorem dropFetched_fault (g : Fetched) (s : State) : (dropFetched g s).fault = s.fault := rfl
@[simp] theorem dropFetched_mgmt (g : Fetched) (s : State) : (dropFetched g s).mgmt = s.mgmt := rfl
@[simp] theorem dropFetched_pair (g : Fetched) (s : State) : (dropFetched g s).pair = s.pair := rfl
@[simp] theorem dropFetched_power (g : Fetched) (s : State) : (dropFetched g s).power = s.power := rfl
@[simp] theorem dropFetched_link (g : Fetched) (s : State) : (dropFetched g s).link = s.link := rfl
@[simp] theorem dropFetched_fibre (g : Fetched) (s : State) : (dropFetched g s).fibre = s.fibre := rfl
@[simp] theorem dropFetched_light (g : Fetched) (s : State) : (dropFetched g s).light = s.light := rfl
@[simp] theorem dropFetched_time (g : Fetched) (s : State) : (dropFetched g s).time = s.time := rfl
@[simp] theorem dropFetched_indigo (g : Fetched) (s : State) : (dropFetched g s).indigo = s.indigo := rfl
@[simp] theorem dropFetched_ochre (g : Fetched) (s : State) : (dropFetched g s).ochre = s.ochre := rfl
@[simp] theorem dropFetched_lock (g : Fetched) (s : State) : (dropFetched g s).lock = s.lock := rfl
@[simp] theorem dropFetched_cal (g : Fetched) (s : State) : (dropFetched g s).cal = s.cal := rfl
@[simp] theorem dropFetched_stages (g : Fetched) (s : State) : (dropFetched g s).stages = s.stages := rfl
@[simp] theorem dropFetched_ctxs (g : Fetched) (s : State) : (dropFetched g s).ctxs = s.ctxs := rfl
@[simp] theorem dropFetched_alarm (g : Fetched) (s : State) : (dropFetched g s).alarm = s.alarm := rfl
@[simp] theorem dropFetched_thresh (g : Fetched) (s : State) : (dropFetched g s).thresh = s.thresh := rfl
@[simp] theorem dropFetched_pool (g : Fetched) (s : State) : (dropFetched g s).pool = s.pool := rfl
@[simp] theorem dropFetched_cores (g : Fetched) (s : State) : (dropFetched g s).cores = s.cores := rfl
@[simp] theorem dropFetched_streams (g : Fetched) (s : State) : (dropFetched g s).streams = s.streams := rfl
@[simp] theorem dropFetched_tim (g : Fetched) (s : State) : (dropFetched g s).tim = s.tim := rfl
@[simp] theorem dropFetched_aux (g : Fetched) (s : State) : (dropFetched g s).aux = s.aux := rfl
@[simp] theorem dropFetched_mem (g : Fetched) (s : State) : (dropFetched g s).mem = s.mem := rfl
@[simp] theorem dropFetched_store (g : Fetched) (s : State) : (dropFetched g s).store = s.store := rfl

@[simp] theorem holdCmd_pending (g : Fetched) (s : State) : (holdCmd g s).pending = s.pending := rfl
@[simp] theorem holdCmd_now (g : Fetched) (s : State) : (holdCmd g s).now = s.now := rfl
@[simp] theorem holdCmd_freeIdx (g : Fetched) (s : State) : (holdCmd g s).freeIdx = s.freeIdx := rfl
@[simp] theorem holdCmd_outbox (g : Fetched) (s : State) : (holdCmd g s).outbox = s.outbox := rfl
@[simp] theorem holdCmd_part (g : Fetched) (s : State) : (holdCmd g s).part = s.part := rfl
@[simp] theorem holdCmd_evq (g : Fetched) (s : State) : (holdCmd g s).evq = s.evq := rfl
@[simp] theorem holdCmd_fault (g : Fetched) (s : State) : (holdCmd g s).fault = s.fault := rfl
@[simp] theorem holdCmd_mgmt (g : Fetched) (s : State) : (holdCmd g s).mgmt = s.mgmt := rfl
@[simp] theorem holdCmd_pair (g : Fetched) (s : State) : (holdCmd g s).pair = s.pair := rfl
@[simp] theorem holdCmd_power (g : Fetched) (s : State) : (holdCmd g s).power = s.power := rfl
@[simp] theorem holdCmd_link (g : Fetched) (s : State) : (holdCmd g s).link = s.link := rfl
@[simp] theorem holdCmd_fibre (g : Fetched) (s : State) : (holdCmd g s).fibre = s.fibre := rfl
@[simp] theorem holdCmd_light (g : Fetched) (s : State) : (holdCmd g s).light = s.light := rfl
@[simp] theorem holdCmd_time (g : Fetched) (s : State) : (holdCmd g s).time = s.time := rfl
@[simp] theorem holdCmd_indigo (g : Fetched) (s : State) : (holdCmd g s).indigo = s.indigo := rfl
@[simp] theorem holdCmd_ochre (g : Fetched) (s : State) : (holdCmd g s).ochre = s.ochre := rfl
@[simp] theorem holdCmd_lock (g : Fetched) (s : State) : (holdCmd g s).lock = s.lock := rfl
@[simp] theorem holdCmd_cal (g : Fetched) (s : State) : (holdCmd g s).cal = s.cal := rfl
@[simp] theorem holdCmd_stages (g : Fetched) (s : State) : (holdCmd g s).stages = s.stages := rfl
@[simp] theorem holdCmd_ctxs (g : Fetched) (s : State) : (holdCmd g s).ctxs = s.ctxs := rfl
@[simp] theorem holdCmd_alarm (g : Fetched) (s : State) : (holdCmd g s).alarm = s.alarm := rfl
@[simp] theorem holdCmd_thresh (g : Fetched) (s : State) : (holdCmd g s).thresh = s.thresh := rfl
@[simp] theorem holdCmd_pool (g : Fetched) (s : State) : (holdCmd g s).pool = s.pool := rfl
@[simp] theorem holdCmd_cores (g : Fetched) (s : State) : (holdCmd g s).cores = s.cores := rfl
@[simp] theorem holdCmd_streams (g : Fetched) (s : State) : (holdCmd g s).streams = s.streams := rfl
@[simp] theorem holdCmd_tim (g : Fetched) (s : State) : (holdCmd g s).tim = s.tim := rfl
@[simp] theorem holdCmd_aux (g : Fetched) (s : State) : (holdCmd g s).aux = s.aux := rfl
@[simp] theorem holdCmd_mem (g : Fetched) (s : State) : (holdCmd g s).mem = s.mem := rfl
@[simp] theorem holdCmd_store (g : Fetched) (s : State) : (holdCmd g s).store = s.store := rfl

@[simp] theorem setPort_pending (k : Nat) (p : Port) (s : State) : (setPort k p s).pending = s.pending := by unfold setPort; split <;> rfl
@[simp] theorem setPort_now (k : Nat) (p : Port) (s : State) : (setPort k p s).now = s.now := by unfold setPort; split <;> rfl
@[simp] theorem setPort_freeIdx (k : Nat) (p : Port) (s : State) : (setPort k p s).freeIdx = s.freeIdx := by unfold setPort; split <;> rfl
@[simp] theorem setPort_outbox (k : Nat) (p : Port) (s : State) : (setPort k p s).outbox = s.outbox := by unfold setPort; split <;> rfl
@[simp] theorem setPort_part (k : Nat) (p : Port) (s : State) : (setPort k p s).part = s.part := by unfold setPort; split <;> rfl
@[simp] theorem setPort_cmd (k : Nat) (p : Port) (s : State) : (setPort k p s).cmd = s.cmd := by unfold setPort; split <;> rfl
@[simp] theorem setPort_evq (k : Nat) (p : Port) (s : State) : (setPort k p s).evq = s.evq := by unfold setPort; split <;> rfl
@[simp] theorem setPort_fault (k : Nat) (p : Port) (s : State) : (setPort k p s).fault = s.fault := by unfold setPort; split <;> rfl
@[simp] theorem setPort_mgmt (k : Nat) (p : Port) (s : State) : (setPort k p s).mgmt = s.mgmt := by unfold setPort; split <;> rfl
@[simp] theorem setPort_pair (k : Nat) (p : Port) (s : State) : (setPort k p s).pair = s.pair := by unfold setPort; split <;> rfl
@[simp] theorem setPort_power (k : Nat) (p : Port) (s : State) : (setPort k p s).power = s.power := by unfold setPort; split <;> rfl
@[simp] theorem setPort_link (k : Nat) (p : Port) (s : State) : (setPort k p s).link = s.link := by unfold setPort; split <;> rfl
@[simp] theorem setPort_light (k : Nat) (p : Port) (s : State) : (setPort k p s).light = s.light := by unfold setPort; split <;> rfl
@[simp] theorem setPort_time (k : Nat) (p : Port) (s : State) : (setPort k p s).time = s.time := by unfold setPort; split <;> rfl
@[simp] theorem setPort_indigo (k : Nat) (p : Port) (s : State) : (setPort k p s).indigo = s.indigo := by unfold setPort; split <;> rfl
@[simp] theorem setPort_ochre (k : Nat) (p : Port) (s : State) : (setPort k p s).ochre = s.ochre := by unfold setPort; split <;> rfl
@[simp] theorem setPort_lock (k : Nat) (p : Port) (s : State) : (setPort k p s).lock = s.lock := by unfold setPort; split <;> rfl
@[simp] theorem setPort_cal (k : Nat) (p : Port) (s : State) : (setPort k p s).cal = s.cal := by unfold setPort; split <;> rfl
@[simp] theorem setPort_stages (k : Nat) (p : Port) (s : State) : (setPort k p s).stages = s.stages := by unfold setPort; split <;> rfl
@[simp] theorem setPort_ctxs (k : Nat) (p : Port) (s : State) : (setPort k p s).ctxs = s.ctxs := by unfold setPort; split <;> rfl
@[simp] theorem setPort_alarm (k : Nat) (p : Port) (s : State) : (setPort k p s).alarm = s.alarm := by unfold setPort; split <;> rfl
@[simp] theorem setPort_thresh (k : Nat) (p : Port) (s : State) : (setPort k p s).thresh = s.thresh := by unfold setPort; split <;> rfl
@[simp] theorem setPort_pool (k : Nat) (p : Port) (s : State) : (setPort k p s).pool = s.pool := by unfold setPort; split <;> rfl
@[simp] theorem setPort_cores (k : Nat) (p : Port) (s : State) : (setPort k p s).cores = s.cores := by unfold setPort; split <;> rfl
@[simp] theorem setPort_streams (k : Nat) (p : Port) (s : State) : (setPort k p s).streams = s.streams := by unfold setPort; split <;> rfl
@[simp] theorem setPort_tim (k : Nat) (p : Port) (s : State) : (setPort k p s).tim = s.tim := by unfold setPort; split <;> rfl
@[simp] theorem setPort_aux (k : Nat) (p : Port) (s : State) : (setPort k p s).aux = s.aux := by unfold setPort; split <;> rfl
@[simp] theorem setPort_mem (k : Nat) (p : Port) (s : State) : (setPort k p s).mem = s.mem := by unfold setPort; split <;> rfl
@[simp] theorem setPort_store (k : Nat) (p : Port) (s : State) : (setPort k p s).store = s.store := by unfold setPort; split <;> rfl

@[simp] theorem modCore_pending (c : Nat) (f : Core → Core) (s : State) : (modCore c f s).pending = s.pending := rfl
@[simp] theorem modCore_now (c : Nat) (f : Core → Core) (s : State) : (modCore c f s).now = s.now := rfl
@[simp] theorem modCore_freeIdx (c : Nat) (f : Core → Core) (s : State) : (modCore c f s).freeIdx = s.freeIdx := rfl
@[simp] theorem modCore_outbox (c : Nat) (f : Core → Core) (s : State) : (modCore c f s).outbox = s.outbox := rfl
@[simp] theorem modCore_part (c : Nat) (f : Core → Core) (s : State) : (modCore c f s).part = s.part := rfl
@[simp] theorem modCore_cmd (c : Nat) (f : Core → Core) (s : State) : (modCore c f s).cmd = s.cmd := rfl
@[simp] theorem modCore_evq (c : Nat) (f : Core → Core) (s : State) : (modCore c f s).evq = s.evq := rfl
@[simp] theorem modCore_fault (c : Nat) (f : Core → Core) (s : State) : (modCore c f s).fault = s.fault := rfl
@[simp] theorem modCore_mgmt (c : Nat) (f : Core → Core) (s : State) : (modCore c f s).mgmt = s.mgmt := rfl
@[simp] theorem modCore_pair (c : Nat) (f : Core → Core) (s : State) : (modCore c f s).pair = s.pair := rfl
@[simp] theorem modCore_power (c : Nat) (f : Core → Core) (s : State) : (modCore c f s).power = s.power := rfl
@[simp] theorem modCore_link (c : Nat) (f : Core → Core) (s : State) : (modCore c f s).link = s.link := rfl
@[simp] theorem modCore_fibre (c : Nat) (f : Core → Core) (s : State) : (modCore c f s).fibre = s.fibre := rfl
@[simp] theorem modCore_light (c : Nat) (f : Core → Core) (s : State) : (modCore c f s).light = s.light := rfl
@[simp] theorem modCore_time (c : Nat) (f : Core → Core) (s : State) : (modCore c f s).time = s.time := rfl
@[simp] theorem modCore_indigo (c : Nat) (f : Core → Core) (s : State) : (modCore c f s).indigo = s.indigo := rfl
@[simp] theorem modCore_ochre (c : Nat) (f : Core → Core) (s : State) : (modCore c f s).ochre = s.ochre := rfl
@[simp] theorem modCore_lock (c : Nat) (f : Core → Core) (s : State) : (modCore c f s).lock = s.lock := rfl
@[simp] theorem modCore_cal (c : Nat) (f : Core → Core) (s : State) : (modCore c f s).cal = s.cal := rfl
@[simp] theorem modCore_stages (c : Nat) (f : Core → Core) (s : State) : (modCore c f s).stages = s.stages := rfl
@[simp] theorem modCore_ctxs (c : Nat) (f : Core → Core) (s : State) : (modCore c f s).ctxs = s.ctxs := rfl
@[simp] theorem modCore_alarm (c : Nat) (f : Core → Core) (s : State) : (modCore c f s).alarm = s.alarm := rfl
@[simp] theorem modCore_thresh (c : Nat) (f : Core → Core) (s : State) : (modCore c f s).thresh = s.thresh := rfl
@[simp] theorem modCore_pool (c : Nat) (f : Core → Core) (s : State) : (modCore c f s).pool = s.pool := rfl
@[simp] theorem modCore_streams (c : Nat) (f : Core → Core) (s : State) : (modCore c f s).streams = s.streams := rfl
@[simp] theorem modCore_tim (c : Nat) (f : Core → Core) (s : State) : (modCore c f s).tim = s.tim := rfl
@[simp] theorem modCore_aux (c : Nat) (f : Core → Core) (s : State) : (modCore c f s).aux = s.aux := rfl
@[simp] theorem modCore_mem (c : Nat) (f : Core → Core) (s : State) : (modCore c f s).mem = s.mem := rfl
@[simp] theorem modCore_store (c : Nat) (f : Core → Core) (s : State) : (modCore c f s).store = s.store := rfl

@[simp] theorem modCtx_pending (k : Nat) (f : Ctx → Ctx) (s : State) : (modCtx k f s).pending = s.pending := rfl
@[simp] theorem modCtx_now (k : Nat) (f : Ctx → Ctx) (s : State) : (modCtx k f s).now = s.now := rfl
@[simp] theorem modCtx_freeIdx (k : Nat) (f : Ctx → Ctx) (s : State) : (modCtx k f s).freeIdx = s.freeIdx := rfl
@[simp] theorem modCtx_outbox (k : Nat) (f : Ctx → Ctx) (s : State) : (modCtx k f s).outbox = s.outbox := rfl
@[simp] theorem modCtx_part (k : Nat) (f : Ctx → Ctx) (s : State) : (modCtx k f s).part = s.part := rfl
@[simp] theorem modCtx_cmd (k : Nat) (f : Ctx → Ctx) (s : State) : (modCtx k f s).cmd = s.cmd := rfl
@[simp] theorem modCtx_evq (k : Nat) (f : Ctx → Ctx) (s : State) : (modCtx k f s).evq = s.evq := rfl
@[simp] theorem modCtx_fault (k : Nat) (f : Ctx → Ctx) (s : State) : (modCtx k f s).fault = s.fault := rfl
@[simp] theorem modCtx_mgmt (k : Nat) (f : Ctx → Ctx) (s : State) : (modCtx k f s).mgmt = s.mgmt := rfl
@[simp] theorem modCtx_pair (k : Nat) (f : Ctx → Ctx) (s : State) : (modCtx k f s).pair = s.pair := rfl
@[simp] theorem modCtx_power (k : Nat) (f : Ctx → Ctx) (s : State) : (modCtx k f s).power = s.power := rfl
@[simp] theorem modCtx_link (k : Nat) (f : Ctx → Ctx) (s : State) : (modCtx k f s).link = s.link := rfl
@[simp] theorem modCtx_fibre (k : Nat) (f : Ctx → Ctx) (s : State) : (modCtx k f s).fibre = s.fibre := rfl
@[simp] theorem modCtx_light (k : Nat) (f : Ctx → Ctx) (s : State) : (modCtx k f s).light = s.light := rfl
@[simp] theorem modCtx_time (k : Nat) (f : Ctx → Ctx) (s : State) : (modCtx k f s).time = s.time := rfl
@[simp] theorem modCtx_indigo (k : Nat) (f : Ctx → Ctx) (s : State) : (modCtx k f s).indigo = s.indigo := rfl
@[simp] theorem modCtx_ochre (k : Nat) (f : Ctx → Ctx) (s : State) : (modCtx k f s).ochre = s.ochre := rfl
@[simp] theorem modCtx_lock (k : Nat) (f : Ctx → Ctx) (s : State) : (modCtx k f s).lock = s.lock := rfl
@[simp] theorem modCtx_cal (k : Nat) (f : Ctx → Ctx) (s : State) : (modCtx k f s).cal = s.cal := rfl
@[simp] theorem modCtx_stages (k : Nat) (f : Ctx → Ctx) (s : State) : (modCtx k f s).stages = s.stages := rfl
@[simp] theorem modCtx_alarm (k : Nat) (f : Ctx → Ctx) (s : State) : (modCtx k f s).alarm = s.alarm := rfl
@[simp] theorem modCtx_thresh (k : Nat) (f : Ctx → Ctx) (s : State) : (modCtx k f s).thresh = s.thresh := rfl
@[simp] theorem modCtx_pool (k : Nat) (f : Ctx → Ctx) (s : State) : (modCtx k f s).pool = s.pool := rfl
@[simp] theorem modCtx_cores (k : Nat) (f : Ctx → Ctx) (s : State) : (modCtx k f s).cores = s.cores := rfl
@[simp] theorem modCtx_streams (k : Nat) (f : Ctx → Ctx) (s : State) : (modCtx k f s).streams = s.streams := rfl
@[simp] theorem modCtx_tim (k : Nat) (f : Ctx → Ctx) (s : State) : (modCtx k f s).tim = s.tim := rfl
@[simp] theorem modCtx_aux (k : Nat) (f : Ctx → Ctx) (s : State) : (modCtx k f s).aux = s.aux := rfl
@[simp] theorem modCtx_mem (k : Nat) (f : Ctx → Ctx) (s : State) : (modCtx k f s).mem = s.mem := rfl
@[simp] theorem modCtx_store (k : Nat) (f : Ctx → Ctx) (s : State) : (modCtx k f s).store = s.store := rfl

@[simp] theorem modStream_pending (k : Nat) (f : Stream → Stream) (s : State) : (modStream k f s).pending = s.pending := rfl
@[simp] theorem modStream_now (k : Nat) (f : Stream → Stream) (s : State) : (modStream k f s).now = s.now := rfl
@[simp] theorem modStream_freeIdx (k : Nat) (f : Stream → Stream) (s : State) : (modStream k f s).freeIdx = s.freeIdx := rfl
@[simp] theorem modStream_outbox (k : Nat) (f : Stream → Stream) (s : State) : (modStream k f s).outbox = s.outbox := rfl
@[simp] theorem modStream_part (k : Nat) (f : Stream → Stream) (s : State) : (modStream k f s).part = s.part := rfl
@[simp] theorem modStream_cmd (k : Nat) (f : Stream → Stream) (s : State) : (modStream k f s).cmd = s.cmd := rfl
@[simp] theorem modStream_evq (k : Nat) (f : Stream → Stream) (s : State) : (modStream k f s).evq = s.evq := rfl
@[simp] theorem modStream_fault (k : Nat) (f : Stream → Stream) (s : State) : (modStream k f s).fault = s.fault := rfl
@[simp] theorem modStream_mgmt (k : Nat) (f : Stream → Stream) (s : State) : (modStream k f s).mgmt = s.mgmt := rfl
@[simp] theorem modStream_pair (k : Nat) (f : Stream → Stream) (s : State) : (modStream k f s).pair = s.pair := rfl
@[simp] theorem modStream_power (k : Nat) (f : Stream → Stream) (s : State) : (modStream k f s).power = s.power := rfl
@[simp] theorem modStream_link (k : Nat) (f : Stream → Stream) (s : State) : (modStream k f s).link = s.link := rfl
@[simp] theorem modStream_fibre (k : Nat) (f : Stream → Stream) (s : State) : (modStream k f s).fibre = s.fibre := rfl
@[simp] theorem modStream_light (k : Nat) (f : Stream → Stream) (s : State) : (modStream k f s).light = s.light := rfl
@[simp] theorem modStream_time (k : Nat) (f : Stream → Stream) (s : State) : (modStream k f s).time = s.time := rfl
@[simp] theorem modStream_indigo (k : Nat) (f : Stream → Stream) (s : State) : (modStream k f s).indigo = s.indigo := rfl
@[simp] theorem modStream_ochre (k : Nat) (f : Stream → Stream) (s : State) : (modStream k f s).ochre = s.ochre := rfl
@[simp] theorem modStream_lock (k : Nat) (f : Stream → Stream) (s : State) : (modStream k f s).lock = s.lock := rfl
@[simp] theorem modStream_cal (k : Nat) (f : Stream → Stream) (s : State) : (modStream k f s).cal = s.cal := rfl
@[simp] theorem modStream_stages (k : Nat) (f : Stream → Stream) (s : State) : (modStream k f s).stages = s.stages := rfl
@[simp] theorem modStream_ctxs (k : Nat) (f : Stream → Stream) (s : State) : (modStream k f s).ctxs = s.ctxs := rfl
@[simp] theorem modStream_alarm (k : Nat) (f : Stream → Stream) (s : State) : (modStream k f s).alarm = s.alarm := rfl
@[simp] theorem modStream_thresh (k : Nat) (f : Stream → Stream) (s : State) : (modStream k f s).thresh = s.thresh := rfl
@[simp] theorem modStream_pool (k : Nat) (f : Stream → Stream) (s : State) : (modStream k f s).pool = s.pool := rfl
@[simp] theorem modStream_cores (k : Nat) (f : Stream → Stream) (s : State) : (modStream k f s).cores = s.cores := rfl
@[simp] theorem modStream_tim (k : Nat) (f : Stream → Stream) (s : State) : (modStream k f s).tim = s.tim := rfl
@[simp] theorem modStream_aux (k : Nat) (f : Stream → Stream) (s : State) : (modStream k f s).aux = s.aux := rfl
@[simp] theorem modStream_mem (k : Nat) (f : Stream → Stream) (s : State) : (modStream k f s).mem = s.mem := rfl
@[simp] theorem modStream_store (k : Nat) (f : Stream → Stream) (s : State) : (modStream k f s).store = s.store := rfl

@[simp] theorem modMem_pending (c : Nat) (f : MemCh → MemCh) (s : State) : (modMem c f s).pending = s.pending := rfl
@[simp] theorem modMem_now (c : Nat) (f : MemCh → MemCh) (s : State) : (modMem c f s).now = s.now := rfl
@[simp] theorem modMem_freeIdx (c : Nat) (f : MemCh → MemCh) (s : State) : (modMem c f s).freeIdx = s.freeIdx := rfl
@[simp] theorem modMem_outbox (c : Nat) (f : MemCh → MemCh) (s : State) : (modMem c f s).outbox = s.outbox := rfl
@[simp] theorem modMem_part (c : Nat) (f : MemCh → MemCh) (s : State) : (modMem c f s).part = s.part := rfl
@[simp] theorem modMem_cmd (c : Nat) (f : MemCh → MemCh) (s : State) : (modMem c f s).cmd = s.cmd := rfl
@[simp] theorem modMem_evq (c : Nat) (f : MemCh → MemCh) (s : State) : (modMem c f s).evq = s.evq := rfl
@[simp] theorem modMem_fault (c : Nat) (f : MemCh → MemCh) (s : State) : (modMem c f s).fault = s.fault := rfl
@[simp] theorem modMem_mgmt (c : Nat) (f : MemCh → MemCh) (s : State) : (modMem c f s).mgmt = s.mgmt := rfl
@[simp] theorem modMem_pair (c : Nat) (f : MemCh → MemCh) (s : State) : (modMem c f s).pair = s.pair := rfl
@[simp] theorem modMem_power (c : Nat) (f : MemCh → MemCh) (s : State) : (modMem c f s).power = s.power := rfl
@[simp] theorem modMem_link (c : Nat) (f : MemCh → MemCh) (s : State) : (modMem c f s).link = s.link := rfl
@[simp] theorem modMem_fibre (c : Nat) (f : MemCh → MemCh) (s : State) : (modMem c f s).fibre = s.fibre := rfl
@[simp] theorem modMem_light (c : Nat) (f : MemCh → MemCh) (s : State) : (modMem c f s).light = s.light := rfl
@[simp] theorem modMem_time (c : Nat) (f : MemCh → MemCh) (s : State) : (modMem c f s).time = s.time := rfl
@[simp] theorem modMem_indigo (c : Nat) (f : MemCh → MemCh) (s : State) : (modMem c f s).indigo = s.indigo := rfl
@[simp] theorem modMem_ochre (c : Nat) (f : MemCh → MemCh) (s : State) : (modMem c f s).ochre = s.ochre := rfl
@[simp] theorem modMem_lock (c : Nat) (f : MemCh → MemCh) (s : State) : (modMem c f s).lock = s.lock := rfl
@[simp] theorem modMem_cal (c : Nat) (f : MemCh → MemCh) (s : State) : (modMem c f s).cal = s.cal := rfl
@[simp] theorem modMem_stages (c : Nat) (f : MemCh → MemCh) (s : State) : (modMem c f s).stages = s.stages := rfl
@[simp] theorem modMem_ctxs (c : Nat) (f : MemCh → MemCh) (s : State) : (modMem c f s).ctxs = s.ctxs := rfl
@[simp] theorem modMem_alarm (c : Nat) (f : MemCh → MemCh) (s : State) : (modMem c f s).alarm = s.alarm := rfl
@[simp] theorem modMem_thresh (c : Nat) (f : MemCh → MemCh) (s : State) : (modMem c f s).thresh = s.thresh := rfl
@[simp] theorem modMem_pool (c : Nat) (f : MemCh → MemCh) (s : State) : (modMem c f s).pool = s.pool := rfl
@[simp] theorem modMem_cores (c : Nat) (f : MemCh → MemCh) (s : State) : (modMem c f s).cores = s.cores := rfl
@[simp] theorem modMem_streams (c : Nat) (f : MemCh → MemCh) (s : State) : (modMem c f s).streams = s.streams := rfl
@[simp] theorem modMem_tim (c : Nat) (f : MemCh → MemCh) (s : State) : (modMem c f s).tim = s.tim := rfl
@[simp] theorem modMem_aux (c : Nat) (f : MemCh → MemCh) (s : State) : (modMem c f s).aux = s.aux := rfl
@[simp] theorem modMem_store (c : Nat) (f : MemCh → MemCh) (s : State) : (modMem c f s).store = s.store := rfl

@[simp] theorem modAux_pending (n : Nat) (f : AuxCh → AuxCh) (s : State) : (modAux n f s).pending = s.pending := rfl
@[simp] theorem modAux_now (n : Nat) (f : AuxCh → AuxCh) (s : State) : (modAux n f s).now = s.now := rfl
@[simp] theorem modAux_freeIdx (n : Nat) (f : AuxCh → AuxCh) (s : State) : (modAux n f s).freeIdx = s.freeIdx := rfl
@[simp] theorem modAux_outbox (n : Nat) (f : AuxCh → AuxCh) (s : State) : (modAux n f s).outbox = s.outbox := rfl
@[simp] theorem modAux_part (n : Nat) (f : AuxCh → AuxCh) (s : State) : (modAux n f s).part = s.part := rfl
@[simp] theorem modAux_cmd (n : Nat) (f : AuxCh → AuxCh) (s : State) : (modAux n f s).cmd = s.cmd := rfl
@[simp] theorem modAux_evq (n : Nat) (f : AuxCh → AuxCh) (s : State) : (modAux n f s).evq = s.evq := rfl
@[simp] theorem modAux_fault (n : Nat) (f : AuxCh → AuxCh) (s : State) : (modAux n f s).fault = s.fault := rfl
@[simp] theorem modAux_mgmt (n : Nat) (f : AuxCh → AuxCh) (s : State) : (modAux n f s).mgmt = s.mgmt := rfl
@[simp] theorem modAux_pair (n : Nat) (f : AuxCh → AuxCh) (s : State) : (modAux n f s).pair = s.pair := rfl
@[simp] theorem modAux_power (n : Nat) (f : AuxCh → AuxCh) (s : State) : (modAux n f s).power = s.power := rfl
@[simp] theorem modAux_link (n : Nat) (f : AuxCh → AuxCh) (s : State) : (modAux n f s).link = s.link := rfl
@[simp] theorem modAux_fibre (n : Nat) (f : AuxCh → AuxCh) (s : State) : (modAux n f s).fibre = s.fibre := rfl
@[simp] theorem modAux_light (n : Nat) (f : AuxCh → AuxCh) (s : State) : (modAux n f s).light = s.light := rfl
@[simp] theorem modAux_time (n : Nat) (f : AuxCh → AuxCh) (s : State) : (modAux n f s).time = s.time := rfl
@[simp] theorem modAux_indigo (n : Nat) (f : AuxCh → AuxCh) (s : State) : (modAux n f s).indigo = s.indigo := rfl
@[simp] theorem modAux_ochre (n : Nat) (f : AuxCh → AuxCh) (s : State) : (modAux n f s).ochre = s.ochre := rfl
@[simp] theorem modAux_lock (n : Nat) (f : AuxCh → AuxCh) (s : State) : (modAux n f s).lock = s.lock := rfl
@[simp] theorem modAux_cal (n : Nat) (f : AuxCh → AuxCh) (s : State) : (modAux n f s).cal = s.cal := rfl
@[simp] theorem modAux_stages (n : Nat) (f : AuxCh → AuxCh) (s : State) : (modAux n f s).stages = s.stages := rfl
@[simp] theorem modAux_ctxs (n : Nat) (f : AuxCh → AuxCh) (s : State) : (modAux n f s).ctxs = s.ctxs := rfl
@[simp] theorem modAux_alarm (n : Nat) (f : AuxCh → AuxCh) (s : State) : (modAux n f s).alarm = s.alarm := rfl
@[simp] theorem modAux_thresh (n : Nat) (f : AuxCh → AuxCh) (s : State) : (modAux n f s).thresh = s.thresh := rfl
@[simp] theorem modAux_pool (n : Nat) (f : AuxCh → AuxCh) (s : State) : (modAux n f s).pool = s.pool := rfl
@[simp] theorem modAux_cores (n : Nat) (f : AuxCh → AuxCh) (s : State) : (modAux n f s).cores = s.cores := rfl
@[simp] theorem modAux_streams (n : Nat) (f : AuxCh → AuxCh) (s : State) : (modAux n f s).streams = s.streams := rfl
@[simp] theorem modAux_tim (n : Nat) (f : AuxCh → AuxCh) (s : State) : (modAux n f s).tim = s.tim := rfl
@[simp] theorem modAux_mem (n : Nat) (f : AuxCh → AuxCh) (s : State) : (modAux n f s).mem = s.mem := rfl
@[simp] theorem modAux_store (n : Nat) (f : AuxCh → AuxCh) (s : State) : (modAux n f s).store = s.store := rfl

@[simp] theorem modRec_pending (h : Nat) (f : Record → Record) (s : State) : (modRec h f s).pending = s.pending := rfl
@[simp] theorem modRec_now (h : Nat) (f : Record → Record) (s : State) : (modRec h f s).now = s.now := rfl
@[simp] theorem modRec_freeIdx (h : Nat) (f : Record → Record) (s : State) : (modRec h f s).freeIdx = s.freeIdx := rfl
@[simp] theorem modRec_outbox (h : Nat) (f : Record → Record) (s : State) : (modRec h f s).outbox = s.outbox := rfl
@[simp] theorem modRec_part (h : Nat) (f : Record → Record) (s : State) : (modRec h f s).part = s.part := rfl
@[simp] theorem modRec_cmd (h : Nat) (f : Record → Record) (s : State) : (modRec h f s).cmd = s.cmd := rfl
@[simp] theorem modRec_evq (h : Nat) (f : Record → Record) (s : State) : (modRec h f s).evq = s.evq := rfl
@[simp] theorem modRec_fault (h : Nat) (f : Record → Record) (s : State) : (modRec h f s).fault = s.fault := rfl
@[simp] theorem modRec_mgmt (h : Nat) (f : Record → Record) (s : State) : (modRec h f s).mgmt = s.mgmt := rfl
@[simp] theorem modRec_pair (h : Nat) (f : Record → Record) (s : State) : (modRec h f s).pair = s.pair := rfl
@[simp] theorem modRec_power (h : Nat) (f : Record → Record) (s : State) : (modRec h f s).power = s.power := rfl
@[simp] theorem modRec_link (h : Nat) (f : Record → Record) (s : State) : (modRec h f s).link = s.link := rfl
@[simp] theorem modRec_fibre (h : Nat) (f : Record → Record) (s : State) : (modRec h f s).fibre = s.fibre := rfl
@[simp] theorem modRec_light (h : Nat) (f : Record → Record) (s : State) : (modRec h f s).light = s.light := rfl
@[simp] theorem modRec_time (h : Nat) (f : Record → Record) (s : State) : (modRec h f s).time = s.time := rfl
@[simp] theorem modRec_indigo (h : Nat) (f : Record → Record) (s : State) : (modRec h f s).indigo = s.indigo := rfl
@[simp] theorem modRec_ochre (h : Nat) (f : Record → Record) (s : State) : (modRec h f s).ochre = s.ochre := rfl
@[simp] theorem modRec_lock (h : Nat) (f : Record → Record) (s : State) : (modRec h f s).lock = s.lock := rfl
@[simp] theorem modRec_cal (h : Nat) (f : Record → Record) (s : State) : (modRec h f s).cal = s.cal := rfl
@[simp] theorem modRec_stages (h : Nat) (f : Record → Record) (s : State) : (modRec h f s).stages = s.stages := rfl
@[simp] theorem modRec_ctxs (h : Nat) (f : Record → Record) (s : State) : (modRec h f s).ctxs = s.ctxs := rfl
@[simp] theorem modRec_alarm (h : Nat) (f : Record → Record) (s : State) : (modRec h f s).alarm = s.alarm := rfl
@[simp] theorem modRec_thresh (h : Nat) (f : Record → Record) (s : State) : (modRec h f s).thresh = s.thresh := rfl
@[simp] theorem modRec_cores (h : Nat) (f : Record → Record) (s : State) : (modRec h f s).cores = s.cores := rfl
@[simp] theorem modRec_streams (h : Nat) (f : Record → Record) (s : State) : (modRec h f s).streams = s.streams := rfl
@[simp] theorem modRec_tim (h : Nat) (f : Record → Record) (s : State) : (modRec h f s).tim = s.tim := rfl
@[simp] theorem modRec_aux (h : Nat) (f : Record → Record) (s : State) : (modRec h f s).aux = s.aux := rfl
@[simp] theorem modRec_mem (h : Nat) (f : Record → Record) (s : State) : (modRec h f s).mem = s.mem := rfl
@[simp] theorem modRec_store (h : Nat) (f : Record → Record) (s : State) : (modRec h f s).store = s.store := rfl

end Sys2Proof.Machine
end

