-- ==== Sys2Proof/Laws/Command.lean ====
section
/-! SUPPORT. Laws/Command.lean: what the shared operation behind every command row does. -/

namespace Sys2Proof.Machine

open Sys2Proof

/-- A request is executed as one of its own source. -/
theorem toFetched_src (sp : CmdSpec) (r : Req) (s : State) : (toFetched sp r s).src = r.src := rfl

/-- A request whose turn has come is answered with what its own row says, unless it is busy and may be held. -/
theorem perform_ready {sp : CmdSpec} {body : Fetched → State → Ans} {r : Req} {s : State} (h : Ready sp r s)
    (hb : NotHeld sp r s (body (reqOf sp r s) (begun r s))) :
    Host.Outcome.next (perform sp body r s)
      = (.next (conclude (reqOf sp r s) (body (reqOf sp r s) (begun r s)) false) : Res) := by
  obtain ⟨h1, h2, h3⟩ := h
  unfold perform
  simp only [reqOf, begun, arrived, NotHeld] at *
  rw [if_neg (by simp only [h1]; decide), attempt, toFetched_src, h2]
  simp only [h3, hb]
  rfl

/-- A request that may be held and is busy is held: it leaves the fetched list and changes nothing else. -/
theorem perform_held {sp : CmdSpec} {body : Fetched → State → Ans} {r : Req} {s : State} (h : Ready sp r s)
    (hb : ¬ NotHeld sp r s (body (reqOf sp r s) (begun r s))) :
    perform sp body r s = holdCmd (reqOf sp r s) (begun r s) := by
  obtain ⟨h1, h2, h3⟩ := h
  unfold perform
  simp only [reqOf, begun, arrived, NotHeld, Bool.not_eq_false] at *
  rw [if_neg (by simp only [h1]; decide), attempt, toFetched_src, h2]
  simp only [h3, hb, Bool.false_and, Bool.false_eq_true, if_false, if_true]

/-- A request that fails a check of R350 steps 5 to 8 is answered with its status and changes nothing else. -/
theorem perform_refused {sp : CmdSpec} {body : Fetched → State → Ans} {r : Req} {s : State} {st : Nat}
    (h1 : ((arrived r s).pathDown || (arrived r s).cmd.recovery.isSome || passedOver (reqOf sp r s) (arrived r s)) = false)
    (h2 : preCheck sp (reqOf sp r s) (begun r s) = some st) :
    perform sp body r s = conclude (reqOf sp r s) (reject st (begun r s)) false := by
  unfold perform
  simp only [reqOf, begun, arrived] at *
  rw [if_neg (by simp only [h1]; decide), attempt, toFetched_src, h2]

/-- During an entry to sleep a command that R4 does not refuse is answered `WRONG_MODE` and changes nothing else. -/
theorem perform_sleepEntry {sp : CmdSpec} {body : Fetched → State → Ans} {r : Req} {s : State}
    (h1 : ((arrived r s).pathDown || (arrived r s).cmd.recovery.isSome || passedOver (reqOf sp r s) (arrived r s)) = false)
    (h2 : preCheck sp (reqOf sp r s) (begun r s) = none) (h3 : (begun r s).enteringSleep = true)
    (h4 : (body (reqOf sp r s) (begun r s)).status ≠ St.notFitted) :
    perform sp body r s = conclude (reqOf sp r s) (reject St.wrongMode (begun r s)) false := by
  unfold perform
  simp only [reqOf, begun, arrived] at *
  rw [if_neg (by simp only [h1]; decide), attempt, toFetched_src, h2]
  simp only [h3, Bool.true_and, decide_eq_true h4, if_true]

/-- An answer that is not `BUSY` is never held. -/
theorem notHeld_of_status {sp : CmdSpec} {r : Req} {s : State} {a : Ans} (h : a.status ≠ St.busy) : NotHeld sp r s a := by
  simp [NotHeld, h]

/-- A command row whose own part comes to an answer that is not `BUSY` answers so. -/
theorem answers_of {sp : CmdSpec} {body : Fetched → State → Ans} {r : Req} {s : State} {a : Ans} (h : Ready sp r s)
    (e : body (reqOf sp r s) (begun r s) = a) (hs : a.status ≠ St.busy) :
    Answers sp r s (.next (perform sp body r s)) a := by
  unfold Answers
  rw [perform_ready h (by rw [e]; exact notHeld_of_status hs), e]

/-- A command whose own checks all pass comes to its effect. -/
theorem checked_ok {cs : List (Bool × Nat)} {s : State} {k : Unit → Ans} (h : cs.all (fun c => !c.1) = true) :
    checked cs s k = k () := by
  have e : firstFail cs = none := by
    induction cs with
    | nil => rfl
    | cons a t ih =>
      obtain ⟨c, st⟩ := a
      simp only [List.all_cons, Bool.and_eq_true, Bool.not_eq_true'] at h
      simp only [firstFail, h.1, Bool.false_eq_true, if_false]
      exact ih h.2
  simp only [checked, e]

/-- A launch command whose checks pass schedules its change. -/
theorem launchCmd_ok {f : Fetched} {keeps ranges degraded : Bool} {early : List (Bool × Nat)} {rules : State → State → Bool}
    {s : State} {change : State → State} (hk : keeps = false) (he : early.all (fun c => !c.1) = true)
    (hc : s.calibrating = false) (hr : ranges = true)
    (ha : applyPlan { due := 0, opcode := f.opcode, target := f.target, payload := f.payload, src := f.src, seq := f.seq }
      = change)
    (hu : rules (projected s) (change (projected s)) = true) :
    launchCmd f keeps early ranges rules degraded s =
      (let r := schedule f f.payload (altersTiming s.planMode (projected s) (change (projected s))) false
        (periodOf (change (projected s)) s.planMode) ((change (projected s)).light.port ≠ (projected s).light.port) s
       { status := if degraded then St.degraded else St.ok, payload := launchState (some r.2) r.1,
         names := r.2.named, due := r.2.dueOf, st := r.1 }) := by
  subst hk hr
  unfold launchCmd
  simp only [Bool.false_eq_true, if_false, ha]
  rw [checked_ok]
  simp only [List.all_append, he, hc, hu, List.all_cons, List.all_nil]
  rfl

end Sys2Proof.Machine
end

