-- ==== Sys2Proof/Laws/Memory.lean ====
section
/-! SUPPORT. Laws/Memory.lean: the memories of a zone core: every operation keeps the canonical form, a read after a write to
the same address gives what was written, and a write leaves every other address alone. -/

namespace Sys2Proof.Machine

open Sys2Proof

/-- Everything listed lies above `lo`. -/
theorem wfFrom_weaken {m : Memory} {lo hi : Option Nat} (h : Memory.wfFrom hi m = true)
    (le : ∀ l, lo = some l → ∃ k, hi = some k ∧ l ≤ k) : Memory.wfFrom lo m = true := by
  cases m with
  | nil => rfl
  | cons c rest =>
    simp only [Memory.wfFrom, Bool.and_eq_true] at h ⊢
    refine ⟨⟨?_, h.1.2⟩, h.2⟩
    cases hl : lo with
    | none => rfl
    | some l =>
      obtain ⟨k, hk, lk⟩ := le l hl
      rw [hk] at h
      simp only [decide_eq_true_eq] at h ⊢
      omega

theorem wfFrom_to_none {m : Memory} {lo : Option Nat} (h : Memory.wfFrom lo m = true) : Memory.wfFrom none m = true :=
  wfFrom_weaken h (by intro l hl; cases hl)

theorem low_ok (lo : Option Nat) (a : Nat) :
    (∀ l, lo = some l → l < a) → (match (generalizing := false) lo with | some l => decide (l < a) | none => true) = true := by
  intro h
  cases lo with
  | none => rfl
  | some l => simpa using h l rfl

theorem write_wfFrom (m : Memory) (a : Nat) (b : Byte) (lo : Option Nat) (h : Memory.wfFrom lo m = true)
    (hlo : ∀ l, lo = some l → l < a) : Memory.wfFrom lo (Memory.write m a b) = true := by
  induction m generalizing lo with
  | nil =>
    unfold Memory.write
    split
    · rfl
    · rename_i hb
      simp only [Memory.wfFrom, Bool.and_eq_true]
      exact ⟨⟨low_ok _ _ hlo, by simpa using hb⟩, by trivial⟩
  | cons c rest ih =>
    simp only [Memory.wfFrom, Bool.and_eq_true] at h
    unfold Memory.write
    split
    · rename_i hlt
      simp only [Memory.wfFrom, Bool.and_eq_true]
      exact ⟨h.1, ih _ h.2 (by intro l hl; cases hl; exact hlt)⟩
    · rename_i hge
      split
      · rename_i heq
        split
        · exact wfFrom_weaken h.2 (by intro l hl; exact ⟨c.1, rfl, by have := hlo l hl; omega⟩)
        · rename_i hb
          simp only [Memory.wfFrom, Bool.and_eq_true]
          refine ⟨⟨low_ok _ _ hlo, by simpa using hb⟩, ?_⟩
          rw [← heq]; exact h.2
      · rename_i hne
        split
        · simp only [Memory.wfFrom, Bool.and_eq_true]; exact h
        · rename_i hb
          simp only [Memory.wfFrom, Bool.and_eq_true]
          refine ⟨⟨low_ok _ _ hlo, by simpa using hb⟩, ⟨?_, h.1.2⟩, h.2⟩
          simp only [decide_eq_true_eq]; omega

/-- A byte written keeps the canonical form. -/
theorem write_wf {m : Memory} (a : Nat) (b : Byte) (h : Memory.wf m = true) : Memory.wf (Memory.write m a b) = true :=
  write_wfFrom m a b none h (by intro l hl; cases hl)

theorem writes_wf {m : Memory} (a : Nat) (bs : List Byte) (h : Memory.wf m = true) :
    Memory.wf (Memory.writes m a bs) = true := by
  induction bs generalizing m a with
  | nil => exact h
  | cons b bs ih => exact ih _ (write_wf a b h)

theorem clear_wf {m : Memory} (a n : Nat) (h : Memory.wf m = true) : Memory.wf (Memory.clear m a n) = true :=
  writes_wf a _ h

theorem setHalf_wf {m : Memory} (k : Nat) (v : U16) (h : Memory.wf m = true) : Memory.wf (Memory.setHalf m k v) = true :=
  write_wf _ _ (write_wf _ _ h)

theorem ofBytes_wfFrom (bs : List Byte) (a : Nat) (lo : Option Nat) (hlo : ∀ l, lo = some l → l < a) :
    Memory.wfFrom lo (Memory.ofBytes a bs) = true := by
  induction bs generalizing a lo with
  | nil => rfl
  | cons b bs ih =>
    unfold Memory.ofBytes
    split
    · exact ih _ _ (by intro l hl; have := hlo l hl; omega)
    · rename_i hb
      simp only [Memory.wfFrom, Bool.and_eq_true]
      exact ⟨⟨low_ok _ _ hlo, by simpa using hb⟩, ih _ _ (by intro l hl; cases hl; omega)⟩

theorem ofBytes_wf (a : Nat) (bs : List Byte) : Memory.wf (Memory.ofBytes a bs) = true :=
  ofBytes_wfFrom bs a none (by intro l hl; cases hl)

/-- Nothing listed at or below the bound is read. -/
theorem read_below {m : Memory} {l a : Nat} (h : Memory.wfFrom (some l) m = true) (ha : a ≤ l) : Memory.read m a = 0 := by
  induction m generalizing l with
  | nil => rfl
  | cons c rest ih =>
    simp only [Memory.wfFrom, Bool.and_eq_true, decide_eq_true_eq] at h
    have hne : c.1 ≠ a := by omega
    simp only [Memory.read, if_neg hne]
    exact ih h.2 (by omega)

theorem read_write_wfFrom (m : Memory) (a : Nat) (b : Byte) (lo : Option Nat) (h : Memory.wfFrom lo m = true) :
    Memory.read (Memory.write m a b) a = b := by
  induction m generalizing lo with
  | nil => unfold Memory.write; split <;> simp_all [Memory.read]
  | cons c rest ih =>
    simp only [Memory.wfFrom, Bool.and_eq_true] at h
    unfold Memory.write
    split
    · rename_i hlt
      have hne : c.1 ≠ a := by omega
      simp only [Memory.read, if_neg hne]
      exact ih _ h.2
    · split
      · rename_i heq
        split
        · rename_i hb
          rw [hb]; exact read_below h.2 (by omega)
        · simp [Memory.read]
      · rename_i hge hne
        split
        · rename_i hb
          rw [hb]
          have h1 : c.1 ≠ a := hne
          simp only [Memory.read, if_neg h1]
          exact read_below h.2 (by omega)
        · simp [Memory.read]

/-- A read after a write to the same address gives the byte written. -/
theorem read_write_same {m : Memory} (a : Nat) (b : Byte) (h : Memory.wf m = true) :
    Memory.read (Memory.write m a b) a = b :=
  read_write_wfFrom m a b none h

/-- A write leaves every other address alone. -/
theorem read_write_other (m : Memory) (a x : Nat) (b : Byte) (hx : x ≠ a) :
    Memory.read (Memory.write m a b) x = Memory.read m x := by
  induction m with
  | nil =>
    unfold Memory.write
    split
    · rfl
    · simp [Memory.read, Ne.symm hx]
  | cons c rest ih =>
    unfold Memory.write
    split
    · simp only [Memory.read]; split
      · rfl
      · exact ih
    · split
      · rename_i heq
        have h1 : c.1 ≠ x := by omega
        split
        · simp only [Memory.read, if_neg h1]
        · simp only [Memory.read, if_neg h1, if_neg (Ne.symm hx)]
      · split
        · rfl
        · simp only [Memory.read, if_neg (Ne.symm hx)]

end Sys2Proof.Machine
end

