-- ==== Sys2Proof/Laws/Keeps.lean ====
section
/-! SUPPORT. Laws/Keeps.lean: what every operation of the block keeps: the queue of commands, the fused words, and the
canonical form of the zone-core memories. Here the relation, and the operations of the command path and the event queue. -/

namespace Sys2Proof.Machine

open Sys2Proof

/-- From `s` to `t` the queue and the fused words are as they were, and core memories in canonical form stay so. -/
def Keeps (s t : State) : Prop := t.pending = s.pending ∧ t.part = s.part ∧ (s.memOk = true → t.memOk = true)
/-- An answer keeps them, and so does what follows its reply. -/
def KeepsA (s : State) (a : Ans) : Prop := Keeps s a.st ∧ ∀ t, Keeps s t → Keeps s (a.after t)
/-- An outcome keeps them. -/
def KeepsR (s : State) (r : Res) : Prop := ∀ t, r = .next t → Keeps s t

theorem keeps_refl (s : State) : Keeps s s := ⟨rfl, rfl, id⟩
theorem keeps_id {s t : State} (h : Keeps s t) : Keeps s (id t) := h
theorem keeps_mk {s t : State} {a b c e f g h i j k l m n o p q r u v w x y z a1 b1 c1 d1} (ht : Keeps s t) :
    Keeps s (State.mk t.pending a b c t.part e f g h i j k l m n o p q r u v w x y t.cores z a1 b1 c1 d1) := ht
theorem keeps_ite {s a b : State} {c : Prop} [Decidable c] (ha : Keeps s a) (hb : Keeps s b) : Keeps s (if c then a else b) := by
  split <;> assumption
theorem keepsA_ite {s : State} {a b : Ans} {c : Prop} [Decidable c] (ha : KeepsA s a) (hb : KeepsA s b) :
    KeepsA s (if c then a else b) := by
  split <;> assumption
theorem keepsR_ite {s : State} {a b : Res} {c : Prop} [Decidable c] (ha : KeepsR s a) (hb : KeepsR s b) :
    KeepsR s (if c then a else b) := by
  split <;> assumption
theorem keeps_ite_fst {α : Type} {s : State} {a b : State × α} {c : Prop} [Decidable c] (ha : Keeps s a.1)
    (hb : Keeps s b.1) : Keeps s (if c then a else b).1 := by
  split <;> assumption
theorem keeps_ite_snd {α : Type} {s : State} {a b : α × State} {c : Prop} [Decidable c] (ha : Keeps s a.2)
    (hb : Keeps s b.2) : Keeps s (if c then a else b).2 := by
  split <;> assumption
theorem keeps_mk_fst {α : Type} {s t : State} {x : α} (h : Keeps s t) : Keeps s (t, x).1 := h
theorem keeps_mk_snd {α : Type} {s t : State} {x : α} (h : Keeps s t) : Keeps s (x, t).2 := h
theorem keeps_fst {α : Type} {s t : State} {p : State × α} {x : α} (e : p = (t, x)) (h : Keeps s p.1) : Keeps s t := by
  subst e; exact h
theorem keeps_snd {α : Type} {s t : State} {p : α × State} {x : α} (e : p = (x, t)) (h : Keeps s p.2) : Keeps s t := by
  subst e; exact h
theorem keeps_snd2 {α β : Type} {s t : State} {p : α × β × State} {x : α} {y : β} (e : p = (x, y, t)) (h : Keeps s p.2.2) :
    Keeps s t := by
  subst e; exact h
theorem keeps_foldl {α : Type} {s a : State} {l : List α} {f : State → α → State} (ha : Keeps s a)
    (hf : ∀ t x, Keeps s t → Keeps s (f t x)) : Keeps s (l.foldl f a) := by
  induction l generalizing a with
  | nil => exact ha
  | cons x l ih => exact ih (hf _ _ ha)
theorem keeps_foldl_snd {α β : Type} {s : State} {a : β × State} {l : List α} {f : β × State → α → β × State}
    (ha : Keeps s a.2) (hf : ∀ t x, Keeps s t.2 → Keeps s (f t x).2) : Keeps s (l.foldl f a).2 := by
  induction l generalizing a with
  | nil => exact ha
  | cons x l ih => exact ih (hf _ _ ha)
theorem keeps_foldl_fst {α β : Type} {s : State} {a : State × β} {l : List α} {f : State × β → α → State × β}
    (ha : Keeps s a.1) (hf : ∀ t x, Keeps s t.1 → Keeps s (f t x).1) : Keeps s (l.foldl f a).1 := by
  induction l generalizing a with
  | nil => exact ha
  | cons x l ih => exact ih (hf _ _ ha)
theorem keepsA_mk {s t : State} {st : Nat} {p : List Byte} {n : Bool} {d : Option Ps} {f : State → State} (h : Keeps s t)
    (hf : ∀ u, Keeps s u → Keeps s (f u)) : KeepsA s (Ans.mk st p n d t f) := ⟨h, hf⟩
theorem keepsA_st {s : State} {a : Ans} (h : KeepsA s a) : Keeps s a.st := h.1
theorem keepsA_after {s t : State} {a : Ans} (h : KeepsA s a) (ht : Keeps s t) : Keeps s (a.after t) := h.2 t ht
theorem keepsR_next {s t : State} (h : Keeps s t) : KeepsR s (.next t) := by
  intro u e; cases e; exact h

/-! ### Ops.lean -/

theorem State.adv_keeps {s0 s : State} {a} (h : Keeps s0 s) : Keeps s0 (State.adv s a) := by
  exact h

theorem reqVector_keeps {s0 s : State} {a} (h : Keeps s0 s) : Keeps s0 (reqVector a s) := by
  unfold reqVector
  repeat' first
    | with_reducible assumption
    | extract_lets +onlyGivenNames x
    | with_reducible apply keeps_mk

theorem send_keeps {s0 s : State} {a} (h : Keeps s0 s) : Keeps s0 (send a s) := by
  exact h

theorem State.took_keeps {s0 s : State} (h : Keeps s0 s) : Keeps s0 (State.took s) := by
  exact h

theorem logEntry_keeps {s0 s : State} {a b} (h : Keeps s0 s) : Keeps s0 (logEntry a b s) := by
  exact h

theorem riseCheck_keeps {s0 s : State} {a} (h : Keeps s0 s) : Keeps s0 (riseCheck a s) := by
  unfold riseCheck
  repeat' first
    | with_reducible apply keeps_ite
    | with_reducible assumption
    | with_reducible apply reqVector_keeps

theorem evtItemAt_keeps {s0 s : State} {a b c d} (h : Keeps s0 s) : Keeps s0 (evtItemAt a b c d s) := by
  unfold evtItemAt
  repeat' first
    | with_reducible apply keeps_ite
    | with_reducible assumption
    | with_reducible apply riseCheck_keeps
    | extract_lets +onlyGivenNames x
    | with_reducible apply keeps_mk

theorem evtItemE_keeps {s0 s : State} {a b c} (h : Keeps s0 s) : Keeps s0 (evtItemE a b c s) := evtItemAt_keeps h

theorem evtItem_keeps {s0 s : State} {a b} (h : Keeps s0 s) : Keeps s0 (evtItem a b s) := by
  unfold evtItem
  repeat' first
    | with_reducible assumption
    | with_reducible apply evtItemE_keeps

theorem amendItems_keeps {s0 s : State} {a} (h : Keeps s0 s) : Keeps s0 (amendItems a s) := by
  unfold amendItems
  repeat' first
    | with_reducible assumption
    | extract_lets +onlyGivenNames x
    | with_reducible apply keeps_mk

theorem raise_keeps {s0 s : State} {a} (h : Keeps s0 s) : Keeps s0 (raise a s) := by
  unfold raise
  repeat' first
    | with_reducible apply keeps_ite
    | with_reducible assumption
    | with_reducible apply logEntry_keeps
    | with_reducible apply evtItemE_keeps
    | with_reducible apply reqVector_keeps
    | extract_lets +onlyGivenNames x
    | split
    | with_reducible apply keeps_mk

theorem endBound_keeps {s0 s : State} {a} (h : Keeps s0 s) : Keeps s0 (endBound a s) := by
  exact h

theorem completion_keeps {s0 s : State} {a b c d e f} (h : Keeps s0 s) : Keeps s0 (completion a b c d e f s) := by
  unfold completion
  repeat' first
    | with_reducible assumption
    | with_reducible apply raise_keeps
    | extract_lets +onlyGivenNames x
    | with_reducible apply keeps_mk

/-! ### CommandPath.lean -/

theorem reject_keeps {s0 s : State} {a} (h : Keeps s0 s) : KeepsA s0 (reject a s) := by
  unfold reject
  repeat' first
    | with_reducible assumption
    | with_reducible apply keepsA_mk
    | intro _ _
    | extract_lets +onlyGivenNames x
    | with_reducible exact keeps_id ‹_›

theorem checked_keeps {s0 s : State} {a b} (k : KeepsA s0 (b ())) (h : Keeps s0 s) : KeepsA s0 (checked a s b) := by
  unfold checked
  repeat' first
    | with_reducible assumption
    | with_reducible apply reject_keeps
    | split

theorem setQ_keeps {s0 s : State} {a b} (h : Keeps s0 s) : Keeps s0 (setQ a b s) := by
  unfold setQ
  repeat' first
    | with_reducible apply keeps_ite
    | with_reducible assumption
    | extract_lets +onlyGivenNames x
    | with_reducible apply keeps_mk

theorem modUdp_keeps {s0 s : State} {a b c} (h : Keeps s0 s) : Keeps s0 (modUdp a b c s) := by
  unfold modUdp
  repeat' first
    | with_reducible assumption
    | extract_lets +onlyGivenNames x
    | with_reducible apply keeps_mk

theorem takeTurn_keeps {s0 s : State} {a} (h : Keeps s0 s) : Keeps s0 (takeTurn a s) := by
  exact h

theorem sendReply_keeps {s0 s : State} {a b} (h : Keeps s0 s) : Keeps s0 (sendReply a b s) := by
  unfold sendReply
  repeat' first
    | with_reducible assumption
    | with_reducible apply send_keeps

theorem dropFetched_keeps {s0 s : State} {a} (h : Keeps s0 s) : Keeps s0 (dropFetched a s) := by
  exact h

theorem writePayload_keeps {s0 s : State} {a b c} (h : Keeps s0 s) : Keeps s0 (writePayload a b c s).2 := by
  unfold writePayload
  repeat' first
    | with_reducible apply keeps_ite_snd
    | with_reducible assumption
    | with_reducible apply State.took_keeps
    | with_reducible apply send_keeps

theorem writeCq_keeps {s0 s : State} {a b c d} (h : Keeps s0 s) : Keeps s0 (writeCq a b c d s) := by
  unfold writeCq
  repeat' first
    | with_reducible apply keeps_ite
    | with_reducible assumption
    | with_reducible apply raise_keeps
    | with_reducible apply writePayload_keeps
    | with_reducible apply send_keeps
    | with_reducible apply setQ_keeps
    | with_reducible apply reqVector_keeps
    | extract_lets +onlyGivenNames x
    | with_reducible apply keeps_mk

theorem writeReply_keeps {s0 s : State} {a b c} (h : Keeps s0 s) : Keeps s0 (writeReply a b c s) := by
  unfold writeReply
  repeat' first
    | with_reducible apply keeps_ite
    | with_reducible assumption
    | with_reducible apply writeCq_keeps
    | with_reducible apply sendReply_keeps
    | with_reducible apply modUdp_keeps
    | with_reducible apply send_keeps
    | extract_lets +onlyGivenNames x
    | split

theorem answer_keeps {s0 s : State} {a b c} (h : Keeps s0 s) : Keeps s0 (answer a b c s) := by
  unfold answer
  repeat' first
    | with_reducible assumption
    | with_reducible apply writeReply_keeps
    | with_reducible apply dropFetched_keeps
    | extract_lets +onlyGivenNames x
    | with_reducible apply keeps_mk

theorem drainFailed_keeps {s0 s : State} {a} (h : Keeps s0 s) : Keeps s0 (drainFailed a s) := by
  induction a generalizing s with
  | zero => exact h
  | succ n ih =>
    unfold drainFailed
    repeat' first
      | with_reducible apply ih
      | with_reducible assumption
      | with_reducible apply answer_keeps
      | with_reducible apply takeTurn_keeps
      | split

theorem settleFences_keeps {s0 s : State} {a} (h : Keeps s0 s) : Keeps s0 (settleFences a s) := by
  induction a generalizing s with
  | zero => exact h
  | succ n ih =>
    unfold settleFences
    repeat' first
      | with_reducible apply ih
      | with_reducible assumption
      | with_reducible apply answer_keeps
      | with_reducible apply drainFailed_keeps
      | extract_lets +onlyGivenNames x
      | split
      | with_reducible apply keeps_mk

theorem settle_keeps {s0 s : State} (h : Keeps s0 s) : Keeps s0 (settle s) := by
  unfold settle
  repeat' first
    | with_reducible assumption
    | with_reducible apply settleFences_keeps
    | with_reducible apply drainFailed_keeps

theorem conclude_keeps {s0 : State} {s : Ans} {a b} (h : KeepsA s0 s) : Keeps s0 (conclude a s b) := by
  unfold conclude
  repeat' first
    | with_reducible apply keeps_ite
    | with_reducible assumption
    | with_reducible apply keepsA_st
    | with_reducible apply keepsA_after
    | with_reducible apply send_keeps
    | with_reducible apply dropFetched_keeps
    | with_reducible apply answer_keeps
    | with_reducible apply settle_keeps
    | extract_lets +onlyGivenNames x
    | split
    | with_reducible apply keeps_mk

theorem holdCmd_keeps {s0 s : State} {a} (h : Keeps s0 s) : Keeps s0 (holdCmd a s) := by
  unfold holdCmd
  repeat' first
    | with_reducible assumption
    | with_reducible apply dropFetched_keeps
    | extract_lets +onlyGivenNames x
    | with_reducible apply keeps_mk

theorem attempt_keeps {s0 s : State} {a b c} (hb : ∀ f t, Keeps s0 t → KeepsA s0 (b f t)) (h : Keeps s0 s) :
    Keeps s0 (attempt a b c s) := by
  unfold attempt
  repeat' first
    | with_reducible apply keeps_ite
    | with_reducible assumption
    | with_reducible apply reject_keeps
    | with_reducible apply conclude_keeps
    | with_reducible apply holdCmd_keeps
    | extract_lets +onlyGivenNames x
    | with_reducible apply hb
    | split

theorem perform_keeps {s0 s : State} {a b c} (hb : ∀ f t, Keeps s0 t → KeepsA s0 (b f t)) (h : Keeps s0 s) :
    Keeps s0 (perform a b c s) := by
  unfold perform
  repeat' first
    | with_reducible apply keeps_ite
    | with_reducible assumption
    | with_reducible apply State.adv_keeps
    | with_reducible apply attempt_keeps
    | with_reducible apply takeTurn_keeps

theorem endLong_keeps {s0 s : State} {a} (h : Keeps s0 s) : Keeps s0 (endLong a s) := by
  unfold endLong
  repeat' first
    | with_reducible assumption
    | with_reducible apply settleFences_keeps
    | extract_lets +onlyGivenNames x
    | with_reducible apply keeps_mk

theorem modeItem_keeps {s0 s : State} {a b c d e f} (h : Keeps s0 s) : Keeps s0 (modeItem a b c d e f s) := by
  unfold modeItem
  repeat' first
    | with_reducible assumption
    | with_reducible apply evtItem_keeps
    | with_reducible apply logEntry_keeps

/-! ### EventQueue.lean -/

theorem evtRead_keeps {s0 s : State} {a} (h : Keeps s0 s) : Keeps s0 (evtRead a s) := by
  unfold evtRead
  repeat' first
    | with_reducible assumption
    | with_reducible apply send_keeps
    | extract_lets +onlyGivenNames x
    | split
    | with_reducible apply keeps_mk

theorem evtRelease_keeps {s0 s : State} (h : Keeps s0 s) : Keeps s0 (evtRelease s) := by
  unfold evtRelease
  repeat' first
    | with_reducible assumption
    | extract_lets +onlyGivenNames x
    | with_reducible apply keeps_mk

theorem evtFlush_keeps {s0 s : State} (h : Keeps s0 s) : Keeps s0 (evtFlush s) := by
  unfold evtFlush
  repeat' first
    | with_reducible assumption
    | with_reducible apply evtItem_keeps
    | with_reducible apply riseCheck_keeps
    | extract_lets +onlyGivenNames x
    | with_reducible apply keeps_mk

/-! ### RecoveryStart.lean -/

theorem beginRecovery_keeps {s0 s : State} {a} (h : Keeps s0 s) : Keeps s0 (beginRecovery a s) := by
  unfold beginRecovery
  repeat' first
    | with_reducible assumption
    | extract_lets +onlyGivenNames x
    | with_reducible apply keeps_mk

theorem startRecovery_keeps {s0 s : State} {a b c} (h : Keeps s0 s) : Keeps s0 (startRecovery a b c s) := by
  unfold startRecovery
  repeat' first
    | with_reducible apply keeps_ite
    | with_reducible assumption
    | with_reducible apply beginRecovery_keeps
    | extract_lets +onlyGivenNames x
    | split
    | with_reducible apply keeps_mk

end Sys2Proof.Machine
end

