-- ==== Sys2Proof/Laws/KeepsLight.lean ====
section
/-! SUPPORT. Laws/KeepsLight.lean: the launch plan, the light, the receivers, calibration and the launch lock keep what
Laws/Keeps.lean names. -/

namespace Sys2Proof.Machine

open Sys2Proof

/-! ### Plan.lean -/

theorem setPort_keeps {s0 s : State} {a b} (h : Keeps s0 s) : Keeps s0 (setPort a b s) := by
  unfold setPort
  repeat' first
    | with_reducible apply keeps_ite
    | with_reducible assumption
    | extract_lets +onlyGivenNames x
    | with_reducible apply keeps_mk

/-! ### Bindings.lean -/

theorem modCtx_keeps {s0 s : State} {a b} (h : Keeps s0 s) : Keeps s0 (modCtx a b s) := by
  exact h

theorem modCore_keeps {s0 s : State} {a b} (hf : s0.memOk = true → ∀ x : Core, x.memOk = true → (b x).memOk = true) (h : Keeps s0 s) :
    Keeps s0 (modCore a b s) := by
  refine ⟨h.1, h.2.1, fun h0 => ?_⟩
  have hs := h.2.2 h0
  unfold State.memOk at hs ⊢
  simp only [List.all_eq_true, Vector.mem_toList_iff] at hs ⊢
  intro x hx
  obtain ⟨i, hi, e⟩ := Vector.mem_iff_getElem.mp hx
  subst e
  simp only [modCore, vmod, vset, Vector.getElem_setIfInBounds]
  split
  · rename_i e
    subst e
    refine hf h0 _ ?_
    simp only [vget, Vector.getElem?_eq_getElem hi, Option.getD_some]
    exact hs _ (Vector.getElem_mem hi)
  · exact hs _ (Vector.getElem_mem hi)

theorem burstCheck_keeps {s0 s : State} (h : Keeps s0 s) : Keeps s0 (burstCheck s) := by
  unfold burstCheck
  repeat' first
    | with_reducible apply keeps_ite
    | exact fun _ _ hm => hm
    | with_reducible assumption
    | with_reducible apply raise_keeps
    | with_reducible apply modCore_keeps
    | with_reducible apply keeps_foldl
    | intro _ _ _

theorem haltCore_keeps {s0 s : State} {a} (h : Keeps s0 s) : Keeps s0 (haltCore a s) := by
  unfold haltCore
  repeat' first
    | with_reducible apply keeps_ite
    | exact fun _ _ hm => hm
    | with_reducible assumption
    | with_reducible apply modCore_keeps

theorem dropBinding_keeps {s0 s : State} {a} (h : Keeps s0 s) : Keeps s0 (dropBinding a s) := by
  unfold dropBinding
  repeat' first
    | exact fun _ _ hm => hm
    | with_reducible assumption
    | with_reducible apply modCore_keeps
    | with_reducible apply keeps_foldl
    | intro _ _ _

theorem dropBindings_keeps {s0 s : State} {a} (h : Keeps s0 s) : Keeps s0 (dropBindings a s) := by
  unfold dropBindings
  repeat' first
    | with_reducible assumption
    | with_reducible apply dropBinding_keeps
    | with_reducible apply keeps_foldl

theorem haltBare_keeps {s0 s : State} (h : Keeps s0 s) : Keeps s0 (haltBare s) := by
  unfold haltBare
  repeat' first
    | with_reducible apply keeps_ite
    | with_reducible assumption
    | with_reducible apply haltCore_keeps
    | with_reducible apply keeps_foldl
    | intro _ _ _

theorem haltCores_keeps {s0 s : State} {a b} (h : Keeps s0 s) : Keeps s0 (haltCores a b s) := by
  unfold haltCores
  repeat' first
    | with_reducible apply keeps_ite
    | with_reducible assumption
    | with_reducible apply dropBindings_keeps
    | with_reducible apply haltCore_keeps
    | with_reducible apply haltBare_keeps
    | with_reducible apply keeps_foldl

theorem resizeBinding_keeps {s0 s : State} {a} (h : Keeps s0 s) : Keeps s0 (resizeBinding a s) := by
  unfold resizeBinding
  repeat' first
    | exact fun _ _ hm => hm
    | with_reducible assumption
    | with_reducible apply modCore_keeps
    | with_reducible apply keeps_foldl
    | intro _ _ _

/-! ### Held.lean -/

theorem retakeHeld_keeps {s0 s : State} (h : Keeps s0 s) : Keeps s0 (retakeHeld s) := by
  exact h

theorem tellHeld_keeps {s0 s : State} (h : Keeps s0 s) : Keeps s0 (tellHeld s) := by
  unfold tellHeld
  repeat' first
    | with_reducible apply keeps_ite
    | with_reducible assumption
    | with_reducible apply raise_keeps
    | extract_lets +onlyGivenNames x
    | with_reducible apply keeps_mk

theorem newHeld_keeps {s0 s : State} (h : Keeps s0 s) : Keeps s0 (newHeld s) := by
  unfold newHeld
  repeat' first
    | with_reducible assumption
    | with_reducible apply tellHeld_keeps
    | with_reducible apply retakeHeld_keeps

/-! ### Drive.lean -/

theorem setDrives_keeps {s0 s : State} {a} (h : Keeps s0 s) : Keeps s0 (setDrives a s) := by
  unfold setDrives
  repeat' first
    | with_reducible assumption
    | with_reducible apply State.took_keeps
    | extract_lets +onlyGivenNames x
    | with_reducible apply keeps_mk

theorem refreshDrives_keeps {s0 s : State} (h : Keeps s0 s) : Keeps s0 (refreshDrives s) := by
  unfold refreshDrives
  repeat' first
    | with_reducible assumption
    | with_reducible apply setDrives_keeps

theorem redrive_keeps {s0 s : State} {a} (h : Keeps s0 s) : Keeps s0 (redrive a s) := by
  unfold redrive
  repeat' first
    | with_reducible assumption
    | with_reducible apply refreshDrives_keeps
    | extract_lets +onlyGivenNames x
    | with_reducible apply keeps_mk

theorem measureDrives_keeps {s0 s : State} (h : Keeps s0 s) : Keeps s0 (measureDrives s) := by
  unfold measureDrives
  repeat' first
    | with_reducible assumption
    | with_reducible apply State.took_keeps
    | extract_lets +onlyGivenNames x
    | with_reducible apply keeps_mk

/-! ### Changes.lean -/

theorem modAux_keeps {s0 s : State} {a b} (h : Keeps s0 s) : Keeps s0 (modAux a b s) := by
  exact h

theorem amonLatch_keeps {s0 s : State} (h : Keeps s0 s) : Keeps s0 (amonLatch s) := by
  exact h

theorem applyLaunchCfg_keeps {s0 s : State} {a} (h : Keeps s0 s) : Keeps s0 (applyLaunchCfg a s) := by
  unfold applyLaunchCfg
  repeat' first
    | with_reducible assumption
    | extract_lets +onlyGivenNames x
    | with_reducible apply keeps_mk

theorem applySlotCfg_keeps {s0 s : State} {a} (h : Keeps s0 s) : Keeps s0 (applySlotCfg a s) := by
  unfold applySlotCfg
  repeat' first
    | with_reducible assumption
    | extract_lets +onlyGivenNames x
    | with_reducible apply keeps_mk

theorem applyLightCfg_keeps {s0 s : State} {a} (h : Keeps s0 s) : Keeps s0 (applyLightCfg a s) := by
  unfold applyLightCfg
  repeat' first
    | with_reducible assumption
    | with_reducible apply retakeHeld_keeps
    | extract_lets +onlyGivenNames x
    | with_reducible apply keeps_mk

theorem applyAprCfg_keeps {s0 s : State} {a} (h : Keeps s0 s) : Keeps s0 (applyAprCfg a s) := by
  unfold applyAprCfg
  repeat' first
    | with_reducible apply keeps_ite
    | with_reducible assumption
    | with_reducible apply retakeHeld_keeps
    | extract_lets +onlyGivenNames x
    | with_reducible apply keeps_mk

theorem applyPortSelect_keeps {s0 s : State} {a} (h : Keeps s0 s) : Keeps s0 (applyPortSelect a s) := by
  unfold applyPortSelect
  repeat' first
    | with_reducible apply keeps_ite
    | with_reducible assumption
    | extract_lets +onlyGivenNames x
    | with_reducible apply keeps_mk

theorem restartAcc_keeps {s0 s : State} (h : Keeps s0 s) : Keeps s0 (restartAcc s) := by
  exact h

theorem applyOchreCfg_keeps {s0 s : State} {a} (h : Keeps s0 s) : Keeps s0 (applyOchreCfg a s) := by
  unfold applyOchreCfg
  repeat' first
    | with_reducible apply keeps_ite
    | with_reducible assumption
    | with_reducible apply restartAcc_keeps
    | extract_lets +onlyGivenNames x
    | with_reducible apply keeps_mk

theorem restartFilters_keeps {s0 s : State} {a} (h : Keeps s0 s) : Keeps s0 (restartFilters a s) := by
  unfold restartFilters
  repeat' first
    | with_reducible assumption
    | extract_lets +onlyGivenNames x
    | with_reducible apply keeps_mk

theorem setSource_keeps {s0 s : State} {a b} (h : Keeps s0 s) : Keeps s0 (setSource a b s) := by
  unfold setSource
  repeat' first
    | with_reducible apply keeps_ite
    | with_reducible assumption
    | with_reducible apply restartFilters_keeps
    | extract_lets +onlyGivenNames x
    | with_reducible apply keeps_mk

theorem claimChannel_keeps {s0 s : State} {a b} (h : Keeps s0 s) : Keeps s0 (claimChannel a b s) := by
  unfold claimChannel
  repeat' first
    | with_reducible assumption
    | with_reducible apply setSource_keeps
    | extract_lets +onlyGivenNames x
    | with_reducible apply keeps_mk

theorem measureRef_keeps {s0 s : State} (h : Keeps s0 s) : Keeps s0 (measureRef s) := by
  unfold measureRef
  repeat' first
    | with_reducible assumption
    | extract_lets +onlyGivenNames x
    | split
    | with_reducible apply keeps_mk

theorem applyRefCoil_keeps {s0 s : State} {a} (h : Keeps s0 s) : Keeps s0 (applyRefCoil a s) := by
  unfold applyRefCoil
  repeat' first
    | with_reducible apply keeps_ite
    | with_reducible assumption
    | with_reducible apply claimChannel_keeps
    | extract_lets +onlyGivenNames x
    | with_reducible apply keeps_mk

theorem restartAllSlots_keeps {s0 s : State} (h : Keeps s0 s) : Keeps s0 (restartAllSlots s) := by
  exact h

theorem applyMap_keeps {s0 s : State} {a} (h : Keeps s0 s) : Keeps s0 (applyMap a s) := by
  unfold applyMap
  repeat' first
    | with_reducible assumption
    | with_reducible apply restartAcc_keeps
    | with_reducible apply restartAllSlots_keeps
    | extract_lets +onlyGivenNames x
    | with_reducible apply keeps_mk

theorem applyIndigoCfg_keeps {s0 s : State} {a} (h : Keeps s0 s) : Keeps s0 (applyIndigoCfg a s) := by
  unfold applyIndigoCfg
  repeat' first
    | with_reducible apply keeps_ite
    | with_reducible assumption
    | with_reducible apply restartAllSlots_keeps
    | extract_lets +onlyGivenNames x
    | with_reducible apply keeps_mk

theorem freeLock_keeps {s0 s : State} {a} (h : Keeps s0 s) : Keeps s0 (freeLock a s) := by
  exact h

theorem applySync_keeps {s0 s : State} {a} (h : Keeps s0 s) : Keeps s0 (applySync a s) := by
  unfold applySync
  repeat' first
    | with_reducible apply keeps_ite
    | with_reducible assumption
    | with_reducible apply freeLock_keeps

theorem applyPlan_keeps {s0 s : State} {a} (h : Keeps s0 s) : Keeps s0 (applyPlan a s) := by
  unfold applyPlan
  repeat' first
    | with_reducible assumption
    | with_reducible apply applyLaunchCfg_keeps
    | with_reducible apply applySlotCfg_keeps
    | with_reducible apply applyLightCfg_keeps
    | with_reducible apply applyPortSelect_keeps
    | with_reducible apply applyAprCfg_keeps
    | with_reducible apply applyIndigoCfg_keeps
    | with_reducible apply applyMap_keeps
    | with_reducible apply applyOchreCfg_keeps
    | with_reducible apply applyRefCoil_keeps
    | with_reducible apply applySync_keeps
    | split

theorem projected_keeps {s0 s : State} (h : Keeps s0 s) : Keeps s0 (projected s) := by
  unfold projected
  repeat' first
    | with_reducible assumption
    | with_reducible apply applyPlan_keeps
    | with_reducible apply keeps_foldl

theorem applyNow_keeps {s0 s : State} {a} (h : Keeps s0 s) : Keeps s0 (applyNow a s) := by
  unfold applyNow
  repeat' first
    | with_reducible apply keeps_ite
    | with_reducible assumption
    | with_reducible apply amonLatch_keeps
    | with_reducible apply refreshDrives_keeps
    | with_reducible apply applyPlan_keeps

theorem moveNow_keeps {s0 s : State} (h : Keeps s0 s) : Keeps s0 (moveNow s) := by
  unfold moveNow
  repeat' first
    | with_reducible assumption
    | extract_lets +onlyGivenNames x
    | with_reducible apply keeps_mk

theorem schedule_keeps {s0 s : State} {a b c d e f} (h : Keeps s0 s) : Keeps s0 (schedule a b c d e f s).1 := by
  unfold schedule
  extract_lets +onlyGivenNames c b
  clear_value b
  with_reducible refine keeps_ite_fst (keeps_mk_fst (burstCheck_keeps (tellHeld_keeps (applyNow_keeps h)))) ?_
  extract_lets +onlyGivenNames y s1 s2
  have h1 : Keeps s0 s1 := h
  clear_value s1
  have h2 : Keeps s0 s2 := keeps_ite (moveNow_keeps h1) h1
  clear_value s2
  with_reducible refine keeps_ite_fst ?_ (keeps_mk_fst h2)
  extract_lets +onlyGivenNames z s3
  have h3 : Keeps s0 s3 := h2
  clear_value s3
  exact h3

/-! ### Light.lean -/

theorem launchCmd_keeps {s0 s : State} {a b c d e f} (h : Keeps s0 s) : KeepsA s0 (launchCmd a b c d e f s) := by
  unfold launchCmd
  repeat' first
    | with_reducible apply keepsA_ite
    | with_reducible assumption
    | with_reducible apply checked_keeps
    | with_reducible apply keepsA_mk
    | with_reducible apply schedule_keeps
    | intro _ _
    | extract_lets +onlyGivenNames x
    | with_reducible exact keeps_id ‹_›

theorem forwardPlan_keeps {s0 : State} {s : Ans} {a b} (h : KeepsA s0 s) : KeepsA s0 (forwardPlan a b s) := by
  unfold forwardPlan
  repeat' first
    | with_reducible apply keepsA_ite
    | with_reducible assumption
    | with_reducible apply keepsA_mk
    | with_reducible apply keepsA_st
    | with_reducible apply keepsA_after
    | with_reducible apply send_keeps
    | intro _ _

theorem cmdLaunchCfg_keeps {s0 s : State} {a} (h : Keeps s0 s) : KeepsA s0 (cmdLaunchCfg a s) := by
  unfold cmdLaunchCfg
  repeat' first
    | with_reducible assumption
    | with_reducible apply forwardPlan_keeps
    | with_reducible apply launchCmd_keeps

theorem cmdSlotCfg_keeps {s0 s : State} {a} (h : Keeps s0 s) : KeepsA s0 (cmdSlotCfg a s) := by
  unfold cmdSlotCfg
  repeat' first
    | with_reducible assumption
    | with_reducible apply forwardPlan_keeps
    | with_reducible apply launchCmd_keeps

theorem cmdLightCfg_keeps {s0 s : State} {a} (h : Keeps s0 s) : KeepsA s0 (cmdLightCfg a s) := by
  unfold cmdLightCfg
  repeat' first
    | with_reducible assumption
    | with_reducible apply launchCmd_keeps

theorem startSwitch_keeps {s0 : State} {s : Ans} {a} (h : KeepsA s0 s) : KeepsA s0 (startSwitch a s) := by
  unfold startSwitch
  repeat' first
    | with_reducible apply keepsA_ite
    | with_reducible assumption
    | with_reducible apply keepsA_mk
    | with_reducible apply keepsA_st
    | with_reducible apply keepsA_after
    | intro _ _
    | extract_lets +onlyGivenNames x
    | with_reducible apply keeps_mk

theorem cmdPortSelect_keeps {s0 s : State} {a} (h : Keeps s0 s) : KeepsA s0 (cmdPortSelect a s) := by
  unfold cmdPortSelect
  repeat' first
    | with_reducible assumption
    | with_reducible apply startSwitch_keeps
    | with_reducible apply launchCmd_keeps

theorem cmdAprCfg_keeps {s0 s : State} {a} (h : Keeps s0 s) : KeepsA s0 (cmdAprCfg a s) := by
  unfold cmdAprCfg
  repeat' first
    | with_reducible assumption
    | with_reducible apply launchCmd_keeps

/-! ### Survey.lean -/

theorem fibreChange_keeps {s0 s : State} {a b c d e f g} (h : Keeps s0 s) :
    Keeps s0 (fibreChange a b c d e f g s) := by
  unfold fibreChange
  repeat' first
    | with_reducible assumption
    | with_reducible apply evtItemE_keeps

theorem fibreEnd_keeps {s0 s : State} {a b c d} (h : Keeps s0 s) : Keeps s0 (fibreEnd a b c d s) := by
  unfold fibreEnd
  repeat' first
    | with_reducible assumption
    | with_reducible apply fibreChange_keeps

theorem moveSwitch_keeps {s0 s : State} {a b} (h : Keeps s0 s) : Keeps s0 (moveSwitch a b s) := by
  unfold moveSwitch
  repeat' first
    | with_reducible apply keeps_ite
    | with_reducible assumption
    | extract_lets +onlyGivenNames x
    | with_reducible apply keeps_mk

theorem beginSurvey_keeps {s0 s : State} {a} (h : Keeps s0 s) : Keeps s0 (beginSurvey a s) := by
  unfold beginSurvey
  repeat' first
    | with_reducible apply keeps_ite
    | with_reducible assumption
    | with_reducible apply State.took_keeps
    | with_reducible apply refreshDrives_keeps
    | extract_lets +onlyGivenNames x
    | with_reducible apply keeps_mk

theorem cmdGambitRun_keeps {s0 s : State} {a} (h : Keeps s0 s) : KeepsA s0 (cmdGambitRun a s) := by
  unfold cmdGambitRun
  repeat' first
    | with_reducible assumption
    | with_reducible apply checked_keeps
    | with_reducible apply keepsA_mk
    | with_reducible apply beginSurvey_keeps
    | with_reducible apply moveSwitch_keeps
    | intro _ _
    | extract_lets +onlyGivenNames x
    | with_reducible exact keeps_id ‹_›

theorem storeSurvey_keeps {s0 s : State} {a b c} (h : Keeps s0 s) : Keeps s0 (storeSurvey a b c s) := by
  unfold storeSurvey
  repeat' first
    | with_reducible assumption
    | with_reducible apply setPort_keeps

theorem entrySurvey_keeps {s0 s : State} {a} (h : Keeps s0 s) : Keeps s0 (entrySurvey a s) := by
  unfold entrySurvey
  repeat' first
    | with_reducible assumption
    | with_reducible apply beginSurvey_keeps

theorem leaveSurvey_keeps {s0 s : State} (h : Keeps s0 s) : Keeps s0 (leaveSurvey s) := by
  unfold leaveSurvey
  repeat' first
    | with_reducible assumption
    | with_reducible apply refreshDrives_keeps
    | extract_lets +onlyGivenNames x
    | with_reducible apply keeps_mk

theorem runOver_keeps {s0 s : State} (h : Keeps s0 s) : Keeps s0 (runOver s) := by
  unfold runOver
  repeat' first
    | with_reducible apply keeps_ite
    | with_reducible assumption
    | with_reducible apply endLong_keeps
    | with_reducible apply entrySurvey_keeps
    | extract_lets +onlyGivenNames x
    | split
    | with_reducible apply keeps_mk

theorem surveyOver_keeps {s0 s : State} {a b c d} (h : Keeps s0 s) : Keeps s0 (surveyOver a b c d s) := by
  unfold surveyOver
  repeat' first
    | with_reducible apply keeps_ite
    | with_reducible assumption
    | with_reducible apply leaveSurvey_keeps
    | with_reducible apply fibreEnd_keeps
    | with_reducible apply runOver_keeps
    | extract_lets +onlyGivenNames x
    | with_reducible apply keeps_mk

theorem portSurveyed_keeps {s0 s : State} {a b c d} (h : Keeps s0 s) : Keeps s0 (portSurveyed a b c d s) := by
  unfold portSurveyed
  split
  · with_reducible refine keeps_ite (surveyOver_keeps h) (refreshDrives_keeps (moveSwitch_keeps ?_))
    exact h
  · with_reducible exact beginSurvey_keeps (moveSwitch_keeps (fibreEnd_keeps h))

theorem surveyBack_keeps {s0 s : State} (h : Keeps s0 s) : Keeps s0 (surveyBack s) := by
  unfold surveyBack
  repeat' first
    | with_reducible assumption
    | with_reducible apply surveyOver_keeps
    | split

theorem failEntry_keeps {s0 s : State} {a} (h : Keeps s0 s) : Keeps s0 (failEntry a s) := by
  exact h

theorem cmdGambitRead_keeps {s0 s : State} {a} (h : Keeps s0 s) : KeepsA s0 (cmdGambitRead a s) := by
  unfold cmdGambitRead
  repeat' first
    | with_reducible apply keeps_ite
    | with_reducible assumption
    | with_reducible apply checked_keeps
    | with_reducible apply keepsA_mk
    | with_reducible apply setPort_keeps
    | intro _ _
    | extract_lets +onlyGivenNames x
    | with_reducible exact keeps_id ‹_›

/-! ### Indigo.lean -/

theorem settleSpare_keeps {s0 s : State} (h : Keeps s0 s) : Keeps s0 (settleSpare s) := by
  unfold settleSpare
  repeat' first
    | with_reducible apply keeps_ite
    | with_reducible assumption
    | extract_lets +onlyGivenNames x
    | with_reducible apply keeps_mk

theorem retireLane_keeps {s0 s : State} {a} (h : Keeps s0 s) : Keeps s0 (retireLane a s) := by
  unfold retireLane
  repeat' first
    | with_reducible assumption
    | with_reducible apply settleSpare_keeps
    | extract_lets +onlyGivenNames x
    | with_reducible apply keeps_mk

theorem relane_keeps {s0 s : State} {a} (h : Keeps s0 s) : Keeps s0 (relane s a) := by
  unfold relane
  repeat' first
    | with_reducible apply keeps_ite
    | with_reducible assumption
    | extract_lets +onlyGivenNames x
    | with_reducible apply keeps_mk

theorem settleLanes_keeps {s0 s : State} (h : Keeps s0 s) : Keeps s0 (settleLanes s) := by
  unfold settleLanes
  repeat' first
    | with_reducible apply keeps_ite
    | with_reducible assumption
    | with_reducible apply settleSpare_keeps
    | with_reducible apply relane_keeps
    | with_reducible apply keeps_foldl
    | extract_lets +onlyGivenNames x
    | with_reducible apply keeps_mk

theorem shadowStep_keeps {s0 s : State} {a b} (h : Keeps s0 s) : Keeps s0 (shadowStep a b s) := by
  unfold shadowStep
  repeat' first
    | with_reducible apply keeps_ite
    | with_reducible assumption
    | extract_lets +onlyGivenNames x
    | split
    | with_reducible apply keeps_mk

theorem laneFault_keeps {s0 s : State} {a b c d e} (h : Keeps s0 s) : Keeps s0 (laneFault a b c d e s) := by
  unfold laneFault
  repeat' first
    | with_reducible assumption
    | with_reducible apply raise_keeps

theorem laneTested_keeps {s0 s : State} {a b} (h : Keeps s0 s) : Keeps s0 (laneTested a b s) := by
  unfold laneTested
  repeat' first
    | with_reducible apply keeps_ite
    | with_reducible assumption
    | with_reducible apply laneFault_keeps
    | with_reducible apply retireLane_keeps
    | with_reducible apply raise_keeps
    | extract_lets +onlyGivenNames x
    | split
    | with_reducible apply keeps_mk

theorem applyMoves_keeps {s0 s : State} {a} (h : Keeps s0 s) : Keeps s0 (applyMoves a s) := by
  unfold applyMoves
  repeat' first
    | with_reducible apply keeps_ite
    | with_reducible assumption
    | with_reducible apply settleSpare_keeps
    | with_reducible apply keeps_foldl
    | intro _ _ _
    | extract_lets +onlyGivenNames x
    | split
    | with_reducible apply keeps_mk

theorem darkTests_keeps {s0 s : State} {a b} (h : Keeps s0 s) : Keeps s0 (darkTests a b s) := by
  unfold darkTests
  repeat' first
    | with_reducible apply keeps_ite
    | with_reducible assumption
    | with_reducible apply laneFault_keeps
    | with_reducible apply retireLane_keeps
    | extract_lets +onlyGivenNames x
    | split
    | with_reducible apply keeps_mk

theorem aliasItem_keeps {s0 s : State} {a b} (h : Keeps s0 s) : Keeps s0 (aliasItem a b s) := by
  unfold aliasItem
  repeat' first
    | with_reducible assumption
    | with_reducible apply fibreChange_keeps

theorem aliasStep_keeps {s0 s : State} {a b c} (h : Keeps s0 s) : Keeps s0 (aliasStep a b c s) := by
  unfold aliasStep
  repeat' first
    | with_reducible apply keeps_ite
    | with_reducible assumption
    | with_reducible apply setPort_keeps
    | with_reducible apply aliasItem_keeps

theorem moveEnd_keeps {s0 s : State} {a b c} (h : Keeps s0 s) : Keeps s0 (moveEnd a b c s) := by
  unfold moveEnd
  repeat' first
    | with_reducible assumption
    | with_reducible apply fibreEnd_keeps
    | with_reducible apply setPort_keeps

theorem endStep_keeps {s0 s : State} {a b} (h : Keeps s0 s) : Keeps s0 (endStep a b s) := by
  unfold endStep
  repeat' first
    | with_reducible apply keeps_ite
    | with_reducible assumption
    | with_reducible apply setPort_keeps
    | with_reducible apply moveEnd_keeps

theorem resetChecks_keeps {s0 s : State} (h : Keeps s0 s) : Keeps s0 (resetChecks s) := by
  exact h

theorem resetDark_keeps {s0 s : State} (h : Keeps s0 s) : Keeps s0 (resetDark s) := by
  exact h

theorem geometry_keeps {s0 s : State} {a b} (h : Keeps s0 s) : Keeps s0 (geometry a b s) := by
  unfold geometry
  repeat' first
    | with_reducible apply keeps_ite
    | with_reducible assumption
    | with_reducible apply resetChecks_keeps
    | with_reducible apply endStep_keeps
    | with_reducible apply aliasStep_keeps
    | extract_lets +onlyGivenNames x
    | split

theorem aprTrip_keeps {s0 s : State} {a} (h : Keeps s0 s) : Keeps s0 (aprTrip a s) := by
  unfold aprTrip
  repeat' first
    | with_reducible apply keeps_ite
    | with_reducible assumption
    | with_reducible apply raise_keeps
    | extract_lets +onlyGivenNames x
    | with_reducible apply keeps_mk

theorem takeRef_keeps {s0 s : State} {a b} (h : Keeps s0 s) : Keeps s0 (takeRef a b s) := by
  unfold takeRef
  repeat' first
    | with_reducible apply keeps_ite
    | with_reducible assumption
    | with_reducible apply setPort_keeps
    | extract_lets +onlyGivenNames x
    | with_reducible apply keeps_mk

theorem aprCheck_keeps {s0 s : State} {a b c} (h : Keeps s0 s) : Keeps s0 (aprCheck a b c s) := by
  unfold aprCheck
  repeat' first
    | with_reducible apply keeps_ite
    | with_reducible assumption
    | with_reducible apply takeRef_keeps
    | with_reducible apply aprTrip_keeps
    | extract_lets +onlyGivenNames x
    | split

theorem spoilZones_keeps {s0 s : State} {a} (h : Keeps s0 s) : Keeps s0 (spoilZones a s) := by
  exact h

theorem dasHeld_keeps {s0 s : State} {a b} (h : Keeps s0 s) : Keeps s0 (dasHeld a b s).2 := by
  unfold dasHeld
  repeat' first
    | with_reducible assumption
    | with_reducible apply resetDark_keeps
    | with_reducible apply resetChecks_keeps
    | with_reducible apply spoilZones_keeps
    | extract_lets +onlyGivenNames x
    | with_reducible apply keeps_mk

theorem dasProcess_keeps {s0 s : State} {a b} (h : Keeps s0 s) : Keeps s0 (dasProcess a b s).2 := by
  unfold dasProcess
  repeat' first
    | with_reducible apply keeps_ite_snd
    | with_reducible assumption
    | with_reducible apply dasHeld_keeps
    | with_reducible apply shadowStep_keeps
    | with_reducible apply geometry_keeps
    | with_reducible apply darkTests_keeps
    | with_reducible apply aprCheck_keeps
    | extract_lets +onlyGivenNames x
    | split
    | with_reducible apply keeps_mk

theorem cmdIndigoCfg_keeps {s0 s : State} {a} (h : Keeps s0 s) : KeepsA s0 (cmdIndigoCfg a s) := by
  unfold cmdIndigoCfg
  repeat' first
    | with_reducible apply keepsA_ite
    | with_reducible assumption
    | with_reducible apply checked_keeps
    | with_reducible apply keepsA_mk
    | with_reducible apply schedule_keeps
    | intro _ _
    | extract_lets +onlyGivenNames x
    | with_reducible exact keeps_id ‹_›

theorem cmdZoneMapRead_keeps {s0 s : State} {a} (h : Keeps s0 s) : KeepsA s0 (cmdZoneMapRead a s) := by
  unfold cmdZoneMapRead
  repeat' first
    | with_reducible assumption
    | with_reducible apply checked_keeps
    | with_reducible apply keepsA_mk
    | intro _ _
    | extract_lets +onlyGivenNames x
    | with_reducible exact keeps_id ‹_›

/-! ### Ochre.lean -/

theorem ochreLaunched_keeps {s0 s : State} {a b} (h : Keeps s0 s) : Keeps s0 (ochreLaunched a b s) := by
  unfold ochreLaunched
  repeat' first
    | with_reducible apply keeps_ite
    | with_reducible assumption
    | extract_lets +onlyGivenNames x
    | with_reducible apply keeps_mk

theorem ochreAdd_keeps {s0 s : State} {a b} (h : Keeps s0 s) : Keeps s0 (ochreAdd a b s) := by
  unfold ochreAdd
  repeat' first
    | with_reducible apply keeps_ite
    | with_reducible assumption
    | extract_lets +onlyGivenNames x
    | with_reducible apply keeps_mk

theorem endAccumulation_keeps {s0 s : State} (h : Keeps s0 s) : Keeps s0 (endAccumulation s) := by
  unfold endAccumulation
  repeat' first
    | with_reducible apply keeps_ite
    | with_reducible assumption
    | extract_lets +onlyGivenNames x
    | with_reducible apply keeps_mk

theorem coilStep_keeps {s0 s : State} {a} (h : Keeps s0 s) : Keeps s0 (coilStep a s).1 := by
  unfold coilStep
  repeat' first
    | with_reducible apply keeps_ite
    | with_reducible assumption
    | with_reducible apply raise_keeps
    | extract_lets +onlyGivenNames x
    | split
    | with_reducible apply keeps_mk

theorem ochreAlias_keeps {s0 s : State} {a b} (h : Keeps s0 s) : Keeps s0 (ochreAlias a b s).2 := by
  unfold ochreAlias
  repeat' first
    | with_reducible apply keeps_ite
    | with_reducible apply keeps_ite_snd
    | with_reducible assumption
    | with_reducible apply setPort_keeps
    | with_reducible apply aliasItem_keeps

theorem ochreEnd_keeps {s0 s : State} {a b} (h : Keeps s0 s) : Keeps s0 (ochreEnd a b s) := by
  unfold ochreEnd
  repeat' first
    | with_reducible apply keeps_ite
    | with_reducible assumption
    | with_reducible apply moveEnd_keeps
    | extract_lets +onlyGivenNames x
    | split

theorem ochreIssue_keeps {s0 s : State} {a} (h : Keeps s0 s) : Keeps s0 (ochreIssue a s).2 := by
  unfold ochreIssue
  repeat' first
    | with_reducible apply keeps_ite
    | with_reducible assumption
    | with_reducible apply ochreAlias_keeps
    | with_reducible apply ochreEnd_keeps
    | with_reducible apply coilStep_keeps
    | with_reducible apply raise_keeps
    | extract_lets +onlyGivenNames x
    | split
    | with_reducible apply keeps_mk

theorem cmdOchreCfg_keeps {s0 s : State} {a} (h : Keeps s0 s) : KeepsA s0 (cmdOchreCfg a s) := by
  unfold cmdOchreCfg
  repeat' first
    | with_reducible apply keepsA_ite
    | with_reducible assumption
    | with_reducible apply checked_keeps
    | with_reducible apply keepsA_mk
    | with_reducible apply schedule_keeps
    | intro _ _
    | extract_lets +onlyGivenNames x
    | with_reducible exact keeps_id ‹_›

theorem cmdOchreRead_keeps {s0 s : State} {a} (h : Keeps s0 s) : KeepsA s0 (cmdOchreRead a s) := by
  unfold cmdOchreRead
  repeat' first
    | with_reducible apply keepsA_ite
    | with_reducible assumption
    | with_reducible apply checked_keeps
    | with_reducible apply keepsA_mk
    | intro _ _
    | extract_lets +onlyGivenNames x
    | with_reducible exact keeps_id ‹_›

theorem cmdRefCoilCfg_keeps {s0 s : State} {a} (h : Keeps s0 s) : KeepsA s0 (cmdRefCoilCfg a s) := by
  unfold cmdRefCoilCfg
  repeat' first
    | with_reducible apply keepsA_ite
    | with_reducible assumption
    | with_reducible apply checked_keeps
    | with_reducible apply keepsA_mk
    | with_reducible apply schedule_keeps
    | intro _ _
    | extract_lets +onlyGivenNames x
    | with_reducible exact keeps_id ‹_›

/-! ### Cal.lean -/

theorem driftItem_keeps {s0 s : State} (h : Keeps s0 s) : Keeps s0 (driftItem s) := by
  unfold driftItem
  repeat' first
    | with_reducible assumption
    | with_reducible apply raise_keeps

theorem drift_keeps {s0 s : State} {a b} (h : Keeps s0 s) : Keeps s0 (drift a b s) := by
  unfold drift
  repeat' first
    | with_reducible apply keeps_ite
    | with_reducible assumption
    | with_reducible apply driftItem_keeps
    | extract_lets +onlyGivenNames x
    | with_reducible apply keeps_mk

theorem clearRequests_keeps {s0 s : State} {a} (h : Keeps s0 s) : Keeps s0 (clearRequests a s) := by
  unfold clearRequests
  repeat' first
    | with_reducible apply keeps_ite
    | with_reducible assumption
    | with_reducible apply driftItem_keeps
    | with_reducible apply keeps_foldl
    | intro _ _ _
    | extract_lets +onlyGivenNames x
    | with_reducible apply keeps_mk

theorem calDone_keeps {s0 s : State} {a b c} (h : Keeps s0 s) : Keeps s0 (calDone a b c s) := by
  unfold calDone
  repeat' first
    | with_reducible assumption
    | with_reducible apply evtItemE_keeps

theorem finishRun_keeps {s0 s : State} {a b c} (h : Keeps s0 s) : Keeps s0 (finishRun a b c s) := by
  unfold finishRun
  repeat' first
    | with_reducible apply keeps_ite
    | with_reducible assumption
    | with_reducible apply calDone_keeps
    | with_reducible apply modeItem_keeps
    | with_reducible apply endLong_keeps
    | extract_lets +onlyGivenNames x
    | with_reducible apply keeps_mk

theorem beginDelay_keeps {s0 s : State} (h : Keeps s0 s) : Keeps s0 (beginDelay s) := by
  unfold beginDelay
  repeat' first
    | with_reducible assumption
    | with_reducible apply State.took_keeps
    | extract_lets +onlyGivenNames x
    | with_reducible apply keeps_mk

theorem homeSwitch_keeps {s0 s : State} {a} (h : Keeps s0 s) : Keeps s0 (homeSwitch a s) := by
  unfold homeSwitch
  repeat' first
    | with_reducible apply keeps_ite
    | with_reducible assumption
    | extract_lets +onlyGivenNames x
    | with_reducible apply keeps_mk

theorem beginStep_keeps {s0 s : State} {a} (h : Keeps s0 s) : Keeps s0 (beginStep a s) := by
  unfold beginStep
  repeat' first
    | with_reducible apply keeps_ite
    | with_reducible assumption
    | with_reducible apply beginDelay_keeps
    | with_reducible apply measureRef_keeps

theorem leaveStep_keeps {s0 s : State} {a} (h : Keeps s0 s) : Keeps s0 (leaveStep a s) := by
  unfold leaveStep
  repeat' first
    | with_reducible apply keeps_ite
    | with_reducible assumption
    | with_reducible apply homeSwitch_keeps
    | split

theorem advanceRun_keeps {s0 s : State} {a b} (h : Keeps s0 s) : Keeps s0 (advanceRun a b s) := by
  induction a generalizing b s with
  | zero => exact h
  | succ n ih =>
    unfold advanceRun
    repeat' first
      | with_reducible apply keeps_ite
      | with_reducible apply ih
      | with_reducible assumption
      | with_reducible apply finishRun_keeps
      | with_reducible apply beginStep_keeps
      | extract_lets +onlyGivenNames x
      | split
      | with_reducible apply keeps_mk

theorem beginSteps_keeps {s0 s : State} {a} (h : Keeps s0 s) : Keeps s0 (beginSteps a s) := by
  unfold beginSteps
  repeat' first
    | with_reducible apply keeps_ite
    | with_reducible assumption
    | with_reducible apply advanceRun_keeps
    | split

theorem startRun_keeps {s0 s : State} {a b c} (h : Keeps s0 s) : Keeps s0 (startRun a b c s) := by
  unfold startRun
  repeat' first
    | with_reducible apply keeps_ite
    | with_reducible assumption
    | with_reducible apply modeItem_keeps
    | with_reducible apply advanceRun_keeps
    | extract_lets +onlyGivenNames x
    | with_reducible apply keeps_mk

theorem putStep_keeps {s0 s : State} {a b c} (h : Keeps s0 s) : Keeps s0 (putStep a b c s) := by
  unfold putStep
  repeat' first
    | with_reducible assumption
    | with_reducible apply clearRequests_keeps
    | extract_lets +onlyGivenNames x
    | with_reducible apply keeps_mk

theorem putDelays_keeps {s0 s : State} {a} (h : Keeps s0 s) : Keeps s0 (putDelays a s) := by
  exact h

theorem useSection_keeps {s0 s : State} {a b} (h : Keeps s0 s) : Keeps s0 (useSection a b s) := by
  unfold useSection
  repeat' first
    | with_reducible assumption
    | with_reducible apply redrive_keeps
    | with_reducible apply putDelays_keeps
    | extract_lets +onlyGivenNames x
    | split
    | with_reducible apply keeps_mk

theorem applyStep_keeps {s0 s : State} {a b} (h : Keeps s0 s) : Keeps s0 (applyStep a b s) := by
  unfold applyStep
  repeat' first
    | with_reducible assumption
    | with_reducible apply useSection_keeps
    | with_reducible apply putStep_keeps
    | extract_lets +onlyGivenNames x
    | split
    | with_reducible apply keeps_mk

theorem cutRun_keeps {s0 s : State} {a} (h : Keeps s0 s) : Keeps s0 (cutRun a s).2 := by
  unfold cutRun
  extract_lets +onlyGivenNames na left
  refine keeps_mk_snd ?_
  extract_lets +onlyGivenNames end_
  have he : ∀ x k t, Keeps s0 t → Keeps s0 (end_ x k t) := fun _ _ _ ht => ht
  clear_value end_ left
  cases left with
  | nil => exact h
  | cons k rest => exact keeps_foldl (he _ _ _ (keeps_ite (leaveStep_keeps h) h)) (fun _ _ ht => he _ _ _ ht)

theorem abortRun_keeps {s0 s : State} {a b} (h : Keeps s0 s) : Keeps s0 (abortRun a b s) := by
  unfold abortRun
  repeat' first
    | with_reducible assumption
    | with_reducible apply finishRun_keeps
    | with_reducible apply cutRun_keeps
    | split

theorem dropRun_keeps {s0 s : State} (h : Keeps s0 s) : Keeps s0 (dropRun s) := by
  unfold dropRun
  repeat' first
    | with_reducible apply keeps_ite
    | with_reducible assumption
    | with_reducible apply calDone_keeps
    | with_reducible apply cutRun_keeps
    | with_reducible apply endLong_keeps
    | extract_lets +onlyGivenNames x
    | split
    | with_reducible apply keeps_mk

theorem cmdCalRun_keeps {s0 s : State} {a} (h : Keeps s0 s) : KeepsA s0 (cmdCalRun a s) := by
  unfold cmdCalRun
  repeat' first
    | with_reducible assumption
    | with_reducible apply checked_keeps
    | with_reducible apply keepsA_mk
    | with_reducible apply startRun_keeps
    | intro _ _

theorem cmdCalSave_keeps {s0 s : State} {a} (h : Keeps s0 s) : KeepsA s0 (cmdCalSave a s) := by
  unfold cmdCalSave
  repeat' first
    | with_reducible apply keeps_ite
    | with_reducible assumption
    | with_reducible apply checked_keeps
    | with_reducible apply keepsA_mk
    | intro _ _
    | extract_lets +onlyGivenNames x
    | split
    | with_reducible exact keeps_id ‹_›
    | with_reducible apply keeps_mk

theorem loadSection_keeps {s0 s : State} {a b} (h : Keeps s0 s) : Keeps s0 (loadSection a b s) := by
  unfold loadSection
  repeat' first
    | with_reducible assumption
    | with_reducible apply useSection_keeps
    | with_reducible apply State.took_keeps
    | with_reducible apply putStep_keeps
    | extract_lets +onlyGivenNames x
    | split
    | with_reducible apply keeps_mk

theorem cmdCalRestore_keeps {s0 s : State} {a} (h : Keeps s0 s) : KeepsA s0 (cmdCalRestore a s) := by
  unfold cmdCalRestore
  repeat' first
    | with_reducible assumption
    | with_reducible apply checked_keeps
    | with_reducible apply keepsA_mk
    | with_reducible apply loadSection_keeps
    | with_reducible apply keeps_foldl
    | intro _ _ _
    | intro _ _
    | extract_lets +onlyGivenNames x
    | with_reducible exact keeps_id ‹_›

theorem cmdCalQuality_keeps {s0 s : State} {a} (h : Keeps s0 s) : KeepsA s0 (cmdCalQuality a s) := by
  unfold cmdCalQuality
  repeat' first
    | with_reducible apply keeps_ite
    | with_reducible assumption
    | with_reducible apply checked_keeps
    | with_reducible apply keepsA_mk
    | with_reducible apply clearRequests_keeps
    | intro _ _
    | extract_lets +onlyGivenNames x
    | with_reducible exact keeps_id ‹_›

/-! ### Lock.lean -/

theorem lockFault_keeps {s0 s : State} {a} (h : Keeps s0 s) : Keeps s0 (lockFault a s) := by
  unfold lockFault
  repeat' first
    | with_reducible assumption
    | with_reducible apply raise_keeps

theorem startWaiting_keeps {s0 s : State} {a b} (h : Keeps s0 s) : Keeps s0 (startWaiting a b s) := by
  unfold startWaiting
  repeat' first
    | with_reducible assumption
    | extract_lets +onlyGivenNames x
    | with_reducible apply keeps_mk

theorem endWaiting_keeps {s0 s : State} {a} (h : Keeps s0 s) : Keeps s0 (endWaiting a s) := by
  unfold endWaiting
  extract_lets +onlyGivenNames s1
  have h1 : Keeps s0 s1 := burstCheck_keeps (freeLock_keeps h)
  clear_value s1
  split
  · with_reducible refine keeps_ite ?_ ?_
    · exact startWaiting_keeps h1
    · extract_lets +onlyGivenNames ends
      clear_value ends
      split
      · exact startWaiting_keeps h1
      · exact h1
  · exact h1

theorem dropLock_keeps {s0 s : State} (h : Keeps s0 s) : Keeps s0 (dropLock s) := by
  unfold dropLock
  with_reducible exact endWaiting_keeps h

theorem syncFail_keeps {s0 s : State} (h : Keeps s0 s) : Keeps s0 (syncFail s) := by
  unfold syncFail
  repeat' first
    | with_reducible assumption
    | with_reducible apply dropLock_keeps
    | with_reducible apply lockFault_keeps

theorem flywheel_keeps {s0 s : State} {a} (h : Keeps s0 s) : Keeps s0 (flywheel a s) := by
  unfold flywheel
  repeat' first
    | with_reducible apply keeps_ite
    | with_reducible assumption
    | with_reducible apply lockFault_keeps
    | extract_lets +onlyGivenNames x
    | with_reducible apply keeps_mk

theorem shiftDue_keeps {s0 s : State} {a b c d} (h : Keeps s0 s) : Keeps s0 (shiftDue a b c d s) := by
  unfold shiftDue
  repeat' first
    | with_reducible assumption
    | extract_lets +onlyGivenNames x
    | with_reducible apply keeps_mk

theorem noteResid_keeps {s0 s : State} {a b} (h : Keeps s0 s) : Keeps s0 (noteResid a b s) := by
  exact h

theorem placeBoundary_keeps {s0 s : State} {a} (h : Keeps s0 s) : Keeps s0 (placeBoundary a s) := by
  unfold placeBoundary
  extract_lets +onlyGivenNames tl old s1
  have h1 : Keeps s0 s1 := shiftDue_keeps h
  clear_value s1
  exact h1

theorem placeEdge_keeps {s0 s : State} {a} (h : Keeps s0 s) : Keeps s0 (placeEdge a s) := by
  unfold placeEdge
  repeat' first
    | with_reducible apply keeps_ite
    | with_reducible assumption
    | with_reducible apply placeBoundary_keeps
    | with_reducible apply noteResid_keeps
    | extract_lets +onlyGivenNames x
    | with_reducible apply keeps_mk

theorem reacquire_keeps {s0 s : State} (h : Keeps s0 s) : Keeps s0 (reacquire s) := by
  unfold reacquire
  repeat' first
    | with_reducible apply keeps_ite
    | with_reducible assumption
    | extract_lets +onlyGivenNames x
    | with_reducible apply keeps_mk

theorem flywheelEdge_keeps {s0 s : State} {a} (h : Keeps s0 s) : Keeps s0 (flywheelEdge a s) := by
  unfold flywheelEdge
  repeat' first
    | with_reducible apply keeps_ite
    | with_reducible assumption
    | with_reducible apply reacquire_keeps
    | extract_lets +onlyGivenNames x
    | with_reducible apply keeps_mk

theorem startLocked_keeps {s0 s : State} {a} (h : Keeps s0 s) : Keeps s0 (startLocked a s) := by
  unfold startLocked
  repeat' first
    | with_reducible apply keeps_ite
    | with_reducible assumption
    | with_reducible apply noteResid_keeps
    | with_reducible apply startWaiting_keeps
    | with_reducible apply burstCheck_keeps
    | extract_lets +onlyGivenNames x
    | with_reducible apply keeps_mk

theorem noteEdge_keeps {s0 s : State} {a} (h : Keeps s0 s) : Keeps s0 (noteEdge a s) := by
  exact h

theorem lockEdge_keeps {s0 s : State} (h : Keeps s0 s) : Keeps s0 (lockEdge s) := by
  unfold lockEdge
  repeat' first
    | with_reducible apply keeps_ite
    | with_reducible assumption
    | with_reducible apply syncFail_keeps
    | with_reducible apply noteEdge_keeps
    | with_reducible apply startLocked_keeps
    | with_reducible apply flywheelEdge_keeps
    | with_reducible apply flywheel_keeps
    | with_reducible apply placeEdge_keeps
    | extract_lets +onlyGivenNames x
    | split
    | with_reducible apply keeps_mk

theorem lockTin_keeps {s0 s : State} {a b} (h : Keeps s0 s) : Keeps s0 (lockTin a b s) := by
  unfold lockTin
  repeat' first
    | with_reducible apply keeps_ite
    | with_reducible assumption
    | with_reducible apply lockEdge_keeps

theorem releaseLock_keeps {s0 s : State} (h : Keeps s0 s) : Keeps s0 (releaseLock s) := by
  unfold releaseLock
  repeat' first
    | with_reducible assumption
    | with_reducible apply burstCheck_keeps
    | with_reducible apply freeLock_keeps

theorem beginLock_keeps {s0 s : State} {a} (h : Keeps s0 s) : Keeps s0 (beginLock a s) := by
  unfold beginLock
  repeat' first
    | with_reducible assumption
    | extract_lets +onlyGivenNames x
    | with_reducible apply keeps_mk

theorem cmdLaunchSync_keeps {s0 s : State} {a} (h : Keeps s0 s) : KeepsA s0 (cmdLaunchSync a s) := by
  unfold cmdLaunchSync
  repeat' first
    | with_reducible assumption
    | with_reducible apply checked_keeps
    | with_reducible apply keepsA_mk
    | with_reducible apply beginLock_keeps
    | with_reducible apply schedule_keeps
    | with_reducible apply endWaiting_keeps
    | intro _ _
    | extract_lets +onlyGivenNames x
    | split
    | with_reducible exact keeps_id ‹_›

end Sys2Proof.Machine
end

