-- ==== Sys2Proof/Laws/KeepsContexts.lean ====
section
/-! SUPPORT. Laws/KeepsContexts.lean: intervals, watch contexts, records and streams keep what Laws/Keeps.lean
names. -/

namespace Sys2Proof.Machine

open Sys2Proof

/-! ### Tim.lean -/

theorem timFeed_keeps {s0 s : State} {a b c} (h : Keeps s0 s) : Keeps s0 (timFeed a b c s) := by
  unfold timFeed
  repeat' first
    | with_reducible assumption
    | extract_lets +onlyGivenNames x
    | with_reducible apply keeps_mk

theorem timSleep_keeps {s0 s : State} (h : Keeps s0 s) : Keeps s0 (timSleep s) := by
  exact h

theorem cmdTimCfg_keeps {s0 s : State} {a} (h : Keeps s0 s) : KeepsA s0 (cmdTimCfg a s) := by
  unfold cmdTimCfg
  repeat' first
    | with_reducible assumption
    | with_reducible apply checked_keeps
    | with_reducible apply keepsA_mk
    | intro _ _
    | extract_lets +onlyGivenNames x
    | with_reducible exact keeps_id ‹_›
    | with_reducible apply keeps_mk

theorem cmdTimRead_keeps {s0 s : State} {a} (h : Keeps s0 s) : KeepsA s0 (cmdTimRead a s) := by
  unfold cmdTimRead
  repeat' first
    | with_reducible assumption
    | with_reducible apply checked_keeps
    | with_reducible apply keepsA_mk
    | intro _ _
    | extract_lets +onlyGivenNames x
    | with_reducible exact keeps_id ‹_›
    | with_reducible apply keeps_mk

/-! ### Ctx.lean -/

theorem restartRun_keeps {s0 s : State} {a b c} (h : Keeps s0 s) : Keeps s0 (restartRun a b c s) := by
  unfold restartRun
  repeat' first
    | with_reducible assumption
    | with_reducible apply modCtx_keeps

theorem modStream_keeps {s0 s : State} {a b} (h : Keeps s0 s) : Keeps s0 (modStream a b s) := by
  exact h

theorem freeCopies_keeps {s0 s : State} (h : Keeps s0 s) : Keeps s0 (freeCopies s) := by
  unfold freeCopies
  repeat' first
    | with_reducible assumption
    | with_reducible apply modCtx_keeps
    | with_reducible apply keeps_foldl
    | intro _ _ _
    | extract_lets +onlyGivenNames x
    | with_reducible apply keeps_mk

theorem setPattern_keeps {s0 s : State} {a b c d e} (h : Keeps s0 s) : Keeps s0 (setPattern a b c d e s) := by
  unfold setPattern
  repeat' first
    | with_reducible assumption
    | with_reducible apply restartRun_keeps
    | with_reducible apply modCtx_keeps

theorem lapsePoints_keeps {s0 s : State} {a} (h : Keeps s0 s) : Keeps s0 (lapsePoints a s) := by
  unfold lapsePoints
  repeat' first
    | with_reducible apply keeps_ite
    | with_reducible assumption
    | with_reducible apply modCtx_keeps
    | with_reducible apply freeCopies_keeps
    | with_reducible apply setPattern_keeps
    | with_reducible apply haltCores_keeps
    | with_reducible apply keeps_foldl
    | intro _ _ _
    | extract_lets +onlyGivenNames x
    | split

theorem setPin_keeps {s0 s : State} {a b} (h : Keeps s0 s) : Keeps s0 (setPin a b s) := by
  exact h

theorem assertPin_keeps {s0 s : State} {a b} (h : Keeps s0 s) : Keeps s0 (assertPin a b s) := by
  unfold assertPin
  repeat' first
    | with_reducible apply keeps_ite
    | with_reducible assumption
    | with_reducible apply timFeed_keeps
    | with_reducible apply send_keeps
    | with_reducible apply setPin_keeps
    | extract_lets +onlyGivenNames x
    | split

theorem releasePin_keeps {s0 s : State} {a b} (h : Keeps s0 s) : Keeps s0 (releasePin a b s) := by
  unfold releasePin
  repeat' first
    | with_reducible apply keeps_ite
    | with_reducible assumption
    | with_reducible apply send_keeps
    | with_reducible apply setPin_keeps

theorem endPulse_keeps {s0 s : State} {a b} (h : Keeps s0 s) : Keeps s0 (endPulse a b s) := by
  unfold endPulse
  repeat' first
    | with_reducible apply keeps_ite
    | with_reducible assumption
    | with_reducible apply releasePin_keeps

theorem startFrame_keeps {s0 s : State} {a b} (h : Keeps s0 s) : Keeps s0 (startFrame a b s) := by
  unfold startFrame
  repeat' first
    | with_reducible assumption
    | with_reducible apply send_keeps
    | extract_lets +onlyGivenNames x
    | with_reducible apply keeps_mk

theorem startIdle_keeps {s0 s : State} {a} (h : Keeps s0 s) : Keeps s0 (startIdle a s) := by
  unfold startIdle
  repeat' first
    | with_reducible assumption
    | with_reducible apply send_keeps
    | extract_lets +onlyGivenNames x
    | with_reducible apply keeps_mk

theorem nextFrame_keeps {s0 s : State} {a} (h : Keeps s0 s) : Keeps s0 (nextFrame a s) := by
  unfold nextFrame
  repeat' first
    | with_reducible assumption
    | with_reducible apply startFrame_keeps
    | with_reducible apply startIdle_keeps
    | extract_lets +onlyGivenNames x
    | split
    | with_reducible apply keeps_mk

theorem framesTo_keeps {s0 s : State} {a b} (h : Keeps s0 s) : Keeps s0 (framesTo a b s) := by
  induction a generalizing s with
  | zero => exact h
  | succ n ih =>
    unfold framesTo
    repeat' first
      | with_reducible apply keeps_ite
      | with_reducible apply ih
      | with_reducible assumption
      | with_reducible apply nextFrame_keeps
      | split

theorem alarmsTo_keeps {s0 s : State} {a} (h : Keeps s0 s) : Keeps s0 (alarmsTo a s) := by
  unfold alarmsTo
  repeat' first
    | with_reducible assumption
    | with_reducible apply framesTo_keeps
    | with_reducible apply endPulse_keeps
    | with_reducible apply keeps_foldl
    | intro _ _ _

theorem almsWord_keeps {s0 s : State} {a b} (h : Keeps s0 s) : Keeps s0 (almsWord a b s) := by
  unfold almsWord
  repeat' first
    | with_reducible apply keeps_ite
    | with_reducible assumption
    | with_reducible apply startFrame_keeps
    | extract_lets +onlyGivenNames x
    | with_reducible apply keeps_mk

theorem alarmIrq_keeps {s0 s : State} {a b} (h : Keeps s0 s) : Keeps s0 (alarmIrq a b s) := by
  unfold alarmIrq
  repeat' first
    | with_reducible apply keeps_ite
    | with_reducible assumption
    | with_reducible apply reqVector_keeps
    | extract_lets +onlyGivenNames x
    | split
    | with_reducible apply keeps_mk

theorem sendAlarm_keeps {s0 s : State} {a} (h : Keeps s0 s) : Keeps s0 (sendAlarm a s) := by
  unfold sendAlarm
  repeat' first
    | with_reducible apply keeps_ite
    | with_reducible assumption
    | with_reducible apply assertPin_keeps
    | with_reducible apply alarmsTo_keeps
    | with_reducible apply almsWord_keeps
    | with_reducible apply keeps_foldl
    | intro _ _ _

theorem driveDue_keeps {s0 s : State} {a} (h : Keeps s0 s) : Keeps s0 (driveDue a s) := by
  unfold driveDue
  repeat' first
    | with_reducible assumption
    | with_reducible apply sendAlarm_keeps
    | with_reducible apply keeps_foldl
    | extract_lets +onlyGivenNames x
    | with_reducible apply keeps_mk

theorem flushAlarms_keeps {s0 s : State} (h : Keeps s0 s) : Keeps s0 (flushAlarms s) := by
  unfold flushAlarms
  repeat' first
    | with_reducible assumption
    | with_reducible apply driveDue_keeps

theorem alarmsBy_keeps {s0 s : State} {a} (h : Keeps s0 s) : Keeps s0 (alarmsBy a s) := by
  unfold alarmsBy
  repeat' first
    | with_reducible assumption
    | with_reducible apply alarmsTo_keeps
    | with_reducible apply driveDue_keeps

theorem driveAlarms_keeps {s0 s : State} {a b c d e} (h : Keeps s0 s) : Keeps s0 (driveAlarms a b c d e s) := by
  unfold driveAlarms
  repeat' first
    | with_reducible apply keeps_ite
    | with_reducible assumption
    | with_reducible apply flushAlarms_keeps
    | with_reducible apply State.took_keeps
    | with_reducible apply alarmIrq_keeps
    | extract_lets +onlyGivenNames x
    | with_reducible apply keeps_mk

theorem joinAlarm_keeps {s0 s : State} {a b c} (h : Keeps s0 s) : Keeps s0 (joinAlarm a b c s) := by
  unfold joinAlarm
  repeat' first
    | with_reducible assumption
    | extract_lets +onlyGivenNames x
    | with_reducible apply keeps_mk

theorem configPin_keeps {s0 s : State} {a b c d} (h : Keeps s0 s) : Keeps s0 (configPin a b c d s) := by
  unfold configPin
  repeat' first
    | with_reducible apply keeps_ite
    | with_reducible assumption
    | with_reducible apply releasePin_keeps
    | with_reducible apply setPin_keeps

theorem clearPin_keeps {s0 s : State} {a} (h : Keeps s0 s) : Keeps s0 (clearPin a s) := by
  unfold clearPin
  repeat' first
    | with_reducible apply keeps_ite
    | with_reducible assumption
    | with_reducible apply releasePin_keeps
    | with_reducible apply assertPin_keeps
    | extract_lets +onlyGivenNames x
    | split

theorem cmdAlarmRoute_keeps {s0 s : State} {a} (h : Keeps s0 s) : KeepsA s0 (cmdAlarmRoute a s) := by
  unfold cmdAlarmRoute
  repeat' first
    | with_reducible assumption
    | with_reducible apply checked_keeps
    | with_reducible apply keepsA_mk
    | with_reducible apply alarmsBy_keeps
    | with_reducible apply configPin_keeps
    | with_reducible apply clearPin_keeps
    | with_reducible apply keeps_foldl
    | intro _ _ _
    | intro _ _
    | extract_lets +onlyGivenNames x
    | split
    | with_reducible exact keeps_id ‹_›

theorem quietAlarms_keeps {s0 s : State} (h : Keeps s0 s) : Keeps s0 (quietAlarms s) := by
  unfold quietAlarms
  repeat' first
    | with_reducible assumption
    | with_reducible apply releasePin_keeps
    | with_reducible apply alarmsTo_keeps
    | with_reducible apply driveDue_keeps
    | with_reducible apply keeps_foldl
    | intro _ _ _
    | extract_lets +onlyGivenNames x
    | with_reducible apply keeps_mk

/-! ### Coder.lean -/

theorem putBlock_keeps {s0 s : State} {a b} (h : Keeps s0 s) : Keeps s0 (putBlock a b s) := by
  unfold putBlock
  repeat' first
    | with_reducible apply keeps_ite
    | with_reducible assumption
    | with_reducible apply modStream_keeps

theorem putReady_keeps {s0 s : State} {a b} (h : Keeps s0 s) : Keeps s0 (putReady a b s) := by
  induction a generalizing s with
  | zero => exact h
  | succ n ih =>
    unfold putReady
    repeat' first
      | with_reducible apply keeps_ite
      | with_reducible apply ih
      | with_reducible assumption
      | with_reducible apply putBlock_keeps

theorem putAll_keeps {s0 s : State} {a b c} (h : Keeps s0 s) : Keeps s0 (putAll a b c s) := by
  induction a generalizing s with
  | zero => exact h
  | succ n ih =>
    unfold putAll
    repeat' first
      | with_reducible apply keeps_ite
      | with_reducible apply ih
      | with_reducible assumption
      | with_reducible apply putBlock_keeps

theorem closeBlock_keeps {s0 s : State} {a} (h : Keeps s0 s) : Keeps s0 (closeBlock a s) := by
  unfold closeBlock
  repeat' first
    | with_reducible assumption
    | with_reducible apply putAll_keeps
    | with_reducible apply modStream_keeps

theorem endSave_keeps {s0 s : State} {a} (h : Keeps s0 s) : Keeps s0 (endSave a s) := by
  unfold endSave
  repeat' first
    | with_reducible apply keeps_ite
    | with_reducible assumption
    | with_reducible apply closeBlock_keeps
    | with_reducible apply modStream_keeps

theorem streamStopped_keeps {s0 s : State} {a} (h : Keeps s0 s) : Keeps s0 (streamStopped a s) := by
  unfold streamStopped
  repeat' first
    | with_reducible apply keeps_ite
    | with_reducible assumption
    | with_reducible apply endSave_keeps
    | with_reducible apply modStream_keeps
    | with_reducible apply closeBlock_keeps

theorem coderCheck_keeps {s0 s : State} {a} (h : Keeps s0 s) : Keeps s0 (coderCheck a s) := by
  unfold coderCheck
  repeat' first
    | with_reducible apply keeps_ite
    | with_reducible assumption
    | with_reducible apply raise_keeps
    | with_reducible apply modStream_keeps
    | with_reducible apply State.took_keeps

theorem codeLine_keeps {s0 s : State} {a b} (h : Keeps s0 s) : Keeps s0 (codeLine a b s) := by
  unfold codeLine
  repeat' first
    | with_reducible apply keeps_ite
    | with_reducible assumption
    | with_reducible apply coderCheck_keeps
    | with_reducible apply closeBlock_keeps
    | with_reducible apply modStream_keeps
    | with_reducible apply putReady_keeps

theorem codeOwed_keeps {s0 s : State} {a b} (h : Keeps s0 s) : Keeps s0 (codeOwed a b s) := by
  unfold codeOwed
  repeat' first
    | with_reducible apply keeps_ite
    | with_reducible assumption
    | with_reducible apply modStream_keeps
    | with_reducible apply codeLine_keeps
    | with_reducible apply endSave_keeps
    | extract_lets +onlyGivenNames x
    | split

theorem streamLine_keeps {s0 s : State} {a b} (h : Keeps s0 s) : Keeps s0 (streamLine a b s) := by
  unfold streamLine
  repeat' first
    | with_reducible apply keeps_ite
    | with_reducible assumption
    | with_reducible apply codeOwed_keeps
    | with_reducible apply codeLine_keeps

/-! ### Records.lean -/

theorem claimReserve_keeps {s0 s : State} {a} (h : Keeps s0 s) : Keeps s0 (claimReserve a s) := by
  unfold claimReserve
  repeat' first
    | with_reducible assumption
    | with_reducible apply modCtx_keeps
    | extract_lets +onlyGivenNames x
    | split

theorem retryReserves_keeps {s0 s : State} (h : Keeps s0 s) : Keeps s0 (retryReserves s) := by
  unfold retryReserves
  repeat' first
    | with_reducible assumption
    | with_reducible apply claimReserve_keeps
    | with_reducible apply keeps_foldl

theorem claimAtArm_keeps {s0 s : State} {a} (h : Keeps s0 s) : Keeps s0 (claimAtArm a s) := by
  unfold claimAtArm
  repeat' first
    | with_reducible assumption
    | with_reducible apply modCtx_keeps

theorem dropClaims_keeps {s0 s : State} {a} (h : Keeps s0 s) : Keeps s0 (dropClaims a s) := by
  unfold dropClaims
  repeat' first
    | with_reducible assumption
    | with_reducible apply modCtx_keeps

theorem modRec_keeps {s0 s : State} {a b} (h : Keeps s0 s) : Keeps s0 (modRec a b s) := by
  unfold modRec
  repeat' first
    | with_reducible assumption
    | extract_lets +onlyGivenNames x
    | with_reducible apply keeps_mk

theorem freeRec_keeps {s0 s : State} {a} (h : Keeps s0 s) : Keeps s0 (freeRec a s) := by
  exact h

theorem addRec_keeps {s0 s : State} {a} (h : Keeps s0 s) : Keeps s0 (addRec a s) := by
  unfold addRec
  repeat' first
    | with_reducible assumption
    | with_reducible apply State.took_keeps
    | extract_lets +onlyGivenNames x
    | with_reducible apply keeps_mk

theorem recordDone_keeps {s0 s : State} {a} (h : Keeps s0 s) : Keeps s0 (recordDone a s) := by
  unfold recordDone
  repeat' first
    | with_reducible assumption
    | with_reducible apply evtItem_keeps

theorem completeRec_keeps {s0 s : State} {a} (h : Keeps s0 s) : Keeps s0 (completeRec a s) := by
  unfold completeRec
  repeat' first
    | with_reducible apply keeps_ite
    | with_reducible assumption
    | with_reducible apply recordDone_keeps
    | with_reducible apply modRec_keeps
    | with_reducible apply streamStopped_keeps
    | with_reducible apply lapsePoints_keeps
    | with_reducible apply modCtx_keeps
    | split

theorem endRearm_keeps {s0 s : State} {a} (h : Keeps s0 s) : Keeps s0 (endRearm a s) := by
  unfold endRearm
  repeat' first
    | with_reducible apply keeps_ite
    | with_reducible assumption
    | with_reducible apply modCtx_keeps
    | with_reducible apply claimReserve_keeps

theorem beginRearm_keeps {s0 s : State} {a} (h : Keeps s0 s) : Keeps s0 (beginRearm a s) := by
  unfold beginRearm
  repeat' first
    | with_reducible apply keeps_ite
    | with_reducible assumption
    | with_reducible apply modCtx_keeps
    | with_reducible apply endRearm_keeps

theorem tickRearm_keeps {s0 s : State} {a} (h : Keeps s0 s) : Keeps s0 (tickRearm a s) := by
  unfold tickRearm
  repeat' first
    | with_reducible apply keeps_ite
    | with_reducible assumption
    | with_reducible apply endRearm_keeps
    | with_reducible apply modCtx_keeps

theorem rearmBoundary_keeps {s0 s : State} (h : Keeps s0 s) : Keeps s0 (rearmBoundary s) := by
  unfold rearmBoundary
  repeat' first
    | with_reducible assumption
    | with_reducible apply tickRearm_keeps
    | with_reducible apply keeps_foldl

theorem rearmStopped_keeps {s0 s : State} (h : Keeps s0 s) : Keeps s0 (rearmStopped s) := by
  unfold rearmStopped
  repeat' first
    | with_reducible assumption
    | with_reducible apply endRearm_keeps
    | with_reducible apply keeps_foldl

theorem captured_keeps {s0 s : State} {a b} (h : Keeps s0 s) : Keeps s0 (captured a b s) := by
  unfold captured
  repeat' first
    | with_reducible apply keeps_ite
    | with_reducible assumption
    | with_reducible apply modRec_keeps
    | with_reducible apply beginRearm_keeps
    | with_reducible apply completeRec_keeps
    | extract_lets +onlyGivenNames x
    | split

theorem rtWrite_keeps {s0 s : State} {a} (h : Keeps s0 s) : Keeps s0 (rtWrite a s) := by
  unfold rtWrite
  repeat' first
    | with_reducible assumption
    | extract_lets +onlyGivenNames x
    | with_reducible apply keeps_mk

theorem rtDropped_keeps {s0 s : State} {a} (h : Keeps s0 s) : Keeps s0 (rtDropped a s) := by
  unfold rtDropped
  repeat' first
    | with_reducible apply keeps_ite
    | with_reducible assumption
    | with_reducible apply raise_keeps
    | extract_lets +onlyGivenNames x
    | with_reducible apply keeps_mk

theorem storeLine_keeps {s0 s : State} {a b c} (h : Keeps s0 s) : Keeps s0 (storeLine a b c s) := by
  unfold storeLine
  repeat' first
    | with_reducible apply keeps_ite
    | with_reducible assumption
    | with_reducible apply modRec_keeps
    | with_reducible apply modCtx_keeps
    | extract_lets +onlyGivenNames x
    | split

theorem writeLine_keeps {s0 s : State} {a b c} (h : Keeps s0 s) : Keeps s0 (writeLine a b c s) := by
  unfold writeLine
  repeat' first
    | with_reducible apply keeps_ite
    | with_reducible assumption
    | with_reducible apply storeLine_keeps
    | with_reducible apply rtDropped_keeps
    | with_reducible apply modCtx_keeps
    | with_reducible apply rtWrite_keeps
    | split

theorem placeLine_keeps {s0 s : State} {a b c} (h : Keeps s0 s) : Keeps s0 (placeLine a b c s) := by
  unfold placeLine
  repeat' first
    | with_reducible apply keeps_ite
    | with_reducible assumption
    | with_reducible apply modCtx_keeps
    | with_reducible apply writeLine_keeps

theorem markLine_keeps {s0 s : State} {a b c} (h : Keeps s0 s) : Keeps s0 (markLine a b c s) := by
  unfold markLine
  repeat' first
    | with_reducible apply keeps_ite
    | with_reducible assumption
    | with_reducible apply modCtx_keeps
    | with_reducible apply modRec_keeps
    | extract_lets +onlyGivenNames x
    | split

theorem cut_keeps {s0 s : State} {a b} (h : Keeps s0 s) : Keeps s0 (cut a b s) := by
  unfold cut
  repeat' first
    | with_reducible apply keeps_ite
    | with_reducible assumption
    | with_reducible apply modRec_keeps
    | with_reducible apply modCtx_keeps
    | with_reducible apply captured_keeps
    | extract_lets +onlyGivenNames x
    | split

theorem lineEnd_keeps {s0 s : State} {a b} (h : Keeps s0 s) : Keeps s0 (lineEnd a b s) := by
  unfold lineEnd
  repeat' first
    | with_reducible apply keeps_ite
    | with_reducible assumption
    | with_reducible apply cut_keeps
    | with_reducible apply captured_keeps
    | extract_lets +onlyGivenNames x
    | split

theorem startRecord_keeps {s0 s : State} {a b c d} (h : Keeps s0 s) : Keeps s0 (startRecord a b c d s).2 := by
  unfold startRecord
  repeat' first
    | with_reducible assumption
    | with_reducible apply addRec_keeps
    | with_reducible apply modCtx_keeps

theorem missTrigger_keeps {s0 s : State} {a b c d e} (h : Keeps s0 s) : Keeps s0 (missTrigger a b c d e s) := by
  unfold missTrigger
  repeat' first
    | with_reducible assumption
    | with_reducible apply markLine_keeps
    | with_reducible apply modCtx_keeps
    | with_reducible apply evtItemAt_keeps

theorem triggerItem_keeps {s0 s : State} {a b c d e f} (h : Keeps s0 s) : Keeps s0 (triggerItem a b c d e f s) := by
  unfold triggerItem
  repeat' first
    | with_reducible assumption
    | with_reducible apply evtItemAt_keeps

theorem dispose_keeps {s0 s : State} {a b c d e} (h : Keeps s0 s) : Keeps s0 (dispose a b c d e s).2 := by
  unfold dispose
  repeat' first
    | with_reducible apply keeps_ite
    | with_reducible apply keeps_ite_snd
    | with_reducible assumption
    | with_reducible apply modCtx_keeps
    | with_reducible apply triggerItem_keeps
    | with_reducible apply startRecord_keeps
    | with_reducible apply markLine_keeps
    | with_reducible apply missTrigger_keeps
    | extract_lets +onlyGivenNames x
    | split

theorem joinTrigger_keeps {s0 s : State} {a b c d} (h : Keeps s0 s) : Keeps s0 (joinTrigger a b c d s) := by
  unfold joinTrigger
  repeat' first
    | with_reducible apply keeps_ite
    | with_reducible assumption
    | with_reducible apply modCtx_keeps
    | with_reducible apply amendItems_keeps
    | with_reducible apply joinAlarm_keeps
    | with_reducible apply modRec_keeps
    | extract_lets +onlyGivenNames x
    | split

theorem trigger_keeps {s0 s : State} {a b c d e} (h : Keeps s0 s) : Keeps s0 (trigger a b c d e s) := by
  unfold trigger
  extract_lets c0 prior
  clear_value prior
  cases prior with
  | some t => exact joinTrigger_keeps h
  | none =>
    exact modCtx_keeps (dispose_keeps (driveAlarms_keeps h))

theorem abandonRec_keeps {s0 s : State} {a} (h : Keeps s0 s) : Keeps s0 (abandonRec a s) := by
  unfold abandonRec
  repeat' first
    | with_reducible apply keeps_ite
    | with_reducible assumption
    | with_reducible apply cut_keeps
    | with_reducible apply modRec_keeps
    | with_reducible apply completeRec_keeps
    | extract_lets +onlyGivenNames x
    | split

theorem disarmNow_keeps {s0 s : State} {a b} (h : Keeps s0 s) : Keeps s0 (disarmNow a b s) := by
  unfold disarmNow
  repeat' first
    | with_reducible apply keeps_ite
    | with_reducible assumption
    | with_reducible apply modCtx_keeps
    | with_reducible apply retryReserves_keeps
    | with_reducible apply cut_keeps
    | with_reducible apply abandonRec_keeps
    | with_reducible apply dropClaims_keeps
    | with_reducible apply streamStopped_keeps
    | extract_lets +onlyGivenNames x
    | split

theorem discardRec_keeps {s0 s : State} {a} (h : Keeps s0 s) : Keeps s0 (discardRec a s) := by
  unfold discardRec
  repeat' first
    | with_reducible apply keeps_ite
    | with_reducible assumption
    | with_reducible apply freeRec_keeps
    | with_reducible apply modCtx_keeps
    | with_reducible apply streamStopped_keeps
    | with_reducible apply lapsePoints_keeps
    | with_reducible apply beginRearm_keeps
    | extract_lets +onlyGivenNames x
    | split

theorem cmdRecList_keeps {s0 s : State} {a} (h : Keeps s0 s) : KeepsA s0 (cmdRecList a s) := by
  unfold cmdRecList
  repeat' first
    | with_reducible assumption
    | with_reducible apply checked_keeps
    | with_reducible apply keepsA_mk
    | intro _ _
    | extract_lets +onlyGivenNames x
    | with_reducible exact keeps_id ‹_›

theorem cmdRecFetch_keeps {s0 s : State} {a} (h : Keeps s0 s) : KeepsA s0 (cmdRecFetch a s) := by
  unfold cmdRecFetch
  extract_lets +onlyGivenNames p0 h0 off len
  split
  · exact reject_keeps h
  · refine checked_keeps ?_ h
    extract_lets +onlyGivenNames y s1
    have h1 : Keeps s0 s1 := keeps_ite h h
    clear_value s1
    refine keepsA_ite ?_ ?_
    · exact ⟨h1, fun _ hu => hu⟩
    · exact ⟨h1, fun _ hu => hu⟩

theorem releaseOne_keeps {s0 s : State} {a} (h : Keeps s0 s) : Keeps s0 (releaseOne a s).2 := by
  unfold releaseOne
  repeat' first
    | with_reducible apply keeps_ite_snd
    | with_reducible assumption
    | with_reducible apply freeRec_keeps
    | split

theorem releaseAll_keeps {s0 : State} {a : List Nat} {s : State} (h : Keeps s0 s) : Keeps s0 (releaseAll a s).2 := by
  induction a generalizing s with
  | nil => exact h
  | cons x xs ih =>
    unfold releaseAll
    exact ih (releaseOne_keeps h)

theorem cmdRecRelease_keeps {s0 s : State} {a} (h : Keeps s0 s) : KeepsA s0 (cmdRecRelease a s) := by
  unfold cmdRecRelease
  repeat' first
    | with_reducible assumption
    | with_reducible apply checked_keeps
    | with_reducible apply keepsA_mk
    | with_reducible apply releaseAll_keeps
    | with_reducible apply retryReserves_keeps
    | with_reducible apply freeRec_keeps
    | with_reducible apply keeps_foldl
    | intro _ _
    | extract_lets +onlyGivenNames x
    | with_reducible exact keeps_id ‹_›

theorem cmdPoolCfg_keeps {s0 s : State} {a} (h : Keeps s0 s) : KeepsA s0 (cmdPoolCfg a s) := by
  unfold cmdPoolCfg
  repeat' first
    | with_reducible apply keeps_ite
    | with_reducible assumption
    | with_reducible apply checked_keeps
    | with_reducible apply keepsA_mk
    | with_reducible apply modCtx_keeps
    | with_reducible apply retryReserves_keeps
    | intro _ _
    | extract_lets +onlyGivenNames x
    | with_reducible exact keeps_id ‹_›
    | with_reducible apply keeps_mk

/-! ### Streams.lean -/

theorem setStage_keeps {s0 s : State} {a b} (h : Keeps s0 s) : Keeps s0 (setStage a b s) := by
  exact h

theorem cmdBulkLoad_keeps {s0 s : State} {a} (h : Keeps s0 s) : KeepsA s0 (cmdBulkLoad a s) := by
  unfold cmdBulkLoad
  repeat' first
    | with_reducible apply keepsA_ite
    | with_reducible assumption
    | with_reducible apply keepsA_mk
    | with_reducible apply setStage_keeps
    | intro _ _
    | extract_lets +onlyGivenNames x
    | with_reducible exact keeps_id ‹_›

theorem recoverStages_keeps {s0 s : State} (h : Keeps s0 s) : Keeps s0 (recoverStages s) := by
  unfold recoverStages
  repeat' first
    | with_reducible assumption
    | with_reducible apply keeps_mk

theorem cmdZoneMapLoad_keeps {s0 s : State} {a} (h : Keeps s0 s) : KeepsA s0 (cmdZoneMapLoad a s) := by
  unfold cmdZoneMapLoad
  extract_lets +onlyGivenNames p0 img dts
  refine checked_keeps ?_ h
  clear_value dts img
  cases img with
  | none => exact ⟨h, fun _ hu => hu⟩
  | some i =>
    refine keepsA_ite ⟨h, fun _ hu => hu⟩ (keepsA_ite ⟨h, fun _ hu => hu⟩ (keepsA_ite (reject_keeps h)
      (keepsA_ite ⟨h, fun _ hu => hu⟩ ?_)))
    exact ⟨schedule_keeps h, fun _ hu => hu⟩

theorem forwardSync_keeps {s0 s : State} (h : Keeps s0 s) : Keeps s0 (forwardSync s) := by
  unfold forwardSync
  repeat' first
    | with_reducible apply keeps_ite
    | with_reducible assumption
    | extract_lets +onlyGivenNames x
    | with_reducible apply keeps_mk

theorem cmdStreamCfg_keeps {s0 s : State} {a} (h : Keeps s0 s) : KeepsA s0 (cmdStreamCfg a s) := by
  unfold cmdStreamCfg
  repeat' first
    | with_reducible assumption
    | with_reducible apply checked_keeps
    | with_reducible apply keepsA_mk
    | with_reducible apply modStream_keeps
    | with_reducible apply forwardSync_keeps
    | with_reducible apply streamStopped_keeps
    | intro _ _
    | extract_lets +onlyGivenNames x
    | split
    | with_reducible exact keeps_id ‹_›

theorem cmdStreamSave_keeps {s0 s : State} {a} (h : Keeps s0 s) : KeepsA s0 (cmdStreamSave a s) := by
  unfold cmdStreamSave
  repeat' first
    | with_reducible assumption
    | with_reducible apply checked_keeps
    | with_reducible apply keepsA_mk
    | with_reducible apply State.took_keeps
    | with_reducible apply modStream_keeps
    | with_reducible apply closeBlock_keeps
    | intro _ _
    | extract_lets +onlyGivenNames x
    | split
    | with_reducible exact keeps_id ‹_›

theorem cmdStreamRestore_keeps {s0 s : State} {a} (h : Keeps s0 s) : KeepsA s0 (cmdStreamRestore a s) := by
  unfold cmdStreamRestore
  repeat' first
    | with_reducible assumption
    | with_reducible apply checked_keeps
    | with_reducible apply keepsA_mk
    | with_reducible apply modStream_keeps
    | with_reducible apply endSave_keeps
    | intro _ _
    | extract_lets +onlyGivenNames x
    | with_reducible exact keeps_id ‹_›

theorem dropBlock_keeps {s0 s : State} {a b} (h : Keeps s0 s) : Keeps s0 (dropBlock a b s) := by
  unfold dropBlock
  repeat' first
    | with_reducible assumption
    | with_reducible apply modStream_keeps

theorem writeToRing_keeps {s0 s : State} {a b} (h : Keeps s0 s) : Keeps s0 (writeToRing a b s) := by
  unfold writeToRing
  repeat' first
    | with_reducible assumption
    | with_reducible apply send_keeps

theorem sendDatagram_keeps {s0 s : State} {a b} (h : Keeps s0 s) : Keeps s0 (sendDatagram a b s) := by
  unfold sendDatagram
  repeat' first
    | with_reducible assumption
    | with_reducible apply send_keeps

theorem blockIrq_keeps {s0 s : State} {a b} (h : Keeps s0 s) : Keeps s0 (blockIrq a b s) := by
  unfold blockIrq
  repeat' first
    | with_reducible apply keeps_ite
    | with_reducible assumption
    | with_reducible apply modStream_keeps
    | with_reducible apply reqVector_keeps

theorem recoverStreams_keeps {s0 s : State} (h : Keeps s0 s) : Keeps s0 (recoverStreams s) := by
  exact h

theorem unconfigurePcie_keeps {s0 s : State} (h : Keeps s0 s) : Keeps s0 (unconfigurePcie s) := by
  unfold unconfigurePcie
  repeat' first
    | with_reducible assumption
    | with_reducible apply keeps_mk

/-! ### Watch.lean -/

theorem evaluate_keeps {s0 s : State} {a b c d} (h : Keeps s0 s) : Keeps s0 (evaluate a b c d s).2.2 := by
  unfold evaluate
  extract_lets +onlyGivenNames x whole
  clear_value whole
  split
  · exact h
  · extract_lets +onlyGivenNames ends ms
    clear_value ms
    split
    · exact h
    · split
      exact modCtx_keeps h

theorem discardPast_keeps {s0 s : State} {a b} (h : Keeps s0 s) : Keeps s0 (discardPast a b s) := by
  unfold discardPast
  repeat' first
    | with_reducible apply keeps_ite
    | with_reducible assumption
    | with_reducible apply discardRec_keeps

theorem decide__keeps {s0 s : State} {a} (h : Keeps s0 s) : Keeps s0 (decide_ a s) := by
  unfold decide_
  repeat' first
    | with_reducible apply keeps_ite
    | with_reducible assumption
    | with_reducible apply discardPast_keeps
    | with_reducible apply trigger_keeps
    | with_reducible apply State.adv_keeps
    | with_reducible apply lineEnd_keeps

theorem decideAll_keeps {s0 s : State} {a} (h : Keeps s0 s) : Keeps s0 (decideAll a s) := by
  unfold decideAll
  repeat' first
    | with_reducible assumption
    | with_reducible apply decide__keeps
    | with_reducible apply keeps_foldl

theorem takeEdges_keeps {s0 s : State} {a b} (h : Keeps s0 s) : Keeps s0 (takeEdges a b s).2 := by
  unfold takeEdges
  repeat' first
    | with_reducible assumption
    | with_reducible apply modCtx_keeps

theorem dueEdges_keeps {s0 s : State} {a} (h : Keeps s0 s) : Keeps s0 (dueEdges a s).2 := by
  unfold dueEdges
  repeat' first
    | with_reducible assumption
    | with_reducible apply takeEdges_keeps

theorem releaseEdges_keeps {s0 s : State} {a} (h : Keeps s0 s) : Keeps s0 (releaseEdges a s) := by
  unfold releaseEdges
  repeat' first
    | with_reducible assumption
    | with_reducible apply takeEdges_keeps
    | with_reducible apply decideAll_keeps

theorem finishLine_keeps {s0 s : State} {a b c} (h : Keeps s0 s) : Keeps s0 (finishLine a b c s) := by
  unfold finishLine
  have he := evaluate_keeps (a := a) (b := b) (c := c) (d := b.values.length) h
  generalize evaluate a b c b.values.length s = e at he
  obtain ⟨d, w, u⟩ := e
  exact lineEnd_keeps (decideAll_keeps he)

theorem settleJobs_keeps {s0 s : State} {a} (h : Keeps s0 s) : Keeps s0 (settleJobs a s) := by
  unfold settleJobs
  repeat' first
    | with_reducible assumption
    | with_reducible apply modCtx_keeps

theorem applyPoint_keeps {s0 s : State} {a b c} (h : Keeps s0 s) : Keeps s0 (applyPoint a b c s) := by
  unfold applyPoint
  repeat' first
    | with_reducible apply keeps_ite
    | with_reducible assumption
    | with_reducible apply lapsePoints_keeps
    | with_reducible apply disarmNow_keeps
    | with_reducible apply releaseEdges_keeps
    | with_reducible apply modCtx_keeps
    | with_reducible apply setPattern_keeps
    | with_reducible apply settleJobs_keeps
    | with_reducible apply haltCores_keeps
    | with_reducible apply freeCopies_keeps
    | with_reducible apply restartRun_keeps
    | split

theorem stopNow_keeps {s0 s : State} {a} (h : Keeps s0 s) : Keeps s0 (stopNow a s) := by
  unfold stopNow
  repeat' first
    | with_reducible assumption
    | with_reducible apply applyPoint_keeps
    | with_reducible apply modCtx_keeps

theorem endStop_keeps {s0 s : State} {a} (h : Keeps s0 s) : Keeps s0 (endStop a s) := by
  unfold endStop
  repeat' first
    | with_reducible apply keeps_ite
    | with_reducible assumption
    | with_reducible apply applyPoint_keeps
    | with_reducible apply modCtx_keeps
    | split

theorem recoverContexts_keeps {s0 s : State} (h : Keeps s0 s) : Keeps s0 (recoverContexts s) := by
  unfold recoverContexts
  repeat' first
    | with_reducible apply keeps_ite
    | with_reducible assumption
    | with_reducible apply releaseEdges_keeps
    | with_reducible apply restartRun_keeps
    | with_reducible apply modCtx_keeps
    | with_reducible apply endStop_keeps
    | with_reducible apply discardRec_keeps
    | with_reducible apply lapsePoints_keeps
    | with_reducible apply driveDue_keeps
    | with_reducible apply keeps_foldl
    | intro _ _ _

theorem finishJobs_keeps {s0 s : State} {a b} (h : Keeps s0 s) : Keeps s0 (finishJobs a b s) := by
  induction a generalizing s with
  | zero => exact h
  | succ n ih =>
    unfold finishJobs
    split
    · rename_i j rest e
      extract_lets +onlyGivenNames bits
      generalize hr : (if j.settled = true then (none, true, s) else evaluate b j.line bits bits.length s) = r
      have hk : Keeps s0 r.2.2 := by
        subst hr
        split
        · exact h
        · exact evaluate_keeps h
      obtain ⟨d, done, u⟩ := r
      dsimp only
      generalize hq : dueEdges b _ = q
      have hv : Keeps s0 q.2 := hq ▸ dueEdges_keeps (modCtx_keeps hk)
      obtain ⟨es, v⟩ := q
      have hd {x} : Keeps s0 (decideAll x v) := decideAll_keeps hv
      exact keeps_ite (ih (lineEnd_keeps hd)) hd
    · exact endStop_keeps h

theorem deliver_keeps {s0 s : State} {a b} (h : Keeps s0 s) : Keeps s0 (deliver a b s) := by
  unfold deliver
  repeat' first
    | with_reducible assumption
    | with_reducible apply flushAlarms_keeps
    | with_reducible apply finishJobs_keeps
    | with_reducible apply modCtx_keeps

theorem gapJobs_keeps {s0 s : State} {a} (h : Keeps s0 s) : Keeps s0 (gapJobs a s) := by
  unfold gapJobs
  repeat' first
    | with_reducible assumption
    | with_reducible apply flushAlarms_keeps
    | with_reducible apply finishJobs_keeps
    | with_reducible apply modCtx_keeps

theorem stopCores_keeps {s0 s : State} {a b} (h : Keeps s0 s) : Keeps s0 (stopCores a b s) := by
  unfold stopCores
  repeat' first
    | with_reducible assumption
    | with_reducible apply haltCores_keeps
    | with_reducible apply gapJobs_keeps
    | with_reducible apply keeps_foldl

theorem applyAct_keeps {s0 s : State} {a b c} (h : Keeps s0 s) : Keeps s0 (applyAct a b c s) := by
  unfold applyAct
  repeat' first
    | with_reducible assumption
    | with_reducible apply stopCores_keeps
    | with_reducible apply applyPoint_keeps
    | split

theorem applyFront_keeps {s0 s : State} {a b c d} (h : Keeps s0 s) : Keeps s0 (applyFront a b c d s) := by
  induction d generalizing s with
  | zero => exact h
  | succ n ih =>
    unfold applyFront
    split
    · exact keeps_ite (ih (applyAct_keeps (modCtx_keeps h))) h
    · exact h

theorem applyPoints_keeps {s0 s : State} {a b} (h : Keeps s0 s) : Keeps s0 (applyPoints a b s) := by
  unfold applyPoints
  repeat' first
    | with_reducible assumption
    | with_reducible apply applyFront_keeps

theorem atPoint_keeps {s0 s : State} {a b c} (h : Keeps s0 s) : Keeps s0 (atPoint a b c s) := by
  unfold atPoint
  repeat' first
    | with_reducible apply keeps_ite
    | with_reducible assumption
    | with_reducible apply modCtx_keeps
    | with_reducible apply applyAct_keeps

theorem flushPoints_keeps {s0 s : State} (h : Keeps s0 s) : Keeps s0 (flushPoints s) := by
  unfold flushPoints
  repeat' first
    | with_reducible assumption
    | with_reducible apply applyFront_keeps
    | with_reducible apply keeps_foldl
    | intro _ _ _

theorem receive_keeps {s0 s : State} {a b c} (h : Keeps s0 s) : Keeps s0 (receive a b c s).2 := by
  unfold receive
  repeat' first
    | with_reducible apply keeps_ite_snd
    | with_reducible assumption
    | with_reducible apply applyPoints_keeps
    | with_reducible apply modCtx_keeps
    | with_reducible apply placeLine_keeps

theorem startJob_keeps {s0 s : State} {a b} (h : Keeps s0 s) : Keeps s0 (startJob a b s) := by
  unfold startJob
  repeat' first
    | with_reducible assumption
    | with_reducible apply modCtx_keeps

theorem sendSamples_keeps {s0 s : State} {a} (h : Keeps s0 s) : Keeps s0 (sendSamples a s) := by
  unfold sendSamples
  repeat' first
    | with_reducible apply keeps_ite
    | exact fun _ _ hm => hm
    | with_reducible assumption
    | with_reducible apply modCore_keeps
    | with_reducible apply keeps_foldl
    | intro _ _ _

theorem linesToContexts_keeps {s0 s : State} {a b} (h : Keeps s0 s) : Keeps s0 (linesToContexts a b s) := by
  unfold linesToContexts
  extract_lets +onlyGivenNames dropOf
  clear_value dropOf
  split
  rename_i got s1 e1
  have h1 : Keeps s0 s1 := keeps_snd e1 (keeps_foldl_snd h (fun t x ht => by
    split
    rename_i r u e
    exact keeps_snd (t := u) (x := r) e (receive_keeps ht)))
  clear e1
  extract_lets +onlyGivenNames got wants cored gaps s2 s3 s4 now_
  have h2 : Keeps s0 s2 := keeps_foldl h1 (fun _ _ hu => modCtx_keeps hu)
  clear_value s2
  have h3 : Keeps s0 s3 := keeps_foldl h2 (fun _ _ hu => startJob_keeps hu)
  clear_value s3
  have h4 : Keeps s0 s4 := sendSamples_keeps h3
  clear_value s4 now_
  split
  rename_i ds s5 e5
  have h5 : Keeps s0 s5 := keeps_snd e5 (keeps_foldl_snd h4 (fun t x ht => by
    split
    rename_i d w u e
    exact keeps_snd2 (t := u) (x := d) (y := w) e (evaluate_keeps ht)))
  clear e5
  split
  rename_i es u6 e6
  have hu : Keeps s0 u6 := keeps_snd e6 (keeps_foldl_snd h5 (fun t x ht => by
    split
    rename_i d u e
    exact keeps_snd (t := u) (x := d) e (dueEdges_keeps ht)))
  clear e6
  extract_lets +onlyGivenNames s6
  have h6 : Keeps s0 s6 := decideAll_keeps hu
  clear_value s6
  exact keeps_foldl h6 (fun _ _ hu => lineEnd_keeps (keeps_ite hu (streamLine_keeps hu)))

theorem lineToContexts_keeps {s0 s : State} {a b c} (h : Keeps s0 s) : Keeps s0 (lineToContexts a b c s) := by
  unfold lineToContexts
  repeat' first
    | with_reducible assumption
    | with_reducible apply linesToContexts_keeps

end Sys2Proof.Machine
end

