-- ==== Sys2Proof/Laws/KeepsCores.lean ====
section
/-! SUPPORT. Laws/KeepsCores.lean: the zone cores keep what Laws/Keeps.lean names; every operation of a core keeps its
memories in canonical form. -/

namespace Sys2Proof.Machine

open Sys2Proof

/-! ### CoreIsa.lean -/

theorem Core.memOk_iff {x : Core} : x.memOk = true ↔ Memory.wf x.imem = true ∧ Memory.wf x.xmem = true ∧
    Memory.wf x.ymem = true ∧ Memory.wf x.xGap = true ∧ Memory.wf x.yGap = true := by
  simp only [Core.memOk, Bool.and_eq_true, and_assoc]
theorem Core.memOk_space {x : Core} (h : x.memOk = true) (y : Bool) : Memory.wf (x.space y) = true := by
  have hx := Core.memOk_iff.mp h
  unfold Core.space
  split
  · exact hx.2.2.1
  · exact hx.2.1
theorem Core.memOk_setSpace {x : Core} {m : Memory} (h : x.memOk = true) (y : Bool) (hm : Memory.wf m = true) :
    (x.setSpace y m).memOk = true := by
  have hx := Core.memOk_iff.mp h
  unfold Core.setSpace
  split
  · exact Core.memOk_iff.mpr ⟨hx.1, hx.2.1, hm, hx.2.2.2⟩
  · exact Core.memOk_iff.mpr ⟨hx.1, hm, hx.2.2⟩
theorem Core.memOk_setHalf {x : Core} (h : x.memOk = true) (y : Bool) (p : BitVec 14) (v : U16) :
    (x.setHalf y p v).memOk = true :=
  Core.memOk_setSpace h y (setHalf_wf _ _ (Core.memOk_space h y))
theorem Core.memOk_modify {x : Core} (h : x.memOk = true) (p : Fin 8) (m : BitVec 2) (n : Nat) :
    (x.modify p m n).memOk = true := by
  unfold Core.modify
  split <;> exact h
theorem Core.memOk_storeHalf {x : Core} (h : x.memOk = true) (m : MemOp) (v : U16) : (x.storeHalf m v).memOk = true :=
  Core.memOk_modify (Core.memOk_setHalf h _ _ _) _ _ _
theorem Core.memOk_storeWord {x : Core} (h : x.memOk = true) (m : MemOp) (v : U32) : (x.storeWord m v).memOk = true :=
  Core.memOk_modify (Core.memOk_setHalf (Core.memOk_setHalf h _ _ _) _ _ _) _ _ _
theorem Core.memOk_macModify {x : Core} (h : x.memOk = true) (m : MacOp) (n : Nat) : (x.macModify m n).memOk = true :=
  Core.memOk_modify (Core.memOk_modify h _ _ _) _ _ _
theorem Core.memOk_advance {x : Core} (h : x.memOk = true) (n : Nat) : (x.advance n).memOk = true := by
  unfold Core.advance
  dsimp only
  split <;> exact h
theorem Core.memOk_gaps {x : Core} (h : x.memOk = true) : ({ x with xGap := x.xmem, yGap := x.ymem } : Core).memOk = true := by
  have hx := Core.memOk_iff.mp h
  exact Core.memOk_iff.mpr ⟨hx.1, hx.2.1, hx.2.2.1, hx.2.1, hx.2.2.1⟩
theorem Core.memOk_window {x : Core} (h : x.memOk = true) (m : Sample) (b : Binding) (j source : Nat) :
    (x.window m b j source).memOk = true := by
  unfold Core.window
  extract_lets +onlyGivenNames i seen place hist z y
  have hy : y.memOk = true := by
    subst y
    split
    · exact h
    · exact Core.memOk_setSpace (x := x) h _ (setHalf_wf _ _ (Core.memOk_space h _))
  clear_value y
  exact Core.memOk_gaps hy
theorem Core.memOk_fill {x : Core} (h : x.memOk = true) (img : List Byte) : (x.fill img).memOk = true := by
  have hx := Core.memOk_iff.mp h
  exact Core.memOk_iff.mpr ⟨ofBytes_wf _ _, ofBytes_wf _ _, ofBytes_wf _ _, hx.2.2.2⟩
theorem Core.memOk_clearAreas {x : Core} (h : x.memOk = true) (b : Binding) : (x.clearAreas b).memOk = true := by
  have h1 := Core.memOk_setSpace h b.histY (clear_wf (2 * b.histBase) (2 * b.nLocal * b.histLen) (Core.memOk_space h b.histY))
  exact Core.memOk_setSpace h1 b.stateY (clear_wf _ _ (Core.memOk_space h1 b.stateY))
theorem Core.memOk_areas {x : Core} (h : x.memOk = true) (bs : List Binding) :
    (bs.foldl (fun y b => y.clearAreas b) x).memOk = true := by
  induction bs generalizing x with
  | nil => exact h
  | cons b bs ih => exact ih (Core.memOk_clearAreas h b)
theorem Core.memOk_default : ({} : Core).memOk = true := by decide
theorem core_memOk {s : State} (h : s.memOk = true) (c : Nat) : (core s c).memOk = true := by
  unfold core vget
  cases hc : s.cores[c]? with
  | none => exact Core.memOk_default
  | some x =>
    unfold State.memOk at h
    simp only [List.all_eq_true, Vector.mem_toList_iff] at h
    exact h x (Vector.mem_of_getElem? hc)
theorem keeps_mapCores {s0 s : State} (h : Keeps s0 s) (f : Core → Core) (hf : ∀ x : Core, x.memOk = true → (f x).memOk = true) :
    Keeps s0 { s with cores := s.cores.map f } := by
  refine ⟨h.1, h.2.1, fun h0 => ?_⟩
  have hs := h.2.2 h0
  unfold State.memOk at hs ⊢
  simp only [List.all_eq_true, Vector.mem_toList_iff, Vector.mem_map] at hs ⊢
  rintro _ ⟨x, hx, rfl⟩
  exact hf x (hs x hx)

theorem startNext_keeps {s0 s : State} {a} (h : Keeps s0 s) : Keeps s0 (startNext a s) := by
  unfold startNext
  extract_lets +onlyGivenNames x
  have hx : s0.memOk = true → x.memOk = true := fun h0 => core_memOk (h.2.2 h0) _
  clear_value x
  split
  · refine keeps_ite h ?_
    extract_lets +onlyGivenNames y
    have hy : s0.memOk = true → y.memOk = true := hx
    clear_value y
    split
    · exact modCore_keeps (fun h0 _ _ => Core.memOk_window (Core.memOk_gaps (hy h0)) _ _ _ _) h
    · exact modCore_keeps (fun h0 _ _ => hy h0) h
  · exact h

theorem silenceCore_keeps {s0 s : State} {a} (h : Keeps s0 s) : Keeps s0 (silenceCore a s) := by
  unfold silenceCore
  repeat' first
    | exact fun _ _ hm => hm
    | with_reducible assumption
    | with_reducible apply modCore_keeps
    | with_reducible apply gapJobs_keeps
    | with_reducible apply keeps_foldl

theorem stopCore_keeps {s0 s : State} {a} (h : Keeps s0 s) : Keeps s0 (stopCore a s) := by
  unfold stopCore
  repeat' first
    | exact fun _ _ hm => hm
    | with_reducible assumption
    | with_reducible apply silenceCore_keeps
    | with_reducible apply modCore_keeps

theorem endInv_keeps {s0 s : State} {a b c} (h : Keeps s0 s) : Keeps s0 (endInv a b c s) := by
  unfold endInv
  extract_lets +onlyGivenNames x
  have hx : s0.memOk = true → x.memOk = true := fun h0 => core_memOk (h.2.2 h0) _
  clear_value x
  split
  · exact h
  · extract_lets +onlyGivenNames n y s1
    have h1 : Keeps s0 s1 := deliver_keeps (modCore_keeps (fun h0 _ _ => hx h0) h)
    exact keeps_ite (stopCore_keeps h1) (startNext_keeps h1)

theorem settleRep_keeps {s0 s : State} {a} (h : Keeps s0 s) : Keeps s0 (settleRep a s) := by
  unfold settleRep
  repeat' first
    | with_reducible apply keeps_ite
    | exact fun _ _ hm => hm
    | with_reducible assumption
    | with_reducible apply modCore_keeps
    | with_reducible apply stopCore_keeps
    | with_reducible apply startNext_keeps

theorem stepData_keeps {s0 s : State} {a b c d} (hf : ∀ x : Core, x.memOk = true → (d x).memOk = true) (h : Keeps s0 s) :
    KeepsR s0 (stepData a b c d s) := by
  refine keepsR_next (keeps_ite (settleRep_keeps (modCore_keeps (fun h0 _ _ => ?_) h)) h)
  exact Core.memOk_advance (hf _ (core_memOk (h.2.2 h0) _)) _

theorem stepControl_keeps {s0 s : State} {a b c} (hf : ∀ x : Core, x.memOk = true → (c x).memOk = true) (h : Keeps s0 s) :
    KeepsR s0 (stepControl a b c s) := by
  refine keepsR_next (keeps_ite (modCore_keeps (fun h0 _ _ => ?_) h) h)
  exact hf _ (core_memOk (h.2.2 h0) _)

/-! ### Cores.lean -/

theorem markLate_keeps {s0 s : State} {a b c d} (h : Keeps s0 s) : Keeps s0 (markLate a b c d s) := by
  unfold markLate
  repeat' first
    | exact fun _ _ hm => hm
    | with_reducible assumption
    | with_reducible apply modCore_keeps

theorem Core.memOk_load {x : Core} (h : x.memOk = true) (img : List Byte) : (Core.load img x).memOk = true :=
  Core.memOk_fill h img

theorem resetCore_keeps {s0 s : State} {a} (h : Keeps s0 s) : Keeps s0 (resetCore a s) := by
  unfold resetCore
  extract_lets +onlyGivenNames s1
  have h1 : Keeps s0 s1 := silenceCore_keeps h
  refine modCore_keeps (fun _ x hx => ?_) h1
  exact Core.memOk_areas (x := (x.fill x.image).clearRegs) (Core.memOk_fill hx _) x.bindings

theorem renameCore_keeps {s0 s : State} {a b c} (h : Keeps s0 s) : Keeps s0 (renameCore a b c s) := by
  exact keeps_mapCores h _ (fun _ hx => hx)

theorem retireCore_keeps {s0 s : State} {a} (h : Keeps s0 s) : Keeps s0 (retireCore a s) := by
  unfold retireCore
  extract_lets +onlyGivenNames x s1 x1
  have h1 : Keeps s0 s1 := silenceCore_keeps h
  have hx1 : s0.memOk = true → x1.memOk = true := fun h0 => core_memOk (h1.2.2 h0) _
  clear_value x1 s1
  split
  · refine keeps_ite (raise_keeps (modCore_keeps (fun h0 _ _ => hx1 h0) h1)) ?_
    refine raise_keeps (renameCore_keeps (modCore_keeps (fun _ _ _ => ?_) (modCore_keeps (fun _ _ hm => hm) h1)))
    exact Core.memOk_areas (x := ({} : Core).fill x1.image) (Core.memOk_fill Core.memOk_default _) _
  · exact raise_keeps (modCore_keeps (fun _ _ hm => hm) h1)

theorem recoverCores_keeps {s0 s : State} (h : Keeps s0 s) : Keeps s0 (recoverCores s) := by
  refine keeps_mapCores h _ (fun x hx => ?_)
  split <;> exact hx

theorem sleepCores_keeps {s0 s : State} (h : Keeps s0 s) : Keeps s0 (sleepCores s) := by
  refine keeps_mapCores h _ (fun x _ => ?_)
  split <;> decide

theorem cmdCoreLoad_keeps {s0 s : State} {a} (h : Keeps s0 s) : KeepsA s0 (cmdCoreLoad a s) := by
  unfold cmdCoreLoad
  repeat' first
    | with_reducible apply keepsA_ite
    | exact fun _ _ hm => Core.memOk_load hm _
    | with_reducible assumption
    | with_reducible apply checked_keeps
    | with_reducible apply reject_keeps
    | with_reducible apply keepsA_mk
    | with_reducible apply gapJobs_keeps
    | with_reducible apply modCore_keeps
    | with_reducible apply haltBare_keeps
    | with_reducible apply dropBindings_keeps
    | with_reducible apply keeps_foldl
    | intro _ _ _
    | intro _ _
    | extract_lets +onlyGivenNames x
    | with_reducible exact keeps_id ‹_›

theorem cmdCoreStart_keeps {s0 s : State} {a} (h : Keeps s0 s) : KeepsA s0 (cmdCoreStart a s) := by
  unfold cmdCoreStart
  extract_lets +onlyGivenNames p0 t0 k c m cs size armed w b0 area reason range reply
  clear_value reason range area w
  refine checked_keeps ?_ h
  refine keepsA_ite ⟨h, fun _ hu => hu⟩ ⟨?_, fun _ hu => hu⟩
  refine keeps_foldl h (fun u q hu => ?_)
  refine modCore_keeps (fun _ x hx => ?_) hu
  extract_lets +onlyGivenNames z y1 y2 y3
  have h1 : y1.memOk = true := by
    subst y1
    split <;> exact hx
  clear_value y1
  have h2 : y2.memOk = true := by
    subst y2
    split <;> exact h1
  clear_value y2
  exact Core.memOk_clearAreas h2 _

theorem cmdCoreStop_keeps {s0 s : State} {a} (h : Keeps s0 s) : KeepsA s0 (cmdCoreStop a s) := by
  unfold cmdCoreStop
  repeat' first
    | with_reducible assumption
    | with_reducible apply checked_keeps
    | with_reducible apply keepsA_mk
    | with_reducible apply stopCores_keeps
    | with_reducible apply atPoint_keeps
    | with_reducible apply keeps_foldl
    | intro _ _ _
    | intro _ _
    | extract_lets +onlyGivenNames x
    | with_reducible exact keeps_id ‹_›

theorem cmdCoreRead_keeps {s0 s : State} {a} (h : Keeps s0 s) : KeepsA s0 (cmdCoreRead a s) := by
  unfold cmdCoreRead
  repeat' first
    | with_reducible apply keeps_ite
    | exact fun _ _ hm => hm
    | with_reducible assumption
    | with_reducible apply checked_keeps
    | with_reducible apply keepsA_mk
    | with_reducible apply modCore_keeps
    | intro _ _
    | extract_lets +onlyGivenNames x
    | with_reducible exact keeps_id ‹_›

/-! ### Context.lean -/

theorem cmdCtxSet_keeps {s0 s : State} {a} (h : Keeps s0 s) : KeepsA s0 (cmdCtxSet a s) := by
  unfold cmdCtxSet
  repeat' first
    | with_reducible assumption
    | with_reducible apply checked_keeps
    | with_reducible apply keepsA_mk
    | with_reducible apply resizeBinding_keeps
    | with_reducible apply modCtx_keeps
    | intro _ _
    | extract_lets +onlyGivenNames x
    | with_reducible exact keeps_id ‹_›

theorem cmdCtxGet_keeps {s0 s : State} {a} (h : Keeps s0 s) : KeepsA s0 (cmdCtxGet a s) := by
  unfold cmdCtxGet
  repeat' first
    | with_reducible assumption
    | with_reducible apply keepsA_mk
    | intro _ _
    | extract_lets +onlyGivenNames x
    | with_reducible exact keeps_id ‹_›

theorem cmdCtxArm_keeps {s0 s : State} {a} (h : Keeps s0 s) : KeepsA s0 (cmdCtxArm a s) := by
  unfold cmdCtxArm
  repeat' first
    | with_reducible apply keepsA_ite
    | with_reducible assumption
    | with_reducible apply checked_keeps
    | with_reducible apply keepsA_mk
    | with_reducible apply lapsePoints_keeps
    | with_reducible apply modCtx_keeps
    | with_reducible apply claimAtArm_keeps
    | intro _ _
    | extract_lets +onlyGivenNames x
    | with_reducible exact keeps_id ‹_›

theorem cmdCtxDisarm_keeps {s0 s : State} {a} (h : Keeps s0 s) : KeepsA s0 (cmdCtxDisarm a s) := by
  unfold cmdCtxDisarm
  repeat' first
    | with_reducible apply keepsA_ite
    | with_reducible assumption
    | with_reducible apply checked_keeps
    | with_reducible apply keepsA_mk
    | with_reducible apply modCtx_keeps
    | with_reducible apply atPoint_keeps
    | intro _ _
    | extract_lets +onlyGivenNames x
    | with_reducible exact keeps_id ‹_›

theorem cmdPatternSet_keeps {s0 s : State} {a} (h : Keeps s0 s) : KeepsA s0 (cmdPatternSet a s) := by
  unfold cmdPatternSet
  repeat' first
    | with_reducible apply keepsA_ite
    | with_reducible assumption
    | with_reducible apply checked_keeps
    | with_reducible apply keepsA_mk
    | with_reducible apply atPoint_keeps
    | with_reducible apply applyPoint_keeps
    | intro _ _
    | extract_lets +onlyGivenNames x
    | with_reducible exact keeps_id ‹_›

theorem cmdThreshLoad_keeps {s0 s : State} {a} (h : Keeps s0 s) : KeepsA s0 (cmdThreshLoad a s) := by
  unfold cmdThreshLoad
  repeat' first
    | with_reducible apply keeps_ite
    | with_reducible apply keepsA_ite
    | with_reducible assumption
    | with_reducible apply checked_keeps
    | with_reducible apply keepsA_mk
    | with_reducible apply freeCopies_keeps
    | with_reducible apply modCtx_keeps
    | with_reducible apply atPoint_keeps
    | with_reducible apply keeps_foldl
    | intro _ _ _
    | intro _ _
    | extract_lets +onlyGivenNames x
    | split
    | with_reducible exact keeps_id ‹_›
    | with_reducible apply keeps_mk

theorem tinContext_keeps {s0 s : State} {a b c} (h : Keeps s0 s) : Keeps s0 (tinContext a b c s) := by
  unfold tinContext
  repeat' first
    | with_reducible apply keeps_ite
    | with_reducible assumption
    | with_reducible apply decide__keeps
    | with_reducible apply modCtx_keeps
    | extract_lets +onlyGivenNames x
    | split

theorem standbyContexts_keeps {s0 s : State} (h : Keeps s0 s) : Keeps s0 (standbyContexts s) := by
  unfold standbyContexts
  repeat' first
    | with_reducible assumption
    | with_reducible apply quietAlarms_keeps
    | with_reducible apply stopNow_keeps
    | with_reducible apply keeps_foldl

theorem sleepContexts_keeps {s0 s : State} (h : Keeps s0 s) : Keeps s0 (sleepContexts s) := by
  exact h

end Sys2Proof.Machine
end

