-- ==== Sys2Proof/Laws/KeepsDevice.lean ====
section
/-! SUPPORT. Laws/KeepsDevice.lean: auxiliary inputs, the record memory, time, modes and the pair keep what
Laws/Keeps.lean names. -/

namespace Sys2Proof.Machine

open Sys2Proof

/-! ### Sensors.lean -/

theorem amonFeed_keeps {s0 s : State} {a b c d} (h : Keeps s0 s) : Keeps s0 (amonFeed a b c d s) := by
  unfold amonFeed
  repeat' first
    | with_reducible assumption
    | with_reducible apply amonLatch_keeps
    | extract_lets +onlyGivenNames x
    | with_reducible apply keeps_mk

theorem amonDas_keeps {s0 s : State} {a} (h : Keeps s0 s) : Keeps s0 (amonDas a s) := by
  unfold amonDas
  repeat' first
    | with_reducible assumption
    | with_reducible apply amonFeed_keeps
    | with_reducible apply keeps_foldl
    | intro _ _ _

theorem amonDts_keeps {s0 s : State} {a} (h : Keeps s0 s) : Keeps s0 (amonDts a s) := by
  unfold amonDts
  repeat' first
    | with_reducible assumption
    | with_reducible apply amonFeed_keeps
    | with_reducible apply keeps_foldl
    | intro _ _ _

theorem coilResult_keeps {s0 s : State} {a} (h : Keeps s0 s) : Keeps s0 (coilResult a s) := by
  unfold coilResult
  repeat' first
    | with_reducible apply keeps_ite
    | with_reducible assumption
    | extract_lets +onlyGivenNames x
    | with_reducible apply keeps_mk

theorem auxLines_keeps {s0 s : State} {a b} (h : Keeps s0 s) : Keeps s0 (auxLines a b s) := by
  unfold auxLines
  repeat' first
    | with_reducible assumption
    | with_reducible apply tickRearm_keeps
    | with_reducible apply linesToContexts_keeps
    | with_reducible apply keeps_foldl

theorem requestWake_keeps {s0 s : State} {a} (h : Keeps s0 s) : Keeps s0 (requestWake a s) := by
  unfold requestWake
  repeat' first
    | with_reducible apply keeps_ite
    | with_reducible assumption
    | extract_lets +onlyGivenNames x
    | split
    | with_reducible apply keeps_mk

theorem keepWake_keeps {s0 s : State} {a b} (h : Keeps s0 s) : Keeps s0 (keepWake a b s) := by
  unfold keepWake
  repeat' first
    | with_reducible apply keeps_ite
    | with_reducible assumption
    | extract_lets +onlyGivenNames x
    | with_reducible apply keeps_mk

theorem auxWake_keeps {s0 s : State} {a} (h : Keeps s0 s) : Keeps s0 (auxWake a s) := by
  unfold auxWake
  repeat' first
    | with_reducible assumption
    | with_reducible apply restartFilters_keeps

theorem auxConfigure_keeps {s0 s : State} {a b} (h : Keeps s0 s) : Keeps s0 (auxConfigure a b s) := by
  unfold auxConfigure
  repeat' first
    | with_reducible apply keeps_ite
    | with_reducible assumption
    | with_reducible apply modAux_keeps
    | with_reducible apply setSource_keeps

theorem cmdAuxCfg_keeps {s0 s : State} {a} (h : Keeps s0 s) : KeepsA s0 (cmdAuxCfg a s) := by
  unfold cmdAuxCfg
  repeat' first
    | with_reducible assumption
    | with_reducible apply checked_keeps
    | with_reducible apply keepsA_mk
    | with_reducible apply auxConfigure_keeps
    | with_reducible apply amonLatch_keeps
    | with_reducible apply modAux_keeps
    | intro _ _
    | extract_lets +onlyGivenNames x
    | split
    | with_reducible exact keeps_id ‹_›

theorem cmdAuxRead_keeps {s0 s : State} {a} (h : Keeps s0 s) : KeepsA s0 (cmdAuxRead a s) := by
  unfold cmdAuxRead
  repeat' first
    | with_reducible apply keeps_ite
    | with_reducible assumption
    | with_reducible apply checked_keeps
    | with_reducible apply keepsA_mk
    | with_reducible apply modAux_keeps
    | intro _ _
    | extract_lets +onlyGivenNames x
    | with_reducible exact keeps_id ‹_›

theorem cmdAmonCfg_keeps {s0 s : State} {a} (h : Keeps s0 s) : KeepsA s0 (cmdAmonCfg a s) := by
  unfold cmdAmonCfg
  repeat' first
    | with_reducible apply keeps_ite
    | with_reducible assumption
    | with_reducible apply checked_keeps
    | with_reducible apply keepsA_mk
    | intro _ _
    | extract_lets +onlyGivenNames x
    | with_reducible exact keeps_id ‹_›
    | with_reducible apply keeps_mk

/-! ### RecordMemory.lean -/

theorem modMem_keeps {s0 s : State} {a b} (h : Keeps s0 s) : Keeps s0 (modMem a b s) := by
  exact h

theorem setOtherValid_keeps {s0 s : State} {a} (h : Keeps s0 s) : Keeps s0 (setOtherValid a s) := by
  unfold setOtherValid
  repeat' first
    | with_reducible apply keeps_ite
    | with_reducible assumption
    | extract_lets +onlyGivenNames x
    | with_reducible apply keeps_mk

theorem abortFw_keeps {s0 s : State} {a} (h : Keeps s0 s) : Keeps s0 (abortFw a s) := by
  unfold abortFw
  repeat' first
    | with_reducible apply keeps_ite
    | with_reducible assumption
    | with_reducible apply setOtherValid_keeps
    | with_reducible apply endLong_keeps
    | with_reducible apply completion_keeps
    | extract_lets +onlyGivenNames x
    | split
    | with_reducible apply keeps_mk

theorem loseRec_keeps {s0 s : State} {a} (h : Keeps s0 s) : Keeps s0 (loseRec a s) := by
  unfold loseRec
  repeat' first
    | with_reducible apply keeps_ite
    | with_reducible assumption
    | with_reducible apply modRec_keeps
    | with_reducible apply completeRec_keeps
    | with_reducible apply modCtx_keeps
    | with_reducible apply beginRearm_keeps
    | extract_lets +onlyGivenNames x
    | split
    | with_reducible apply keeps_mk

theorem reclaim_keeps {s0 s : State} {a b} (h : Keeps s0 s) : Keeps s0 (reclaim a b s) := by
  unfold reclaim
  repeat' first
    | with_reducible apply keeps_ite
    | with_reducible assumption
    | with_reducible apply raise_keeps
    | with_reducible apply stopNow_keeps
    | with_reducible apply modCtx_keeps
    | with_reducible apply claimReserve_keeps
    | extract_lets +onlyGivenNames x
    | split

theorem reform_keeps {s0 s : State} {a} (h : Keeps s0 s) : Keeps s0 (reform a s) := by
  unfold reform
  repeat' first
    | with_reducible assumption
    | with_reducible apply loseRec_keeps
    | with_reducible apply abortFw_keeps
    | with_reducible apply modCtx_keeps
    | with_reducible apply reclaim_keeps
    | with_reducible apply keeps_foldl
    | intro _ _ _
    | extract_lets +onlyGivenNames x
    | with_reducible apply keeps_mk

theorem tellDisabled_keeps {s0 s : State} {a} (h : Keeps s0 s) : Keeps s0 (tellDisabled a s) := by
  unfold tellDisabled
  repeat' first
    | with_reducible apply keeps_ite
    | with_reducible assumption
    | with_reducible apply raise_keeps
    | with_reducible apply keeps_foldl
    | intro _ _ _

theorem disableChannels_keeps {s0 s : State} {a} (h : Keeps s0 s) : Keeps s0 (disableChannels a s) := by
  unfold disableChannels
  extract_lets +onlyGivenNames chs
  clear_value chs
  cases chs with
  | nil => exact h
  | cons c cs => exact tellDisabled_keeps (reform_keeps (keeps_foldl h (fun _ _ hu => modMem_keeps hu)))

theorem touch_keeps {s0 s : State} {a} (h : Keeps s0 s) : Keeps s0 (touch a s) := by
  unfold touch
  repeat' first
    | with_reducible assumption
    | with_reducible apply modMem_keeps

theorem startTraining_keeps {s0 s : State} {a} (h : Keeps s0 s) : Keeps s0 (startTraining a s) := by
  unfold startTraining
  repeat' first
    | with_reducible assumption
    | with_reducible apply modMem_keeps
    | with_reducible apply keeps_foldl
    | intro _ _ _
    | extract_lets +onlyGivenNames x
    | with_reducible apply keeps_mk

theorem tellTraining_keeps {s0 s : State} (h : Keeps s0 s) : Keeps s0 (tellTraining s) := by
  unfold tellTraining
  repeat' first
    | with_reducible assumption
    | with_reducible apply endBound_keeps
    | with_reducible apply tellDisabled_keeps
    | (extract_lets +onlyGivenNames x; clear_value x)
    | split

theorem endTraining_keeps {s0 s : State} {a b} (h : Keeps s0 s) : Keeps s0 (endTraining a b s) := by
  unfold endTraining
  repeat' first
    | with_reducible assumption
    | with_reducible apply endLong_keeps
    | with_reducible apply completion_keeps
    | extract_lets +onlyGivenNames x
    | with_reducible apply keeps_mk

theorem nextTraining_keeps {s0 s : State} {a} (h : Keeps s0 s) : Keeps s0 (nextTraining a s) := by
  unfold nextTraining
  repeat' first
    | with_reducible assumption
    | with_reducible apply endTraining_keeps
    | with_reducible apply modMem_keeps
    | extract_lets +onlyGivenNames x
    | split
    | with_reducible apply keeps_mk

theorem returnChannel_keeps {s0 s : State} {a b} (h : Keeps s0 s) : Keeps s0 (returnChannel a b s) := by
  unfold returnChannel
  repeat' first
    | with_reducible apply keeps_ite
    | with_reducible assumption
    | with_reducible apply modMem_keeps
    | with_reducible apply endBound_keeps
    | with_reducible apply retryReserves_keeps
    | with_reducible apply reform_keeps

theorem cmdMemStatus_keeps {s0 s : State} {a} (h : Keeps s0 s) : KeepsA s0 (cmdMemStatus a s) := by
  unfold cmdMemStatus
  repeat' first
    | with_reducible apply keeps_ite
    | with_reducible assumption
    | with_reducible apply checked_keeps
    | with_reducible apply keepsA_mk
    | with_reducible apply State.took_keeps
    | intro _ _
    | extract_lets +onlyGivenNames x
    | with_reducible exact keeps_id ‹_›
    | with_reducible apply keeps_mk

theorem cmdMemTrain_keeps {s0 s : State} {a} (h : Keeps s0 s) : KeepsA s0 (cmdMemTrain a s) := by
  unfold cmdMemTrain
  repeat' first
    | with_reducible assumption
    | with_reducible apply checked_keeps
    | with_reducible apply keepsA_mk
    | with_reducible apply nextTraining_keeps
    | intro _ _
    | extract_lets +onlyGivenNames x
    | with_reducible exact keeps_id ‹_›
    | with_reducible apply keeps_mk

theorem setPolicy_keeps {s0 s : State} {a b} (h : Keeps s0 s) : Keeps s0 (setPolicy a b s) := by
  unfold setPolicy
  repeat' first
    | with_reducible assumption
    | with_reducible apply modMem_keeps

theorem cmdMemMap_keeps {s0 s : State} {a} (h : Keeps s0 s) : KeepsA s0 (cmdMemMap a s) := by
  unfold cmdMemMap
  repeat' first
    | with_reducible assumption
    | with_reducible apply checked_keeps
    | with_reducible apply keepsA_mk
    | with_reducible apply setPolicy_keeps
    | with_reducible apply keeps_foldl
    | intro _ _ _
    | intro _ _
    | extract_lets +onlyGivenNames x
    | split
    | with_reducible exact keeps_id ‹_›
    | with_reducible apply keeps_mk

/-! ### TimeUnit.lean -/

theorem rebase_keeps {s0 s : State} {a} (h : Keeps s0 s) : Keeps s0 (rebase a s) := by
  exact h

theorem setRate_keeps {s0 s : State} {a b} (h : Keeps s0 s) : Keeps s0 (setRate a b s) := by
  unfold setRate
  repeat' first
    | with_reducible assumption
    | with_reducible apply rebase_keeps
    | extract_lets +onlyGivenNames x
    | with_reducible apply keeps_mk

theorem epochItem_keeps {s0 s : State} {a b c} (h : Keeps s0 s) : Keeps s0 (epochItem a b c s) := by
  unfold epochItem
  repeat' first
    | with_reducible assumption
    | with_reducible apply evtItem_keeps

theorem stepTime_keeps {s0 s : State} {a b} (h : Keeps s0 s) : Keeps s0 (stepTime a b s) := by
  unfold stepTime
  repeat' first
    | with_reducible assumption
    | with_reducible apply rebase_keeps
    | with_reducible apply epochItem_keeps
    | with_reducible apply raise_keeps
    | extract_lets +onlyGivenNames x
    | with_reducible apply keeps_mk

theorem setDomain_keeps {s0 s : State} {a b} (h : Keeps s0 s) : Keeps s0 (setDomain a b s) := by
  exact h

theorem selectDomain_keeps {s0 s : State} {a} (h : Keeps s0 s) : Keeps s0 (selectDomain a s) := by
  unfold selectDomain
  repeat' first
    | with_reducible apply keeps_ite
    | with_reducible assumption
    | with_reducible apply rebase_keeps
    | with_reducible apply endBound_keeps
    | extract_lets +onlyGivenNames x
    | with_reducible apply keeps_mk

theorem enterHoldover_keeps {s0 s : State} {a} (h : Keeps s0 s) : Keeps s0 (enterHoldover a s) := by
  unfold enterHoldover
  repeat' first
    | with_reducible assumption
    | with_reducible apply setRate_keeps
    | with_reducible apply raise_keeps
    | extract_lets +onlyGivenNames x
    | with_reducible apply keeps_mk

theorem selectedLost_keeps {s0 s : State} {a} (h : Keeps s0 s) : Keeps s0 (selectedLost a s) := by
  unfold selectedLost
  repeat' first
    | with_reducible apply keeps_ite
    | with_reducible assumption
    | with_reducible apply selectDomain_keeps
    | with_reducible apply enterHoldover_keeps
    | extract_lets +onlyGivenNames x
    | with_reducible apply keeps_mk

theorem loseDomain_keeps {s0 s : State} {a} (h : Keeps s0 s) : Keeps s0 (loseDomain a s) := by
  unfold loseDomain
  repeat' first
    | with_reducible apply keeps_ite
    | with_reducible assumption
    | with_reducible apply selectedLost_keeps
    | with_reducible apply raise_keeps
    | with_reducible apply setDomain_keeps

theorem follow_keeps {s0 s : State} {a} (h : Keeps s0 s) : Keeps s0 (follow a s) := by
  unfold follow
  repeat' first
    | with_reducible assumption
    | with_reducible apply setRate_keeps

theorem steer_keeps {s0 s : State} {a b} (h : Keeps s0 s) : Keeps s0 (steer a b s) := by
  unfold steer
  repeat' first
    | with_reducible apply keeps_ite
    | with_reducible assumption
    | with_reducible apply follow_keeps
    | with_reducible apply stepTime_keeps
    | with_reducible apply setDomain_keeps
    | extract_lets +onlyGivenNames x
    | with_reducible apply keeps_mk

theorem lockedDomain_keeps {s0 s : State} {a b} (h : Keeps s0 s) : Keeps s0 (lockedDomain a b s) := by
  unfold lockedDomain
  repeat' first
    | with_reducible apply keeps_ite
    | with_reducible assumption
    | with_reducible apply selectDomain_keeps

theorem ptpOffset_keeps {s0 s : State} {a b c d} (h : Keeps s0 s) : Keeps s0 (ptpOffset a b c d s) := by
  unfold ptpOffset
  repeat' first
    | with_reducible apply keeps_ite
    | with_reducible assumption
    | with_reducible apply setDomain_keeps
    | with_reducible apply lockedDomain_keeps
    | with_reducible apply steer_keeps

theorem ptpPair_keeps {s0 s : State} {a b c d e f} (h : Keeps s0 s) : Keeps s0 (ptpPair a b c d e f s) := by
  unfold ptpPair
  repeat' first
    | with_reducible apply keeps_ite
    | with_reducible assumption
    | with_reducible apply ptpOffset_keeps
    | with_reducible apply setDomain_keeps

theorem takePair_keeps {s0 s : State} {a b c d e f g i} (h : Keeps s0 s) : Keeps s0 (takePair a b c d e f g i s) := by
  unfold takePair
  repeat' first
    | with_reducible assumption
    | with_reducible apply setDomain_keeps
    | with_reducible apply ptpPair_keeps
    | with_reducible apply send_keeps
    | extract_lets +onlyGivenNames x
    | split

theorem revertDue_keeps {s0 s : State} (h : Keeps s0 s) : Keeps s0 (revertDue s) := by
  unfold revertDue
  repeat' first
    | with_reducible apply keeps_ite
    | with_reducible assumption
    | with_reducible apply selectDomain_keeps
    | split

theorem dueChanges_keeps {s0 s : State} (h : Keeps s0 s) : Keeps s0 (dueChanges s) := by
  unfold dueChanges
  repeat' first
    | with_reducible apply keeps_ite
    | with_reducible assumption
    | with_reducible apply loseDomain_keeps
    | with_reducible apply revertDue_keeps

theorem ocxoCheck_keeps {s0 s : State} (h : Keeps s0 s) : Keeps s0 (ocxoCheck s) := by
  unfold ocxoCheck
  repeat' first
    | with_reducible apply keeps_ite
    | with_reducible assumption
    | extract_lets +onlyGivenNames x
    | with_reducible apply keeps_mk

theorem timeSleep_keeps {s0 s : State} (h : Keeps s0 s) : Keeps s0 (timeSleep s) := by
  unfold timeSleep
  repeat' first
    | with_reducible assumption
    | with_reducible apply setRate_keeps
    | extract_lets +onlyGivenNames x
    | with_reducible apply keeps_mk

theorem timeWake_keeps {s0 s : State} (h : Keeps s0 s) : Keeps s0 (timeWake s) := by
  exact h

theorem restartDomain_keeps {s0 s : State} {a b} (h : Keeps s0 s) : Keeps s0 (restartDomain a b s) := by
  unfold restartDomain
  repeat' first
    | with_reducible apply keeps_ite
    | with_reducible assumption
    | with_reducible apply setDomain_keeps
    | extract_lets +onlyGivenNames x
    | with_reducible apply keeps_mk

theorem disableDomain_keeps {s0 s : State} {a} (h : Keeps s0 s) : Keeps s0 (disableDomain a s) := by
  unfold disableDomain
  repeat' first
    | with_reducible assumption
    | with_reducible apply selectedLost_keeps
    | with_reducible apply setDomain_keeps

theorem cmdPtpCfg_keeps {s0 s : State} {a} (h : Keeps s0 s) : KeepsA s0 (cmdPtpCfg a s) := by
  unfold cmdPtpCfg
  repeat' first
    | with_reducible assumption
    | with_reducible apply checked_keeps
    | with_reducible apply keepsA_mk
    | with_reducible apply restartDomain_keeps
    | with_reducible apply disableDomain_keeps
    | intro _ _
    | extract_lets +onlyGivenNames x
    | split
    | with_reducible exact keeps_id ‹_›

theorem cmdPtpStatus_keeps {s0 s : State} {a} (h : Keeps s0 s) : KeepsA s0 (cmdPtpStatus a s) := by
  unfold cmdPtpStatus
  repeat' first
    | with_reducible assumption
    | with_reducible apply keepsA_mk
    | intro _ _
    | extract_lets +onlyGivenNames x
    | with_reducible exact keeps_id ‹_›

theorem cmdTimeGet_keeps {s0 s : State} {a} (h : Keeps s0 s) : KeepsA s0 (cmdTimeGet a s) := by
  unfold cmdTimeGet
  repeat' first
    | with_reducible assumption
    | with_reducible apply keepsA_mk
    | intro _ _
    | extract_lets +onlyGivenNames x
    | with_reducible exact keeps_id ‹_›

theorem cmdDomainSelect_keeps {s0 s : State} {a} (h : Keeps s0 s) : KeepsA s0 (cmdDomainSelect a s) := by
  unfold cmdDomainSelect
  repeat' first
    | with_reducible apply keeps_ite
    | with_reducible assumption
    | with_reducible apply checked_keeps
    | with_reducible apply keepsA_mk
    | with_reducible apply dueChanges_keeps
    | with_reducible apply rebase_keeps
    | with_reducible apply selectDomain_keeps
    | intro _ _
    | extract_lets +onlyGivenNames x
    | with_reducible exact keeps_id ‹_›
    | with_reducible apply keeps_mk

/-! ### Modes.lean -/

theorem stopLaunches_keeps {s0 s : State} (h : Keeps s0 s) : Keeps s0 (stopLaunches s) := by
  unfold stopLaunches
  repeat' first
    | with_reducible apply keeps_ite
    | with_reducible assumption
    | with_reducible apply tellHeld_keeps
    | with_reducible apply applyNow_keeps
    | with_reducible apply burstCheck_keeps
    | with_reducible apply rearmStopped_keeps
    | with_reducible apply settleFences_keeps
    | with_reducible apply amonLatch_keeps
    | with_reducible apply keeps_foldl
    | extract_lets +onlyGivenNames x
    | with_reducible apply keeps_mk

theorem endHold_keeps {s0 s : State} (h : Keeps s0 s) : Keeps s0 (endHold s) := by
  unfold endHold
  repeat' first
    | with_reducible assumption
    | with_reducible apply restartAcc_keeps
    | with_reducible apply restartAllSlots_keeps
    | extract_lets +onlyGivenNames x
    | with_reducible apply keeps_mk

theorem ochreStops_keeps {s0 s : State} (h : Keeps s0 s) : Keeps s0 (ochreStops s) := by
  exact h

theorem dropRaw_keeps {s0 s : State} (h : Keeps s0 s) : Keeps s0 (dropRaw s) := by
  unfold dropRaw
  repeat' first
    | with_reducible assumption
    | with_reducible apply freeRec_keeps
    | extract_lets +onlyGivenNames x
    | split
    | with_reducible apply keeps_mk

theorem toStandby_keeps {s0 s : State} (h : Keeps s0 s) : Keeps s0 (toStandby s) := by
  unfold toStandby
  repeat' first
    | with_reducible apply keeps_ite
    | with_reducible assumption
    | with_reducible apply stopLaunches_keeps
    | with_reducible apply standbyContexts_keeps
    | with_reducible apply ochreStops_keeps
    | with_reducible apply dropRaw_keeps
    | with_reducible apply releaseLock_keeps
    | with_reducible apply setDrives_keeps
    | extract_lets +onlyGivenNames x
    | with_reducible apply keeps_mk

theorem pairSleep_keeps {s0 s : State} (h : Keeps s0 s) : Keeps s0 (pairSleep s) := by
  unfold pairSleep
  repeat' first
    | with_reducible apply keeps_ite
    | with_reducible assumption
    | extract_lets +onlyGivenNames x
    | with_reducible apply keeps_mk

theorem toSleep_keeps {s0 s : State} {a} (h : Keeps s0 s) : Keeps s0 (toSleep a s) := by
  unfold toSleep
  repeat' first
    | with_reducible assumption
    | with_reducible apply toStandby_keeps
    | with_reducible apply pairSleep_keeps
    | with_reducible apply timSleep_keeps
    | with_reducible apply timeSleep_keeps
    | with_reducible apply sleepCores_keeps
    | with_reducible apply sleepContexts_keeps
    | with_reducible apply amonLatch_keeps
    | extract_lets +onlyGivenNames x
    | with_reducible apply keeps_mk

theorem endSleepEntry_keeps {s0 s : State} {a} (h : Keeps s0 s) : Keeps s0 (endSleepEntry a s) := by
  unfold endSleepEntry
  repeat' first
    | with_reducible assumption
    | with_reducible apply toSleep_keeps
    | with_reducible apply requestWake_keeps
    | with_reducible apply keeps_foldl
    | extract_lets +onlyGivenNames x
    | with_reducible apply keeps_mk

theorem leaveLaunches_keeps {s0 s : State} {a} (h : Keeps s0 s) : Keeps s0 (leaveLaunches a s) := by
  unfold leaveLaunches
  repeat' first
    | with_reducible apply keeps_ite
    | with_reducible assumption
    | with_reducible apply stopLaunches_keeps
    | extract_lets +onlyGivenNames x
    | with_reducible apply keeps_mk

theorem changeLaunches_keeps {s0 s : State} {a b} (h : Keeps s0 s) : Keeps s0 (changeLaunches a b s) := by
  unfold changeLaunches
  repeat' first
    | with_reducible apply keeps_ite
    | with_reducible assumption
    | extract_lets +onlyGivenNames x
    | with_reducible apply keeps_mk

theorem startFresh_keeps {s0 s : State} {a b} (h : Keeps s0 s) : Keeps s0 (startFresh a b s) := by
  unfold startFresh
  repeat' first
    | with_reducible apply keeps_ite
    | with_reducible assumption
    | with_reducible apply entrySurvey_keeps
    | with_reducible apply reacquire_keeps
    | extract_lets +onlyGivenNames x
    | with_reducible apply keeps_mk

theorem beginTransition_keeps {s0 s : State} {a b c d} (h : Keeps s0 s) : Keeps s0 (beginTransition a b c d s) := by
  unfold beginTransition
  repeat' first
    | with_reducible apply keeps_ite
    | with_reducible assumption
    | with_reducible apply leaveSurvey_keeps
    | with_reducible apply changeLaunches_keeps
    | with_reducible apply leaveLaunches_keeps
    | with_reducible apply startFresh_keeps

theorem makeSafe_keeps {s0 s : State} (h : Keeps s0 s) : Keeps s0 (makeSafe s) := by
  unfold makeSafe
  repeat' first
    | with_reducible apply keeps_ite
    | with_reducible assumption
    | with_reducible apply stopLaunches_keeps
    | with_reducible apply dropRun_keeps
    | with_reducible apply fibreEnd_keeps
    | with_reducible apply endLong_keeps
    | with_reducible apply keeps_foldl
    | intro _ _ _
    | extract_lets +onlyGivenNames x
    | split
    | with_reducible apply keeps_mk

theorem fatalSafe_keeps {s0 s : State} {a b} (h : Keeps s0 s) : Keeps s0 (fatalSafe a b s) := by
  unfold fatalSafe
  repeat' first
    | with_reducible apply keeps_ite
    | with_reducible assumption
    | with_reducible apply raise_keeps
    | with_reducible apply makeSafe_keeps
    | with_reducible apply toStandby_keeps
    | with_reducible apply modeItem_keeps
    | with_reducible apply setDrives_keeps
    | extract_lets +onlyGivenNames x
    | split
    | with_reducible apply keeps_mk

theorem retireOchre_keeps {s0 s : State} (h : Keeps s0 s) : Keeps s0 (retireOchre s) := by
  unfold retireOchre
  repeat' first
    | with_reducible apply keeps_ite
    | with_reducible assumption
    | with_reducible apply beginTransition_keeps
    | extract_lets +onlyGivenNames x
    | with_reducible apply keeps_mk

theorem retireDrive_keeps {s0 s : State} {a b c} (h : Keeps s0 s) : Keeps s0 (retireDrive a b c s) := by
  unfold retireDrive
  repeat' first
    | with_reducible apply keeps_ite
    | with_reducible assumption
    | with_reducible apply fatalSafe_keeps
    | with_reducible apply newHeld_keeps
    | with_reducible apply raise_keeps
    | with_reducible apply retireOchre_keeps
    | extract_lets +onlyGivenNames x
    | split
    | with_reducible apply keeps_mk

theorem leakageTest_keeps {s0 s : State} {a} (h : Keeps s0 s) : Keeps s0 (leakageTest a s) := by
  unfold leakageTest
  repeat' first
    | with_reducible apply keeps_ite
    | with_reducible assumption
    | with_reducible apply State.took_keeps
    | with_reducible apply retireDrive_keeps
    | with_reducible apply keeps_foldl
    | intro _ _ _
    | extract_lets +onlyGivenNames x
    | with_reducible apply keeps_mk

theorem startLaunches_keeps {s0 s : State} {a} (h : Keeps s0 s) : Keeps s0 (startLaunches a s) := by
  unfold startLaunches
  repeat' first
    | with_reducible apply keeps_ite
    | with_reducible assumption
    | extract_lets +onlyGivenNames x
    | with_reducible apply keeps_mk

theorem enterMeasure_keeps {s0 s : State} {a} (h : Keeps s0 s) : Keeps s0 (enterMeasure a s) := by
  unfold enterMeasure
  repeat' first
    | with_reducible apply keeps_ite
    | with_reducible assumption
    | with_reducible apply endHold_keeps
    | with_reducible apply ochreStops_keeps
    | with_reducible apply restartAcc_keeps
    | with_reducible apply restartAllSlots_keeps
    | with_reducible apply amonLatch_keeps
    | with_reducible apply refreshDrives_keeps
    | with_reducible apply newHeld_keeps
    | with_reducible apply startLaunches_keeps
    | extract_lets +onlyGivenNames x
    | with_reducible apply keeps_mk

theorem enterWarm_keeps {s0 s : State} (h : Keeps s0 s) : Keeps s0 (enterWarm s) := by
  unfold enterWarm
  repeat' first
    | with_reducible assumption
    | with_reducible apply ochreStops_keeps
    | with_reducible apply setDrives_keeps
    | extract_lets +onlyGivenNames x
    | with_reducible apply keeps_mk

theorem armDuty_keeps {s0 s : State} {a} (h : Keeps s0 s) : Keeps s0 (armDuty a s) := by
  unfold armDuty
  repeat' first
    | with_reducible assumption
    | extract_lets +onlyGivenNames x
    | with_reducible apply keeps_mk

theorem startUpCal_keeps {s0 s : State} (h : Keeps s0 s) : Keeps s0 (startUpCal s) := by
  unfold startUpCal
  repeat' first
    | with_reducible apply keeps_ite
    | with_reducible assumption
    | with_reducible apply startRun_keeps
    | extract_lets +onlyGivenNames x
    | with_reducible apply keeps_mk

theorem keepPeriod_keeps {s0 s : State} {a} (h : Keeps s0 s) : Keeps s0 (keepPeriod a s) := by
  unfold keepPeriod
  repeat' first
    | with_reducible apply keeps_ite
    | with_reducible assumption
    | extract_lets +onlyGivenNames x
    | with_reducible apply keeps_mk

theorem endTransition_keeps {s0 s : State} (h : Keeps s0 s) : Keeps s0 (endTransition s) := by
  unfold endTransition
  repeat' first
    | with_reducible apply keeps_ite
    | with_reducible assumption
    | with_reducible apply reacquire_keeps
    | with_reducible apply endSleepEntry_keeps
    | with_reducible apply armDuty_keeps
    | with_reducible apply keepPeriod_keeps
    | with_reducible apply toStandby_keeps
    | with_reducible apply flushPoints_keeps
    | with_reducible apply enterWarm_keeps
    | with_reducible apply enterMeasure_keeps
    | with_reducible apply modeItem_keeps
    | with_reducible apply beginTransition_keeps
    | with_reducible apply startUpCal_keeps
    | extract_lets +onlyGivenNames x
    | split
    | with_reducible apply keeps_mk

theorem cmdSetMode_keeps {s0 s : State} {a} (h : Keeps s0 s) : KeepsA s0 (cmdSetMode a s) := by
  unfold cmdSetMode
  extract_lets +onlyGivenNames p0 m set_ to_
  refine checked_keeps ?_ h
  extract_lets +onlyGivenNames b0 y s1 same s2 warmed cold
  have h1 : Keeps s0 s1 := h
  have h2 : Keeps s0 s2 := keeps_ite h1 (beginTransition_keeps h1)
  refine ⟨h2, fun u hu => ?_⟩
  clear_value cold
  cases cold
  · exact hu
  · exact refreshDrives_keeps (leakageTest_keeps hu)

/-! ### Pair.lean -/

theorem setOwned_keeps {s0 s : State} {a} (h : Keeps s0 s) : Keeps s0 (setOwned a s) := by
  unfold setOwned
  repeat' first
    | with_reducible apply keeps_ite
    | with_reducible assumption
    | with_reducible apply settleLanes_keeps
    | with_reducible apply restartAcc_keeps
    | extract_lets +onlyGivenNames x
    | with_reducible apply keeps_mk

theorem takeoverItem_keeps {s0 s : State} {a b c d} (h : Keeps s0 s) : Keeps s0 (takeoverItem a b c d s) := by
  unfold takeoverItem
  repeat' first
    | with_reducible assumption
    | with_reducible apply evtItem_keeps

theorem pairFault_keeps {s0 s : State} {a} (h : Keeps s0 s) : Keeps s0 (pairFault a s) := by
  unfold pairFault
  repeat' first
    | with_reducible assumption
    | with_reducible apply raise_keeps

theorem yieldTo_keeps {s0 s : State} (h : Keeps s0 s) : Keeps s0 (yieldTo s) := by
  unfold yieldTo
  repeat' first
    | with_reducible apply keeps_ite
    | with_reducible assumption
    | with_reducible apply startRecovery_keeps
    | with_reducible apply setOwned_keeps
    | with_reducible apply endBound_keeps
    | extract_lets +onlyGivenNames x
    | with_reducible apply keeps_mk

theorem declareLost_keeps {s0 s : State} {a} (h : Keeps s0 s) : Keeps s0 (declareLost a s) := by
  unfold declareLost
  extract_lets +onlyGivenNames y0 q
  have hq : Keeps s0 q := keeps_ite h h
  clear_value q
  refine keeps_ite hq (keeps_ite hq ?_)
  extract_lets +onlyGivenNames before parts b1 n1 s1 y s2
  have h1 : Keeps s0 s1 := startRecovery_keeps hq
  have h2 : Keeps s0 s2 := h1
  clear_value s2 y s1 n1 b1
  cases b1
  · exact setOwned_keeps h2
  · exact h2

theorem withhold_keeps {s0 s : State} (h : Keeps s0 s) : Keeps s0 (withhold s) := by
  unfold withhold
  repeat' first
    | with_reducible assumption
    | with_reducible apply setOwned_keeps
    | with_reducible apply takeoverItem_keeps
    | with_reducible apply pairFault_keeps
    | with_reducible apply endBound_keeps
    | extract_lets +onlyGivenNames x
    | with_reducible apply keeps_mk

theorem takeSlot_keeps {s0 s : State} {a b} (h : Keeps s0 s) : Keeps s0 (takeSlot a b s) := by
  unfold takeSlot
  repeat' first
    | with_reducible apply keeps_ite
    | with_reducible assumption
    | with_reducible apply setOwned_keeps
    | extract_lets +onlyGivenNames x
    | split
    | with_reducible apply keeps_mk

theorem castleAt_keeps {s0 s : State} {a b c} (h : Keeps s0 s) : Keeps s0 (castleAt a b c s) := by
  unfold castleAt
  repeat' first
    | with_reducible apply keeps_ite
    | with_reducible assumption
    | with_reducible apply setOwned_keeps
    | with_reducible apply startRecovery_keeps
    | with_reducible apply endBound_keeps
    | with_reducible apply entrySurvey_keeps
    | extract_lets +onlyGivenNames x
    | with_reducible apply keeps_mk

theorem pairBoundary_keeps {s0 s : State} {a} (h : Keeps s0 s) : Keeps s0 (pairBoundary a s) := by
  unfold pairBoundary
  repeat' first
    | with_reducible apply keeps_ite
    | with_reducible assumption
    | with_reducible apply castleAt_keeps
    | with_reducible apply setOwned_keeps
    | extract_lets +onlyGivenNames x
    | split
    | with_reducible apply keeps_mk

theorem thruWindow_keeps {s0 s : State} {a b c} (h : Keeps s0 s) : Keeps s0 (thruWindow a b c s) := by
  unfold thruWindow
  repeat' first
    | with_reducible apply keeps_ite
    | with_reducible assumption
    | with_reducible apply withhold_keeps
    | with_reducible apply castleAt_keeps
    | with_reducible apply pairFault_keeps
    | extract_lets +onlyGivenNames x
    | split
    | with_reducible apply keeps_mk

theorem heartbeat_keeps {s0 s : State} {a} (h : Keeps s0 s) : Keeps s0 (heartbeat a s) := by
  unfold heartbeat
  extract_lets +onlyGivenNames gap y s1
  have h1 : Keeps s0 s1 := h
  clear_value s1
  exact keeps_ite (declareLost_keeps h1) (keeps_ite (yieldTo_keeps h1) (keeps_ite (endBound_keeps h1) h1))

theorem adoptPlan_keeps {s0 s : State} {a} (h : Keeps s0 s) : Keeps s0 (adoptPlan a s) := by
  unfold adoptPlan
  repeat' first
    | with_reducible apply keeps_ite
    | with_reducible assumption
    | extract_lets +onlyGivenNames x
    | with_reducible apply keeps_mk

theorem linkUp_keeps {s0 s : State} {a} (h : Keeps s0 s) : Keeps s0 (linkUp a s) := by
  unfold linkUp
  repeat' first
    | with_reducible apply keeps_ite
    | with_reducible assumption
    | with_reducible apply pairFault_keeps
    | with_reducible apply yieldTo_keeps
    | with_reducible apply adoptPlan_keeps
    | with_reducible apply endBound_keeps
    | with_reducible apply setOwned_keeps
    | extract_lets +onlyGivenNames x
    | with_reducible apply keeps_mk

theorem configurePair_keeps {s0 s : State} {a} (h : Keeps s0 s) : Keeps s0 (configurePair a s) := by
  exact h

theorem cmdPairCfg_keeps {s0 s : State} {a} (h : Keeps s0 s) : KeepsA s0 (cmdPairCfg a s) := by
  unfold cmdPairCfg
  repeat' first
    | with_reducible assumption
    | with_reducible apply checked_keeps
    | with_reducible apply keepsA_mk
    | with_reducible apply configurePair_keeps
    | intro _ _
    | extract_lets +onlyGivenNames x
    | split
    | with_reducible exact keeps_id ‹_›
    | with_reducible apply keeps_mk

theorem cmdPairStatus_keeps {s0 s : State} {a} (h : Keeps s0 s) : KeepsA s0 (cmdPairStatus a s) := by
  unfold cmdPairStatus
  repeat' first
    | with_reducible assumption
    | with_reducible apply checked_keeps
    | with_reducible apply keepsA_mk
    | intro _ _
    | extract_lets +onlyGivenNames x
    | with_reducible exact keeps_id ‹_›

theorem cmdCastle_keeps {s0 s : State} {a} (h : Keeps s0 s) : KeepsA s0 (cmdCastle a s) := by
  unfold cmdCastle
  extract_lets +onlyGivenNames act mine
  refine checked_keeps ?_ h
  extract_lets +onlyGivenNames h0 count after s1
  have h1 : Keeps s0 s1 := keeps_ite (send_keeps h) h
  refine ⟨keeps_ite h1 h1, fun u hu => ?_⟩
  clear_value s1 count h0
  cases h0
  · exact castleAt_keeps hu
  · exact hu

end Sys2Proof.Machine
end

