-- ==== Sys2Proof/Laws/KeepsControl.lean ====
section
/-! SUPPORT. Laws/KeepsControl.lean: the host links, recovery, faults, power, lines and mirrored commands keep
what Laws/Keeps.lean names. -/

namespace Sys2Proof.Machine

open Sys2Proof

/-! ### Intake.lean -/

theorem settleIn_keeps {s0 s : State} (h : Keeps s0 s) : Keeps s0 (settleIn s) := by
  unfold settleIn
  repeat' first
    | with_reducible apply keeps_ite
    | with_reducible assumption
    | with_reducible apply settle_keeps

theorem enqueue_keeps {s0 s : State} {a} (h : Keeps s0 s) : Keeps s0 (enqueue a s) := by
  exact h

theorem badHeader_keeps {s0 s : State} {a} (h : Keeps s0 s) : Keeps s0 (badHeader a s) := by
  unfold badHeader
  repeat' first
    | with_reducible assumption
    | with_reducible apply raise_keeps

theorem queueError_keeps {s0 s : State} {a} (h : Keeps s0 s) : Keeps s0 (queueError a s) := by
  unfold queueError
  repeat' first
    | with_reducible apply keeps_ite
    | with_reducible assumption
    | with_reducible apply setQ_keeps
    | with_reducible apply raise_keeps

theorem fenceFetch_keeps {s0 s : State} {a b} (h : Keeps s0 s) : Keeps s0 (fenceFetch a b s) := by
  unfold fenceFetch
  repeat' first
    | with_reducible assumption
    | extract_lets +onlyGivenNames x
    | with_reducible apply keeps_mk

theorem fetchEntry_keeps {s0 s : State} {a b} (h : Keeps s0 s) : Keeps s0 (fetchEntry a b s) := by
  unfold fetchEntry
  repeat' first
    | with_reducible apply keeps_ite
    | with_reducible assumption
    | with_reducible apply setQ_keeps
    | with_reducible apply settle_keeps
    | with_reducible apply fenceFetch_keeps
    | with_reducible apply enqueue_keeps
    | with_reducible apply State.took_keeps
    | with_reducible apply badHeader_keeps
    | with_reducible apply queueError_keeps
    | extract_lets +onlyGivenNames x
    | split

theorem touchSource_keeps {s0 s : State} {a} (h : Keeps s0 s) : Keeps s0 (touchSource a s) := by
  exact h

theorem releaseHeld_keeps {s0 s : State} {a b c} (h : Keeps s0 s) : Keeps s0 (releaseHeld a b c s) := by
  induction c generalizing s with
  | zero => exact h
  | succ n ih =>
    unfold releaseHeld
    repeat' first
      | with_reducible apply ih
      | with_reducible assumption
      | with_reducible apply enqueue_keeps
      | with_reducible apply modUdp_keeps
      | extract_lets +onlyGivenNames x
      | split

theorem refuse_keeps {s0 s : State} {a b} (h : Keeps s0 s) : Keeps s0 (refuse a b s) := by
  unfold refuse
  repeat' first
    | with_reducible assumption
    | with_reducible apply sendReply_keeps
    | extract_lets +onlyGivenNames x
    | with_reducible apply keeps_mk

theorem resyncUdp_keeps {s0 s : State} {a b c} (h : Keeps s0 s) : Keeps s0 (resyncUdp a b c s) := by
  unfold resyncUdp
  repeat' first
    | with_reducible assumption
    | with_reducible apply modUdp_keeps
    | with_reducible apply enqueue_keeps
    | with_reducible apply keeps_foldl

theorem classify_keeps {s0 s : State} {a b c} (h : Keeps s0 s) : Keeps s0 (classify a b c s) := by
  unfold classify
  repeat' first
    | with_reducible apply keeps_ite
    | with_reducible assumption
    | with_reducible apply releaseHeld_keeps
    | with_reducible apply enqueue_keeps
    | with_reducible apply modUdp_keeps
    | with_reducible apply sendReply_keeps
    | with_reducible apply resyncUdp_keeps
    | with_reducible apply refuse_keeps
    | extract_lets +onlyGivenNames x
    | split
    | with_reducible apply keeps_mk

theorem takeDatagram_keeps {s0 s : State} {a b c} (h : Keeps s0 s) : Keeps s0 (takeDatagram a b c s) := by
  unfold takeDatagram
  repeat' first
    | with_reducible apply keeps_ite
    | with_reducible assumption
    | with_reducible apply raise_keeps
    | with_reducible apply touchSource_keeps
    | with_reducible apply settleIn_keeps
    | with_reducible apply classify_keeps
    | with_reducible apply enqueue_keeps
    | with_reducible apply badHeader_keeps
    | extract_lets +onlyGivenNames x
    | with_reducible apply keeps_mk

theorem bufferDatagram_keeps {s0 s : State} {a b} (h : Keeps s0 s) : Keeps s0 (bufferDatagram a b s) := by
  unfold bufferDatagram
  repeat' first
    | with_reducible apply keeps_ite
    | with_reducible assumption
    | extract_lets +onlyGivenNames x
    | with_reducible apply keeps_mk

theorem takeBuffers_keeps {s0 s : State} (h : Keeps s0 s) : Keeps s0 (takeBuffers s) := by
  unfold takeBuffers
  repeat' first
    | with_reducible assumption
    | with_reducible apply takeDatagram_keeps
    | with_reducible apply keeps_foldl
    | intro _ _ _
    | extract_lets +onlyGivenNames x
    | with_reducible apply keeps_mk

theorem skipGap_keeps {s0 s : State} {a b} (h : Keeps s0 s) : Keeps s0 (skipGap a b s) := by
  unfold skipGap
  repeat' first
    | with_reducible assumption
    | with_reducible apply raise_keeps
    | with_reducible apply settle_keeps
    | with_reducible apply releaseHeld_keeps
    | with_reducible apply modUdp_keeps
    | extract_lets +onlyGivenNames x
    | split

/-! ### Recover.lean -/

theorem tally_keeps {s0 : State} {f : State → State × Nat} {x : State × Nat} (hf : ∀ t, Keeps s0 t → Keeps s0 (f t).1)
    (h : Keeps s0 x.1) : Keeps s0 (tally f x).1 := hf _ h

theorem endShort_keeps {s0 s : State} {a b} (h : Keeps s0 s) : Keeps s0 (endShort a b s) := by
  unfold endShort
  repeat' first
    | with_reducible assumption
    | with_reducible apply answer_keeps

theorem endUnfetched_keeps {s0 s : State} {a b c d e f} (h : Keeps s0 s) : Keeps s0 (endUnfetched a b c d e f s) := by
  induction e generalizing f s with
  | zero => exact h
  | succ n ih =>
    unfold endUnfetched
    repeat' first
      | with_reducible apply keeps_ite
      | with_reducible apply ih
      | with_reducible assumption
      | with_reducible apply setQ_keeps
      | with_reducible apply answer_keeps
      | with_reducible apply State.took_keeps

theorem endMirror_keeps {s0 s : State} (h : Keeps s0 s) : Keeps s0 (endMirror s) := by
  unfold endMirror
  repeat' first
    | with_reducible apply keeps_ite
    | with_reducible assumption
    | with_reducible apply answer_keeps
    | extract_lets +onlyGivenNames x
    | split
    | with_reducible apply keeps_mk

theorem endAll_keeps {s0 s : State} {a b} (h : Keeps s0 s) : Keeps s0 (endAll a b s) := by
  unfold endAll
  repeat' first
    | with_reducible assumption
    | with_reducible apply endShort_keeps
    | with_reducible apply keeps_foldl
    | intro _ _ _
    | extract_lets +onlyGivenNames x
    | with_reducible apply keeps_mk

theorem abortPcie_keeps {s0 s : State} {a b c d} (h : Keeps s0 s) : Keeps s0 (abortPcie a b c d s).1 := by
  unfold abortPcie
  repeat' first
    | with_reducible assumption
    | with_reducible apply endAll_keeps
    | with_reducible apply endUnfetched_keeps

theorem abortUdp_keeps {s0 s : State} {a b c} (h : Keeps s0 s) : Keeps s0 (abortUdp a b c s).1 := by
  unfold abortUdp
  repeat' first
    | with_reducible assumption
    | with_reducible apply modUdp_keeps
    | with_reducible apply endAll_keeps

theorem abortShort_keeps {s0 s : State} {a b c d} (h : Keeps s0 s) : Keeps s0 (abortShort a b c d s).1 := by
  unfold abortShort
  extract_lets +onlyGivenNames x y rest
  have hx : Keeps s0 x.1 := by
    subst x
    with_reducible refine tally_keeps (fun _ ht => abortPcie_keeps ht) (tally_keeps (fun _ ht => abortPcie_keeps ht) ?_)
    exact endMirror_keeps h
  clear_value x
  have hy : Keeps s0 y.1 := by
    subst y
    with_reducible refine keeps_foldl_fst hx (fun _ _ ht => tally_keeps (fun _ hu => abortUdp_keeps hu) (tally_keeps (fun _ hu => abortUdp_keeps hu) ht))
  clear_value y
  exact endAll_keeps hy

theorem abortSurvey_keeps {s0 s : State} {a} (h : Keeps s0 s) : Keeps s0 (abortSurvey a s) := by
  unfold abortSurvey
  repeat' first
    | with_reducible apply keeps_ite
    | with_reducible assumption
    | with_reducible apply leaveSurvey_keeps
    | with_reducible apply endTransition_keeps
    | with_reducible apply runOver_keeps
    | with_reducible apply moveSwitch_keeps
    | extract_lets +onlyGivenNames x
    | split
    | with_reducible apply keeps_mk

theorem abortTests_keeps {s0 s : State} {a} (h : Keeps s0 s) : Keeps s0 (abortTests a s) := by
  unfold abortTests
  repeat' first
    | with_reducible assumption
    | with_reducible apply endTraining_keeps
    | with_reducible apply endLong_keeps
    | with_reducible apply completion_keeps
    | extract_lets +onlyGivenNames x
    | split
    | with_reducible apply keeps_mk

theorem abortLongs_keeps {s0 s : State} {a b} (h : Keeps s0 s) : Keeps s0 (abortLongs a b s) := by
  unfold abortLongs
  repeat' first
    | with_reducible assumption
    | with_reducible apply abortTests_keeps
    | with_reducible apply abortFw_keeps
    | with_reducible apply abortSurvey_keeps
    | with_reducible apply abortRun_keeps

theorem discards_keeps {s0 s : State} (h : Keeps s0 s) : Keeps s0 (discards s) := by
  unfold discards
  repeat' first
    | with_reducible assumption
    | with_reducible apply recoverStages_keeps
    | with_reducible apply recoverStreams_keeps
    | with_reducible apply dropRaw_keeps
    | with_reducible apply recoverCores_keeps
    | with_reducible apply recoverContexts_keeps
    | extract_lets +onlyGivenNames x
    | with_reducible apply keeps_mk

theorem tellFollow_keeps {s0 s : State} {a b} (h : Keeps s0 s) : Keeps s0 (tellFollow a b s) := by
  unfold tellFollow
  repeat' first
    | with_reducible assumption
    | with_reducible apply raise_keeps
    | with_reducible apply evtItem_keeps
    | split

theorem lateFlush_keeps {s0 s : State} {a} (h : Keeps s0 s) : Keeps s0 (lateFlush a s) := by
  unfold lateFlush
  repeat' first
    | with_reducible assumption
    | with_reducible apply setQ_keeps
    | with_reducible apply endUnfetched_keeps
    | extract_lets +onlyGivenNames x
    | split

theorem finishRecovery_keeps {s0 s : State} {a b c} (h : Keeps s0 s) : Keeps s0 (finishRecovery a b c s) := by
  unfold finishRecovery
  extract_lets +onlyGivenNames new st g longs x y2 y4 s1 s2 s3 s4 y3 s5 s6
  have hx : Keeps s0 x.1 := by
    subst x
    with_reducible exact abortShort_keeps (abortLongs_keeps h)
  have hy : Keeps s0 y2 := hx
  clear_value y4 y2
  have h1 : Keeps s0 s1 := by
    subst s1
    with_reducible refine discards_keeps ?_
    exact hy
  clear_value s1
  have h2 : Keeps s0 s2 := logEntry_keeps h1
  clear_value s2
  have h3 : Keeps s0 s3 := reqVector_keeps (evtItem_keeps h2)
  clear_value s3
  have h4 : Keeps s0 s4 := keeps_foldl (State.adv_keeps h3) (fun _ _ hu => tellFollow_keeps hu)
  clear_value s4
  have h5 : Keeps s0 s5 := by
    subst s5
    with_reducible refine lateFlush_keeps (lateFlush_keeps ?_)
    exact h4
  clear_value s5
  have h6 : Keeps s0 s6 := takeBuffers_keeps (settle_keeps h5)
  clear_value s6
  split
  · with_reducible refine beginRecovery_keeps ?_
    exact h6
  · exact h6

/-! ### System.lean -/

theorem cmdNop_keeps {s0 s : State} {a} (h : Keeps s0 s) : KeepsA s0 (cmdNop a s) := by
  unfold cmdNop
  repeat' first
    | with_reducible assumption
    | with_reducible apply keepsA_mk
    | intro _ _
    | extract_lets +onlyGivenNames x
    | with_reducible exact keeps_id ‹_›

theorem cmdGetCaps_keeps {s0 s : State} {a} (h : Keeps s0 s) : KeepsA s0 (cmdGetCaps a s) := by
  unfold cmdGetCaps
  repeat' first
    | with_reducible assumption
    | with_reducible apply keepsA_mk
    | intro _ _
    | extract_lets +onlyGivenNames x
    | with_reducible exact keeps_id ‹_›

theorem cmdGetStatus_keeps {s0 s : State} {a} (h : Keeps s0 s) : KeepsA s0 (cmdGetStatus a s) := by
  unfold cmdGetStatus
  repeat' first
    | with_reducible assumption
    | with_reducible apply keepsA_mk
    | with_reducible apply State.took_keeps
    | intro _ _
    | extract_lets +onlyGivenNames x
    | with_reducible exact keeps_id ‹_›

theorem beginFence_keeps {s0 s : State} {a} (h : Keeps s0 s) : Keeps s0 (beginFence a s) := by
  unfold beginFence
  repeat' first
    | with_reducible apply keeps_ite
    | with_reducible assumption
    | with_reducible apply reject_keeps
    | with_reducible apply conclude_keeps
    | with_reducible apply settleFences_keeps
    | with_reducible apply dropFetched_keeps
    | extract_lets +onlyGivenNames x
    | split
    | with_reducible apply keeps_mk

theorem fenceRow_keeps {s0 s : State} {a} (h : Keeps s0 s) : Keeps s0 (fenceRow a s) := by
  unfold fenceRow
  repeat' first
    | with_reducible apply keeps_ite
    | with_reducible assumption
    | with_reducible apply State.adv_keeps
    | with_reducible apply beginFence_keeps
    | with_reducible apply takeTurn_keeps

theorem unitReset_keeps {s0 s : State} {a} (h : Keeps s0 s) : Keeps s0 (unitReset a s) := by
  unfold unitReset
  repeat' first
    | with_reducible apply keeps_ite
    | with_reducible assumption
    | with_reducible apply resetCore_keeps
    | with_reducible apply restartAllSlots_keeps
    | with_reducible apply restartAcc_keeps
    | with_reducible apply restartFilters_keeps
    | extract_lets +onlyGivenNames x
    | with_reducible apply keeps_mk

theorem controllerFails_keeps {s0 s : State} {a} (h : Keeps s0 s) : Keeps s0 (controllerFails a s) := by
  unfold controllerFails
  repeat' first
    | with_reducible apply keeps_ite
    | with_reducible assumption
    | extract_lets +onlyGivenNames x
    | split
    | with_reducible apply keeps_mk

theorem cmdResetUnit_keeps {s0 s : State} {a} (h : Keeps s0 s) : KeepsA s0 (cmdResetUnit a s) := by
  unfold cmdResetUnit
  repeat' first
    | with_reducible apply keeps_ite
    | with_reducible assumption
    | with_reducible apply checked_keeps
    | with_reducible apply keepsA_mk
    | with_reducible apply controllerFails_keeps
    | with_reducible apply startRecovery_keeps
    | with_reducible apply unitReset_keeps
    | intro _ _

theorem cmdSetNode_keeps {s0 s : State} {a} (h : Keeps s0 s) : KeepsA s0 (cmdSetNode a s) := by
  unfold cmdSetNode
  repeat' first
    | with_reducible assumption
    | with_reducible apply checked_keeps
    | with_reducible apply keepsA_mk
    | intro _ _
    | extract_lets +onlyGivenNames x
    | with_reducible exact keeps_id ‹_›
    | with_reducible apply keeps_mk

theorem cmdGetLog_keeps {s0 s : State} {a} (h : Keeps s0 s) : KeepsA s0 (cmdGetLog a s) := by
  unfold cmdGetLog
  repeat' first
    | with_reducible assumption
    | with_reducible apply checked_keeps
    | with_reducible apply keepsA_mk
    | intro _ _
    | extract_lets +onlyGivenNames x
    | with_reducible exact keeps_id ‹_›

/-! ### Faults.lean -/

theorem cmdFaultRead_keeps {s0 s : State} {a} (h : Keeps s0 s) : KeepsA s0 (cmdFaultRead a s) := by
  unfold cmdFaultRead
  repeat' first
    | with_reducible assumption
    | with_reducible apply checked_keeps
    | with_reducible apply keepsA_mk
    | intro _ _
    | extract_lets +onlyGivenNames x
    | with_reducible exact keeps_id ‹_›

theorem clearFaultCounts_keeps {s0 s : State} (h : Keeps s0 s) : Keeps s0 (clearFaultCounts s) := by
  exact h

theorem clearFatal_keeps {s0 s : State} (h : Keeps s0 s) : Keeps s0 (clearFatal s) := by
  unfold clearFatal
  repeat' first
    | with_reducible apply keeps_ite
    | with_reducible assumption
    | extract_lets +onlyGivenNames x
    | with_reducible apply keeps_mk

theorem clearSticky_keeps {s0 s : State} (h : Keeps s0 s) : Keeps s0 (clearSticky s) := by
  exact h

theorem markRead_keeps {s0 s : State} (h : Keeps s0 s) : Keeps s0 (markRead s) := by
  exact h

theorem cmdFaultClear_keeps {s0 s : State} {a} (h : Keeps s0 s) : KeepsA s0 (cmdFaultClear a s) := by
  unfold cmdFaultClear
  repeat' first
    | with_reducible apply keeps_ite
    | with_reducible assumption
    | with_reducible apply checked_keeps
    | with_reducible apply keepsA_mk
    | with_reducible apply markRead_keeps
    | with_reducible apply clearFaultCounts_keeps
    | with_reducible apply clearFatal_keeps
    | with_reducible apply clearSticky_keeps
    | intro _ _
    | extract_lets +onlyGivenNames x
    | with_reducible exact keeps_id ‹_›

theorem cmdSpareStatus_keeps {s0 s : State} {a} (h : Keeps s0 s) : KeepsA s0 (cmdSpareStatus a s) := by
  unfold cmdSpareStatus
  repeat' first
    | with_reducible assumption
    | with_reducible apply keepsA_mk
    | intro _ _
    | extract_lets +onlyGivenNames x
    | with_reducible exact keeps_id ‹_›

theorem takeControl_keeps {s0 s : State} {a} (h : Keeps s0 s) : Keeps s0 (takeControl a s) := by
  unfold takeControl
  repeat' first
    | with_reducible assumption
    | with_reducible apply startRecovery_keeps
    | extract_lets +onlyGivenNames x
    | with_reducible apply keeps_mk

theorem retested_keeps {s0 s : State} {a} (h : Keeps s0 s) : Keeps s0 (retested a s) := by
  unfold retested
  repeat' first
    | with_reducible apply keeps_ite
    | with_reducible assumption
    | with_reducible apply raise_keeps
    | extract_lets +onlyGivenNames x
    | with_reducible apply keeps_mk

theorem bootController_keeps {s0 s : State} (h : Keeps s0 s) : Keeps s0 (bootController s) := by
  unfold bootController
  repeat' first
    | with_reducible assumption
    | extract_lets +onlyGivenNames x
    | with_reducible apply keeps_mk

theorem cmdFwUpdate_keeps {s0 s : State} {a} (h : Keeps s0 s) : KeepsA s0 (cmdFwUpdate a s) := by
  unfold cmdFwUpdate
  repeat' first
    | with_reducible assumption
    | with_reducible apply checked_keeps
    | with_reducible apply keepsA_mk
    | intro _ _
    | extract_lets +onlyGivenNames x
    | with_reducible exact keeps_id ‹_›
    | with_reducible apply keeps_mk

theorem writeSlot_keeps {s0 s : State} {a} (h : Keeps s0 s) : Keeps s0 (writeSlot a s) := by
  unfold writeSlot
  repeat' first
    | with_reducible apply keeps_ite
    | with_reducible assumption
    | with_reducible apply setOtherValid_keeps
    | with_reducible apply endBound_keeps
    | extract_lets +onlyGivenNames x
    | with_reducible apply keeps_mk

theorem activate_keeps {s0 s : State} (h : Keeps s0 s) : Keeps s0 (activate s) := by
  unfold activate
  repeat' first
    | with_reducible apply keeps_ite
    | with_reducible assumption
    | extract_lets +onlyGivenNames x
    | with_reducible apply keeps_mk

theorem finishUpdate_keeps {s0 s : State} {a b c d e} (h : Keeps s0 s) : Keeps s0 (finishUpdate a b c d e s) := by
  unfold finishUpdate
  repeat' first
    | with_reducible apply keeps_ite
    | with_reducible assumption
    | with_reducible apply endLong_keeps
    | with_reducible apply completion_keeps
    | with_reducible apply writeSlot_keeps
    | with_reducible apply setOtherValid_keeps
    | with_reducible apply activate_keeps
    | extract_lets +onlyGivenNames x
    | split
    | with_reducible apply keeps_mk

theorem cmdSelfTest_keeps {s0 s : State} {a} (h : Keeps s0 s) : KeepsA s0 (cmdSelfTest a s) := by
  unfold cmdSelfTest
  repeat' first
    | with_reducible assumption
    | with_reducible apply checked_keeps
    | with_reducible apply keepsA_mk
    | intro _ _
    | extract_lets +onlyGivenNames x
    | with_reducible exact keeps_id ‹_›
    | with_reducible apply keeps_mk

theorem testFails_keeps {s0 s : State} {a} (h : Keeps s0 s) : Keeps s0 (testFails a s) := by
  unfold testFails
  repeat' first
    | with_reducible assumption
    | with_reducible apply raise_keeps

theorem runTest_keeps {s0 s : State} {a b} (h : Keeps s0 s) : Keeps s0 (runTest a b s).1 := by
  unfold runTest
  repeat' first
    | with_reducible apply keeps_ite
    | with_reducible apply keeps_ite_fst
    | exact fun _ _ hm => hm
    | with_reducible assumption
    | with_reducible apply raise_keeps
    | with_reducible apply testFails_keeps
    | with_reducible apply retireLane_keeps
    | with_reducible apply modCore_keeps
    | with_reducible apply leakageTest_keeps
    | with_reducible apply keeps_foldl
    | intro _ _ _
    | extract_lets +onlyGivenNames x
    | split
    | with_reducible apply keeps_mk

theorem runTests_keeps {s0 : State} {a : SelfTestIn} {b : Nat} {l : List Nat} {x : State × Nat × Nat × Nat} (h : Keeps s0 x.1) :
    Keeps s0 (runTests a b l x).1 := by
  induction l generalizing x with
  | nil => exact h
  | cons k ks ih =>
    obtain ⟨s, pass, fail, skip⟩ := x
    unfold runTests
    refine ih (keeps_ite_fst h (keeps_ite_fst h ?_))
    have hr := runTest_keeps (a := a) (b := k) (s := s) h
    generalize runTest a k s = r at hr
    obtain ⟨u, ok⟩ := r
    cases ok <;> exact hr

theorem finishTests_keeps {s0 s : State} {a b c} (h : Keeps s0 s) : Keeps s0 (finishTests a b c s) := by
  unfold finishTests
  have hr := runTests_keeps (a := c) (b := b.toNat) (l := List.range 6) (x := (s, 0, 0, 0)) h
  generalize runTests c b.toNat (List.range 6) (s, 0, 0, 0) = x at hr
  obtain ⟨u, pass, fail, skip⟩ := x
  exact endLong_keeps (completion_keeps hr)

/-! ### Power.lean -/

theorem resetSettings_keeps {s0 s : State} (h : Keeps s0 s) : Keeps s0 (resetSettings s) := by
  unfold resetSettings
  repeat' first
    | with_reducible assumption
    | with_reducible apply retakeHeld_keeps
    | extract_lets +onlyGivenNames x
    | with_reducible apply keeps_mk

theorem loadStore_keeps {s0 s : State} {a} (h : Keeps s0 s) : Keeps s0 (loadStore a s) := by
  unfold loadStore
  repeat' first
    | with_reducible assumption
    | with_reducible apply resetSettings_keeps
    | with_reducible apply retakeHeld_keeps
    | extract_lets +onlyGivenNames x
    | with_reducible apply keeps_mk

theorem storeBad_keeps {s0 s : State} {a} (h : Keeps s0 s) : Keeps s0 (storeBad a s) := by
  unfold storeBad
  repeat' first
    | with_reducible assumption
    | with_reducible apply raise_keeps

theorem applyBoard_keeps {s0 s : State} {a} (h : Keeps s0 s) : Keeps s0 (applyBoard a s) := by
  exact h

theorem startDomains_keeps {s0 s : State} {a} (h : Keeps s0 s) : Keeps s0 (startDomains a s) := by
  unfold startDomains
  repeat' first
    | with_reducible assumption
    | with_reducible apply bootController_keeps
    | with_reducible apply startIdle_keeps
    | with_reducible apply startTraining_keeps
    | with_reducible apply applyBoard_keeps
    | extract_lets +onlyGivenNames x
    | with_reducible apply keeps_mk

theorem tellStart_keeps {s0 s : State} (h : Keeps s0 s) : Keeps s0 (tellStart s) := by
  unfold tellStart
  repeat' first
    | with_reducible apply keeps_ite
    | with_reducible assumption
    | with_reducible apply tellTraining_keeps
    | with_reducible apply raise_keeps
    | with_reducible apply endBound_keeps

theorem wakeEnds_keeps {s0 s : State} {a b c d} (h : Keeps s0 s) : Keeps s0 (wakeEnds a b c d s) := by
  unfold wakeEnds
  repeat' first
    | with_reducible apply keeps_ite
    | with_reducible assumption
    | with_reducible apply armDuty_keeps
    | with_reducible apply tellStart_keeps
    | with_reducible apply modeItem_keeps

theorem wakeUp_keeps {s0 s : State} {a b} (h : Keeps s0 s) : Keeps s0 (wakeUp a b s) := by
  unfold wakeUp
  repeat' first
    | with_reducible apply keeps_ite
    | with_reducible assumption
    | with_reducible apply startDomains_keeps
    | with_reducible apply auxWake_keeps
    | with_reducible apply timeWake_keeps
    | with_reducible apply storeBad_keeps
    | with_reducible apply wakeEnds_keeps
    | with_reducible apply resetSettings_keeps
    | with_reducible apply loadStore_keeps
    | with_reducible apply beginTransition_keeps
    | with_reducible apply tellStart_keeps
    | with_reducible apply refreshDrives_keeps
    | with_reducible apply leakageTest_keeps
    | extract_lets +onlyGivenNames x
    | split
    | with_reducible apply keeps_mk

theorem loseDomains_keeps {s0 s : State} (h : Keeps s0 s) : Keeps s0 (loseDomains s) := by
  unfold loseDomains
  repeat' first
    | with_reducible assumption
    | with_reducible apply toSleep_keeps
    | extract_lets +onlyGivenNames x
    | with_reducible apply keeps_mk

theorem supplyLost_keeps {s0 s : State} {a b c} (h : Keeps s0 s) : Keeps s0 (supplyLost a b c s) := by
  unfold supplyLost
  repeat' first
    | with_reducible apply keeps_ite
    | with_reducible assumption
    | with_reducible apply makeSafe_keeps
    | with_reducible apply loseDomains_keeps
    | extract_lets +onlyGivenNames x
    | with_reducible apply keeps_mk

theorem offState_keeps {s0 s : State} (h : Keeps s0 s) : Keeps s0 (offState s) := by
  refine ⟨h.1, h.2.1, fun _ => ?_⟩
  show (Vector.replicate 32 ({} : Core)).toList.all Core.memOk = true
  decide

/-! ### HostLinks.lean -/

theorem setQerr_keeps {s0 s : State} {a} (h : Keeps s0 s) : Keeps s0 (setQerr a s) := by
  unfold setQerr
  repeat' first
    | with_reducible assumption
    | with_reducible apply setQ_keeps

theorem flushQueue_keeps {s0 s : State} {a b} (h : Keeps s0 s) : Keeps s0 (flushQueue a b s) := by
  unfold flushQueue
  repeat' first
    | with_reducible assumption
    | with_reducible apply answer_keeps
    | with_reducible apply endUnfetched_keeps
    | with_reducible apply setQ_keeps
    | with_reducible apply settleFences_keeps
    | with_reducible apply keeps_foldl
    | intro _ _ _
    | extract_lets +onlyGivenNames x
    | with_reducible apply keeps_mk

theorem ctrlWrite_keeps {s0 s : State} {a} (h : Keeps s0 s) : Keeps s0 (ctrlWrite a s) := by
  unfold ctrlWrite
  repeat' first
    | with_reducible assumption
    | extract_lets +onlyGivenNames x
    | with_reducible apply keeps_mk

theorem stageKey_keeps {s0 s : State} {a b} (h : Keeps s0 s) : Keeps s0 (stageKey a b s) := by
  exact h

theorem w1cClear_keeps {s0 s : State} {a b c} (h : Keeps s0 s) : Keeps s0 (w1cClear a b c s) := by
  unfold w1cClear
  repeat' first
    | with_reducible assumption
    | with_reducible apply setQ_keeps
    | extract_lets +onlyGivenNames x
    | split
    | with_reducible apply keeps_mk

theorem msixWrite_keeps {s0 s : State} {a b} (h : Keeps s0 s) : Keeps s0 (msixWrite a b s) := by
  unfold msixWrite
  repeat' first
    | with_reducible apply keeps_ite
    | with_reducible assumption
    | with_reducible apply send_keeps
    | extract_lets +onlyGivenNames x
    | with_reducible apply keeps_mk

theorem registerWrite_keeps {s0 s : State} {a b c} (h : Keeps s0 s) : Keeps s0 (registerWrite a b c s) := by
  unfold registerWrite
  repeat' first
    | with_reducible apply keeps_ite
    | with_reducible assumption
    | with_reducible apply ctrlWrite_keeps
    | with_reducible apply stageKey_keeps
    | with_reducible apply msixWrite_keeps
    | extract_lets +onlyGivenNames x
    | with_reducible apply keeps_mk

theorem resetPcie_keeps {s0 s : State} (h : Keeps s0 s) : Keeps s0 (resetPcie s) := by
  unfold resetPcie
  repeat' first
    | with_reducible assumption
    | with_reducible apply unconfigurePcie_keeps
    | with_reducible apply settleFences_keeps
    | extract_lets +onlyGivenNames x
    | with_reducible apply keeps_mk

theorem setEth_keeps {s0 s : State} {a b} (h : Keeps s0 s) : Keeps s0 (setEth a b s) := by
  unfold setEth
  repeat' first
    | with_reducible apply keeps_ite
    | with_reducible assumption
    | extract_lets +onlyGivenNames x
    | with_reducible apply keeps_mk

theorem boardAccess_keeps {s0 s : State} {a} (h : Keeps s0 s) : Keeps s0 (boardAccess a s) := by
  unfold boardAccess
  repeat' first
    | with_reducible assumption
    | with_reducible apply send_keeps
    | extract_lets +onlyGivenNames x
    | split
    | with_reducible apply keeps_mk

theorem jtagRestart_keeps {s0 s : State} {a} (h : Keeps s0 s) : Keeps s0 (jtagRestart a s) := by
  unfold jtagRestart
  repeat' first
    | with_reducible assumption
    | with_reducible apply startDomains_keeps
    | with_reducible apply timeWake_keeps
    | with_reducible apply loseDomains_keeps
    | with_reducible apply storeBad_keeps
    | with_reducible apply tellStart_keeps
    | with_reducible apply modeItem_keeps
    | with_reducible apply resetSettings_keeps
    | with_reducible apply loadStore_keeps
    | extract_lets +onlyGivenNames x
    | split

/-! ### Lines.lean -/

theorem applyOne_keeps {s0 s : State} {a} (h : Keeps s0 s) : Keeps s0 (applyOne a s) := by
  unfold applyOne
  repeat' first
    | with_reducible apply keeps_ite
    | with_reducible assumption
    | with_reducible apply amonLatch_keeps
    | with_reducible apply applyPlan_keeps
    | extract_lets +onlyGivenNames x
    | with_reducible apply keeps_mk

theorem applyDue_keeps {s0 s : State} {a} (h : Keeps s0 s) : Keeps s0 (applyDue a s) := by
  unfold applyDue
  repeat' first
    | with_reducible assumption
    | with_reducible apply applyOne_keeps
    | with_reducible apply keeps_foldl
    | extract_lets +onlyGivenNames x
    | with_reducible apply keeps_mk

theorem beginMaps_keeps {s0 s : State} {a} (h : Keeps s0 s) : Keeps s0 (beginMaps a s) := by
  unfold beginMaps
  repeat' first
    | with_reducible apply keeps_ite
    | with_reducible assumption
    | extract_lets +onlyGivenNames x
    | with_reducible apply keeps_mk

theorem changesAt_keeps {s0 s : State} {a} (h : Keeps s0 s) : Keeps s0 (changesAt a s) := by
  unfold changesAt
  repeat' first
    | with_reducible assumption
    | with_reducible apply beginMaps_keeps
    | with_reducible apply applyDue_keeps
    | with_reducible apply settleFences_keeps
    | with_reducible apply tellHeld_keeps
    | extract_lets +onlyGivenNames x
    | with_reducible apply keeps_mk

theorem changesFor_keeps {s0 s : State} {a} (h : Keeps s0 s) : Keeps s0 (changesFor a s) := by
  unfold changesFor
  repeat' first
    | with_reducible assumption
    | with_reducible apply applyDue_keeps

theorem rampAt_keeps {s0 s : State} {a b} (h : Keeps s0 s) : Keeps s0 (rampAt a b s) := by
  unfold rampAt
  repeat' first
    | with_reducible apply keeps_ite
    | with_reducible assumption
    | extract_lets +onlyGivenNames x
    | with_reducible apply keeps_mk

theorem thermalAt_keeps {s0 s : State} {a} (h : Keeps s0 s) : Keeps s0 (thermalAt a s) := by
  unfold thermalAt
  repeat' first
    | with_reducible apply keeps_ite
    | with_reducible assumption
    | with_reducible apply State.took_keeps
    | extract_lets +onlyGivenNames x
    | with_reducible apply keeps_mk

theorem rawStarts_keeps {s0 s : State} {a} (h : Keeps s0 s) : Keeps s0 (rawStarts a s) := by
  unfold rawStarts
  repeat' first
    | with_reducible apply keeps_ite
    | with_reducible assumption
    | with_reducible apply modRec_keeps
    | extract_lets +onlyGivenNames x
    | split
    | with_reducible apply keeps_mk

theorem makeLaunch_keeps {s0 s : State} {a b} (h : Keeps s0 s) : Keeps s0 (makeLaunch a b s) := by
  unfold makeLaunch
  repeat' first
    | with_reducible apply keeps_ite
    | with_reducible assumption
    | with_reducible apply send_keeps
    | with_reducible apply timFeed_keeps
    | with_reducible apply rawStarts_keeps
    | extract_lets +onlyGivenNames x
    | with_reducible apply keeps_mk

theorem launchSlot_keeps {s0 s : State} {a b} (h : Keeps s0 s) : Keeps s0 (launchSlot a b s) := by
  unfold launchSlot
  repeat' first
    | with_reducible apply keeps_ite
    | with_reducible assumption
    | with_reducible apply ochreLaunched_keeps
    | with_reducible apply makeLaunch_keeps
    | extract_lets +onlyGivenNames x
    | with_reducible apply keeps_mk

theorem surveyLaunch_keeps {s0 s : State} {a} (h : Keeps s0 s) : Keeps s0 (surveyLaunch a s) := by
  unfold surveyLaunch
  repeat' first
    | with_reducible assumption
    | with_reducible apply State.adv_keeps
    | with_reducible apply makeLaunch_keeps
    | extract_lets +onlyGivenNames x
    | split
    | with_reducible apply keeps_mk

theorem takePlace_keeps {s0 s : State} (h : Keeps s0 s) : Keeps s0 (takePlace s) := by
  unfold takePlace
  repeat' first
    | with_reducible apply keeps_ite
    | with_reducible assumption
    | with_reducible apply placeBoundary_keeps
    | extract_lets +onlyGivenNames x
    | split
    | with_reducible apply keeps_mk

theorem nextLaunch_keeps {s0 s : State} {a} (h : Keeps s0 s) : Keeps s0 (nextLaunch a s) := by
  unfold nextLaunch
  repeat' first
    | with_reducible apply keeps_ite
    | with_reducible assumption
    | with_reducible apply takePlace_keeps
    | extract_lets +onlyGivenNames x
    | split
    | with_reducible apply keeps_mk

theorem beginDrain_keeps {s0 s : State} {a} (h : Keeps s0 s) : ∀ t, (beginDrain a s) = some t → Keeps s0 t := by
  intro t e
  unfold beginDrain at e
  split at e
  · split at e
    · cases e
      exact h
    · cases e
  · cases e

theorem portChanged_keeps {s0 s : State} (h : Keeps s0 s) : Keeps s0 (portChanged s) := by
  unfold portChanged
  repeat' first
    | with_reducible assumption
    | with_reducible apply resetDark_keeps
    | with_reducible apply resetChecks_keeps
    | extract_lets +onlyGivenNames x
    | with_reducible apply keeps_mk

theorem boundary_keeps {s0 s : State} {a} (h : Keeps s0 s) : Keeps s0 (boundary a s) := by
  unfold boundary
  refine keeps_ite (stopLaunches_keeps h) ?_
  extract_lets +onlyGivenNames was wasO s1 port s2 s3
  have h1 : Keeps s0 s1 := keeps_ite (endHold_keeps h) h
  clear_value s1 port
  have h2 : Keeps s0 s2 := beginSteps_keeps (changesAt_keeps h1)
  clear_value s2
  have h3 : Keeps s0 s3 := keeps_ite h2 (portChanged_keeps h2)
  clear_value s3
  split
  · exact refreshDrives_keeps (beginDrain_keeps h3 _ (by assumption))
  · extract_lets +onlyGivenNames hold y s4 s5 s6 s7 z s8
    have h4 : Keeps s0 s4 := keeps_ite h3 h3
    clear_value s4
    have h5 : Keeps s0 s5 := pairBoundary_keeps h4
    clear_value s5
    have h6 : Keeps s0 s6 := burstCheck_keeps (rearmBoundary_keeps (settleLanes_keeps (applyMoves_keeps h5)))
    clear_value s6
    have h7 : Keeps s0 s7 := refreshDrives_keeps (thermalAt_keeps (rampAt_keeps h6))
    clear_value z s7
    have h8 : Keeps s0 s8 := keeps_ite h7 h7
    clear_value s8
    exact nextLaunch_keeps (launchSlot_keeps (takeSlot_keeps h8))

theorem loadRef_keeps {s0 s : State} {a} (h : Keeps s0 s) : Keeps s0 (loadRef a s) := by
  unfold loadRef
  repeat' first
    | with_reducible assumption
    | with_reducible apply setPort_keeps
    | extract_lets +onlyGivenNames x
    | split

theorem soaOpen_keeps {s0 s : State} {a b} (h : Keeps s0 s) : Keeps s0 (soaOpen a b s) := by
  unfold soaOpen
  repeat' first
    | with_reducible assumption
    | with_reducible apply fatalSafe_keeps
    | extract_lets +onlyGivenNames x
    | with_reducible apply keeps_mk

theorem cmdRawCapture_keeps {s0 s : State} {a} (h : Keeps s0 s) : KeepsA s0 (cmdRawCapture a s) := by
  unfold cmdRawCapture
  repeat' first
    | with_reducible assumption
    | with_reducible apply checked_keeps
    | with_reducible apply keepsA_mk
    | with_reducible apply addRec_keeps
    | intro _ _
    | extract_lets +onlyGivenNames x
    | split
    | with_reducible exact keeps_id ‹_›
    | with_reducible apply keeps_mk

theorem rawDone_keeps {s0 s : State} {a} (h : Keeps s0 s) : Keeps s0 (rawDone a s) := by
  unfold rawDone
  repeat' first
    | with_reducible assumption
    | with_reducible apply completeRec_keeps
    | with_reducible apply modRec_keeps
    | extract_lets +onlyGivenNames x
    | with_reducible apply keeps_mk

theorem rtPut_keeps {s0 s : State} {a b} (h : Keeps s0 s) : Keeps s0 (rtPut a b s) := by
  unfold rtPut
  repeat' first
    | with_reducible assumption
    | with_reducible apply rtDropped_keeps
    | with_reducible apply rtWrite_keeps
    | split

theorem rawLine_keeps {s0 s : State} {a b c d} (h : Keeps s0 s) : Keeps s0 (rawLine a b c d s) := by
  unfold rawLine
  repeat' first
    | with_reducible apply keeps_ite
    | with_reducible assumption
    | with_reducible apply State.took_keeps
    | with_reducible apply rtPut_keeps
    | with_reducible apply rawDone_keeps
    | extract_lets +onlyGivenNames x
    | split
    | with_reducible apply keeps_mk

theorem rawBring_keeps {s0 s : State} {a b} (h : Keeps s0 s) : Keeps s0 (rawBring a b s) := by
  unfold rawBring
  repeat' first
    | with_reducible assumption
    | extract_lets +onlyGivenNames x
    | split
    | with_reducible apply keeps_mk

theorem delayApr_keeps {s0 s : State} {a b} (h : Keeps s0 s) : Keeps s0 (delayApr a b s) := by
  unfold delayApr
  repeat' first
    | with_reducible apply keeps_ite
    | with_reducible assumption
    | with_reducible apply aprTrip_keeps
    | extract_lets +onlyGivenNames x
    | split

theorem dasLine_keeps {s0 s : State} {a b} (h : Keeps s0 s) : Keeps s0 (dasLine a b s) := by
  unfold dasLine
  repeat' first
    | with_reducible assumption
    | with_reducible apply changesFor_keeps
    | with_reducible apply State.adv_keeps
    | with_reducible apply dasProcess_keeps
    | with_reducible apply amonDas_keeps
    | with_reducible apply rawBring_keeps
    | with_reducible apply delayApr_keeps
    | with_reducible apply flushAlarms_keeps
    | with_reducible apply lineToContexts_keeps
    | with_reducible apply flushPoints_keeps
    | with_reducible apply rawLine_keeps
    | extract_lets +onlyGivenNames x
    | with_reducible apply keeps_mk

theorem ochreLine_keeps {s0 s : State} {a b} (h : Keeps s0 s) : Keeps s0 (ochreLine a b s) := by
  unfold ochreLine
  repeat' first
    | with_reducible apply keeps_ite
    | with_reducible assumption
    | with_reducible apply changesFor_keeps
    | with_reducible apply State.adv_keeps
    | with_reducible apply ochreAdd_keeps
    | with_reducible apply aprCheck_keeps
    | extract_lets +onlyGivenNames x
    | with_reducible apply keeps_mk

theorem dwellUpdate_keeps {s0 s : State} {a} (h : Keeps s0 s) : Keeps s0 (dwellUpdate a s) := by
  unfold dwellUpdate
  repeat' first
    | with_reducible apply keeps_ite
    | with_reducible assumption
    | extract_lets +onlyGivenNames x
    | split
    | with_reducible apply keeps_mk

theorem tickZones_keeps {s0 s : State} (h : Keeps s0 s) : Keeps s0 (tickZones s) := by
  unfold tickZones
  repeat' first
    | with_reducible assumption
    | extract_lets +onlyGivenNames x
    | with_reducible apply keeps_mk

theorem statusLine_keeps {s0 s : State} (h : Keeps s0 s) : Keeps s0 (statusLine s) := by
  unfold statusLine
  repeat' first
    | with_reducible assumption
    | with_reducible apply codeLine_keeps

theorem statusSecond_keeps {s0 s : State} (h : Keeps s0 s) : Keeps s0 (statusSecond s) := by
  unfold statusSecond
  repeat' first
    | with_reducible apply keeps_ite
    | with_reducible assumption
    | with_reducible apply modStream_keeps
    | with_reducible apply statusLine_keeps

/-! ### Transport.lean -/

/-- Every command a device runs by its opcode keeps them. -/
theorem opBody_keeps {s0 : State} {op : Nat} {sp : CmdSpec} {body : Fetched → State → Ans} (e : opBody op = some (sp, body)) :
    ∀ (f : Fetched) (s : State), Keeps s0 s → KeepsA s0 (body f s) := by
  unfold opBody at e
  split at e <;> cases e
  exacts [
    fun _ _ => cmdNop_keeps, fun _ _ => cmdGetCaps_keeps, fun _ _ => cmdGetStatus_keeps,
    fun _ _ => cmdSetMode_keeps, fun _ _ => cmdResetUnit_keeps, fun _ _ => cmdSetNode_keeps,
    fun _ _ => cmdGetLog_keeps, fun _ _ => cmdLaunchCfg_keeps, fun _ _ => cmdSlotCfg_keeps,
    fun _ _ => cmdLightCfg_keeps, fun _ _ => cmdPortSelect_keeps, fun _ _ => cmdGambitRun_keeps,
    fun _ _ => cmdGambitRead_keeps, fun _ _ => cmdAprCfg_keeps, fun _ _ => cmdIndigoCfg_keeps,
    fun _ _ => cmdZoneMapLoad_keeps, fun _ _ => cmdZoneMapRead_keeps, fun _ _ => cmdOchreCfg_keeps,
    fun _ _ => cmdOchreRead_keeps, fun _ _ => cmdRefCoilCfg_keeps, fun _ _ => cmdCtxSet_keeps,
    fun _ _ => cmdCtxGet_keeps, fun _ _ => cmdCtxArm_keeps, fun _ _ => cmdCtxDisarm_keeps,
    fun _ _ => cmdPatternSet_keeps, fun _ _ => cmdThreshLoad_keeps, fun _ _ => cmdAlarmRoute_keeps,
    fun _ _ => cmdRecList_keeps, fun _ _ => cmdRecFetch_keeps, fun _ _ => cmdRecRelease_keeps,
    fun _ _ => cmdPoolCfg_keeps, fun _ _ => cmdCoreLoad_keeps, fun _ _ => cmdCoreStart_keeps,
    fun _ _ => cmdCoreStop_keeps, fun _ _ => cmdCoreRead_keeps, fun _ _ => cmdStreamCfg_keeps,
    fun _ _ => cmdStreamSave_keeps, fun _ _ => cmdStreamRestore_keeps, fun _ _ => cmdBulkLoad_keeps,
    fun _ _ => cmdPtpCfg_keeps, fun _ _ => cmdPtpStatus_keeps, fun _ _ => cmdTimeGet_keeps,
    fun _ _ => cmdDomainSelect_keeps, fun _ _ => cmdTimCfg_keeps, fun _ _ => cmdTimRead_keeps,
    fun _ _ => cmdLaunchSync_keeps, fun _ _ => cmdCalRun_keeps, fun _ _ => cmdCalSave_keeps,
    fun _ _ => cmdCalRestore_keeps, fun _ _ => cmdCalQuality_keeps, fun _ _ => cmdMemStatus_keeps,
    fun _ _ => cmdMemTrain_keeps, fun _ _ => cmdMemMap_keeps, fun _ _ => cmdAuxCfg_keeps,
    fun _ _ => cmdAuxRead_keeps, fun _ _ => cmdAmonCfg_keeps, fun _ _ => cmdPairCfg_keeps,
    fun _ _ => cmdPairStatus_keeps, fun _ _ => cmdCastle_keeps, fun _ _ => cmdFaultRead_keeps,
    fun _ _ => cmdFaultClear_keeps, fun _ _ => cmdSpareStatus_keeps, fun _ _ => cmdRawCapture_keeps,
    fun _ _ => cmdSelfTest_keeps, fun _ _ => cmdFwUpdate_keeps]

theorem unhold_keeps {s0 s : State} {a} (h : Keeps s0 s) : Keeps s0 (unhold a s) := by
  exact h

theorem retry_keeps {s0 s : State} {a b} (h : Keeps s0 s) : Keeps s0 (retry a b s) := by
  unfold retry
  split
  · exact h
  · rename_i sp body e
    extract_lets +onlyGivenNames s1
    have h1 : Keeps s0 s1 := unhold_keeps h
    clear_value s1
    split
    · exact conclude_keeps (reject_keeps h1)
    · exact keeps_ite (conclude_keeps (reject_keeps h1)) (keeps_ite h (conclude_keeps (opBody_keeps e _ _ h1)))

theorem drainPartner_keeps {s0 s : State} {a} (h : Keeps s0 s) : Keeps s0 (drainPartner a s) := by
  induction a generalizing s with
  | zero => exact h
  | succ n ih =>
    unfold drainPartner
    with_reducible refine keeps_ite h ?_
    split
    · exact h
    · refine ih ?_
      split
      · exact conclude_keeps (reject_keeps h)
      · rename_i e
        exact attempt_keeps (opBody_keeps e) h

theorem partnerRequest_keeps {s0 s : State} {a b} (h : Keeps s0 s) : Keeps s0 (partnerRequest a b s) := by
  unfold partnerRequest
  repeat' first
    | with_reducible assumption
    | with_reducible apply drainPartner_keeps
    | with_reducible apply enqueue_keeps

theorem mirrorDone_keeps {s0 s : State} {a b} (h : Keeps s0 s) : Keeps s0 (mirrorDone a b s) := by
  unfold mirrorDone
  repeat' first
    | with_reducible apply keeps_ite
    | with_reducible assumption
    | with_reducible apply answer_keeps
    | with_reducible apply settle_keeps
    | extract_lets +onlyGivenNames x
    | with_reducible apply keeps_mk

end Sys2Proof.Machine
end

