-- ==== Sys2Proof/Laws/PerInstr.lean ====
section
/-! SUPPORT. Laws/PerInstr.lean: statements about every command as syntax, one lemma per constructor. `WordSize`: a command
that has an instruction word has one of 32 bits (R283). -/

namespace Sys2Proof.Laws.WordSize

open Sys2Proof Sys2Proof.Zc

/-- The word of the command, if it has one, fits 32 bits. -/
def Statement (i : Instr) : Prop := ∀ w, Zc.encode i = some w → w < 2 ^ 32

theorem bit_le (b : Bool) : (if b then 1048576 else 0) ≤ 1048576 := by cases b <;> simp

theorem none_ok {i : Instr} (h : Zc.encode i = none) : Statement i := by
  intro w hw; rw [h] at hw; cases hw

theorem some_ok {i : Instr} {v : Nat} (h : Zc.encode i = some v) (hv : v < 2 ^ 32) : Statement i := by
  intro w hw; rw [h] at hw; cases hw; exact hv

theorem memBits_lt (m : MemOp) : memBits m < 2 ^ 21 := by
  have := m.p.isLt; have := m.mod.isLt; have := bit_le m.spaceY; unfold memBits; omega

theorem macBits_lt (m : MacOp) : macBits m < 2 ^ 24 := by
  have := m.px.isLt; have := m.py.isLt; have := m.xmod.isLt; have := m.ymod.isLt; unfold macBits; omega

theorem nop (r : Req) : Statement (.nop r) := none_ok rfl
theorem getCaps (r : Req) : Statement (.getCaps r) := none_ok rfl
theorem getStatus (r : Req) : Statement (.getStatus r) := none_ok rfl
theorem setMode (r : Req) : Statement (.setMode r) := none_ok rfl
theorem fence (r : Req) : Statement (.fence r) := none_ok rfl
theorem resetUnit (r : Req) : Statement (.resetUnit r) := none_ok rfl
theorem setNode (r : Req) : Statement (.setNode r) := none_ok rfl
theorem getLog (r : Req) : Statement (.getLog r) := none_ok rfl
theorem launchCfg (r : Req) : Statement (.launchCfg r) := none_ok rfl
theorem slotCfg (r : Req) : Statement (.slotCfg r) := none_ok rfl
theorem lightCfg (r : Req) : Statement (.lightCfg r) := none_ok rfl
theorem portSelect (r : Req) : Statement (.portSelect r) := none_ok rfl
theorem gambitRun (r : Req) : Statement (.gambitRun r) := none_ok rfl
theorem gambitRead (r : Req) : Statement (.gambitRead r) := none_ok rfl
theorem aprCfg (r : Req) : Statement (.aprCfg r) := none_ok rfl
theorem indigoCfg (r : Req) : Statement (.indigoCfg r) := none_ok rfl
theorem zoneMapLoad (r : Req) : Statement (.zoneMapLoad r) := none_ok rfl
theorem zoneMapRead (r : Req) : Statement (.zoneMapRead r) := none_ok rfl
theorem ochreCfg (r : Req) : Statement (.ochreCfg r) := none_ok rfl
theorem ochreRead (r : Req) : Statement (.ochreRead r) := none_ok rfl
theorem refCoilCfg (r : Req) : Statement (.refCoilCfg r) := none_ok rfl
theorem ctxSet (r : Req) : Statement (.ctxSet r) := none_ok rfl
theorem ctxGet (r : Req) : Statement (.ctxGet r) := none_ok rfl
theorem ctxArm (r : Req) : Statement (.ctxArm r) := none_ok rfl
theorem ctxDisarm (r : Req) : Statement (.ctxDisarm r) := none_ok rfl
theorem patternSet (r : Req) : Statement (.patternSet r) := none_ok rfl
theorem threshLoad (r : Req) : Statement (.threshLoad r) := none_ok rfl
theorem alarmRoute (r : Req) : Statement (.alarmRoute r) := none_ok rfl
theorem recList (r : Req) : Statement (.recList r) := none_ok rfl
theorem recFetch (r : Req) : Statement (.recFetch r) := none_ok rfl
theorem recRelease (r : Req) : Statement (.recRelease r) := none_ok rfl
theorem poolCfg (r : Req) : Statement (.poolCfg r) := none_ok rfl
theorem coreLoad (r : Req) : Statement (.coreLoad r) := none_ok rfl
theorem coreStart (r : Req) : Statement (.coreStart r) := none_ok rfl
theorem coreStop (r : Req) : Statement (.coreStop r) := none_ok rfl
theorem coreRead (r : Req) : Statement (.coreRead r) := none_ok rfl
theorem streamCfg (r : Req) : Statement (.streamCfg r) := none_ok rfl
theorem streamSave (r : Req) : Statement (.streamSave r) := none_ok rfl
theorem streamRestore (r : Req) : Statement (.streamRestore r) := none_ok rfl
theorem bulkLoad (r : Req) : Statement (.bulkLoad r) := none_ok rfl
theorem ptpCfg (r : Req) : Statement (.ptpCfg r) := none_ok rfl
theorem ptpStatus (r : Req) : Statement (.ptpStatus r) := none_ok rfl
theorem timeGet (r : Req) : Statement (.timeGet r) := none_ok rfl
theorem domainSelect (r : Req) : Statement (.domainSelect r) := none_ok rfl
theorem timCfg (r : Req) : Statement (.timCfg r) := none_ok rfl
theorem timRead (r : Req) : Statement (.timRead r) := none_ok rfl
theorem launchSync (r : Req) : Statement (.launchSync r) := none_ok rfl
theorem calRun (r : Req) : Statement (.calRun r) := none_ok rfl
theorem calSave (r : Req) : Statement (.calSave r) := none_ok rfl
theorem calRestore (r : Req) : Statement (.calRestore r) := none_ok rfl
theorem calQuality (r : Req) : Statement (.calQuality r) := none_ok rfl
theorem memStatus (r : Req) : Statement (.memStatus r) := none_ok rfl
theorem memTrain (r : Req) : Statement (.memTrain r) := none_ok rfl
theorem memMap (r : Req) : Statement (.memMap r) := none_ok rfl
theorem auxCfg (r : Req) : Statement (.auxCfg r) := none_ok rfl
theorem auxRead (r : Req) : Statement (.auxRead r) := none_ok rfl
theorem amonCfg (r : Req) : Statement (.amonCfg r) := none_ok rfl
theorem pairCfg (r : Req) : Statement (.pairCfg r) := none_ok rfl
theorem pairStatus (r : Req) : Statement (.pairStatus r) := none_ok rfl
theorem castle (r : Req) : Statement (.castle r) := none_ok rfl
theorem faultRead (r : Req) : Statement (.faultRead r) := none_ok rfl
theorem faultClear (r : Req) : Statement (.faultClear r) := none_ok rfl
theorem spareStatus (r : Req) : Statement (.spareStatus r) := none_ok rfl
theorem rawCapture (r : Req) : Statement (.rawCapture r) := none_ok rfl
theorem selfTest (r : Req) : Statement (.selfTest r) := none_ok rfl
theorem fwUpdate (r : Req) : Statement (.fwUpdate r) := none_ok rfl
theorem sqTailWrite (q : Fin 2) (v : U32) : Statement (.sqTailWrite q v) := none_ok rfl
theorem cqHeadWrite (q : Fin 2) (v : U32) : Statement (.cqHeadWrite q v) := none_ok rfl
theorem queueBaseSizeWrite (q : Fin 2) (reg : QueueReg) (v : U32) : Statement (.queueBaseSizeWrite q reg v) := none_ok rfl
theorem enable (q : Fin 2) (v : U32) : Statement (.enable q v) := none_ok rfl
theorem flush (t : Ps) (q : Fin 2) (entries : List EntryHdr) : Statement (.flush t q entries) := none_ok rfl
theorem keyLoad (v : U32) : Statement (.keyLoad v) := none_ok rfl
theorem keyClear (v : U32) : Statement (.keyClear v) := none_ok rfl
theorem w1cClear (reg : W1cReg) (v hw : U32) : Statement (.w1cClear reg v hw) := none_ok rfl
theorem registerWrite (off size : Nat) (v : U32) : Statement (.registerWrite off size v) := none_ok rfl
theorem evtDataLoRead (t : Ps) (parityFails : Bool) : Statement (.evtDataLoRead t parityFails) := none_ok rfl
theorem evtLostRead (dropInCycle : Bool) : Statement (.evtLostRead dropInCycle) := none_ok rfl
theorem evtMark  : Statement .evtMark := none_ok rfl
theorem evtRewind  : Statement .evtRewind := none_ok rfl
theorem evtRelease  : Statement .evtRelease := none_ok rfl
theorem evtFlush (t : Ps) : Statement (.evtFlush t) := none_ok rfl
theorem smbKeyWrite (key : List Byte) (pec : Bool) : Statement (.smbKeyWrite key pec) := none_ok rfl
theorem smbKeyClear (v : U16) (pec : Bool) : Statement (.smbKeyClear v pec) := none_ok rfl
theorem boardData (w : Option (List Byte)) (pec : Bool) : Statement (.boardData w pec) := none_ok rfl
theorem boardCommit (pec : Bool) : Statement (.boardCommit pec) := none_ok rfl
theorem smbRegisterWrite (code : Byte) (v : U16) (pec : Bool) : Statement (.smbRegisterWrite code v pec) := none_ok rfl
theorem boardRecordWritten  : Statement .boardRecordWritten := none_ok rfl
theorem pcieReset (k : PcieResetKind) : Statement (.pcieReset k) := none_ok rfl
theorem sqEntryFetch (t : Ps) (q : Fin 2) (e : Option SqEntry) : Statement (.sqEntryFetch t q e) := none_ok rfl
theorem udpDatagram (t : Ps) (port : Fin 2) (id : Nat) (addrLow : U32) (bytes : List Byte) : Statement (.udpDatagram t port id addrLow bytes) := none_ok rfl
theorem udpGap (t : Ps) (id : Nat) (urgent : Bool) : Statement (.udpGap t id urgent) := none_ok rfl
theorem deferRetry (t : Ps) (src : Source) : Statement (.deferRetry t src) := none_ok rfl
theorem deferTimeout (t : Ps) (src : Source) : Statement (.deferTimeout t src) := none_ok rfl
theorem mirroredRequest (opcode : Byte) (r : Req) : Statement (.mirroredRequest opcode r) := none_ok rfl
theorem mirrorReply (t : Ps) (status : Byte) : Statement (.mirrorReply t status) := none_ok rfl
theorem mirrorTimeout (t : Ps) : Statement (.mirrorTimeout t) := none_ok rfl
theorem recovery (t : Ps) (cause : Byte) (unit : U16) (e0 e1 : List EntryHdr) : Statement (.recovery t cause unit e0 e1) := none_ok rfl
theorem launch  : Statement .launch := none_ok rfl
theorem drainEnd  : Statement .drainEnd := none_ok rfl
theorem dasLine (d : LineIn) : Statement (.dasLine d) := none_ok rfl
theorem laneSelfTestDone (t : Ps) (lane : Fin 9) (pass : Bool) : Statement (.laneSelfTestDone t lane pass) := none_ok rfl
theorem refLost (t : Ps) (percent : Nat) : Statement (.refLost t percent) := none_ok rfl
theorem refResume (t : Ps) : Statement (.refResume t) := none_ok rfl
theorem caseTempSample (t : Ps) (temp : Int) : Statement (.caseTempSample t temp) := none_ok rfl
theorem ldShortDetect (t : Ps) (ch : Fin 8) (diff : Int) : Statement (.ldShortDetect t ch diff) := none_ok rfl
theorem soaOpenConfirm (t : Ps) (diff : Int) : Statement (.soaOpenConfirm t diff) := none_ok rfl
theorem soaProbe (t : Ps) (pass : Bool) : Statement (.soaProbe t pass) := none_ok rfl
theorem surveyDone (t : Ps) (d : SurveyIn) : Statement (.surveyDone t d) := none_ok rfl
theorem surveyTimeout (t : Ps) : Statement (.surveyTimeout t) := none_ok rfl
theorem portSwitchSettled  : Statement .portSwitchSettled := none_ok rfl
theorem ochreLine (d : OchreIn) : Statement (.ochreLine d) := none_ok rfl
theorem accumulationEnd  : Statement .accumulationEnd := none_ok rfl
theorem ochreUpdate (t : Ps) (ringDrop : List (Nat × Fin 4)) : Statement (.ochreUpdate t ringDrop) := none_ok rfl
theorem sidebandLost (t : Ps) (percent : Nat) : Statement (.sidebandLost t percent) := none_ok rfl
theorem sidebandRecovered (t : Ps) : Statement (.sidebandRecovered t) := none_ok rfl
theorem calStepDone (t : Ps) (d : CalIn) : Statement (.calStepDone t d) := none_ok rfl
theorem calStepTimeout (t : Ps) : Statement (.calStepTimeout t) := none_ok rfl
theorem calDrift (t : Ps) (step : Fin 7) (value : Int) : Statement (.calDrift t step value) := none_ok rfl
theorem tinEdge (t : Ps) (pin : Fin 4) (rising : Bool) : Statement (.tinEdge t pin rising) := none_ok rfl
theorem almPulseEnd (pin : Fin 8) : Statement (.almPulseEnd pin) := none_ok rfl
theorem almsFrameEnd  : Statement .almsFrameEnd := none_ok rfl
theorem alarmHoldoffEnd  : Statement .alarmHoldoffEnd := none_ok rfl
theorem readbackDone (t : Ps) (handle : U32) : Statement (.readbackDone t handle) := none_ok rfl
theorem zoneSampleToCore (c : Fin 32) : Statement (.zoneSampleToCore c) := none_ok rfl
theorem coreBudgetCut (c : Fin 32) : Statement (.coreBudgetCut c) := none_ok rfl
theorem coreDeadline (ctx : Fin 256) : Statement (.coreDeadline ctx) := none_ok rfl
theorem zcImemParity (t : Ps) (c : Fin 32) (addr : Nat) : Statement (.zcImemParity t c addr) := none_ok rfl
theorem zcDmemParity (t : Ps) (c : Fin 32) (addr : Nat) : Statement (.zcDmemParity t c addr) := none_ok rfl
theorem zcRetired (t : Ps) (c : Fin 32) : Statement (.zcRetired t c) := none_ok rfl
theorem coreMoveStart (t : Ps) (c : Fin 32) : Statement (.coreMoveStart t c) := none_ok rfl
theorem nopInstr (c : Fin 32) : Statement (.nopInstr c) :=
  some_ok rfl (by
    decide)
theorem done (c : Fin 32) : Statement (.done c) :=
  some_ok rfl (by
    decide)
theorem repeatI (c : Fin 32) (n : BitVec 12) : Statement (.repeatI c n) :=
  some_ok rfl (by
    have := n.isLt; simp only [op]; omega)
theorem setlc (c : Fin 32) (imm : BitVec 16) : Statement (.setlc c imm) :=
  some_ok rfl (by
    have := imm.isLt; simp only [op]; omega)
theorem dbnz (c : Fin 32) (t : BitVec 12) : Statement (.dbnz c t) :=
  some_ok rfl (by
    have := t.isLt; simp only [op]; omega)
theorem br (c : Fin 32) (t : BitVec 12) : Statement (.br c t) :=
  some_ok rfl (by
    have := t.isLt; simp only [op]; omega)
theorem bcc (c : Fin 32) (cond : BitVec 4) (t : BitVec 12) : Statement (.bcc c cond t) :=
  some_ok rfl (by
    have := cond.isLt; have := t.isLt; simp only [op]; omega)
theorem setb (c : Fin 32) (b : Fin 4) (cond : BitVec 4) : Statement (.setb c b cond) :=
  some_ok rfl (by
    have := b.isLt; have := cond.isLt; simp only [op]; omega)
theorem movi (c : Fin 32) (d : Fin 8) (imm : BitVec 16) : Statement (.movi c d imm) :=
  some_ok rfl (by
    have := d.isLt; have := imm.isLt; simp only [op, r1]; omega)
theorem movhi (c : Fin 32) (d : Fin 8) (imm : BitVec 16) : Statement (.movhi c d imm) :=
  some_ok rfl (by
    have := d.isLt; have := imm.isLt; simp only [op, r1]; omega)
theorem mov (c : Fin 32) (dA dB : Fin 8) : Statement (.mov c dA dB) :=
  some_ok rfl (by
    have := dA.isLt; have := dB.isLt; simp only [op, r1, r2]; omega)
theorem movp (c : Fin 32) (p : Fin 8) (imm : BitVec 14) : Statement (.movp c p imm) :=
  some_ok rfl (by
    have := p.isLt; have := imm.isLt; simp only [op, r1]; omega)
theorem movm (c : Fin 32) (m : Fin 4) (imm : BitVec 14) : Statement (.movm c m imm) :=
  some_ok rfl (by
    have := m.isLt; have := imm.isLt; simp only [op, r1a]; omega)
theorem movpd (c : Fin 32) (p d : Fin 8) : Statement (.movpd c p d) :=
  some_ok rfl (by
    have := p.isLt; have := d.isLt; simp only [op, r1, r2]; omega)
theorem movdp (c : Fin 32) (d p : Fin 8) : Statement (.movdp c d p) :=
  some_ok rfl (by
    have := d.isLt; have := p.isLt; simp only [op, r1, r2]; omega)
theorem addi (c : Fin 32) (d : Fin 8) (imm : BitVec 16) : Statement (.addi c d imm) :=
  some_ok rfl (by
    have := d.isLt; have := imm.isLt; simp only [op, r1]; omega)
theorem add (c : Fin 32) (dA dB dC : Fin 8) : Statement (.add c dA dB dC) :=
  some_ok rfl (by
    have := dA.isLt; have := dB.isLt; have := dC.isLt; simp only [op, r1, r2, r3]; omega)
theorem sub (c : Fin 32) (dA dB dC : Fin 8) : Statement (.sub c dA dB dC) :=
  some_ok rfl (by
    have := dA.isLt; have := dB.isLt; have := dC.isLt; simp only [op, r1, r2, r3]; omega)
theorem cmpd (c : Fin 32) (dA dB : Fin 8) : Statement (.cmpd c dA dB) :=
  some_ok rfl (by
    have := dA.isLt; have := dB.isLt; simp only [op, r1, r2]; omega)
theorem cmpi (c : Fin 32) (d : Fin 8) (imm : BitVec 16) : Statement (.cmpi c d imm) :=
  some_ok rfl (by
    have := d.isLt; have := imm.isLt; simp only [op, r1]; omega)
theorem cmpa (c : Fin 32) (a b : Fin 4) : Statement (.cmpa c a b) :=
  some_ok rfl (by
    have := a.isLt; have := b.isLt; simp only [op, rA, r1a]; omega)
theorem addp (c : Fin 32) (p : Fin 8) (imm : BitVec 14) : Statement (.addp c p imm) :=
  some_ok rfl (by
    have := p.isLt; have := imm.isLt; simp only [op, r1]; omega)
theorem cmpad (c : Fin 32) (a : Fin 4) (d : Fin 8) : Statement (.cmpad c a d) :=
  some_ok rfl (by
    have := a.isLt; have := d.isLt; simp only [op, rA, r1]; omega)
theorem ld (c : Fin 32) (d : Fin 8) (m : MemOp) : Statement (.ld c d m) :=
  some_ok rfl (by
    have := d.isLt; have := memBits_lt m; simp only [op, r1]; omega)
theorem ldw (c : Fin 32) (d : Fin 8) (m : MemOp) : Statement (.ldw c d m) :=
  some_ok rfl (by
    have := d.isLt; have := memBits_lt m; simp only [op, r1]; omega)
theorem st (c : Fin 32) (d : Fin 8) (m : MemOp) : Statement (.st c d m) :=
  some_ok rfl (by
    have := d.isLt; have := memBits_lt m; simp only [op, r1]; omega)
theorem stw (c : Fin 32) (d : Fin 8) (m : MemOp) : Statement (.stw c d m) :=
  some_ok rfl (by
    have := d.isLt; have := memBits_lt m; simp only [op, r1]; omega)
theorem sta (c : Fin 32) (a : Fin 4) (sh : BitVec 6) (m : MemOp) : Statement (.sta c a sh m) :=
  some_ok rfl (by
    have := a.isLt; have := sh.isLt; have := memBits_lt m; simp only [op, rA, rSh]; omega)
theorem staw (c : Fin 32) (a : Fin 4) (sh : BitVec 6) (m : MemOp) : Statement (.staw c a sh m) :=
  some_ok rfl (by
    have := a.isLt; have := sh.isLt; have := memBits_lt m; simp only [op, rA, rSh]; omega)
theorem lda (c : Fin 32) (a : Fin 4) (m : MemOp) : Statement (.lda c a m) :=
  some_ok rfl (by
    have := a.isLt; have := memBits_lt m; simp only [op, rA]; omega)
theorem clr (c : Fin 32) (a : Fin 4) : Statement (.clr c a) :=
  some_ok rfl (by
    have := a.isLt; simp only [op, rA]; omega)
theorem mac (c : Fin 32) (a : Fin 4) (m : MacOp) : Statement (.mac c a m) :=
  some_ok rfl (by
    have := a.isLt; have := macBits_lt m; simp only [op, rA]; omega)
theorem msu (c : Fin 32) (a : Fin 4) (m : MacOp) : Statement (.msu c a m) :=
  some_ok rfl (by
    have := a.isLt; have := macBits_lt m; simp only [op, rA]; omega)
theorem mac2 (c : Fin 32) (a : Fin 4) (m : MacOp) : Statement (.mac2 c a m) :=
  some_ok rfl (by
    have := a.isLt; have := macBits_lt m; simp only [op, rA]; omega)
theorem macd (c : Fin 32) (a : Fin 4) (dA dB : Fin 8) : Statement (.macd c a dA dB) :=
  some_ok rfl (by
    have := a.isLt; have := dA.isLt; have := dB.isLt; simp only [op, rA, r1, r2]; omega)
theorem msud (c : Fin 32) (a : Fin 4) (dA dB : Fin 8) : Statement (.msud c a dA dB) :=
  some_ok rfl (by
    have := a.isLt; have := dA.isLt; have := dB.isLt; simp only [op, rA, r1, r2]; omega)
theorem addAcc (c : Fin 32) (a b : Fin 4) : Statement (.addAcc c a b) :=
  some_ok rfl (by
    have := a.isLt; have := b.isLt; simp only [op, rA, r1a]; omega)
theorem subAcc (c : Fin 32) (a b : Fin 4) : Statement (.subAcc c a b) :=
  some_ok rfl (by
    have := a.isLt; have := b.isLt; simp only [op, rA, r1a]; omega)
theorem shr (c : Fin 32) (a : Fin 4) (sh : BitVec 6) : Statement (.shr c a sh) :=
  some_ok rfl (by
    have := a.isLt; have := sh.isLt; simp only [op, rA, rSh]; omega)
theorem shl (c : Fin 32) (a : Fin 4) (sh : BitVec 6) : Statement (.shl c a sh) :=
  some_ok rfl (by
    have := a.isLt; have := sh.isLt; simp only [op, rA, rSh]; omega)
theorem absA (c : Fin 32) (a : Fin 4) : Statement (.absA c a) :=
  some_ok rfl (by
    have := a.isLt; simp only [op, rA]; omega)
theorem mova (c : Fin 32) (a : Fin 4) (d : Fin 8) : Statement (.mova c a d) :=
  some_ok rfl (by
    have := a.isLt; have := d.isLt; simp only [op, rA, r1]; omega)
theorem movd (c : Fin 32) (d : Fin 8) (a : Fin 4) (sh : BitVec 6) : Statement (.movd c d a sh) :=
  some_ok rfl (by
    have := d.isLt; have := a.isLt; have := sh.isLt; simp only [op, rA, r1, rSh]; omega)
theorem clrst (c : Fin 32) (mask : BitVec 5) : Statement (.clrst c mask) :=
  some_ok rfl (by
    have := mask.isLt; simp only [op]; omega)
theorem blockAgeExpiry (stream : Nat) : Statement (.blockAgeExpiry stream) := none_ok rfl
theorem blockSend (t : Ps) (stream : Nat) (consumer : U32) (room : Bool) : Statement (.blockSend t stream consumer room) := none_ok rfl
theorem evtForwardSend (t : Ps) (room : Bool) : Statement (.evtForwardSend t room) := none_ok rfl
theorem secondTick (t : Ps) : Statement (.secondTick t) := none_ok rfl
theorem ptpMessage (t : Ps) (domain : Fin 2) (m : PtpMsg) : Statement (.ptpMessage t domain m) := none_ok rfl
theorem announceTimeout (t : Ps) (domain : Fin 2) : Statement (.announceTimeout t domain) := none_ok rfl
theorem lossTimeout (t : Ps) (domain : Fin 2) : Statement (.lossTimeout t domain) := none_ok rfl
theorem domainRevert (t : Ps) : Statement (.domainRevert t) := none_ok rfl
theorem ocxoAverage (t : Ps) (freq : Int) : Statement (.ocxoAverage t freq) := none_ok rfl
theorem ocxoRdyChange (t : Ps) (level : Bool) : Statement (.ocxoRdyChange t level) := none_ok rfl
theorem ocxoLost (t : Ps) : Statement (.ocxoLost t) := none_ok rfl
theorem timEdge (t : Ps) (code : Byte) (falling : Bool) : Statement (.timEdge t code falling) := none_ok rfl
theorem timWindowExpiry (t : Ps) (ch : Fin 4) : Statement (.timWindowExpiry t ch) := none_ok rfl
theorem timGateEnd (t : Ps) (ch : Fin 4) : Statement (.timGateEnd t ch) := none_ok rfl
theorem timMarkerLost (t : Ps) : Statement (.timMarkerLost t) := none_ok rfl
theorem timSyncFail (t : Ps) : Statement (.timSyncFail t) := none_ok rfl
theorem auxResult (t : Ps) (ch : Fin 8) (raw : BitVec 24) (det : AuxDetect) (ringDrop : List (Nat × Fin 4)) : Statement (.auxResult t ch raw det ringDrop) := none_ok rfl
theorem amonVrefLow (t : Ps) (mv : Nat) : Statement (.amonVrefLow t mv) := none_ok rfl
theorem refreshDue (ch : Fin 4) (bank : Fin 16) (idle : Bool) : Statement (.refreshDue ch bank idle) := none_ok rfl
theorem scrubPass (t : Ps) (ch : Fin 4) (corrected : Nat) : Statement (.scrubPass t ch corrected) := none_ok rfl
theorem memEccUncorr (t : Ps) (frame : Nat) (offset : Fin 1792) (reader : MemReader) (rec : Option Nat) (word : Nat) : Statement (.memEccUncorr t frame offset reader rec word) := none_ok rfl
theorem phyFault (t : Ps) (channels : BitVec 4) : Statement (.phyFault t channels) := none_ok rfl
theorem memTrainChannelDone (t : Ps) (d : TrainIn) : Statement (.memTrainChannelDone t d) := none_ok rfl
theorem memTrainReq (t : Ps) (ch : Fin 4) : Statement (.memTrainReq t ch) := none_ok rfl
theorem rtDropEpisodeEnd (t : Ps) : Statement (.rtDropEpisodeEnd t) := none_ok rfl
theorem mgmtWatchdog (t : Ps) : Statement (.mgmtWatchdog t) := none_ok rfl
theorem mgmtLockstep (t : Ps) : Statement (.mgmtLockstep t) := none_ok rfl
theorem mgmtTakeover (t : Ps) : Statement (.mgmtTakeover t) := none_ok rfl
theorem mgmtRetestDone (t : Ps) (pass : Bool) : Statement (.mgmtRetestDone t pass) := none_ok rfl
theorem mgmtNoController (t : Ps) : Statement (.mgmtNoController t) := none_ok rfl
theorem commandPathRestart (t : Ps) : Statement (.commandPathRestart t) := none_ok rfl
theorem fwUpdateDone (t : Ps) (verified readBack : Bool) : Statement (.fwUpdateDone t verified readBack) := none_ok rfl
theorem selfTestDone (t : Ps) (d : SelfTestIn) : Statement (.selfTestDone t d) := none_ok rfl
theorem heartbeatTx  : Statement .heartbeatTx := none_ok rfl
theorem heartbeatRx (t : Ps) (h : Heartbeat) : Statement (.heartbeatRx t h) := none_ok rfl
theorem partnerLost (t : Ps) : Statement (.partnerLost t) := none_ok rfl
theorem pairLaneDown (t : Ps) (lane : Fin 2) : Statement (.pairLaneDown t lane) := none_ok rfl
theorem plinkUp (t : Ps) (h : PartnerHello) : Statement (.plinkUp t h) := none_ok rfl
theorem thruWindowEnd (t : Ps) (slot : Fin 8) (power : Int) (delay : Nat) : Statement (.thruWindowEnd t slot power delay) := none_ok rfl
theorem modeChange (t : Ps) : Statement (.modeChange t) := none_ok rfl
theorem wakeN (t : Ps) : Statement (.wakeN t) := none_ok rfl
theorem wakeTimer (t : Ps) : Statement (.wakeTimer t) := none_ok rfl
theorem wake (t : Ps) (b : BootIn) : Statement (.wake t b) := none_ok rfl
theorem dutyDwellEnd (t : Ps) : Statement (.dutyDwellEnd t) := none_ok rfl
theorem dutyLingerEnd (t : Ps) : Statement (.dutyLingerEnd t) := none_ok rfl
theorem thermalTrip (t : Ps) (evidence : Fin 4) (temp : Int) : Statement (.thermalTrip t evidence temp) := none_ok rfl
theorem tecLimit (t : Ps) (deviation current : Int) : Statement (.tecLimit t deviation current) := none_ok rfl
theorem refclkLost (t : Ps) : Statement (.refclkLost t) := none_ok rfl
theorem supplyFault (t : Ps) (supply : Fin 8) (mv us : Nat) : Statement (.supplyFault t supply mv us) := none_ok rfl
theorem supplyRestored (t : Ps) (b : BootIn) : Statement (.supplyRestored t b) := none_ok rfl
theorem xtalFail (t : Ps) (stopped : Bool) : Statement (.xtalFail t stopped) := none_ok rfl
theorem xtalRestored (t : Ps) : Statement (.xtalRestored t) := none_ok rfl
theorem powerUp (t : Ps) (b : BootIn) : Statement (.powerUp t b) := none_ok rfl
theorem startUpAbort  : Statement .startUpAbort := none_ok rfl
theorem powerDown  : Statement .powerDown := none_ok rfl
theorem ethLinkDown (t : Ps) (port : Fin 2) : Statement (.ethLinkDown t port) := none_ok rfl
theorem jtagInstructionExit (t : Ps) (b : BootIn) : Statement (.jtagInstructionExit t b) := none_ok rfl
theorem ocxoSignalReturn (t : Ps) : Statement (.ocxoSignalReturn t) := none_ok rfl
theorem ethLinkUp (t : Ps) (port : Fin 2) : Statement (.ethLinkUp t port) := none_ok rfl
theorem selfRefreshReturn (ch : Fin 4) : Statement (.selfRefreshReturn ch) := none_ok rfl
theorem rawCaptureCopyDone (t : Ps) (gap : Bool) : Statement (.rawCaptureCopyDone t gap) := none_ok rfl
theorem slewDone (t : Ps) : Statement (.slewDone t) := none_ok rfl
theorem refResistorCheck (t : Ps) : Statement (.refResistorCheck t) := none_ok rfl
theorem perstNDeassert  : Statement .perstNDeassert := none_ok rfl

end Sys2Proof.Laws.WordSize
end

