-- ==== Sys2Proof/Laws/Tables.lean ====
section
/-! SUPPORT. Laws/Tables.lean: entries of tables and byte fields. -/

namespace Sys2Proof.Machine

open Sys2Proof

variable {α : Type} {n : Nat} [Inhabited α]

@[simp] theorem vget_vset_same (v : Vector α n) (i : Nat) (x : α) (h : i < n) : vget (vset v i x) i = x := by
  simp [vget, vset, h]

@[simp] theorem vget_vset_other (v : Vector α n) (i j : Nat) (x : α) (h : i ≠ j) : vget (vset v i x) j = vget v j := by
  simp [vget, vset, Vector.getElem?_setIfInBounds_ne h]

@[simp] theorem vget_vmod_same (v : Vector α n) (i : Nat) (f : α → α) (h : i < n) : vget (vmod v i f) i = f (vget v i) := by
  simp [vmod, h]

@[simp] theorem vget_vmod_other (v : Vector α n) (i j : Nat) (f : α → α) (h : i ≠ j) :
    vget (vmod v i f) j = vget v j := by
  simp [vmod, h]

@[simp] theorem vget_replicate (i : Nat) (x : α) (h : i < n) : vget (Vector.replicate n x) i = x := by
  simp [vget, h]

@[simp] theorem leBytes_length (n v : Nat) : (leBytes n v).length = n := by
  induction n generalizing v with
  | zero => rfl
  | succ n ih => simp [leBytes, ih]

/-- The value of the bytes of a field that fits. -/
theorem leVal_leBytes (n v : Nat) (h : v < 256 ^ n) : leVal (leBytes n v) = v := by
  induction n generalizing v with
  | zero => simp [leBytes, leVal] at *; omega
  | succ n ih =>
    have h1 : v / 256 < 256 ^ n := by rw [Nat.div_lt_iff_lt_mul (by decide)]; rw [Nat.pow_succ] at h; exact h
    simp only [leBytes, leVal, ih _ h1, BitVec.toNat_ofNat]
    omega

end Sys2Proof.Machine
end

