-- ==== Sys2Proof/Tests/Slice0.lean ====
section
/-! SUPPORT. Tests/Slice0.lean: well-formedness, the manual's worked figures, and for every clause of every statement with
hypotheses a state and operands that meet them. -/

namespace Slice0Tests

open Sys2Proof Sys2Proof.Machine

-- one proof at a time: each asks the kernel, and many at once ask for more threads than the limits allow
set_option Elab.async false

/-- A request on PCIe queue 0, executed at instant 0. -/
def rq (target : U16) (p : List Byte) : Req :=
  { src := .pcie 0, at_ := 0, tag := 1, seq := 1, flags := 0, target := target, rsv := 0, replyTo := 0x1000, payload := p }

/-- A payload from its fields: size in bytes, value. -/
def pl (fs : List (Nat × Nat)) : List Byte := fs.flatMap (fun f => leBytes f.1 f.2)

/-- In STANDBY, in WARM and in another mode. -/
def idle : State := State.reset
def inMode (m : Mode) : State := { State.reset with power.mode := m }
def warm : State := inMode .warm

/-- A binding; core 3 in an invocation bound so, with an instruction at its program counter. -/
def aBinding : Binding :=
  { ctx := 0, entry := 0, mask := 8, budget := 100, histLen := 16, histBase := 0, stateBase := 0, stateLen := 0,
    histY := false, stateY := false, pos := 0, size := 1, nLocal := 1 }
def running (i : Instr) : State :=
  modCore 3 (fun x => { x with
    state := .running, nInstr := 1, imem := Memory.writes [] 0 (le4 ((Zc.encode i).getD 0)),
    budget := 100,
    inv := some { ctx := 0, seq := 0, zone := 0, value := 0, flag := 0, skipped := false }, bindings := [aBinding] }) State.reset

/-- An image staged in buffer 0, and its check as a payload field. -/
def staging (img : List Byte) (s : State) : State := { s with stages := vset s.stages 0 { phase := 2, decoded := img } }
def crcOf (img : List Byte) : Nat := (crc32c img).toNat

/-- A context's settings: source, zones from 0, bits all zero. -/
def ctxBytes (source n : Nat) : List Byte :=
  pl [(1, source), (1, 0), (1, 0), (1, 1), (4, 0), (4, n), (1, 0), (1, 0), (2, 0x0388), (8, 0), (32, 0)]
/-- In WARM, context 255 configured on one auxiliary channel, with a pattern of one zone, and in a state. -/
def watching (st : CtxState) : State :=
  { modCtx 255 (fun c => { c with cfg := ctxBytes 3 1, patW := 1, state := st }) warm with
    aux.chans := vset warm.aux.chans 0 { enabled := true, cfg := pl [(1, 0), (1, 1), (1, 1), (1, 3), (1, 1), (11, 0)] } }
/-- An empty zone map (R128). -/
def emptyMap : List Byte := pl [(2, 1), (62, 0)]

/-- A completed record of handle 0x4000 that holds one block, and a state that holds it. -/
def aRecord : Record :=
  { entry := 0, gen := 1, ctx := 255, source := 1, cause := 0, epoch := 1, firstZone := 0, nZones := 1, lineSize := 64,
    preReq := 0, postReq := 0, missedBefore := 0, zone := 0, seq := 0, stamp := 0, sec := 0, nsec := 0, postBlocks := 1,
    phase := .done }
def holding (x : Record) : State := { warm with pool.recs := [x] }
/-- A zone-core image of one `nop` (R304), and a core that holds it. -/
def nopImage : List Byte := pl [(2, 1), (2, 0), (2, 1), (62, 0)]
def loaded : State := modCore 31 (fun x => { x with state := .stopped, nInstr := 1 }) (watching .disarmed)
/-- A stream that is configured, and runs or not. -/
def streaming (k : Nat) (x : Stream) : State := modStream k (fun _ => x) idle

/-- An event item of two words, complete from the start. -/
def anItem : EvtItem := { words := [0x1234, 0x5678], poison := [false, false], doneAt := 0, cyc := 0, rank := 0 }
/-- A request fetched from PCIe queue 0, and a command held. -/
def got : Fetched :=
  { src := .pcie 0, opcode := 0x10, tag := 1, seq := 1, flags := 6, target := 0xFFFF, rsv := 0, reply := 0x1000, payload := [],
    failed := none, epoch := 1, uncached := false }
def aReply : Reply := { opcode := 0x10, status := 0, tag := 1, epoch := 1, seq := 1, partner := 0, flags := 0, payload := [] }
/-- A launch that is under way. -/
def aLaunch : LaunchRec :=
  { slot := 7, count := 0, at_ := 0, ramp := false, coarse := false, reduced := false, refLost := false, stale := false, lane := 7,
    ochre := false }
/-- A calibration run of step 6, whose drain is over. -/
def aRun : CalRun :=
  { todo := [6], tag := 1, startup := false, began := 0, held := warm.cal.steps, heldGen := 0, heldReq := 0, heldNa := 0,
    heldLo := 0, heldCoil := (0, 0), started := true }
/-- A drain before the boundary at 5, the SOA gate that pulses in ACOUSTIC, the place of memory address 1,792. -/
def draining : State :=
  { warm with light.draining := true, light.segs := [{ drainFrom := 0, start := 5, count := 1, tl := 1250000000 }] }
def gated : State := { inMode .acoustic with light.ldc := vset warm.light.ldc 2 { enabled := true } }
def placed : MemPlace := { chan := 1, bank := 0, row := 0, offset := 0, burst := 0 }
/-- What a part brings at power up: sound images and records. -/
def boot : BootIn :=
  { imageAValid := true, imageBValid := true, boardBad := false, training := [], storeFails := 0, leaks := [] }

/-- A check written after its bytes reads back as their check. -/
theorem check_read (l : List Byte) : fld (withCrc l) l.length 4 = (crc32c l).toNat := by
  have h : ((l ++ le4 (crc32c l).toNat).drop l.length).take 4 = leBytes 4 (crc32c l).toNat := by simp [le4, leBytes]
  rw [withCrc, fld, h]
  exact leVal_leBytes 4 _ (crc32c l).isLt

theorem stage_check (img : List Byte) (n : Nat) (h : img.length = n) (hn : n < 2 ^ 32) (a b c : Nat) :
    let p := pl [(1, a), (1, b), (2, c), (4, n), (4, crcOf img)]
    stageMismatch img (fld p 4 4) (fld p 8 4) = false := by
  intro p
  have h1 : fld p 4 4 = n := leVal_leBytes 4 _ hn
  have h2 : fld p 8 4 = (crc32c img).toNat := leVal_leBytes 4 _ (crc32c img).isLt
  simp [stageMismatch, h1, h2, h]

/-- A zone-sample, a core with a state, a block that waits. -/
def aSample : Sample := { ctx := 0, seq := 0, zone := 0, value := 0, flag := 0, skipped := false }
def coreIs (x : Core) : State := { idle with cores := vset idle.cores 31 x }
def aBlock : Block :=
  { seq := 0, epoch := 1, flags := 0, carry := 0, nLines := 1, table := [], tokens := [], sampleCrc := 0, padFrom := 4096, node := 0 }
def aLine : CtxLine :=
  { seq := 0, at_ := 0, dev := 0, epoch := 1, lag := 0, slot := 0, desc := [], values := [1], flags := [0], nfRel := 1, excTo := 0, skipped := false,
    gate := true }

/-- An auxiliary channel 7, asleep or awake; a training in progress on channel 3; a pair under way. -/
def sensing (x : AuxCh) (s : State) : State := { s with aux.chans := vset s.aux.chans 7 x }
def watchful : State := { idle with power.sleeping := true, power.mode := .sleepWatch }
def wakeCh : AuxCh := { enabled := true, cfg := pl [(10, 0), (1, 1), (1, 1), (4, 100)] }
def training (x : MemCh) : State := { warm with mem.train := some { left := [3], tag := 1, began := 0 }, mem.ch := vset warm.mem.ch 3 x }
def sound : TrainIn := { finished := true, sweeps := List.replicate 4 (List.replicate 12 true), tapFs := 1 }
def coupled : State := { idle with pair.phase := .paired, pair.role := 1, pair.thruCheck := true, pair.thruHist := [(-3000, 5)] }
def bound_ (m : Mode) : State := { warm with power.trans := some { from_ := .warm, to_ := m, cause := 0, tag := 0, due := 9 } }

/-- In ACOUSTIC with launches on their plan; a context that takes the lines of zone 0, with a stream, after the first zone of a
line in flight has arrived. -/
def launching : State :=
  { inMode .acoustic with
    light.running := true, light.segs := [{ drainFrom := 0, start := 0, count := 0, tl := 1250000000 }] }
def midLine : State :=
  { modStream 0 (fun _ => { configured := true, paused := false }) (modCtx 0 (fun c => { c with cfg := (ctxBytes 1 1).set 1 1, state := .armed }) launching) with
    indigo.map := { das1 := [{ first := 0, len := 2, gauge := 5, xi := 0 }] }
    light.inflight := [{ aLaunch with slot := 0 }], now := 1000000000 }
/-- Context 255 armed, and core 31 that serves it. -/
def serving : State :=
  modCore 31 (fun x => { x with state := .running, nInstr := 1, bindings := [{ aBinding with ctx := 255, mask := 2 ^ 31 }] }) (watching .armed)

/-- A calibration blob of the default part, all of whose sections are empty (R199). -/
def calBody : List Byte := pl [(2, 1), (1, 0xA1), (1, 0), (8, 0)] ++ zeros 12272
def calBlob : List Byte := withCrc calBody
theorem calBody_length : calBody.length = 12284 := by
  rw [calBody, List.length_append, zeros, List.length_replicate]; rfl
theorem calBlob_length : calBlob.length = 12288 := by
  rw [calBlob, withCrc, List.length_append, calBody_length]; rfl
theorem calBlob_check : fld calBlob 12284 4 = (crc32c (calBlob.take 12284)).toNat := by
  have h : calBlob.take 12284 = calBody := List.take_left' calBody_length
  have c := check_read calBody
  rw [calBody_length] at c
  rw [h]; exact c

/-! ### Well-formed terms and terms that each check refuses -/

/-- A zone-core word check refused in each form (R281, R284, R285), and the boundary values that pass. -/
theorem test_wellFormed_core :
    (Instr.bcc 0 7 0).wellFormed = true ∧ (Instr.bcc 0 8 0).wellFormed = false ∧ (Instr.bcc 0 14 0).wellFormed = true ∧
      (Instr.setb 0 0 13).wellFormed = false ∧ (Instr.ld 0 0 { spaceY := false, p := 0, mod := 3 }).wellFormed = false ∧
      (Instr.ld 0 0 { spaceY := false, p := 0, mod := 2 }).wellFormed = true ∧
      (Instr.mac 0 0 { px := 0, xmod := 0, py := 0, ymod := 3 }).wellFormed = false ∧
      (Instr.mac 0 0 { px := 0, xmod := 3, py := 0, ymod := 0 }).wellFormed = false ∧
      (Instr.shr 0 0 0).wellFormed = false ∧ (Instr.shr 0 0 39).wellFormed = true ∧ (Instr.shl 0 0 40).wellFormed = false ∧
      (Instr.movd 0 0 0 0).wellFormed = true ∧ (Instr.movd 0 0 0 40).wellFormed = false ∧
      (Instr.sta 0 0 40 { spaceY := false, p := 0, mod := 0 }).wellFormed = false := by decide

/-- A request of the format of R345, and one that each of its checks refuses. -/
theorem test_wellFormed_request :
    (Instr.nop (rq 0xFFFF [])).wellFormed = true ∧ (Instr.nop (rq 0xFFFF [0, 0, 0])).wellFormed = false ∧
      (Instr.nop (rq 0xFFFF (zeros 4076))).wellFormed = true ∧ (Instr.nop (rq 0xFFFF (zeros 4080))).wellFormed = false ∧
      (Instr.nop { rq 0xFFFF [] with replyTo := 0x1002 }).wellFormed = false ∧
      (Instr.nop { rq 0xFFFF [] with flags := 0x10 }).wellFormed = false ∧
      (Instr.nop { rq 0xFFFF [] with flags := 0x20 }).wellFormed = false ∧
      (Instr.nop { rq 0xFFFF [] with flags := 0x30, src := .udp 1 true }).wellFormed = true := by decide +kernel

/-- An entry's header of 16 bytes and its aligned reply address (R353); four delays (R183), four eyes and centres (R466). -/
theorem test_wellFormed_parts :
    (Instr.sqEntryFetch 0 0 (some { header := zeros 16, replyAddr := 4, payload := none })).wellFormed = true ∧
      (Instr.sqEntryFetch 0 0 (some { header := zeros 15, replyAddr := 4, payload := none })).wellFormed = false ∧
      (Instr.sqEntryFetch 0 0 (some { header := zeros 16, replyAddr := 2, payload := none })).wellFormed = false ∧
      (Instr.calStepDone 0 { figure := 0, delays := [0, 0, 0], tau := 0, floor := 0, ref := 0, section_ := [] }).wellFormed = false ∧
      (let swept (n w : Nat) : Instr := .memTrainChannelDone 0 { sound with sweeps := List.replicate n (List.replicate w true) }
       (swept 4 128).wellFormed = true ∧ (swept 3 128).wellFormed = false ∧ (swept 4 127).wellFormed = false) := by decide +kernel

/-! ### The manual's worked figures -/

/-- The check values of R347 over "123456789", and over no bytes. -/
theorem test_crc_checks :
    let d : List Byte := [0x31, 0x32, 0x33, 0x34, 0x35, 0x36, 0x37, 0x38, 0x39]
    crc16 d = 0x29B1 ∧ crc32c d = 0xE3069283 ∧ crc32c [] = 0 := by decide +kernel

/-- The words of chapter 8's band-energy program, as the manual writes them. -/
theorem test_program_words :
    [0x80000000, 0x2C000000, 0x08000020, 0x8C704000, 0xB0001E00, 0x7A1C0000, 0x81000000, 0x91000000, 0x9D400000].map (Zc.decode 4)
      = [some (.clr 4 0), some (.movp 4 0 0), some (.repeatI 4 32),
        some (.mac2 4 0 { px := 3, xmod := 2, py := 0, ymod := 1 }), some (.movd 4 0 0 15),
        some (.lda 4 2 { spaceY := true, p := 6, mod := 0 }), some (.clr 4 1), some (.macd 4 1 0 0), some (.subAcc 4 1 2)] ∧
    [0xA1000C00, 0x9A200000, 0x761C0000, 0x20200900, 0x2420003D, 0x5A200000, 0x1C003000, 0x04000000].map (Zc.decode 4)
      = [some (.shr 4 1 6), some (.addAcc 4 2 1), some (.staw 4 2 0 { spaceY := true, p := 6, mod := 0 }),
        some (.movi 4 1 0x0900), some (.movhi 4 1 0x003D), some (.cmpad 4 2 1), some (.setb 4 0 3), some (.done 4)] := by
  decide +kernel

/-- `movhi` after `movi` makes 4,000,000, as that program's comment says. -/
theorem test_program_constant :
    (match exec (.movhi 3 1 0x003D) (modCore 3 (fun x => { x with d := vset x.d 1 0x0900 }) (running (.movhi 3 1 0x003D))) with
    | .next t => (vget (core t 3).d 1).toNat | _ => 0) = 4000000 := by decide +kernel

/-- The capability word of R2 and what it fits. -/
theorem test_capability_word :
    idle.part.caps = 0x00020FA1 ∧ idle.ochreFitted = true ∧ idle.pairFitted = true ∧ idle.slotsMax = 8 ∧ idle.zoneCores = 32 := by
  decide +kernel

/-- F at 125 °C is 0.5 (R68; chapter 2's derating on route B), and the pump ceiling is 0.60 A. -/
theorem test_derating :
    derateOf 95 12500 = 1 / 2 ∧ derateOf 95 9500 = 1 ∧
      ldcCeiling { idle with light.derate := derateOf 95 12500 } 3 = 600000 := by decide +kernel

/-- R_B, P_B and the claim of chapter 13's whole-route context. -/
theorem test_claim_of_route :
    let c : Ctx := { cfg := pl [(1, 1), (1, 0), (1, 0), (1, 1), (4, 0), (4, 53504), (4, 0), (4, 23720), (4, 11860), (32, 0)] }
    c.lineSize = 107072 ∧ c.rB = 2423 ∧ c.pB = 1212 ∧ 2 * c.rB + c.pB = 6058 := by decide +kernel

/-- Chapter 13's lane failure: channel 2 out for its write lane 1, three channels, 9,728 blocks, 9 GB/s. -/
theorem test_lane_failure_at_start :
    let eyes (l : List Nat) : TrainIn := { finished := true, sweeps := l.map (List.replicate · true), tapFs := 2470 }
    let ok := eyes [46, 46, 52, 52]
    let s := startTraining [ok, ok, eyes [46, 46, 52, 7], ok] idle
    s.pool.blocks = 9728 ∧ (mch s 2).live = false ∧ (mch s 2).reason = 4 ∧ nLive s = 3 ∧ rtReserve s = 9000000000 := by
  decide +kernel

/-- The frame of chapter 6's worked word: its bytes and check, and /K27.7/ before them at negative disparity (R230). -/
theorem test_alms_frame :
    le4 0x8E3BC20C = [0x0C, 0xC2, 0x3B, 0x8E] ∧ crc8 [0x0C, 0xC2, 0x3B, 0x8E] = 0x7E ∧ alarmWord 0x0C 0x3BC2 50119 = 0x8E3BC20C ∧
      (almsGroups 0x8E3BC20C false).1.length = 7 ∧ (almsGroups 0x8E3BC20C false).1.head? = some 0b1101101000#10 := by decide +kernel

/-- Chapter 3's map for route A: the first entry, and the next stored as zeros (R131). -/
theorem test_map_of_route :
    let img := pl [(2, 1), (2, 0), (4, 2), (56, 0), (4, 0x00040000), (4, 0xC7AE0004), (8, 0)]
    (mapOfImage img).das1 =
      [{ first := 0, len := 2, gauge := 5, xi := 51118 }, { first := 2, len := 2, gauge := 5, xi := 51118 }] ∧
    mapBad img = none := by decide +kernel

/-- An escape with count 0 is one unit 0x8000 in a bulk load (R329), one with count 3 three zeros (R314). -/
theorem test_bulk_escape :
    decodeUnits 9 [5, 1, 0, 0x80, 0, 0, 0, 0x80, 3, 0] 100 [] = .more [5, 1, 0, 0x80, 0, 0, 0, 0, 0, 0] [] := by decide

/-! ### The queue -/

/-- An empty queue idles; the command at the front runs and is gone; no word of the table spells a command (no row has bits). -/
theorem test_queue :
    step idle = .next idle ∧ (∃ t, step { idle with pending := [.launch, .done 3] } = .next t ∧ t.pending = [.done 3]) ∧
      decodeTableWord 8 0 = none ∧ idle.withFetchWord 8 0 = idle :=
  ⟨rfl, ⟨_, rfl, rfl⟩, rfl, rfl⟩

/-! ### What meets the hypotheses of the statements: for each clause a state and operands, at boundary values -/

theorem witness_stepRunsFront :
    (let c : Instr := .done 3; let rest : List Instr := [.launch];
      let s : State := { idle with pending := [.done 3, .launch] }; s.pending = c :: rest) ∧
    (let s : State := idle; s.pending = []) := by
  refine ⟨?_, ?_⟩ <;> decide +kernel

theorem witness_coreDecodeOfEncode :
    (let i : Instr := .sta 3 3 39 { spaceY := true, p := 7, mod := 2 }; let c : Fin 32 := 3; let w : Nat := 0x731F4E00;
      i.wellFormed = true ∧ (coreInstr i = some c ∨ i = .done c) ∧ Zc.encode i = some w) ∧
    (let c : Fin 32 := 3; let w : Nat := 0xB400001F; let i : Instr := .clrst 3 31; w < 2 ^ 32 ∧ Zc.decode c w = some i) := by
  refine ⟨?_, ?_⟩ <;> decide +kernel

theorem witness_coreMoves :
    (let c : Fin 32 := 3; let s : State := running (.nopInstr 3); Runs c (.nopInstr c) s) ∧
    (let c : Fin 32 := 3; let s : State := running (.setlc 3 0xFFFF); let imm : BitVec 16 := 0xFFFF; Runs c (.setlc c imm) s) ∧
    (let c : Fin 32 := 3; let s : State := running (.movi 3 7 0x8000); let d : Fin 8 := 7; let imm : BitVec 16 := 0x8000;
      Runs c (.movi c d imm) s) ∧
    (let c : Fin 32 := 3; let s : State := running (.movhi 3 0 0xFFFF); let d : Fin 8 := 0; let imm : BitVec 16 := 0xFFFF;
      Runs c (.movhi c d imm) s) ∧
    (let c : Fin 32 := 3; let s : State := running (.mov 3 7 7); let d : Fin 8 := 7; let e : Fin 8 := 7;
      Runs c (.mov c d e) s) ∧
    (let c : Fin 32 := 3; let s : State := running (.movp 3 7 0x3FFF); let p : Fin 8 := 7; let imm14 : BitVec 14 := 0x3FFF;
      Runs c (.movp c p imm14) s) ∧
    (let c : Fin 32 := 3; let s : State := running (.movm 3 3 0x3FFF); let m : Fin 4 := 3; let imm14 : BitVec 14 := 0x3FFF;
      Runs c (.movm c m imm14) s) ∧
    (let c : Fin 32 := 3; let s : State := running (.movpd 3 7 0); let d : Fin 8 := 0; let q : Fin 8 := 7;
      Runs c (.movpd c q d) s) ∧
    (let c : Fin 32 := 3; let s : State := running (.movdp 3 7 7); let d : Fin 8 := 7; let q : Fin 8 := 7;
      Runs c (.movdp c d q) s) ∧
    (let c : Fin 32 := 3; let s : State := running (.mova 3 3 7); let d : Fin 8 := 7; let a : Fin 4 := 3;
      Runs c (.mova c a d) s) ∧
    (let c : Fin 32 := 3; let s : State := running (.clr 3 3); let a : Fin 4 := 3; Runs c (.clr c a) s) := by
  refine ⟨?_, ?_, ?_, ?_, ?_, ?_, ?_, ?_, ?_, ?_, ?_⟩ <;> decide +kernel

theorem witness_coreArithmetic :
    (let c : Fin 32 := 3; let s : State := running (.addi 3 7 0x8000); let d : Fin 8 := 7; let imm : BitVec 16 := 0x8000;
      Runs c (.addi c d imm) s) ∧
    (let c : Fin 32 := 3; let s : State := running (.add 3 7 7 7); let d : Fin 8 := 7; let e : Fin 8 := 7;
      let f : Fin 8 := 7; Runs c (.add c d e f) s) ∧
    (let c : Fin 32 := 3; let s : State := running (.sub 3 0 1 7); let d : Fin 8 := 0; let e : Fin 8 := 1;
      let f : Fin 8 := 7; Runs c (.sub c d e f) s) ∧
    (let c : Fin 32 := 3; let s : State := running (.addp 3 3 0x3FFF); let p : Fin 8 := 3; let imm14 : BitVec 14 := 0x3FFF;
      Runs c (.addp c p imm14) s) := by
  refine ⟨?_, ?_, ?_, ?_⟩ <;> decide +kernel

theorem witness_coreCompares :
    (let c : Fin 32 := 3; let s : State := running (.cmpd 3 7 7); let d : Fin 8 := 7; let e : Fin 8 := 7;
      Runs c (.cmpd c d e) s) ∧
    (let c : Fin 32 := 3; let s : State := running (.cmpi 3 7 0x8000); let d : Fin 8 := 7; let imm : BitVec 16 := 0x8000;
      Runs c (.cmpi c d imm) s) ∧
    (let c : Fin 32 := 3; let s : State := running (.cmpa 3 3 0); let a : Fin 4 := 3; let b : Fin 4 := 0;
      Runs c (.cmpa c a b) s) ∧
    (let c : Fin 32 := 3; let s : State := running (.cmpad 3 3 7); let d : Fin 8 := 7; let a : Fin 4 := 3;
      Runs c (.cmpad c a d) s) := by
  refine ⟨?_, ?_, ?_, ?_⟩ <;> decide +kernel

theorem witness_coreLoads :
    (let c : Fin 32 := 3; let s : State := running (.ld 3 7 { spaceY := true, p := 7, mod := 2 }); let d : Fin 8 := 7;
      let m : MemOp := { spaceY := true, p := 7, mod := 2 }; Runs c (.ld c d m) s) ∧
    (let c : Fin 32 := 3; let s : State := running (.ldw 3 7 { spaceY := true, p := 7, mod := 2 }); let d : Fin 8 := 7;
      let m : MemOp := { spaceY := true, p := 7, mod := 2 }; Runs c (.ldw c d m) s) ∧
    (let c : Fin 32 := 3; let s : State := running (.lda 3 3 { spaceY := true, p := 7, mod := 2 }); let a : Fin 4 := 3;
      let m : MemOp := { spaceY := true, p := 7, mod := 2 }; Runs c (.lda c a m) s) := by
  refine ⟨?_, ?_, ?_⟩ <;> decide +kernel

theorem witness_coreStores :
    (let c : Fin 32 := 3; let s : State := running (.st 3 7 { spaceY := true, p := 7, mod := 2 }); let d : Fin 8 := 7;
      let m : MemOp := { spaceY := true, p := 7, mod := 2 }; Runs c (.st c d m) s) ∧
    (let c : Fin 32 := 3; let s : State := running (.stw 3 7 { spaceY := true, p := 7, mod := 2 }); let d : Fin 8 := 7;
      let m : MemOp := { spaceY := true, p := 7, mod := 2 }; Runs c (.stw c d m) s) ∧
    (let c : Fin 32 := 3; let s : State := running (.sta 3 3 39 { spaceY := true, p := 7, mod := 2 }); let a : Fin 4 := 3;
      let sh : BitVec 6 := 39; let m : MemOp := { spaceY := true, p := 7, mod := 2 }; Runs c (.sta c a sh m) s) ∧
    (let c : Fin 32 := 3; let s : State := running (.staw 3 3 0 { spaceY := true, p := 7, mod := 2 }); let a : Fin 4 := 3;
      let sh : BitVec 6 := 0; let m : MemOp := { spaceY := true, p := 7, mod := 2 }; Runs c (.staw c a sh m) s) ∧
    (let c : Fin 32 := 3; let s : State := running (.movd 3 7 3 39); let d : Fin 8 := 7; let a : Fin 4 := 3;
      let sh : BitVec 6 := 39; Runs c (.movd c d a sh) s) := by
  refine ⟨?_, ?_, ?_, ?_, ?_⟩ <;> decide +kernel

theorem witness_coreAccumulates :
    (let c : Fin 32 := 3; let s : State := running (.mac 3 3 { px := 0, xmod := 1, py := 7, ymod := 2 }); let a : Fin 4 := 3;
      let m : MacOp := { px := 0, xmod := 1, py := 7, ymod := 2 }; Runs c (.mac c a m) s) ∧
    (let c : Fin 32 := 3; let s : State := running (.msu 3 3 { px := 0, xmod := 1, py := 7, ymod := 2 }); let a : Fin 4 := 3;
      let m : MacOp := { px := 0, xmod := 1, py := 7, ymod := 2 }; Runs c (.msu c a m) s) ∧
    (let c : Fin 32 := 3; let s : State := running (.mac2 3 3 { px := 0, xmod := 1, py := 7, ymod := 2 });
      let a : Fin 4 := 3; let m : MacOp := { px := 0, xmod := 1, py := 7, ymod := 2 }; Runs c (.mac2 c a m) s) ∧
    (let c : Fin 32 := 3; let s : State := running (.macd 3 3 7 7); let d : Fin 8 := 7; let e : Fin 8 := 7;
      let a : Fin 4 := 3; Runs c (.macd c a d e) s) ∧
    (let c : Fin 32 := 3; let s : State := running (.msud 3 3 7 0); let d : Fin 8 := 7; let e : Fin 8 := 0;
      let a : Fin 4 := 3; Runs c (.msud c a d e) s) ∧
    (let c : Fin 32 := 3; let s : State := running (.addAcc 3 3 3); let a : Fin 4 := 3; let b : Fin 4 := 3;
      Runs c (.addAcc c a b) s) ∧
    (let c : Fin 32 := 3; let s : State := running (.subAcc 3 3 0); let a : Fin 4 := 3; let b : Fin 4 := 0;
      Runs c (.subAcc c a b) s) ∧
    (let c : Fin 32 := 3; let s : State := running (.shr 3 3 39); let a : Fin 4 := 3; let sh : BitVec 6 := 39;
      Runs c (.shr c a sh) s) ∧
    (let c : Fin 32 := 3; let s : State := running (.shl 3 3 1); let a : Fin 4 := 3; let sh : BitVec 6 := 1;
      Runs c (.shl c a sh) s) ∧
    (let c : Fin 32 := 3; let s : State := running (.absA 3 3); let a : Fin 4 := 3; Runs c (.absA c a) s) := by
  refine ⟨?_, ?_, ?_, ?_, ?_, ?_, ?_, ?_, ?_, ?_⟩ <;> decide +kernel

theorem witness_coreControl :
    (let c : Fin 32 := 3; let s : State := running (.repeatI 3 0); let n : BitVec 12 := 0; Runs c (.repeatI c n) s) ∧
    (let c : Fin 32 := 3; let s : State := running (.dbnz 3 0xFFF); let t : BitVec 12 := 0xFFF; Runs c (.dbnz c t) s) ∧
    (let c : Fin 32 := 3; let s : State := running (.br 3 0xFFF); let t : BitVec 12 := 0xFFF; Runs c (.br c t) s) ∧
    (let c : Fin 32 := 3; let s : State := running (.bcc 3 15 0xFFF); let t : BitVec 12 := 0xFFF; let cond : BitVec 4 := 15;
      Runs c (.bcc c cond t) s) ∧
    (let c : Fin 32 := 3; let s : State := running (.setb 3 3 7); let b : Fin 4 := 3; let cond : BitVec 4 := 7;
      Runs c (.setb c b cond) s) ∧
    (let c : Fin 32 := 3; let s : State := running (.clrst 3 31); let mask : BitVec 5 := 31; Runs c (.clrst c mask) s) ∧
    (let c : Fin 32 := 3; let s : State := running (.done 3); Runs c (.done c) s) := by
  refine ⟨?_, ?_, ?_, ?_, ?_, ?_, ?_⟩ <;> decide +kernel

theorem witness_conditions :
    (let cond : BitVec 4 := 8; 8 ≤ cond.toNat ∧ cond.toNat ≤ 13) ∧
    (let cond : BitVec 4 := 13; 8 ≤ cond.toNat ∧ cond.toNat ≤ 13) ∧
    (let c : Fin 32 := 3; let t : BitVec 12 := 0; let cond : BitVec 4 := 15; let s : State := running (.bcc 3 15 0);
      Runs c (.bcc c cond t) s) ∧
    (let c : Fin 32 := 3; let b : Fin 4 := 0; let cond : BitVec 4 := 14; let s : State := running (.setb 3 0 14);
      Runs c (.setb c b cond) s) := by
  refine ⟨?_, ?_, ?_, ?_⟩ <;> decide +kernel

/-- A step of a core, of which the frame statements speak: a form that stores nothing and two that store, on either
side of unified mode. -/
theorem witness_coreFrame :
    ∀ i ∈ [Instr.mac 3 0 { px := 0, xmod := 1, py := 0, ymod := 1 }, .stw 3 7 { spaceY := true, p := 7, mod := 2 },
      .sta 3 3 39 { spaceY := false, p := 0, mod := 1 }],
      coreInstr i = some 3 ∧ (running i).memOk = true ∧ (∃ t, exec i (running i) = .next t) ∧ Runs 3 i (running i) ∧
        (∃ t, exec i (modCore 3 (fun x => { x with unified := true }) (running i)) = .next t) := by
  intro i h
  simp only [List.mem_cons, List.not_mem_nil, or_false] at h
  obtain rfl | rfl | rfl := h <;> exact ⟨rfl, by decide +kernel, ⟨_, rfl⟩, by decide +kernel, ⟨_, rfl⟩⟩

theorem witness_pointerWraps :
    (let m : Nat := 1; 0 < m ∧ m < 2 ^ 14) ∧
    (let m : Nat := 16383; 0 < m ∧ m < 2 ^ 14) := by
  refine ⟨?_, ?_⟩ <;> decide +kernel

theorem witness_systemCommands :
    (let r : Req := rq 0xFFFF []; let s : State := idle; Ready nopSpec r s) ∧
    (let r : Req := rq 0xFFFF []; let s : State := idle; Ready getCapsSpec r s) ∧
    (let r : Req := rq 0xFFFF []; let s : State := idle; Ready getStatusSpec r s) ∧
    (let r : Req := rq 0xFFFF (pl [(2, 16383), (2, 0)]); let s : State := idle; let p := r.payload; Ready setNodeSpec r s ∧
      fld p 0 2 ≤ 16383 ∧ fld p 2 2 = 0) ∧
    (let r : Req := rq 0xFFFF (pl [(4, 0), (2, 1), (2, 0)]); let s : State := idle; let p := r.payload;
      Ready getLogSpec r s ∧ 1 ≤ fld p 4 2 ∧ fld p 4 2 ≤ 250 ∧ fld p 6 2 = 0) ∧
    (let r : Req := rq 0xFFFF (pl [(4, 0), (2, 250), (2, 0)]); let s : State := idle; let p := r.payload;
      Ready getLogSpec r s ∧ 1 ≤ fld p 4 2 ∧ fld p 4 2 ≤ 250 ∧ fld p 6 2 = 0) := by
  refine ⟨?_, ?_, ?_, ?_, ?_, ?_⟩ <;> decide +kernel

theorem witness_resetAndFence :
    (let r : Req := rq 31 []; let s : State := idle; let u := begun r s; let k := r.target.toNat; Ready resetUnitSpec r s ∧
      (k < 32 → k < u.zoneCores ∧ (core u k).state ≠ .retired) ∧ (k = 0x101 → u.ochreFitted = true) ∧
      (k = 0x107 → u.mgmt.ready = true)) ∧
    (let r : Req := rq 0x101 []; let s : State := idle; let u := begun r s; let k := r.target.toNat;
      Ready resetUnitSpec r s ∧ (k < 32 → k < u.zoneCores ∧ (core u k).state ≠ .retired) ∧
      (k = 0x101 → u.ochreFitted = true) ∧ (k = 0x107 → u.mgmt.ready = true)) ∧
    (let r : Req := rq 0x107 []; let s : State := idle; let u := begun r s; let k := r.target.toNat;
      Ready resetUnitSpec r s ∧ (k < 32 → k < u.zoneCores ∧ (core u k).state ≠ .retired) ∧
      (k = 0x101 → u.ochreFitted = true) ∧ (k = 0x107 → u.mgmt.ready = true)) ∧
    (let r : Req := rq 0xFFFF []; let s : State := idle; Ready fenceSpec r s) := by
  refine ⟨?_, ?_, ?_, ?_⟩ <;> decide +kernel

theorem witness_faultCommands :
    (let r : Req := rq 0xFFFF (pl [(2, 0), (2, 1)]); let s : State := idle; let p := r.payload; Ready faultReadSpec r s ∧
      1 ≤ fld p 2 2 ∧ fld p 2 2 ≤ 250) ∧
    (let r : Req := rq 0xFFFF (pl [(2, 0), (2, 250)]); let s : State := idle; let p := r.payload; Ready faultReadSpec r s ∧
      1 ≤ fld p 2 2 ∧ fld p 2 2 ≤ 250) ∧
    (let r : Req := rq 0xFFFF (pl [(1, 15), (3, 0)]); let s : State := idle; let p := r.payload; Ready faultClearSpec r s ∧
      fld p 0 1 ≤ 15 ∧ fld p 1 3 = 0) ∧
    (let r : Req := rq 0xFFFF []; let s : State := idle; Ready spareStatusSpec r s) ∧
    (let r : Req := rq 0xFFFF (pl [(1, 63), (3, 0)]); let s : State := warm; let u := begun r s; let p := r.payload;
      Ready selfTestSpec r s ∧ u.inMode [.standby, .warm, .acoustic, .survey, .full] = true ∧ u.longBusy 0xF1 = false ∧
      fld p 0 1 ≤ 63 ∧ fld p 1 3 = 0) ∧
    (let r : Req := rq 0xFFFF (pl [(1, 0), (1, 3), (2, 0), (8, 0)]); let s : State := idle; let u := begun r s;
      let p := r.payload; Ready fwUpdateSpec r s ∧ u.inMode [.standby, .warm] = true ∧ u.longBusy 0xF2 = false ∧
      u.mgmt.ready = true ∧ fld p 1 1 = 3 ∧ fld p 2 2 = 0 ∧ (fld p 4 4 = 0 ∨ (1024 ≤ fld p 4 4 ∧ fld p 4 4 ≤ 2097152)) ∧
      liveMask u ≠ 0) ∧
    (let r : Req := rq 0xFFFF (pl [(1, 0), (1, 1), (2, 0), (4, 1024), (4, crcOf (List.replicate 1024 0))]);
      let s : State := staging (List.replicate 1024 0) idle; let u := begun r s; let p := r.payload;
      let img := List.replicate 1024 0; Ready fwUpdateSpec r s ∧ u.inMode [.standby, .warm] = true ∧
      u.longBusy 0xF2 = false ∧ (fld p 1 1 = 1 ∨ fld p 1 1 = 2 ∧ u.mgmt.ready = true) ∧ fld p 2 2 = 0 ∧ fld p 0 1 ≤ 3 ∧
      1024 ≤ fld p 4 4 ∧ fld p 4 4 ≤ 2097152 ∧ liveMask u ≠ 0 ∧ staged u (fld p 0 1) = some img ∧
      stageMismatch img (fld p 4 4) (fld p 8 4) = false) := by
  refine ⟨?_, ?_, ?_, ?_, ?_, ?_, ?_⟩
  · decide +kernel
  · decide +kernel
  · decide +kernel
  · decide +kernel
  · decide +kernel
  · decide +kernel
  · intro r s u p img
    refine ⟨?_, ?_, ?_, ?_, ?_, ?_, ?_, ?_, ?_, ?_,
      stage_check (List.replicate 1024 0) 1024 List.length_replicate (by decide) 0 1 0⟩ <;> decide +kernel

theorem witness_launchCommands :
    (let r : Req := rq 0xFFFF (pl [(4, 1000), (1, 2), (1, 25), (2, 160), (2, 2000), (2, 200), (2, 100), (2, 1600)]);
      let s : State := idle; let u := begun r s; let p := r.payload; Ready launchCfgSpec r s ∧
      (leaderField p = true ∨ sfld p 12 2 ≠ 0x7FFF) ∧ u.calibrating = false ∧
      (fld p 14 2 = 0 ∨ fld p 14 2 = (projected u).light.plan.carrier ∨ (1600 ≤ fld p 14 2 ∧ fld p 14 2 ≤ 5900 ∧ u.inMode
        [.warm, .standby] = true)) ∧ (fld p 14 2 = 0 ∨ (1600 ≤ fld p 14 2 ∧ fld p 14 2 ≤ 5900)) ∧
      (follows (reqOf launchCfgSpec r s) u = false ∨ leaderField p = false) ∧
      (fld p 0 4 = 0 ∨ (1000 ≤ fld p 0 4 ∧ fld p 0 4 ≤ 200000 ∧ (projected u).lock.phase = 0)) ∧ fld p 4 1 ≤ 2 ∧
      (fld p 5 1 ≤ 25 ∨ fld p 5 1 = 0xFF) ∧ (fld p 6 2 = 0 ∨ (20 ≤ fld p 6 2 ∧ fld p 6 2 ≤ 160)) ∧
      (fld p 8 2 = 0 ∨ (2 ≤ fld p 8 2 ∧ fld p 8 2 ≤ 2000)) ∧ (fld p 10 2 = 0 ∨ (5 ≤ fld p 10 2 ∧ fld p 10 2 ≤ 200)) ∧
      (sfld p 12 2 = 0x7FFF ∨ (-100 ≤ sfld p 12 2 ∧ sfld p 12 2 ≤ (projected u).light.cfg.aprCeil)) ∧
      planRules u (projected u) (applyLaunchCfg p (projected u)) = true) ∧
    (let r : Req := rq 0xFFFF (pl [(1, 8), (1, 255), (1, 3), (1, 0), (8, 1507579975262273536)]); let s : State := idle;
      let u := begun r s; let p := r.payload; Ready slotCfgSpec r s ∧ (fld p 0 1 ≠ 0 ∨ fld p 2 1 ≠ 0) ∧
      u.calibrating = false ∧ [0, 1, 2, 4, 8].contains (fld p 0 1) = true ∧ fld p 0 1 ≤ u.slotsMax ∧ fld p 2 1 ≤ 3 ∧
      fld p 3 1 = 0 ∧ ((namedSlots p).all (fun k => k < u.slotsMax) = true) ∧
      ((namedSlots p).all (fun k => k < if fld p 0 1 = 0 then (projected u).light.plan.nSlots else fld p 0 1) = true) ∧
      (tst (fld p 2 1) 1 = false ∨ (List.range 8).all (fun k => inI (sfld p (4 + k) 1) (-20) 20) = true) ∧
      (u.planMode ≠ .full ∨ fld p 0 1 = 0 ∨ fld p 0 1 = 8) ∧ (u.inPair = false ∨ fld p 0 1 = 0 ∨ fld p 0 1 = 8) ∧
      (follows (reqOf slotCfgSpec r s) u = false ∨ tst (fld p 2 1) 0 = false) ∧
      planRules u (projected u) (applySlotCfg p (projected u)) = true) ∧
    (let r : Req := rq 0xFFFF (pl [(1, 2), (1, 7), (1, 30), (1, 110), (2, 2000), (2, 65535), (2, 0), (2, 2000), (2, 0), (2,
        65535)]); let s : State := idle; let u := begun r s; let p := r.payload;
      let lightKeeps : Bool := fld p 0 1 = 0 && fld p 1 1 = 0xFF && fld p 2 1 = 0 && fld p 3 1 = 0 && (List.range 3).all
        (fun i => fld p (4 + 4 * i) 2 = 0 && fld p (6 + 4 * i) 2 = 0xFFFF); Ready lightCfgSpec r s ∧ lightKeeps = false ∧
      u.calibrating = false ∧ fld p 0 1 ≤ 2 ∧ (u.inPair = false ∨ fld p 0 1 ≠ 1) ∧
      (fld p 1 1 = 0xFF ∨ (1 ≤ fld p 1 1 ∧ fld p 1 1 ≤ 7)) ∧ fld p 2 1 ≤ 30 ∧
      (fld p 3 1 = 0 ∨ (70 ≤ fld p 3 1 ∧ fld p 3 1 ≤ 110)) ∧
      ((List.range 3).all (fun i => fld p (4 + 4 * i) 2 ≤ 2000 && (fld p (6 + 4 * i) 2 ≤ 2000 || fld p (6 + 4 * i) 2 =
        0xFFFF)) = true)) ∧
    (let r : Req := rq 0xFFFF (pl [(1, 2), (1, 3), (2, 14000), (2, 15500), (2, 0)]); let s : State := idle;
      let u := begun r s; let p := r.payload; Ready portSelectSpec r s ∧ (fld p 0 1 ≠ 0 ∨ fld p 1 1 ≠ 0) ∧
      u.calibrating = false ∧ fld p 0 1 ≤ 2 ∧ fld p 1 1 ≤ 3 ∧
      (tst (fld p 1 1) 0 = false ∨ (14000 ≤ fld p 2 2 ∧ fld p 2 2 ≤ 15500)) ∧
      (tst (fld p 1 1) 1 = false ∨ (14000 ≤ fld p 4 2 ∧ fld p 4 2 ≤ 15500)) ∧ fld p 6 2 = 0 ∧
      (u.planMode.measures = false ∨ fld p 0 1 = 0 ∨ fld p 0 1 = (projected u).light.port ∨ (u.portOf (fld p 0
        1)).survey.isSome = true) ∧ planRules u (projected u) (applyPortSelect p (projected u)) = true) ∧
    (let r : Req := rq 0xFFFF (pl [(1, 1), (1, 0), (2, 0), (2, 0), (2, 0), (1, 0), (3, 0)]);
      let s : State := { idle with light.aprTrip := true }; let u := begun r s; let p := r.payload; Ready aprCfgSpec r s ∧
      fld p 0 1 = 1 ∧ u.calibrating = false ∧ u.fault.latch = false ∧ u.light.aprTrip = true) ∧
    (let r : Req := rq 0xFFFF (pl [(1, 0), (1, 0), (2, 32767), (2, 270), (2, 65086), (1, 100), (3, 0)]);
      let s : State := idle; let u := begun r s; let p := r.payload;
      let aprKeeps : Bool := sfld p 2 2 = 0x7FFF && sfld p 4 2 = 0x7FFF && sfld p 6 2 = 0x7FFF && fld p 8 1 = 0 && fld p 1 1
        = 0 && fld p 9 3 = 0; Ready aprCfgSpec r s ∧ fld p 0 1 = 0 ∧ aprKeeps = false ∧ u.calibrating = false ∧
      fld p 1 1 = 0 ∧ fld p 9 3 = 0 ∧ (sfld p 2 2 = 0x7FFF ∨ (-100 ≤ sfld p 2 2 ∧ sfld p 2 2 ≤ 200)) ∧
      (sfld p 4 2 = 0x7FFF ∨ (-100 ≤ sfld p 4 2 ∧ sfld p 4 2 ≤ 270)) ∧
      (sfld p 6 2 = 0x7FFF ∨ (-450 ≤ sfld p 6 2 ∧ sfld p 6 2 ≤ -140)) ∧
      (fld p 8 1 = 0 ∨ (10 ≤ fld p 8 1 ∧ fld p 8 1 ≤ 100)) ∧
      (applyAprCfg p (projected u)).light.cfg.aprLevel ≤ (applyAprCfg p (projected u)).light.cfg.aprCeil) ∧
    (let r : Req := rq 0xFFFF (pl [(1, 1), (1, 0), (2, 0), (2, 0), (2, 0), (1, 0), (3, 0)]); let s : State := idle;
      let u := begun r s; let p := r.payload; Ready aprCfgSpec r s ∧ fld p 0 1 = 1 ∧ u.calibrating = false ∧
      u.fault.latch = false ∧ u.light.aprTrip = false) ∧
    (let r : Req := rq 0xFFFF (pl [(4, 0), (1, 0), (1, 255), (2, 0), (2, 0), (2, 0), (2, 32767), (2, 0)]);
      let s : State := idle; let p := r.payload; Ready launchCfgSpec r s ∧ leaderField p = false ∧ sfld p 12 2 = 0x7FFF) ∧
    (let r : Req := rq 0xFFFF (pl [(1, 0), (1, 0), (1, 0), (1, 0), (8, 0)]); let s : State := idle; let p := r.payload;
      Ready slotCfgSpec r s ∧ fld p 0 1 = 0 ∧ fld p 2 1 = 0 ∧ fld p 3 1 = 0) ∧
    (let r : Req := rq 0xFFFF (pl [(1, 0), (1, 255), (1, 0), (1, 0), (2, 0), (2, 65535), (2, 0), (2, 65535), (2, 0), (2,
        65535)]); let s : State := idle; let p := r.payload;
      let lightKeeps : Bool := fld p 0 1 = 0 && fld p 1 1 = 0xFF && fld p 2 1 = 0 && fld p 3 1 = 0 && (List.range 3).all
        (fun i => fld p (4 + 4 * i) 2 = 0 && fld p (6 + 4 * i) 2 = 0xFFFF); Ready lightCfgSpec r s ∧ lightKeeps = true) ∧
    (let r : Req := rq 0xFFFF (pl [(1, 0), (1, 0), (2, 0), (2, 0), (2, 0)]); let s : State := idle; let p := r.payload;
      Ready portSelectSpec r s ∧ fld p 0 1 = 0 ∧ fld p 1 1 = 0 ∧ fld p 6 2 = 0) ∧
    (let r : Req := rq 0xFFFF (pl [(1, 0), (1, 0), (2, 32767), (2, 32767), (2, 32767), (1, 0), (3, 0)]);
      let s : State := idle; let p := r.payload;
      let aprKeeps : Bool := sfld p 2 2 = 0x7FFF && sfld p 4 2 = 0x7FFF && sfld p 6 2 = 0x7FFF && fld p 8 1 = 0 && fld p 1 1
        = 0 && fld p 9 3 = 0; Ready aprCfgSpec r s ∧ fld p 0 1 = 0 ∧ aprKeeps = true) := by
  refine ⟨?_, ?_, ?_, ?_, ?_, ?_, ?_, ?_, ?_, ?_, ?_, ?_⟩ <;> decide +kernel

theorem witness_surveyAndMapCommands :
    (let r : Req := rq 0xFFFF (pl [(1, 3), (1, 0), (2, 1250)]); let s : State := { warm with light.locked := true };
      let u := begun r s; let p := r.payload; Ready gambitRunSpec r s ∧ u.power.mode = .warm ∧ u.power.trans = none ∧
      u.light.locked = true ∧ u.longBusy 0x14 = false ∧ u.fibre.gambit = none ∧ 1 ≤ fld p 0 1 ∧ fld p 0 1 ≤ 3 ∧
      fld p 1 1 = 0 ∧ (fld p 2 2 = 0 ∨ (10 ≤ fld p 2 2 ∧ fld p 2 2 ≤ 1250))) ∧
    (let r : Req := rq 0xFFFF (pl [(1, 1), (1, 0), (2, 0)]); let s : State := { warm with light.locked := true };
      let u := begun r s; let p := r.payload; Ready gambitRunSpec r s ∧ u.power.mode = .warm ∧ u.power.trans = none ∧
      u.light.locked = true ∧ u.longBusy 0x14 = false ∧ u.fibre.gambit = none ∧ 1 ≤ fld p 0 1 ∧ fld p 0 1 ≤ 3 ∧
      fld p 1 1 = 0 ∧ (fld p 2 2 = 0 ∨ (10 ≤ fld p 2 2 ∧ fld p 2 2 ≤ 1250))) ∧
    (let r : Req := rq 0xFFFF (pl [(1, 1), (1, 0), (2, 0)]); let s : State := idle; let p := r.payload;
      Ready gambitReadSpec r s ∧ (fld p 0 1 = 1 ∨ fld p 0 1 = 2) ∧ fld p 1 1 ≤ 1 ∧ fld p 2 2 = 0) ∧
    (let r : Req := rq 0xFFFF (pl [(1, 2), (1, 1), (2, 0)]); let s : State := idle; let p := r.payload;
      Ready gambitReadSpec r s ∧ (fld p 0 1 = 1 ∨ fld p 0 1 = 2) ∧ fld p 1 1 ≤ 1 ∧ fld p 2 2 = 0) ∧
    (let r : Req := rq 0xFFFF (pl [(1, 0), (1, 0), (2, 0), (4, 64), (4, crcOf emptyMap)]);
      let s : State := staging emptyMap warm; let u := begun r s; let p := r.payload; let img := emptyMap;
      let j := projected u; let m := mapOfImage img; Ready zoneMapLoadSpec r s ∧ staged u (fld p 0 1) = some img ∧
      mapBad img = none ∧ u.ochreFitted = true ∧ u.inMode [.calibrate] = false ∧ mapBlocked u = false ∧ fld p 0 1 ≤ 3 ∧
      fld p 1 1 = 0 ∧ fld p 2 2 = 0 ∧
      okR24 (m.das j.light.port).length (nDas j j.planMode j.light.plan) (acceptedTl j) = true ∧
      okOchre { j with indigo.map := m } j.planMode = true ∧ stageMismatch img (fld p 4 4) (fld p 8 4) = false) ∧
    (let r : Req := rq 0xFFFF (pl [(1, 0), (1, 1), (2, 0), (4, 64), (4, crcOf emptyMap)]);
      let s : State := staging emptyMap warm; let u := begun r s; let p := r.payload; let img := emptyMap;
      let j := projected u; let m := mapOfImage img; Ready zoneMapLoadSpec r s ∧ staged u (fld p 0 1) = some img ∧
      mapBad img = none ∧ u.ochreFitted = true ∧ u.inMode [.calibrate] = false ∧ mapBlocked u = false ∧ fld p 0 1 ≤ 3 ∧
      fld p 1 1 = 1 ∧ fld p 2 2 = 0 ∧
      okR24 (m.das j.light.port).length (nDas j j.planMode j.light.plan) (acceptedTl j) = true ∧
      okOchre { j with indigo.map := m } j.planMode = true ∧ stageMismatch img (fld p 4 4) (fld p 8 4) = false) ∧
    (let r : Req := rq 0xFFFF (pl [(1, 0), (3, 0), (4, 0), (2, 1), (2, 0)]); let s : State := idle; let u := begun r s;
      let p := r.payload; Ready zoneMapReadSpec r s ∧ fld p 0 1 = 0 ∧ fld p 1 3 = 0 ∧ 1 ≤ fld p 8 2 ∧ fld p 8 2 ≤ 500 ∧
      fld p 10 2 = 0 ∧ (u.indigo.map.nDas = 0 ∨ fld p 4 4 < u.indigo.map.nDas)) ∧
    (let r : Req := rq 0xFFFF (pl [(1, 0), (3, 0), (4, 0), (2, 500), (2, 0)]); let s : State := idle; let u := begun r s;
      let p := r.payload; Ready zoneMapReadSpec r s ∧ fld p 0 1 = 0 ∧ fld p 1 3 = 0 ∧ 1 ≤ fld p 8 2 ∧ fld p 8 2 ≤ 500 ∧
      fld p 10 2 = 0 ∧ (u.indigo.map.nDas = 0 ∨ fld p 4 4 < u.indigo.map.nDas)) ∧
    (let r : Req := rq 0xFFFF (pl [(1, 1), (3, 0), (4, 0), (2, 250), (2, 0)]); let s : State := idle; let u := begun r s;
      let p := r.payload; Ready zoneMapReadSpec r s ∧ fld p 0 1 = 1 ∧ fld p 1 3 = 0 ∧ 1 ≤ fld p 8 2 ∧ fld p 8 2 ≤ 250 ∧
      fld p 10 2 = 0 ∧ (u.indigo.map.nDts = 0 ∨ fld p 4 4 < u.indigo.map.nDts)) := by
  refine ⟨?_, ?_, ?_, ?_, ?_, ?_, ?_, ?_, ?_⟩ <;> decide +kernel

theorem witness_receiverCommands :
    (let r : Req := rq 0xFFFF (pl [(1, 4), (1, 3), (1, 15), (1, 15), (1, 64), (1, 12), (1, 4), (1, 0)]);
      let s : State := idle; let u := begun r s; let p := r.payload; Ready indigoCfgSpec r s ∧ u.calibrating = false ∧
      (fld p 0 1 = 0 ∨ fld p 0 1 = 1 ∨ fld p 0 1 = 4) ∧ fld p 1 1 ≤ 3 ∧ fld p 2 1 ≤ 15 ∧ fld p 3 1 ≤ 15 ∧
      (fld p 4 1 = 0 ∨ (4 ≤ fld p 4 1 ∧ fld p 4 1 ≤ 64)) ∧ (fld p 5 1 = 0 ∨ (4 ≤ fld p 5 1 ∧ fld p 5 1 ≤ 12)) ∧
      fld p 6 1 ≤ 4 ∧ fld p 7 1 = 0) ∧
    (let r : Req := rq 0xFFFF (pl [(8, 0)]); let s : State := idle; let u := begun r s; let p := r.payload;
      Ready indigoCfgSpec r s ∧ u.calibrating = false ∧ (fld p 0 1 = 0 ∨ fld p 0 1 = 1 ∨ fld p 0 1 = 4) ∧ fld p 1 1 ≤ 3 ∧
      fld p 2 1 ≤ 15 ∧ fld p 3 1 ≤ 15 ∧ (fld p 4 1 = 0 ∨ (4 ≤ fld p 4 1 ∧ fld p 4 1 ≤ 64)) ∧
      (fld p 5 1 = 0 ∨ (4 ≤ fld p 5 1 ∧ fld p 5 1 ≤ 12)) ∧ fld p 6 1 ≤ 4 ∧ fld p 7 1 = 0) ∧
    (let r : Req := rq 0xFFFF (pl [(2, 200), (2, 270), (2, 11300), (1, 16), (1, 120), (4, 16777216), (4, 200000), (1, 1),
        (1, 1), (2, 0)]); let s : State := idle; let u := begun r s; let p := r.payload;
      let keeps : Bool := fld p 0 2 = 0 && sfld p 2 2 = 0x7FFF && fld p 4 2 = 0 && fld p 6 2 = 0 && fld p 8 8 = 0 && fld p
        17 1 = 0; let b := projected u; let a := applyOchreCfg p b; Ready ochreCfgSpec r s ∧ u.ochreFitted = true ∧
      u.calibrating = false ∧ (fld p 0 2 = 0 ∨ (10 ≤ fld p 0 2 ∧ fld p 0 2 ≤ 200 ∧ fld p 0 2 % 2 = 0)) ∧
      (sfld p 2 2 = 0x7FFF ∨ (-100 ≤ sfld p 2 2 ∧ sfld p 2 2 ≤ (projected u).light.cfg.aprCeil)) ∧
      (fld p 4 2 = 0 ∨ (10300 ≤ fld p 4 2 ∧ fld p 4 2 ≤ 11300)) ∧ fld p 6 1 ≤ 16 ∧
      (fld p 7 1 = 0 ∨ (20 ≤ fld p 7 1 ∧ fld p 7 1 ≤ 120)) ∧
      (fld p 8 4 = 0 ∨ (16 ≤ fld p 8 4 ∧ fld p 8 4 ≤ 16777216 ∧ fld p 8 4 % 16 = 0)) ∧
      (fld p 12 4 = 0 ∨ (1000 ≤ fld p 12 4 ∧ fld p 12 4 ≤ 200000)) ∧ fld p 16 1 ≤ 1 ∧ fld p 17 1 ≤ 1 ∧ fld p 18 2 = 0 ∧
      (keeps = true ∨ ochreRules u.planMode b a = true)) ∧
    (let r : Req := rq 0xFFFF (pl [(2, 0), (2, 32767), (16, 0)]); let s : State := idle; let u := begun r s;
      let p := r.payload;
      let keeps : Bool := fld p 0 2 = 0 && sfld p 2 2 = 0x7FFF && fld p 4 2 = 0 && fld p 6 2 = 0 && fld p 8 8 = 0 && fld p
        17 1 = 0; let b := projected u; let a := applyOchreCfg p b; Ready ochreCfgSpec r s ∧ u.ochreFitted = true ∧
      u.calibrating = false ∧ (fld p 0 2 = 0 ∨ (10 ≤ fld p 0 2 ∧ fld p 0 2 ≤ 200 ∧ fld p 0 2 % 2 = 0)) ∧
      (sfld p 2 2 = 0x7FFF ∨ (-100 ≤ sfld p 2 2 ∧ sfld p 2 2 ≤ (projected u).light.cfg.aprCeil)) ∧
      (fld p 4 2 = 0 ∨ (10300 ≤ fld p 4 2 ∧ fld p 4 2 ≤ 11300)) ∧ fld p 6 1 ≤ 16 ∧
      (fld p 7 1 = 0 ∨ (20 ≤ fld p 7 1 ∧ fld p 7 1 ≤ 120)) ∧
      (fld p 8 4 = 0 ∨ (16 ≤ fld p 8 4 ∧ fld p 8 4 ≤ 16777216 ∧ fld p 8 4 % 16 = 0)) ∧
      (fld p 12 4 = 0 ∨ (1000 ≤ fld p 12 4 ∧ fld p 12 4 ≤ 200000)) ∧ fld p 16 1 ≤ 1 ∧ fld p 17 1 ≤ 1 ∧ fld p 18 2 = 0 ∧
      (keeps = true ∨ ochreRules u.planMode b a = true)) ∧
    (let r : Req := rq 0xFFFF (pl [(1, 1), (3, 0), (4, 0), (2, 1), (2, 0)]); let s : State := idle; let u := begun r s;
      let p := r.payload; Ready ochreReadSpec r s ∧ u.ochreFitted = true ∧ fld p 0 1 ≤ 1 ∧ fld p 1 3 = 0 ∧ fld p 10 2 = 0 ∧
      (if fld p 0 1 = 1 then fld p 8 2 = 1 else 1 ≤ fld p 8 2 ∧ fld p 8 2 ≤ 250) ∧
      (u.indigo.map.nDts = 0 ∨ fld p 4 4 < u.indigo.map.nDts)) ∧
    (let r : Req := rq 0xFFFF (pl [(1, 0), (3, 0), (4, 0), (2, 250), (2, 0)]); let s : State := idle; let u := begun r s;
      let p := r.payload; Ready ochreReadSpec r s ∧ u.ochreFitted = true ∧ fld p 0 1 ≤ 1 ∧ fld p 1 3 = 0 ∧ fld p 10 2 = 0 ∧
      (if fld p 0 1 = 1 then fld p 8 2 = 1 else 1 ≤ fld p 8 2 ∧ fld p 8 2 ≤ 250) ∧
      (u.indigo.map.nDts = 0 ∨ fld p 4 4 < u.indigo.map.nDts)) ∧
    (let r : Req := rq 0xFFFF (pl [(16, 0)]); let s : State := idle; let u := begun r s; let p := r.payload;
      Ready refCoilCfgSpec r s ∧ u.ochreFitted = true ∧ u.calibrating = false ∧
      (fld p 0 1 = 0 ∨ ((fld p 0 1 = 1 ∨ fld p 0 1 = 2) ∧ fld p 1 1 ≤ 7 ∧ (fld p 2 1 = 1 ∨ fld p 2 1 = 2) ∧ fld p 3 1 = 0 ∧
        16 ≤ fld p 8 2 ∧ fld p 8 2 ≤ 2048 ∧ fld p 4 4 + fld p 8 2 ≤ 262144 ∧ fld p 10 2 = 0 ∧ okOchre (applyRefCoil p
          (projected u)) u.planMode = true))) ∧
    (let r : Req := rq 0xFFFF (pl [(1, 1), (1, 7), (1, 2), (1, 0), (4, 1000), (2, 16), (2, 0), (4, 100000)]);
      let s : State := idle; let u := begun r s; let p := r.payload; Ready refCoilCfgSpec r s ∧ u.ochreFitted = true ∧
      u.calibrating = false ∧
      (fld p 0 1 = 0 ∨ ((fld p 0 1 = 1 ∨ fld p 0 1 = 2) ∧ fld p 1 1 ≤ 7 ∧ (fld p 2 1 = 1 ∨ fld p 2 1 = 2) ∧ fld p 3 1 = 0 ∧
        16 ≤ fld p 8 2 ∧ fld p 8 2 ≤ 2048 ∧ fld p 4 4 + fld p 8 2 ≤ 262144 ∧ fld p 10 2 = 0 ∧ okOchre (applyRefCoil p
          (projected u)) u.planMode = true))) ∧
    (let r : Req := rq 0xFFFF (pl [(1, 255), (15, 0)]); let s : State := idle; let u := begun r s; let p := r.payload;
      Ready refCoilCfgSpec r s ∧ u.ochreFitted = true ∧ u.calibrating = false ∧ fld p 0 1 = 0xFF ∧ fld p 1 1 ≤ 7 ∧
      fld p 2 1 ≤ 2 ∧ fld p 3 1 = 0 ∧ (fld p 8 2 = 0 ∨ (16 ≤ fld p 8 2 ∧ fld p 8 2 ≤ 2048)) ∧
      fld p 4 4 + fld p 8 2 ≤ 262144 ∧ fld p 10 2 = 0) := by
  refine ⟨?_, ?_, ?_, ?_, ?_, ?_, ?_, ?_, ?_⟩ <;> decide +kernel

theorem witness_contextCommands :
    (let r : Req := rq 255 (pl [(56, 0)]); let s : State := idle; let u := begun r s; let p := r.payload;
      let k := r.target.toNat; let c := ctx u k; Ready ctxSetSpec r s ∧ c.live = false ∧ fld p 0 1 = 0) ∧
    (let r : Req := rq 255 (ctxBytes 1 131072); let s : State := idle; let u := begun r s; let p := r.payload;
      let k := r.target.toNat; let c := ctx u k; Ready ctxSetSpec r s ∧ c.live = false ∧ fld p 0 1 ≠ 0 ∧
      (fld p 0 1 = 2 → u.ochreFitted = true) ∧ setBad { c with cfg := p.take 56 } = false) ∧
    (let r : Req := rq 255 []; let s : State := idle; Ready ctxGetSpec r s) ∧
    (let r : Req := rq 255 (pl [(1, 1), (3, 0)]); let s : State := watching .disarmed; let u := begun r s;
      let p := r.payload; let k := r.target.toNat; let u0 := lapsePoints k u; let c0 := ctx u0 k;
      let load := engineLoad u (c0 :: (ctxsWhere u Ctx.live).map (ctx u));
      let ring := ringRate u (c0 :: (ctxsWhere u Ctx.live).map (ctx u)); Ready ctxArmSpec r s ∧ u.inMode armModes = true ∧
      fld p 0 1 ≤ 1 ∧ fld p 1 3 = 0 ∧ c0.live = false ∧ armReason u0 k load ring = 0) ∧
    (let r : Req := rq 255 (pl [(1, 1), (3, 0)]); let s : State := watching .disarmed; let u := begun r s;
      let p := r.payload; let k := r.target.toNat; let c := ctx u k; Ready ctxDisarmSpec r s ∧ fld p 0 1 ≤ 1 ∧
      fld p 1 3 = 0 ∧ c.live = false) ∧
    (let r : Req := rq 255 (pl [(1, 0), (3, 0)]); let s : State := watching .armed; let u := begun r s; let p := r.payload;
      let k := r.target.toNat; let c := ctx u k; Ready ctxDisarmSpec r s ∧ fld p 0 1 ≤ 1 ∧ fld p 1 3 = 0 ∧ c.live = true ∧
      (c.state ≠ .disarming ∨ fld p 0 1 = 1)) ∧
    (let r : Req := rq 255 (pl [(1, 1), (3, 0)]); let s : State := watching .capture; let u := begun r s; let p := r.payload;
      let k := r.target.toNat; let c := ctx u k; Ready ctxDisarmSpec r s ∧ fld p 0 1 ≤ 1 ∧ fld p 1 3 = 0 ∧ c.live = true ∧
      (c.state ≠ .disarming ∨ fld p 0 1 = 1)) ∧
    (let r : Req := rq 255 (pl [(1, 1), (3, 0)]);
      let s : State := { watching .armed with ctxs := vmod (watching .armed).ctxs 255 (fun c => { c with points := [{ due := 5, act := .disarm false }] }) };
      let u := begun r s; let p := r.payload; let k := r.target.toNat; let c := ctx u k; Ready ctxDisarmSpec r s ∧
      fld p 0 1 ≤ 1 ∧ fld p 1 3 = 0 ∧ c.live = true ∧ (c.state ≠ .disarming ∨ fld p 0 1 = 1)) ∧
    (let r : Req := rq 255 (pl [(1, 0), (3, 0)]);
      let s : State := { watching .armed with ctxs := vmod (watching .armed).ctxs 255 (fun c => { c with stopping := some false }) };
      let u := begun r s; let p := r.payload; let k := r.target.toNat; let c := ctx u k; Ready ctxDisarmSpec r s ∧
      fld p 0 1 ≤ 1 ∧ fld p 1 3 = 0 ∧ c.live = true ∧ (c.state ≠ .disarming ∨ fld p 0 1 = 1)) ∧
    (let r : Req := rq 255 (pl [(1, 1), (3, 0)]); let s : State := watching .disarming; let u := begun r s;
      let p := r.payload; let k := r.target.toNat; let c := ctx u k; Ready ctxDisarmSpec r s ∧ fld p 0 1 ≤ 1 ∧
      fld p 1 3 = 0 ∧ c.live = true ∧ (c.state ≠ .disarming ∨ fld p 0 1 = 1)) ∧
    (let r : Req := rq 255 (pl [(1, 0), (3, 0)]); let s : State := watching .disarming; let u := begun r s;
      let p := r.payload; let k := r.target.toNat; let c := ctx u k; Ready ctxDisarmSpec r s ∧ fld p 0 1 = 0 ∧
      fld p 1 3 = 0 ∧ c.state = .disarming) := by
  refine ⟨?_, ?_, ?_, ?_, ?_, ?_, ?_, ?_, ?_, ?_, ?_⟩ <;> decide +kernel

theorem witness_patternAndAlarmCommands :
    (let r : Req := rq 255 (pl [(1, 64), (3, 0), (32, 16 ^ 64 - 1), (32, 0)]); let s : State := idle; let u := begun r s;
      let p := r.payload; let k := r.target.toNat; let c := ctx u k; Ready patternSetSpec r s ∧ fld p 1 3 = 0 ∧
      1 ≤ fld p 0 1 ∧ fld p 0 1 ≤ 64 ∧ fld p 4 32 / 16 ^ fld p 0 1 = 0 ∧ fld p 36 32 / 16 ^ fld p 0 1 = 0 ∧
      (c.live = true → fld p 0 1 ≤ c.n)) ∧
    (let r : Req := rq 255 (pl [(1, 1), (3, 0), (32, 15), (32, 15)]); let s : State := watching .armed; let u := begun r s;
      let p := r.payload; let k := r.target.toNat; let c := ctx u k; Ready patternSetSpec r s ∧ fld p 1 3 = 0 ∧
      1 ≤ fld p 0 1 ∧ fld p 0 1 ≤ 64 ∧ fld p 4 32 / 16 ^ fld p 0 1 = 0 ∧ fld p 36 32 / 16 ^ fld p 0 1 = 0 ∧
      (c.live = true → fld p 0 1 ≤ c.n)) ∧
    (let r : Req := rq 0xFFFF (pl [(1, 0), (1, 63), (1, 1), (1, 0), (4, 131071), (4, 1), (8, 0)]); let s : State := idle;
      let u := begun r s; let p := r.payload; let v := freeCopies u; Ready threshLoadSpec r s ∧ fld p 2 1 = 1 ∧
      fld p 1 1 ≤ 63 ∧ fld p 3 1 = 0 ∧ fld p 4 4 ≤ 131071 ∧ 1 ≤ fld p 8 4 ∧ fld p 4 4 + fld p 8 4 ≤ 131072 ∧
      (tableUsers v (fld p 1 1)).isEmpty = true) ∧
    (let r : Req := rq 0xFFFF (pl [(1, 0), (1, 0), (1, 1), (1, 0), (4, 0), (4, 131072), (8, 0)]); let s : State := idle;
      let u := begun r s; let p := r.payload; let v := freeCopies u; Ready threshLoadSpec r s ∧ fld p 2 1 = 1 ∧
      fld p 1 1 ≤ 63 ∧ fld p 3 1 = 0 ∧ fld p 4 4 ≤ 131071 ∧ 1 ≤ fld p 8 4 ∧ fld p 4 4 + fld p 8 4 ≤ 131072 ∧
      (tableUsers v (fld p 1 1)).isEmpty = true) ∧
    (let r : Req := rq 0xFFFF (pl [(1, 0), (1, 63), (1, 0), (1, 0), (4, 131071), (4, 1), (4, 2), (4, crcOf [5, 0])]);
      let s : State := staging [5, 0] idle; let u := begun r s; let p := r.payload; let v := freeCopies u; let img := [5, 0];
      Ready threshLoadSpec r s ∧ fld p 2 1 = 0 ∧ fld p 1 1 ≤ 63 ∧ fld p 3 1 = 0 ∧ staged u (fld p 0 1) = some img ∧
      fld p 4 4 ≤ 131071 ∧ 1 ≤ fld p 8 4 ∧ fld p 4 4 + fld p 8 4 ≤ 131072 ∧ (tableUsers v (fld p 1 1)).isEmpty = true ∧
      (v.thresh.newest.find? (fun t => t.1 = fld p 1 1) = none) ∧ fld p 12 4 = 2 * fld p 8 4 ∧
      stageMismatch img (fld p 12 4) (fld p 16 4) = false ∧ entriesHeld v.thresh.copies + fld p 8 4 ≤ Config.threshEntries) ∧
    (let r : Req := rq 0xFFFF (pl [(1, 0), (1, 255), (1, 1), (1, 1), (2, 65535), (2, 0)]); let s : State := idle;
      let p := r.payload; Ready alarmRouteSpec r s ∧ fld p 0 1 ≤ 2 ∧ fld p 6 2 = 0 ∧
      (fld p 0 1 = 0 → fld p 2 1 ≤ 2 ∧ fld p 3 1 ≤ 1 ∧ (fld p 2 1 = 1 → fld p 4 2 ≠ 0))) ∧
    (let r : Req := rq 0xFFFF (pl [(1, 2), (1, 0), (1, 0), (1, 0), (2, 0), (2, 0)]); let s : State := idle;
      let p := r.payload; Ready alarmRouteSpec r s ∧ fld p 0 1 ≤ 2 ∧ fld p 6 2 = 0 ∧
      (fld p 0 1 = 0 → fld p 2 1 ≤ 2 ∧ fld p 3 1 ≤ 1 ∧ (fld p 2 1 = 1 → fld p 4 2 ≠ 0))) := by
  refine ⟨?_, ?_, ?_, ?_, ?_, ?_, ?_⟩ <;> decide +kernel

theorem witness_recordCommands :
    (let r : Req := rq 0xFFFF (pl [(2, 65535), (2, 1), (4, 0)]); let s : State := holding aRecord; let p := r.payload;
      Ready recListSpec r s ∧ (fld p 0 2 ≤ 256 ∨ fld p 0 2 = 0xFFFF) ∧ 1 ≤ fld p 2 2 ∧ fld p 2 2 ≤ 160 ∧ fld p 4 4 ≤ 16383) ∧
    (let r : Req := rq 0xFFFF (pl [(2, 256), (2, 160), (4, 16383)]); let s : State := idle; let p := r.payload;
      Ready recListSpec r s ∧ (fld p 0 2 ≤ 256 ∨ fld p 0 2 = 0xFFFF) ∧ 1 ≤ fld p 2 2 ∧ fld p 2 2 ≤ 160 ∧ fld p 4 4 ≤ 16383) ∧
    (let r : Req := rq 0xFFFF (pl [(4, 16384), (1, 0), (1, 0), (2, 4), (8, 0), (2, 0), (2, 0)]);
      let s : State := holding aRecord; let u := begun r s; let p := r.payload; let x := aRecord; Ready recFetchSpec r s ∧
      findRec (fld p 0 4) u = some x ∧ fetchBad x p = false ∧ x.phase = .done ∧ x.lost = false ∧ fld p 4 1 = 0) ∧
    (let r : Req := rq 0xFFFF (pl [(4, 16384), (1, 1), (1, 0), (2, 0), (8, 0), (2, 255), (2, 1)]);
      let s : State := holding aRecord; let u := begun r s; let p := r.payload; let x := aRecord; Ready recFetchSpec r s ∧
      findRec (fld p 0 4) u = some x ∧ fetchBad x p = false ∧ x.phase = .done ∧ x.lost = false ∧ fld p 4 1 ≠ 0) ∧
    (let r : Req := rq 0xFFFF (pl [(1, 0), (1, 0), (2, 0), (2, 1), (2, 0), (4, 16384)]); let s : State := holding aRecord;
      let p := r.payload; Ready recReleaseSpec r s ∧ fld p 0 1 = 0 ∧ fld p 1 1 = 0 ∧ fld p 2 2 = 0 ∧ 1 ≤ fld p 4 2 ∧
      fld p 4 2 ≤ 64 ∧ fld p 6 2 = 0) ∧
    (let r : Req := rq 0xFFFF (pl [(1, 0), (1, 0), (2, 0), (2, 64), (2, 0), (256, 0)]); let s : State := idle;
      let p := r.payload; Ready recReleaseSpec r s ∧ fld p 0 1 = 0 ∧ fld p 1 1 = 0 ∧ fld p 2 2 = 0 ∧ 1 ≤ fld p 4 2 ∧
      fld p 4 2 ≤ 64 ∧ fld p 6 2 = 0) ∧
    (let r : Req := rq 0xFFFF (pl [(1, 1), (1, 0), (2, 256), (2, 0), (2, 0)]); let s : State := holding aRecord;
      let p := r.payload; Ready recReleaseSpec r s ∧ fld p 0 1 = 1 ∧ fld p 1 1 = 0 ∧ fld p 2 2 ≤ 256 ∧ fld p 4 2 = 0 ∧
      fld p 6 2 = 0) ∧
    (let r : Req := rq 0xFFFF (pl [(1, 1), (3, 0), (4, 1024), (8, 0)]); let s : State := idle; let u := begun r s;
      let p := r.payload; Ready poolCfgSpec r s ∧ fld p 0 1 ≤ 7 ∧ fld p 1 3 = 0 ∧
      (fld p 4 4 = 0 ∨ (1024 ≤ fld p 4 4 ∧ fld p 4 4 ≤ 13312)) ∧ fld p 8 4 ≤ 13312 ∧
      (fld p 12 4 = 0 ∨ (1 ≤ sfld p 12 4 ∧ sfld p 12 4 ≤ 8388607)) ∧
      (tst (fld p 0 1) 0 = true → r.target = 0xFFFF ∧ u.ctxs.toList.any Ctx.live = false ∧ u.indigo.raw = none ∧ u.pool.recs
        = [] ∧ 1024 ≤ fld p 4 4 ∧ fld p 4 4 ≤ 13312 ∧ fld p 4 4 ≤ poolMax u) ∧
      (tst (fld p 0 1) 1 = true → r.target ≠ 0xFFFF ∧ fld p 8 4 ≤ 13312) ∧
      (tst (fld p 0 1) 2 = true → r.target ≠ 0xFFFF ∧ 1 ≤ sfld p 12 4 ∧ sfld p 12 4 ≤ 8388607)) ∧
    (let r : Req := rq 0xFFFF (pl [(1, 1), (3, 0), (4, 13312), (8, 0)]); let s : State := idle; let u := begun r s;
      let p := r.payload; Ready poolCfgSpec r s ∧ fld p 0 1 ≤ 7 ∧ fld p 1 3 = 0 ∧
      (fld p 4 4 = 0 ∨ (1024 ≤ fld p 4 4 ∧ fld p 4 4 ≤ 13312)) ∧ fld p 8 4 ≤ 13312 ∧
      (fld p 12 4 = 0 ∨ (1 ≤ sfld p 12 4 ∧ sfld p 12 4 ≤ 8388607)) ∧
      (tst (fld p 0 1) 0 = true → r.target = 0xFFFF ∧ u.ctxs.toList.any Ctx.live = false ∧ u.indigo.raw = none ∧ u.pool.recs
        = [] ∧ 1024 ≤ fld p 4 4 ∧ fld p 4 4 ≤ 13312 ∧ fld p 4 4 ≤ poolMax u) ∧
      (tst (fld p 0 1) 1 = true → r.target ≠ 0xFFFF ∧ fld p 8 4 ≤ 13312) ∧
      (tst (fld p 0 1) 2 = true → r.target ≠ 0xFFFF ∧ 1 ≤ sfld p 12 4 ∧ sfld p 12 4 ≤ 8388607)) ∧
    (let r : Req := rq 255 (pl [(1, 6), (3, 0), (4, 0), (4, 13312), (4, 8388607)]); let s : State := idle;
      let u := begun r s; let p := r.payload; Ready poolCfgSpec r s ∧ fld p 0 1 ≤ 7 ∧ fld p 1 3 = 0 ∧
      (fld p 4 4 = 0 ∨ (1024 ≤ fld p 4 4 ∧ fld p 4 4 ≤ 13312)) ∧ fld p 8 4 ≤ 13312 ∧
      (fld p 12 4 = 0 ∨ (1 ≤ sfld p 12 4 ∧ sfld p 12 4 ≤ 8388607)) ∧
      (tst (fld p 0 1) 0 = true → r.target = 0xFFFF ∧ u.ctxs.toList.any Ctx.live = false ∧ u.indigo.raw = none ∧ u.pool.recs
        = [] ∧ 1024 ≤ fld p 4 4 ∧ fld p 4 4 ≤ 13312 ∧ fld p 4 4 ≤ poolMax u) ∧
      (tst (fld p 0 1) 1 = true → r.target ≠ 0xFFFF ∧ fld p 8 4 ≤ 13312) ∧
      (tst (fld p 0 1) 2 = true → r.target ≠ 0xFFFF ∧ 1 ≤ sfld p 12 4 ∧ sfld p 12 4 ≤ 8388607)) ∧
    (let r : Req := rq 0xFFFF (pl [(1, 0), (3, 0), (12, 0)]); let s : State := idle; let u := begun r s; let p := r.payload;
      Ready poolCfgSpec r s ∧ fld p 0 1 ≤ 7 ∧ fld p 1 3 = 0 ∧ (fld p 4 4 = 0 ∨ (1024 ≤ fld p 4 4 ∧ fld p 4 4 ≤ 13312)) ∧
      fld p 8 4 ≤ 13312 ∧ (fld p 12 4 = 0 ∨ (1 ≤ sfld p 12 4 ∧ sfld p 12 4 ≤ 8388607)) ∧
      (tst (fld p 0 1) 0 = true → r.target = 0xFFFF ∧ u.ctxs.toList.any Ctx.live = false ∧ u.indigo.raw = none ∧ u.pool.recs
        = [] ∧ 1024 ≤ fld p 4 4 ∧ fld p 4 4 ≤ 13312 ∧ fld p 4 4 ≤ poolMax u) ∧
      (tst (fld p 0 1) 1 = true → r.target ≠ 0xFFFF ∧ fld p 8 4 ≤ 13312) ∧
      (tst (fld p 0 1) 2 = true → r.target ≠ 0xFFFF ∧ 1 ≤ sfld p 12 4 ∧ sfld p 12 4 ≤ 8388607)) ∧
    (let r : Req := rq 0xFFFF (pl [(1, 0), (1, 0), (1, 0), (1, 0), (4, 0), (4, 524288), (4, 1), (8, 0)]);
      let s : State := warm; let u := begun r s; let p := r.payload; let tap := fld p 0 1;
      let whole : Bool := tap = 0 || tap = 4; let start := rawStart p u; let j := projected u;
      let bytes := rawBytes j tap (fld p 1 1) (fld p 8 4) (fld p 12 4); Ready rawCaptureSpec r s ∧
      (u.inMode (if 1 ≤ tap ∧ tap ≤ 3 then [.acoustic, .full] else [.warm, .acoustic, .full]) = true) ∧
      (u.power.mode = .warm ∨ start.isSome = true) ∧ u.indigo.raw = none ∧ rawBad p j = false ∧
      (fld p 2 1 = 1 → u.power.mode ≠ .warm ∧ start.any (fun x => u.now + Config.leadTime ≤ x.2) = true) ∧
      (whole = true ∨ ((rawLineBytes j tap (fld p 8 4) * popCount 8 (fld p 1 1) * 1000000000000 : Nat) : Rat) ≤ ((rtReserve
        u : Rat) - rtArmed u) * (acceptedTl j : Rat)) ∧ blocksOf (128 + bytes) ≤ blocksFree u ∧ tableFree u ≠ 0) ∧
    (let r : Req := rq 0xFFFF (pl [(1, 1), (1, 1), (1, 0), (1, 0), (4, 0), (4, 16), (4, 1), (8, 0)]);
      let s : State := launching; let u := begun r s; let p := r.payload; let tap := fld p 0 1;
      let whole : Bool := tap = 0 || tap = 4; let start := rawStart p u; let j := projected u;
      let bytes := rawBytes j tap (fld p 1 1) (fld p 8 4) (fld p 12 4); Ready rawCaptureSpec r s ∧
      (u.inMode (if 1 ≤ tap ∧ tap ≤ 3 then [.acoustic, .full] else [.warm, .acoustic, .full]) = true) ∧
      (u.power.mode = .warm ∨ start.isSome = true) ∧ u.indigo.raw = none ∧ rawBad p j = false ∧
      (fld p 2 1 = 1 → u.power.mode ≠ .warm ∧ start.any (fun x => u.now + Config.leadTime ≤ x.2) = true) ∧
      (whole = true ∨ ((rawLineBytes j tap (fld p 8 4) * popCount 8 (fld p 1 1) * 1000000000000 : Nat) : Rat) ≤ ((rtReserve
        u : Rat) - rtArmed u) * (acceptedTl j : Rat)) ∧ blocksOf (128 + bytes) ≤ blocksFree u ∧ tableFree u ≠ 0) := by
  refine ⟨?_, ?_, ?_, ?_, ?_, ?_, ?_, ?_, ?_, ?_, ?_, ?_, ?_⟩ <;> decide +kernel

theorem witness_coreCommands :
    (let r : Req := rq 31 (pl [(1, 0), (1, 0), (2, 0), (4, 0), (4, 68), (4, crcOf nopImage)]);
      let s : State := staging nopImage idle; let u := begun r s; let p := r.payload; let k := r.target.toNat;
      let img := nopImage; let cs := if fld p 4 4 = 0 then [k] else maskCores (fld p 4 4); Ready coreLoadSpec r s ∧
      staged u (fld p 0 1) = some img ∧ imageBad img = none ∧ fld p 0 1 ≤ 3 ∧ fld p 1 1 ≤ 1 ∧ fld p 2 2 = 0 ∧
      (fld p 4 4 ≠ 0 → lowBit (fld p 4 4) = some k) ∧ absentCores u k (fld p 4 4) = false ∧
      stageMismatch img (fld p 8 4) (fld p 12 4) = false ∧
      (∀ c ∈ cs, (core u c).state ≠ .running ∧ (core u c).state ≠ .retired)) ∧
    (let r : Req := rq 31 (pl [(1, 0), (1, 1), (2, 0), (4, 2 ^ 31), (4, 68), (4, crcOf nopImage)]);
      let s : State := staging nopImage idle; let u := begun r s; let p := r.payload; let k := r.target.toNat;
      let img := nopImage; let cs := if fld p 4 4 = 0 then [k] else maskCores (fld p 4 4); Ready coreLoadSpec r s ∧
      staged u (fld p 0 1) = some img ∧ imageBad img = none ∧ fld p 0 1 ≤ 3 ∧ fld p 1 1 ≤ 1 ∧ fld p 2 2 = 0 ∧
      (fld p 4 4 ≠ 0 → lowBit (fld p 4 4) = some k) ∧ absentCores u k (fld p 4 4) = false ∧
      stageMismatch img (fld p 8 4) (fld p 12 4) = false ∧
      (∀ c ∈ cs, (core u c).state ≠ .running ∧ (core u c).state ≠ .retired)) ∧
    (let r : Req := rq 31 (pl [(1, 255), (1, 1), (2, 0), (4, 2 ^ 31), (2, 48), (2, 256), (2, 0), (2, 256), (1, 64), (1, 3),
        (2, 0)]); let s : State := loaded; let u := begun r s; let p := r.payload; let k := r.target.toNat;
      let m := fld p 4 4; let cs := maskCores m; let c := ctx u (fld p 0 1); let armed := c.live && linesRun u c;
      let w : CtxWhen := if armed then ctxWhen u c else { due := 0, count := 2 ^ 64 - 1, settle := none };
      let b := newBinding p c.n cs.length 0 (if armed then w.due else 0); Ready coreStartSpec r s ∧
      absentCores u k m = false ∧ c.source ≠ 0 ∧ lowBit m = some k ∧ (groupOf u (fld p 0 1)).isEmpty = true ∧
      (∀ d ∈ cs, ((core u d).state = .stopped ∨ (core u d).state = .running) ∧ (core u d).bindings.length < 4 ∧ b.entry <
        (core u d).nInstr ∧ b.fits (core u d).unified = true ∧ ((core u d).unified = true → fld p 17 1 = 0) ∧ (core u
          d).bindings.any (fun x => bindingsMeet (core u d).unified b x) = false ∧ burstOk u (planTs u) ((core u d).bindings
            ++ [b]) = true) ∧ histOk b.histLen = true ∧ b.stateLen ≤ 64 ∧ b.stateLen % 2 = 0 ∧ fld p 17 1 ≤ 3 ∧
      fld p 1 1 ≤ 1 ∧ fld p 18 2 = 0 ∧ 1 ≤ b.budget ∧ b.budget ≤ 8192) ∧
    (let r : Req := rq 31 (pl [(1, 0), (3, 0), (4, 2 ^ 31)]); let s : State := loaded; let u := begun r s;
      let p := r.payload; let k := r.target.toNat; let cs := maskCores (fld p 4 4);
      let hit := (ctxsWhere u Ctx.live).filter (fun x => cs.any (fun c => (core u c).state = .running && ((core u c).binding
        x).isSome)); Ready coreStopSpec r s ∧ fld p 0 1 ≤ 3 ∧ fld p 1 3 = 0 ∧ lowBit (fld p 4 4) = some k ∧
      absentCores u k (fld p 4 4) = false ∧ (hit = [] ∨ tst (fld p 0 1) 0 = true)) ∧
    (let r : Req := rq 31 (pl [(1, 3), (3, 0), (4, 2 ^ 31)]); let s : State := serving; let u := begun r s;
      let p := r.payload; let k := r.target.toNat; let cs := maskCores (fld p 4 4);
      let hit := (ctxsWhere u Ctx.live).filter (fun x => cs.any (fun c => (core u c).state = .running && ((core u c).binding
        x).isSome)); Ready coreStopSpec r s ∧ fld p 0 1 ≤ 3 ∧ fld p 1 3 = 0 ∧ lowBit (fld p 4 4) = some k ∧
      absentCores u k (fld p 4 4) = false ∧ (hit = [] ∨ tst (fld p 0 1) 0 = true)) ∧
    (let r : Req := rq 31 (pl [(1, 1), (1, 1), (2, 6192), (2, 2000), (2, 0)]); let s : State := loaded; let u := begun r s;
      let p := r.payload; let k := r.target.toNat; Ready coreReadSpec r s ∧ absentCores u k 0 = false ∧ fld p 1 1 ≤ 1 ∧
      fld p 6 2 = 0 ∧ readRange (core u k) (fld p 0 1) (fld p 2 2) (fld p 4 2) = true ∧
      ((core u k).state = .retired → fld p 0 1 = 0)) ∧
    (let r : Req := rq 0 (pl [(1, 0), (1, 0), (2, 0), (2, 0), (2, 0)]); let s : State := idle; let u := begun r s;
      let p := r.payload; let k := r.target.toNat; Ready coreReadSpec r s ∧ absentCores u k 0 = false ∧ fld p 1 1 ≤ 1 ∧
      fld p 6 2 = 0 ∧ readRange (core u k) (fld p 0 1) (fld p 2 2) (fld p 4 2) = true ∧
      ((core u k).state = .retired → fld p 0 1 = 0)) := by
  refine ⟨?_, ?_, ?_, ?_, ?_, ?_, ?_⟩ <;> decide +kernel

theorem witness_streamCommands :
    (let r : Req := rq 257 (pl [(1, 0), (43, 0)]); let s : State := idle; let p := r.payload; Ready streamCfgSpec r s ∧
      fld p 0 1 = 0 ∧ streamForm p = true) ∧
    (let r : Req := rq 256 (pl [(1, 1), (1, 2), (1, 1), (1, 15), (1, 1), (1, 3), (2, 1000), (1, 255), (1, 0), (2, 32767),
        (4, 65536), (8, 4096), (16, 0), (2, 0), (2, 8960)]); let s : State := idle; let u := begun r s; let p := r.payload;
      let k := r.target.toNat; let x := stream u k; Ready streamCfgSpec r s ∧ fld p 0 1 = 1 ∧ streamForm p = true ∧
      (streamRuns u k = false ∨ cfgSame (newCfg p x) x = true) ∧
      streamBad k (k < 256 && (ctx u k).source = 1) (newCfg p x) = false) ∧
    (let r : Req := rq 0 (pl [(1, 2), (43, 0)]); let s : State := idle; let u := begun r s; let p := r.payload;
      let k := r.target.toNat; Ready streamCfgSpec r s ∧ fld p 0 1 = 2 ∧ streamForm p = true ∧ streamRuns u k = false) ∧
    (let r : Req := rq 256 []; let s : State := streaming 256 { configured := true, run := true }; let u := begun r s;
      let k := r.target.toNat; Ready streamSaveSpec r s ∧ k ≠ 257 ∧ streamRuns u k = true ∧ lineInProgress u k = none) ∧
    (let r : Req := rq 0 []; let s : State := midLine; let u := begun r s; let k := r.target.toNat; let q := 0; let n := 1;
      Ready streamSaveSpec r s ∧ k ≠ 257 ∧ streamRuns u k = true ∧ lineInProgress u k = some (q, n)) ∧
    (let r : Req := rq 256 (let p := pl [(1, 1), (1, 2), (2, 256), (56, 0)]; p ++ le4 (crcOf p));
      let s : State := streaming 256 { configured := true }; let u := begun r s; let p := r.payload; let k := r.target.toNat;
      let x := stream u k; Ready streamRestoreSpec r s ∧ streamRuns u k = false ∧ k ≠ 257 ∧ x.configured = true ∧
      fld p 0 1 = 1 ∧ fld p 2 2 = k ∧ fld p 1 1 = (if codesRle u k then 1 else 2) ∧ fld p 24 4 = (streamSpan u k).1 ∧
      fld p 28 4 = (streamSpan u k).2 ∧ fld p 60 4 = (crc32c (p.take 60)).toNat) ∧
    (let r : Req := rq 0xFFFF (pl [(1, 3), (1, 7), (2, 0), (4, 0), (4, 0), (4, 0), (2, 0), (2, 0)]); let s : State := idle;
      let p := r.payload; Ready bulkLoadSpec r s ∧ fld p 0 1 ≤ 3 ∧ fld p 1 1 ≤ 7 ∧ tst (fld p 1 1) 2 = true) ∧
    (let r : Req := rq 0xFFFF (pl [(1, 3), (1, 1), (2, 0), (4, 0), (4, 2097216), (4, 0), (2, 2), (2, 0), (4, 0)]);
      let s : State := idle; let u := begun r s; let p := r.payload;
      let b : StageBuf := if tst (fld p 1 1) 0 then { phase := 1, declared := fld p 8 4 } else stageOf u (fld p 0 1);
      let q := bulkPiece b ((p.drop 20).take (fld p 16 2)) (tst (fld p 1 1) 1) (fld p 12 4); Ready bulkLoadSpec r s ∧
      fld p 0 1 ≤ 3 ∧ fld p 1 1 ≤ 3 ∧ fld p 2 2 = 0 ∧ fld p 18 2 = 0 ∧ fld p 16 2 % 2 = 0 ∧ 2 ≤ fld p 16 2 ∧
      fld p 16 2 ≤ 4056 ∧ (tst (fld p 1 1) 1 = true ∨ fld p 12 4 = 0) ∧
      (if tst (fld p 1 1) 0 then fld p 4 4 = 0 ∧ fld p 8 4 % 2 = 0 ∧ 2 ≤ fld p 8 4 ∧ fld p 8 4 ≤ 2097216 else fld p 8 4 = 0
        ∧ (stageOf u (fld p 0 1)).phase = 1 ∧ fld p 4 4 = (stageOf u (fld p 0 1)).accepted) ∧ q.1 = St.ok) ∧
    (let r : Req := rq 0xFFFF (pl [(1, 0), (1, 3), (2, 0), (4, 0), (4, 2), (4, crcOf [5, 0]), (2, 2), (2, 0), (2, 5), (2,
        0)]); let s : State := idle; let u := begun r s; let p := r.payload;
      let b : StageBuf := if tst (fld p 1 1) 0 then { phase := 1, declared := fld p 8 4 } else stageOf u (fld p 0 1);
      let q := bulkPiece b ((p.drop 20).take (fld p 16 2)) (tst (fld p 1 1) 1) (fld p 12 4); Ready bulkLoadSpec r s ∧
      fld p 0 1 ≤ 3 ∧ fld p 1 1 ≤ 3 ∧ fld p 2 2 = 0 ∧ fld p 18 2 = 0 ∧ fld p 16 2 % 2 = 0 ∧ 2 ≤ fld p 16 2 ∧
      fld p 16 2 ≤ 4056 ∧ (tst (fld p 1 1) 1 = true ∨ fld p 12 4 = 0) ∧
      (if tst (fld p 1 1) 0 then fld p 4 4 = 0 ∧ fld p 8 4 % 2 = 0 ∧ 2 ≤ fld p 8 4 ∧ fld p 8 4 ≤ 2097216 else fld p 8 4 = 0
        ∧ (stageOf u (fld p 0 1)).phase = 1 ∧ fld p 4 4 = (stageOf u (fld p 0 1)).accepted) ∧ q.1 = St.ok) := by
  refine ⟨?_, ?_, ?_, ?_, ?_, ?_, ?_, ?_, ?_⟩ <;> decide +kernel

theorem witness_timeCommands :
    (let r : Req := rq 0xFFFF (pl [(1, 1), (1, 1), (1, 1), (1, 127), (1, 3), (1, 1), (1, 256 - 7), (1, 4), (1, 10), (1,
        15), (1, 15), (1, 0), (2, 60), (2, 10000), (4, 0), (4, 100000), (4, 100000), (16, 0)]); let s : State := idle;
      let p := r.payload; Ready ptpCfgSpec r s ∧ fld p 0 1 ≤ 1 ∧ fld p 1 1 ≤ 2 ∧ ptpCfgBad (fld p 1 1 = 1) p = false) ∧
    (let r : Req := rq 0xFFFF (pl [(1, 0), (1, 2), (42, 0)]); let s : State := idle; let p := r.payload;
      Ready ptpCfgSpec r s ∧ fld p 0 1 ≤ 1 ∧ fld p 1 1 ≤ 2 ∧ ptpCfgBad (fld p 1 1 = 1) p = false) ∧
    (let r : Req := rq 0xFFFF []; let s : State := idle; Ready ptpStatusSpec r s) ∧
    (let r : Req := rq 0xFFFF []; let s : State := idle; Ready timeGetSpec r s) ∧
    (let r : Req := rq 0xFFFF (pl [(1, 255), (1, 7), (1, 7), (1, 0), (2, 10000), (2, 0), (4, 0)]); let s : State := idle;
      let u := begun r s; let p := r.payload; let c := dueChanges u; Ready domainSelectSpec r s ∧
      (fld p 0 1 = 0xFF ∨ (fld p 0 1 ≤ 1 ∧ (domain c (fld p 0 1)).phase = 2)) ∧ fld p 1 1 ≤ 7 ∧ fld p 2 1 ≤ 7 ∧
      fld p 3 1 = 0 ∧ fld p 4 2 ≤ 10000 ∧ fld p 6 2 = 0) ∧
    (let r : Req := rq 0xFFFF (pl [(1, 1), (1, 0), (1, 0), (1, 0), (2, 0), (2, 0), (4, 0)]);
      let s : State := setDomain 1 { phase := 2, lastAnn := 1 } idle; let u := begun r s; let p := r.payload;
      let c := dueChanges u; Ready domainSelectSpec r s ∧
      (fld p 0 1 = 0xFF ∨ (fld p 0 1 ≤ 1 ∧ (domain c (fld p 0 1)).phase = 2)) ∧ fld p 1 1 ≤ 7 ∧ fld p 2 1 ≤ 7 ∧
      fld p 3 1 = 0 ∧ fld p 4 2 ≤ 10000 ∧ fld p 6 2 = 0) := by
  refine ⟨?_, ?_, ?_, ?_, ?_, ?_⟩ <;> decide +kernel

theorem witness_intervalAndLockCommands :
    (let r : Req := rq 0xFFFF (pl [(1, 3), (1, 3), (1, 3), (1, 0), (1, 3), (1, 2), (1, 1), (1, 0), (4, 1000000000), (4,
        10000000), (2, 10000), (6, 0)]); let s : State := idle; let p := r.payload; Ready timCfgSpec r s ∧
      timCfgBad p = false) ∧
    (let r : Req := rq 0xFFFF (pl [(1, 3), (1, 0), (2, 1)]); let s : State := idle; let p := r.payload;
      Ready timReadSpec r s ∧ fld p 0 1 ≤ 3 ∧ fld p 1 1 = 0 ∧ 1 ≤ fld p 2 2 ∧ fld p 2 2 ≤ 250) ∧
    (let r : Req := rq 0xFFFF (pl [(1, 0), (1, 0), (2, 250)]); let s : State := idle; let p := r.payload;
      Ready timReadSpec r s ∧ fld p 0 1 ≤ 3 ∧ fld p 1 1 = 0 ∧ 1 ≤ fld p 2 2 ∧ fld p 2 2 ≤ 250) ∧
    (let r : Req := rq 0xFFFF (pl [(16, 0)]); let s : State := idle; let p := r.payload; Ready launchSyncSpec r s ∧
      fld p 1 1 ≤ 3 ∧ fld p 2 1 ≤ 1 ∧ fld p 4 4 ≤ 1999999999 ∧ fld p 8 4 ≤ fld p 12 4 ∧ fld p 0 1 = 0 ∧
      (fld p 8 4 = 0 ∨ (5000 ≤ fld p 8 4 ∧ fld p 8 4 ≤ 2000000))) ∧
    (let r : Req := rq 0xFFFF (pl [(1, 1), (1, 3), (1, 1), (1, 1), (4, 0), (4, 2000000), (4, 2000000)]);
      let s : State := warm; let u := begun r s; let p := r.payload; let t := beginLock p u; Ready launchSyncSpec r s ∧
      fld p 1 1 ≤ 3 ∧ fld p 2 1 ≤ 1 ∧ fld p 4 4 ≤ 1999999999 ∧ fld p 8 4 ≤ fld p 12 4 ∧ fld p 0 1 = 1 ∧
      u.power.mode ≠ .standby ∧ u.inPair = false ∧ 1 ≤ fld p 3 1 ∧ 5000 ≤ fld p 8 4 ∧ fld p 8 4 ≤ 2000000 ∧
      syncRules p (projected u) = true ∧ t.light.running = false) ∧
    (let r : Req := rq 0xFFFF (pl [(1, 1), (1, 3), (1, 1), (1, 1), (4, 0), (4, 2000000), (4, 2000000)]);
      let s : State := { inMode .survey with light.running := true }; let u := begun r s; let p := r.payload;
      let t := beginLock p u; Ready launchSyncSpec r s ∧ fld p 1 1 ≤ 3 ∧ fld p 2 1 ≤ 1 ∧ fld p 4 4 ≤ 1999999999 ∧
      fld p 8 4 ≤ fld p 12 4 ∧ fld p 0 1 = 1 ∧ u.power.mode ≠ .standby ∧ u.inPair = false ∧ 1 ≤ fld p 3 1 ∧
      5000 ≤ fld p 8 4 ∧ fld p 8 4 ≤ 2000000 ∧ syncRules p (projected u) = true ∧ t.light.running = true ∧
      t.runMode = .survey) ∧
    (let r : Req := rq 0xFFFF (pl [(1, 1), (1, 3), (1, 1), (1, 1), (4, 0), (4, 2000000), (4, 2000000)]);
      let s : State := { warm with light.running := true }; let u := begun r s; let p := r.payload; let t := beginLock p u;
      Ready launchSyncSpec r s ∧ fld p 1 1 ≤ 3 ∧ fld p 2 1 ≤ 1 ∧ fld p 4 4 ≤ 1999999999 ∧ fld p 8 4 ≤ fld p 12 4 ∧
      fld p 0 1 = 1 ∧ u.power.mode ≠ .standby ∧ u.inPair = false ∧ 1 ≤ fld p 3 1 ∧ 5000 ≤ fld p 8 4 ∧ fld p 8 4 ≤ 2000000 ∧
      syncRules p (projected u) = true ∧ t.light.running = true ∧ t.runMode ≠ .survey) ∧
    (let r : Req := rq 0xFFFF (pl [(1, 2), (15, 0)]); let s : State := { warm with lock.phase := 1 }; let u := begun r s;
      let p := r.payload; let p' := p.take 16 ++ le8 (freeTl (projected u)); Ready launchSyncSpec r s ∧ fld p 1 1 ≤ 3 ∧
      fld p 2 1 ≤ 1 ∧ fld p 4 4 ≤ 1999999999 ∧ fld p 8 4 ≤ fld p 12 4 ∧ fld p 0 1 = 2 ∧
      (fld p 8 4 = 0 ∨ (5000 ≤ fld p 8 4 ∧ fld p 8 4 ≤ 2000000)) ∧ u.lock.phase = 1) ∧
    (let r : Req := rq 0xFFFF (pl [(1, 2), (15, 0)]); let s : State := { warm with lock.phase := 2 }; let u := begun r s;
      let p := r.payload; let p' := p.take 16 ++ le8 (freeTl (projected u)); Ready launchSyncSpec r s ∧ fld p 1 1 ≤ 3 ∧
      fld p 2 1 ≤ 1 ∧ fld p 4 4 ≤ 1999999999 ∧ fld p 8 4 ≤ fld p 12 4 ∧ fld p 0 1 = 2 ∧
      (fld p 8 4 = 0 ∨ (5000 ≤ fld p 8 4 ∧ fld p 8 4 ≤ 2000000)) ∧ u.lock.phase ≠ 1) ∧
    (let r : Req := rq 0xFFFF (pl [(1, 2), (3, 0), (4, 1999999999), (4, 5000), (4, 5000)]); let s : State := idle;
      let u := begun r s; let p := r.payload; let p' := p.take 16 ++ le8 (freeTl (projected u)); Ready launchSyncSpec r s ∧
      fld p 1 1 ≤ 3 ∧ fld p 2 1 ≤ 1 ∧ fld p 4 4 ≤ 1999999999 ∧ fld p 8 4 ≤ fld p 12 4 ∧ fld p 0 1 = 2 ∧
      (fld p 8 4 = 0 ∨ (5000 ≤ fld p 8 4 ∧ fld p 8 4 ≤ 2000000)) ∧ u.lock.phase ≠ 1) := by
  refine ⟨?_, ?_, ?_, ?_, ?_, ?_, ?_, ?_, ?_, ?_⟩ <;> decide +kernel

theorem witness_calibrationCommands :
    (let r : Req := rq 0xFFFF (pl [(1, 1), (3, 0)]); let s : State := warm; let u := begun r s; let p := r.payload;
      Ready calRunSpec r s ∧ u.inMode [.warm, .acoustic, .survey, .full] = true ∧ u.power.trans = none ∧
      u.longBusy 0x70 = false ∧ u.calibrating = false ∧ 1 ≤ fld p 0 1 ∧ fld p 0 1 ≤ 127 ∧ fld p 1 3 = 0) ∧
    (let r : Req := rq 0xFFFF (pl [(1, 127), (3, 0)]); let s : State := inMode .full; let u := begun r s; let p := r.payload;
      Ready calRunSpec r s ∧ u.inMode [.warm, .acoustic, .survey, .full] = true ∧ u.power.trans = none ∧
      u.longBusy 0x70 = false ∧ u.calibrating = false ∧ 1 ≤ fld p 0 1 ∧ fld p 0 1 ≤ 127 ∧ fld p 1 3 = 0) ∧
    (let r : Req := rq 0xFFFF (pl [(4, 8256), (2, 4032), (2, 0)]); let s : State := { idle with cal.snap := some ([], 0) };
      let u := begun r s; let p := r.payload; let b := []; let g := 0; Ready calSaveSpec r s ∧ fld p 0 4 % 4 = 0 ∧
      4 ≤ fld p 4 2 ∧ fld p 4 2 ≤ 4032 ∧ fld p 4 2 % 4 = 0 ∧ fld p 6 2 = 0 ∧ fld p 0 4 + fld p 4 2 ≤ 12288 ∧ fld p 0 4 ≠ 0 ∧
      u.cal.snap = some (b, g)) ∧
    (let r : Req := rq 0xFFFF (pl [(4, 0), (2, 4), (2, 0)]); let s : State := idle; let u := begun r s; let p := r.payload;
      Ready calSaveSpec r s ∧ fld p 0 4 = 0 ∧ 4 ≤ fld p 4 2 ∧ fld p 4 2 ≤ 4032 ∧ fld p 4 2 % 4 = 0 ∧ fld p 6 2 = 0 ∧
      u.cal.run = none) ∧
    (let r : Req := rq 0xFFFF (pl [(4, 0), (2, 4032), (2, 0)]); let s : State := idle; let u := begun r s;
      let p := r.payload; Ready calSaveSpec r s ∧ fld p 0 4 = 0 ∧ 4 ≤ fld p 4 2 ∧ fld p 4 2 ≤ 4032 ∧ fld p 4 2 % 4 = 0 ∧
      fld p 6 2 = 0 ∧ u.cal.run = none) ∧
    (let r : Req := rq 0xFFFF (pl [(4, 0), (2, 4032), (2, 0)]);
      let s : State := { inMode .calibrate with cal.run := some aRun }; let u := begun r s; let p := r.payload;
      let x := aRun; Ready calSaveSpec r s ∧ fld p 0 4 = 0 ∧ 4 ≤ fld p 4 2 ∧ fld p 4 2 ≤ 4032 ∧ fld p 4 2 % 4 = 0 ∧
      fld p 6 2 = 0 ∧ u.cal.run = some x) ∧
    (let r : Req := rq 0xFFFF (pl [(1, 0), (1, 127), (2, 0), (4, 12288), (4, crcOf calBlob)]);
      let s : State := staging calBlob warm; let u := begun r s; let p := r.payload; let b := vget u.stages (fld p 0 1);
      let img := b.decoded; Ready calRestoreSpec r s ∧ u.inMode [.standby, .warm] = true ∧ fld p 0 1 ≤ 3 ∧ 1 ≤ fld p 1 1 ∧
      fld p 1 1 ≤ 127 ∧ fld p 2 2 = 0 ∧ fld p 4 4 = 12288 ∧ b.phase = 2 ∧ img.length = 12288 ∧
      fld p 8 4 = (crc32c img).toNat ∧ fld img 12284 4 = (crc32c (img.take 12284)).toNat ∧ fld img 0 2 = 1 ∧
      fld img 2 1 = u.part.caps.toNat % 256 ∧ fld img 3 1 = u.part.caps.toNat / 2 ^ 18 % 4 ∧
      fld img 4 8 = u.part.dieId.toNat) ∧
    (let r : Req := rq 0xFFFF (pl [(1, 0), (3, 0)]); let s : State := idle; let u := begun r s; let p := r.payload;
      Ready calQualitySpec r s ∧ fld p 0 1 ≤ 1 ∧ fld p 1 3 = 0 ∧ u.cal.run = none) ∧
    (let r : Req := rq 0xFFFF (pl [(1, 1), (3, 0)]); let s : State := idle; let u := begun r s; let p := r.payload;
      Ready calQualitySpec r s ∧ fld p 0 1 ≤ 1 ∧ fld p 1 3 = 0 ∧ u.cal.run = none) ∧
    (let r : Req := rq 0xFFFF (pl [(1, 1), (3, 0)]); let s : State := { inMode .calibrate with cal.run := some aRun };
      let u := begun r s; let p := r.payload; let x := aRun; Ready calQualitySpec r s ∧ fld p 0 1 ≤ 1 ∧ fld p 1 3 = 0 ∧
      u.cal.run = some x) := by
  refine ⟨?_, ?_, ?_, ?_, ?_, ?_, ?_, ?_, ?_, ?_⟩
  · decide +kernel
  · decide +kernel
  · decide +kernel
  · decide +kernel
  · decide +kernel
  · decide +kernel
  · intro r s u p b img
    exact ⟨⟨by decide +kernel, by decide +kernel⟩, by decide +kernel, by decide +kernel, by decide +kernel, by decide +kernel, by decide +kernel, by decide +kernel,
      by decide +kernel, calBlob_length, leVal_leBytes 4 _ (crc32c calBlob).isLt, calBlob_check, by decide +kernel,
      by decide +kernel, by decide +kernel, by decide +kernel⟩
  · decide +kernel
  · decide +kernel
  · decide +kernel

theorem witness_memoryCommands :
    (let r : Req := rq 0xFFFF (pl [(1, 0), (3, 0)]); let s : State := idle; let p := r.payload; Ready memStatusSpec r s ∧
      fld p 0 1 ≤ 1 ∧ fld p 1 3 = 0) ∧
    (let r : Req := rq 0xFFFF (pl [(1, 1), (3, 0)]); let s : State := idle; let p := r.payload; Ready memStatusSpec r s ∧
      fld p 0 1 ≤ 1 ∧ fld p 1 3 = 0) ∧
    (let r : Req := rq 0xFFFF (pl [(1, 15), (1, 64), (2, 0)]); let s : State := warm; let u := begun r s; let p := r.payload;
      Ready memTrainSpec r s ∧ u.inMode [.warm, .acoustic, .survey, .full] = true ∧ recording u = false ∧
      u.longBusy 0x79 = false ∧ u.longBusy 0xF1 = false ∧ u.longBusy 0xF2 = false ∧
      (u.pool.recs = [] ∨ ∀ c, c < 4 → tst (fld p 0 1) c = true → (mch u c).live = true) ∧ 1 ≤ fld p 0 1 ∧ fld p 0 1 ≤ 15 ∧
      (fld p 1 1 = 0 ∨ (4 ≤ fld p 1 1 ∧ fld p 1 1 ≤ 64)) ∧ fld p 2 2 = 0) ∧
    (let r : Req := rq 0xFFFF (pl [(1, 1), (1, 0), (2, 0)]); let s : State := holding aRecord; let u := begun r s;
      let p := r.payload; Ready memTrainSpec r s ∧ u.inMode [.warm, .acoustic, .survey, .full] = true ∧ recording u = false ∧
      u.longBusy 0x79 = false ∧ u.longBusy 0xF1 = false ∧ u.longBusy 0xF2 = false ∧
      (u.pool.recs = [] ∨ ∀ c, c < 4 → tst (fld p 0 1) c = true → (mch u c).live = true) ∧ 1 ≤ fld p 0 1 ∧ fld p 0 1 ≤ 15 ∧
      (fld p 1 1 = 0 ∨ (4 ≤ fld p 1 1 ∧ fld p 1 1 ≤ 64)) ∧ fld p 2 2 = 0) ∧
    (let r : Req := rq 0xFFFF (pl [(24, 0)]); let s : State := idle; let p := r.payload;
      let masks : Prop := ∀ c, c < 4 → fld p (4 + c) 1 ≤ 2 ∧ fld p (8 + 4 * c) 4 % 16 = 0 ∧ fld p (8 + 4 * c) 4 < 2 ^ 21;
      Ready memMapSpec r s ∧ fld p 0 1 = 0 ∧ fld p 1 3 = 0 ∧ masks) ∧
    (let r : Req := rq 0xFFFF (pl [(1, 2), (3, 0), (1, 2), (1, 2), (1, 0), (1, 1), (16, 0)]); let s : State := idle;
      let p := r.payload;
      let masks : Prop := ∀ c, c < 4 → fld p (4 + c) 1 ≤ 2 ∧ fld p (8 + 4 * c) 4 % 16 = 0 ∧ fld p (8 + 4 * c) 4 < 2 ^ 21;
      Ready memMapSpec r s ∧ fld p 0 1 = 2 ∧ fld p 1 3 = 0 ∧ masks) ∧
    (let r : Req := rq 0xFFFF (pl [(1, 1), (3, 0), (4, 0), (4, 0x1C0000), (4, 0x70), (4, 0), (4, 0x10)]);
      let s : State := warm; let u := begun r s; let p := r.payload;
      let masks : Prop := ∀ c, c < 4 → fld p (4 + c) 1 ≤ 2 ∧ fld p (8 + 4 * c) 4 % 16 = 0 ∧ fld p (8 + 4 * c) 4 < 2 ^ 21;
      Ready memMapSpec r s ∧ fld p 0 1 = 1 ∧ fld p 1 3 = 0 ∧ masks ∧
      ((List.range 4).all (fun i => maskOk (fld p (8 + 4 * i) 4)) = true) ∧ u.power.mode = .warm ∧ recording u = false ∧
      u.pool.recs = [] ∧ u.longBusy 0x79 = false ∧ u.longBusy 0xF1 = false ∧ u.longBusy 0xF2 = false) := by
  refine ⟨?_, ?_, ?_, ?_, ?_, ?_, ?_⟩ <;> decide +kernel

theorem witness_sensorCommands :
    (let r : Req := rq 0xFFFF (pl [(24, 0)]); let s : State := idle; let u := begun r s; let p := r.payload;
      let n := fld p 0 1; let c := aux u n; Ready auxCfgSpec r s ∧ fld p 0 1 ≤ 7 ∧ fld p 1 1 ≤ 2 ∧
      auxBad (fld p 1 1 = 1) p = false ∧ (fld p 1 1 = 0 ∨ claimed u n = false) ∧
      (auxArmed u n = false ∨ fld p 1 1 = 0 ∨ (fld p 1 1 = 1 ∧ fld p 2 1 = fld c.cfg 2 1 ∧ fld p 4 1 = c.odr) ∨ (fld p 1 1 =
        2 ∧ c.enabled = false)) ∧
      (fld p 1 1 = 1 → u.ochre.coilDue = none ∨ tst (fld p 11 1) 2 = false ∨ reqExc p 0 = vget u.aux.exc 0)) ∧
    (let r : Req := rq 0xFFFF (pl [(1, 7), (1, 2), (22, 0)]); let s : State := idle; let u := begun r s; let p := r.payload;
      let n := fld p 0 1; let c := aux u n; Ready auxCfgSpec r s ∧ fld p 0 1 ≤ 7 ∧ fld p 1 1 ≤ 2 ∧
      auxBad (fld p 1 1 = 1) p = false ∧ (fld p 1 1 = 0 ∨ claimed u n = false) ∧
      (auxArmed u n = false ∨ fld p 1 1 = 0 ∨ (fld p 1 1 = 1 ∧ fld p 2 1 = fld c.cfg 2 1 ∧ fld p 4 1 = c.odr) ∨ (fld p 1 1 =
        2 ∧ c.enabled = false)) ∧
      (fld p 1 1 = 1 → u.ochre.coilDue = none ∨ tst (fld p 11 1) 2 = false ∨ reqExc p 0 = vget u.aux.exc 0)) ∧
    (let r : Req := rq 0xFFFF (pl [(1, 7), (1, 1), (1, 1), (1, 7), (1, 12), (1, 2), (1, 2), (1, 0), (2, 1), (1, 1), (1, 3),
        (4, 8388607), (8, 0)]); let s : State := idle; let u := begun r s; let p := r.payload; let n := fld p 0 1;
      let c := aux u n; Ready auxCfgSpec r s ∧ fld p 0 1 ≤ 7 ∧ fld p 1 1 ≤ 2 ∧ auxBad (fld p 1 1 = 1) p = false ∧
      (fld p 1 1 = 0 ∨ claimed u n = false) ∧
      (auxArmed u n = false ∨ fld p 1 1 = 0 ∨ (fld p 1 1 = 1 ∧ fld p 2 1 = fld c.cfg 2 1 ∧ fld p 4 1 = c.odr) ∨ (fld p 1 1 =
        2 ∧ c.enabled = false)) ∧
      (fld p 1 1 = 1 → u.ochre.coilDue = none ∨ tst (fld p 11 1) 2 = false ∨ reqExc p 0 = vget u.aux.exc 0)) ∧
    (let r : Req := rq 0xFFFF (pl [(1, 7), (1, 0), (2, 1)]); let s : State := idle; let p := r.payload;
      Ready auxReadSpec r s ∧ fld p 0 1 ≤ 7 ∧ fld p 1 1 = 0 ∧ 1 ≤ fld p 2 2 ∧ fld p 2 2 ≤ 250) ∧
    (let r : Req := rq 0xFFFF (pl [(1, 0), (1, 0), (2, 250)]); let s : State := idle; let p := r.payload;
      Ready auxReadSpec r s ∧ fld p 0 1 ≤ 7 ∧ fld p 1 1 = 0 ∧ 1 ≤ fld p 2 2 ∧ fld p 2 2 ≤ 250) ∧
    (let r : Req := rq 0xFFFF (pl [(1, 7), (1, 0), (2, 0)]); let s : State := idle; let p := r.payload;
      Ready auxReadSpec r s ∧ (fld p 0 1 ≤ 7 ∨ fld p 0 1 = 0xFF) ∧ fld p 1 1 = 0 ∧ fld p 2 2 = 0) ∧
    (let r : Req := rq 0xFFFF (pl [(1, 255), (1, 0), (2, 0)]); let s : State := idle; let p := r.payload;
      Ready auxReadSpec r s ∧ (fld p 0 1 ≤ 7 ∨ fld p 0 1 = 0xFF) ∧ fld p 1 1 = 0 ∧ fld p 2 2 = 0) ∧
    (let r : Req := rq 0xFFFF (pl [(1, 1), (1, 0), (1, 5), (1, 16), (4, 0), (4, 0), (4, 1), (2, 4095), (2, 0)]);
      let s : State := idle; let u := begun r s; let p := r.payload; Ready amonCfgSpec r s ∧
      (fld p 1 1 = 2 → u.ochreFitted = true) ∧ amonBad u p = false) ∧
    (let r : Req := rq 0xFFFF (pl [(1, 1), (1, 255), (18, 0)]); let s : State := idle; let u := begun r s;
      let p := r.payload; Ready amonCfgSpec r s ∧ (fld p 1 1 = 2 → u.ochreFitted = true) ∧ amonBad u p = false) ∧
    (let r : Req := rq 0xFFFF (pl [(1, 0), (1, 3), (1, 0), (1, 0), (4, 7), (4, 0), (4, 1), (2, 0), (2, 0)]);
      let s : State := idle; let u := begun r s; let p := r.payload; Ready amonCfgSpec r s ∧
      (fld p 1 1 = 2 → u.ochreFitted = true) ∧ amonBad u p = false) := by
  refine ⟨?_, ?_, ?_, ?_, ?_, ?_, ?_, ?_, ?_, ?_⟩ <;> decide +kernel

theorem witness_pairCommands :
    (let r : Req := rq 0xFFFF (pl [(12, 0)]); let s : State := idle; let u := begun r s; let p := r.payload;
      Ready pairCfgSpec r s ∧ u.pairFitted = true ∧ fld p 3 1 = 0 ∧ fld p 10 2 = 0 ∧ fld p 2 1 ≤ 3 ∧ fld p 8 2 ≤ 16383 ∧
      (1 ≤ fld p 1 1 ∧ fld p 1 1 ≤ 2 ∨ fld p 0 1 ≠ 1 ∧ fld p 1 1 = 0) ∧
      (100000 ≤ fld p 4 4 ∧ fld p 4 4 ≤ 10000000 ∨ fld p 0 1 ≠ 1 ∧ fld p 4 4 = 0) ∧ fld p 0 1 = 0) ∧
    (let r : Req := rq 0xFFFF (pl [(1, 1), (1, 1), (1, 0), (1, 0), (4, 100000), (2, 0), (2, 0)]); let s : State := idle;
      let u := begun r s; let p := r.payload; Ready pairCfgSpec r s ∧ u.pairFitted = true ∧ fld p 3 1 = 0 ∧ fld p 10 2 = 0 ∧
      fld p 2 1 ≤ 3 ∧ fld p 8 2 ≤ 16383 ∧ (1 ≤ fld p 1 1 ∧ fld p 1 1 ≤ 2 ∨ fld p 0 1 ≠ 1 ∧ fld p 1 1 = 0) ∧
      (100000 ≤ fld p 4 4 ∧ fld p 4 4 ≤ 10000000 ∨ fld p 0 1 ≠ 1 ∧ fld p 4 4 = 0) ∧ fld p 0 1 = 1 ∧
      u.inMode [.standby, .warm] = true ∧ planRules u u (configurePair p u) = true) ∧
    (let r : Req := rq 0xFFFF (pl [(1, 1), (1, 2), (1, 3), (1, 0), (4, 10000000), (2, 16383), (2, 0)]);
      let s : State := idle; let u := begun r s; let p := r.payload; Ready pairCfgSpec r s ∧ u.pairFitted = true ∧
      fld p 3 1 = 0 ∧ fld p 10 2 = 0 ∧ fld p 2 1 ≤ 3 ∧ fld p 8 2 ≤ 16383 ∧
      (1 ≤ fld p 1 1 ∧ fld p 1 1 ≤ 2 ∨ fld p 0 1 ≠ 1 ∧ fld p 1 1 = 0) ∧
      (100000 ≤ fld p 4 4 ∧ fld p 4 4 ≤ 10000000 ∨ fld p 0 1 ≠ 1 ∧ fld p 4 4 = 0) ∧ fld p 0 1 = 1 ∧
      u.inMode [.standby, .warm] = true ∧ planRules u u (configurePair p u) = true) ∧
    (let r : Req := rq 0xFFFF (pl [(1, 2), (11, 0)]); let s : State := idle; let u := begun r s; let p := r.payload;
      Ready pairCfgSpec r s ∧ u.pairFitted = true ∧ fld p 3 1 = 0 ∧ fld p 10 2 = 0 ∧ fld p 2 1 ≤ 3 ∧ fld p 8 2 ≤ 16383 ∧
      (1 ≤ fld p 1 1 ∧ fld p 1 1 ≤ 2 ∨ fld p 0 1 ≠ 1 ∧ fld p 1 1 = 0) ∧
      (100000 ≤ fld p 4 4 ∧ fld p 4 4 ≤ 10000000 ∨ fld p 0 1 ≠ 1 ∧ fld p 4 4 = 0) ∧ fld p 0 1 = 2 ∧
      u.inMode [.standby, .warm] = true) ∧
    (let r : Req := rq 0xFFFF []; let s : State := idle; let u := begun r s; Ready pairStatusSpec r s ∧ u.pairFitted = true) ∧
    (let r : Req := rq 0xFFFF (pl [(1, 1), (3, 0)]);
      let s : State := { idle with pair.phase := .paired, light.running := true, light.segs := [{ drainFrom := 0, start := 0, count := 0, tl := 1250000000 }] };
      let u := begun r s; let p := r.payload; let h := 1; Ready castleSpec r s ∧ u.pairFitted = true ∧
      (fld p 0 1 = 1 ∨ fld p 0 1 = 2) ∧ fld p 1 3 = 0 ∧ castleAllowed (fld p 0 1) u = true ∧ u.pair.castle = none ∧
      u.pair.tests = [] ∧ u.pair.deferSurvey = false ∧ nextCount u = some h) ∧
    (let r : Req := rq 0xFFFF (pl [(1, 1), (3, 0)]); let s : State := { idle with pair.phase := .paired };
      let u := begun r s; let p := r.payload; Ready castleSpec r s ∧ u.pairFitted = true ∧ (fld p 0 1 = 1 ∨ fld p 0 1 = 2) ∧
      fld p 1 3 = 0 ∧ castleAllowed (fld p 0 1) u = true ∧ u.pair.castle = none ∧ u.pair.tests = [] ∧
      u.pair.deferSurvey = false ∧ nextCount u = none) := by
  refine ⟨?_, ?_, ?_, ?_, ?_, ?_, ?_⟩ <;> decide +kernel

theorem witness_modeCommand :
    (let r : Req := rq 0xFFFF (pl [(1, 3), (1, 0), (22, 0)]); let s : State := idle; let u := begun r s; let p := r.payload;
      let m := fld p 0 1; let sets : Bool := tst (fld p 1 1) 0; Ready setModeSpec r s ∧ m ≤ 6 ∧ fld p 1 1 ≤ 3 ∧
      fld p 22 2 = 0 ∧ (sets = true → wakeBad p = false) ∧
      (u.ochreFitted = true ∨ (ochreMode m = false ∧ (sets = true → ochreMode (fld p 2 1) = false ∧ ochreMode (fld p 3 1) =
        false ∧ ochreMode (fld p 4 1) = false))) ∧ modeWrong m u = false ∧ (u.power.xtalOk = true ∨ 2 ≤ m) ∧
      u.calibrating = false ∧ modeParam m (projected u) = false ∧
      (m = 1 → u.aux.chans.toList.any (fun c => c.enabled && c.wakeEn) = true)) ∧
    (let r : Req := rq 0xFFFF (pl [(1, 1), (1, 2), (22, 0)]);
      let s : State := { idle with aux.chans := vset idle.aux.chans 7 { enabled := true, cfg := pl [(11, 0), (5, 1)] } };
      let u := begun r s; let p := r.payload; let m := fld p 0 1; let sets : Bool := tst (fld p 1 1) 0;
      Ready setModeSpec r s ∧ m ≤ 6 ∧ fld p 1 1 ≤ 3 ∧ fld p 22 2 = 0 ∧ (sets = true → wakeBad p = false) ∧
      (u.ochreFitted = true ∨ (ochreMode m = false ∧ (sets = true → ochreMode (fld p 2 1) = false ∧ ochreMode (fld p 3 1) =
        false ∧ ochreMode (fld p 4 1) = false))) ∧ modeWrong m u = false ∧ (u.power.xtalOk = true ∨ 2 ≤ m) ∧
      u.calibrating = false ∧ modeParam m (projected u) = false ∧
      (m = 1 → u.aux.chans.toList.any (fun c => c.enabled && c.wakeEn) = true)) ∧
    (let r : Req := rq 0xFFFF (pl [(1, 2), (1, 3), (1, 2), (1, 2), (1, 2), (3, 0), (4, 86400), (4, 86399), (2, 0), (2, 1),
        (2, 3600), (2, 0)]); let s : State := idle; let u := begun r s; let p := r.payload; let m := fld p 0 1;
      let sets : Bool := tst (fld p 1 1) 0; Ready setModeSpec r s ∧ m ≤ 6 ∧ fld p 1 1 ≤ 3 ∧ fld p 22 2 = 0 ∧
      (sets = true → wakeBad p = false) ∧
      (u.ochreFitted = true ∨ (ochreMode m = false ∧ (sets = true → ochreMode (fld p 2 1) = false ∧ ochreMode (fld p 3 1) =
        false ∧ ochreMode (fld p 4 1) = false))) ∧ modeWrong m u = false ∧ (u.power.xtalOk = true ∨ 2 ≤ m) ∧
      u.calibrating = false ∧ modeParam m (projected u) = false ∧
      (m = 1 → u.aux.chans.toList.any (fun c => c.enabled && c.wakeEn) = true)) ∧
    (let r : Req := rq 0xFFFF (pl [(1, 3), (1, 1), (1, 2), (1, 6), (1, 2), (3, 0), (16, 0)]); let s : State := warm;
      let u := begun r s; let p := r.payload; let m := fld p 0 1; let sets : Bool := tst (fld p 1 1) 0;
      Ready setModeSpec r s ∧ m ≤ 6 ∧ fld p 1 1 ≤ 3 ∧ fld p 22 2 = 0 ∧ (sets = true → wakeBad p = false) ∧
      (u.ochreFitted = true ∨ (ochreMode m = false ∧ (sets = true → ochreMode (fld p 2 1) = false ∧ ochreMode (fld p 3 1) =
        false ∧ ochreMode (fld p 4 1) = false))) ∧ modeWrong m u = false ∧ (u.power.xtalOk = true ∨ 2 ≤ m) ∧
      u.calibrating = false ∧ modeParam m (projected u) = false ∧
      (m = 1 → u.aux.chans.toList.any (fun c => c.enabled && c.wakeEn) = true)) := by
  refine ⟨?_, ?_, ?_, ?_⟩ <;> decide +kernel

theorem witness_queueRegisters :
    (let q : Fin 2 := 0; let v : U32 := 15; let s : State := idle; let x := getQ q.val s; s.hostUp = true ∧
      v.toNat % 65536 < 2 ^ x.sizeLog2) ∧
    (let q : Fin 2 := 1; let v : U32 := 0x10000; let s : State := idle; let x := getQ q.val s; s.hostUp = true ∧
      v.toNat % 65536 < 2 ^ x.sizeLog2) ∧
    (let q : Fin 2 := 0; let v : U32 := 16; let s : State := idle; let x := getQ q.val s; s.hostUp = true ∧
      2 ^ x.sizeLog2 ≤ v.toNat % 65536) ∧
    (let q : Fin 2 := 1; let v : U32 := 0xFFFF; let s : State := idle; let x := getQ q.val s; s.hostUp = true ∧
      2 ^ x.sizeLog2 ≤ v.toNat % 65536) ∧
    (let s : State := idle; s.hostUp = true) ∧
    (let v : U32 := 1; let s : State := idle; s.hostUp = true ∧ v.getLsbD 0 = true) ∧
    (let v : U32 := 0; let s : State := idle; s.hostUp = true ∧ v.getLsbD 0 = false) ∧
    (let q : Fin 2 := 1; let s : State := idle; let x := getQ q.val s; let y : PQueue := getQ 1 idle; s.hostUp = true ∧
      x.enable = false ∧ qIdle q.val s = true ∧ y = { x with cqPos := 0, phase := true, sqHead := 0, latched := 0 }) ∧
    (let q : Fin 2 := 0; let v : U32 := 0xC0; let s : State := idle; let x := getQ q.val s; let y : PQueue := getQ 0 idle;
      s.hostUp = true ∧ x.enable = false ∧ qIdle q.val s = true ∧
      y = { x with cqPos := 0, phase := true, sqHead := 0, latched := 0 } ∧ v.toNat / 16 % 16 ≠ x.sizeLog2 ∧
      4 ≤ v.toNat / 16 % 16 ∧ v.toNat / 16 % 16 ≤ 12) ∧
    (let q : Fin 2 := 0; let v : U32 := 0x40; let s : State := setQ 0 { sizeLog2 := 12 } idle; let x := getQ q.val s;
      let y : PQueue := { sizeLog2 := 12 }; s.hostUp = true ∧ x.enable = false ∧ qIdle q.val s = true ∧
      y = { x with cqPos := 0, phase := true, sqHead := 0, latched := 0 } ∧ v.toNat / 16 % 16 ≠ x.sizeLog2 ∧
      4 ≤ v.toNat / 16 % 16 ∧ v.toNat / 16 % 16 ≤ 12) ∧
    (let q : Fin 2 := 0; let v : U32 := 0x30; let s : State := idle; let x := getQ q.val s; let y : PQueue := getQ 0 idle;
      s.hostUp = true ∧ x.enable = false ∧ qIdle q.val s = true ∧
      y = { x with cqPos := 0, phase := true, sqHead := 0, latched := 0 } ∧ v.toNat / 16 % 16 ≠ x.sizeLog2 ∧
      (v.toNat / 16 % 16 < 4 ∨ 12 < v.toNat / 16 % 16)) ∧
    (let q : Fin 2 := 1; let v : U32 := 0xD0; let s : State := idle; let x := getQ q.val s; let y : PQueue := getQ 1 idle;
      s.hostUp = true ∧ x.enable = false ∧ qIdle q.val s = true ∧
      y = { x with cqPos := 0, phase := true, sqHead := 0, latched := 0 } ∧ v.toNat / 16 % 16 ≠ x.sizeLog2 ∧
      (v.toNat / 16 % 16 < 4 ∨ 12 < v.toNat / 16 % 16)) ∧
    (let q : Fin 2 := 1; let v : U32 := 0x40; let s : State := setQ 1 { enable := true } idle; let x := getQ q.val s;
      s.hostUp = true ∧ v.toNat / 16 % 16 = x.sizeLog2) ∧
    (let q : Fin 2 := 0; let reg : QueueReg := .size; let v : U32 := 0xC0; let s : State := setQ 0 { enable := true } idle;
      let x := getQ q.val s; s.hostUp = true ∧ (x.enable = true ∨ qIdle q.val s = false) ∧
      (reg = .size → v.toNat / 16 % 16 ≠ x.sizeLog2)) ∧
    (let q : Fin 2 := 0; let reg : QueueReg := .sqBaseLo; let v : U32 := 0;
      let s : State := { idle with cmd.fetched := [got] }; let x := getQ q.val s; s.hostUp = true ∧
      (x.enable = true ∨ qIdle q.val s = false) ∧ (reg = .size → v.toNat / 16 % 16 ≠ x.sizeLog2)) := by
  refine ⟨?_, ?_, ?_, ?_, ?_, ?_, ?_, ?_, ?_, ?_, ?_, ?_, ?_, ?_, ?_⟩ <;> decide +kernel

theorem witness_controlRegisters :
    (let s : State := idle; s.hostUp = true) ∧
    (let v : U32 := 64; let s : State := idle; s.hostUp = true ∧ v.toNat % 128 ≤ 64) ∧
    (let off : Nat := 0x204; let size : Nat := 2; let s : State := idle; s.hostUp = true ∧ (size ≠ 4 ∨ off % 4 ≠ 0)) ∧
    (let off : Nat := 0x206; let size : Nat := 4; let s : State := idle; s.hostUp = true ∧ (size ≠ 4 ∨ off % 4 ≠ 0)) := by
  refine ⟨?_, ?_, ?_, ?_⟩ <;> decide +kernel

theorem witness_eventPort :
    (let t : Ps := 0; let parity : Bool := false; let s : State := { idle with evq.items := [anItem] }; let u := s.adv t;
      let it := anItem; let w := 0x1234; s.hostUp = true ∧ s.evq.fwdOn = false ∧ s.evq.items[s.evq.rdItem]? = some it ∧
      it.doneAt ≤ u.cycle ∧ it.words[s.evq.rdWord]? = some w ∧ parity = false ∧ it.poison[s.evq.rdWord]? = some false) ∧
    (let t : Ps := 0; let parity : Bool := false; let s : State := { idle with evq.items := [anItem], evq.rdWord := 1 };
      let u := s.adv t; let it := anItem; let w := 0x5678; s.hostUp = true ∧ s.evq.fwdOn = false ∧
      s.evq.items[s.evq.rdItem]? = some it ∧ it.doneAt ≤ u.cycle ∧ it.words[s.evq.rdWord]? = some w ∧ parity = false ∧
      it.poison[s.evq.rdWord]? = some false) ∧
    (let t : Ps := 0; let s : State := idle; let u := s.adv t; s.hostUp = true ∧
      (s.evq.fwdOn = true ∨ ∀ it, s.evq.items[s.evq.rdItem]? = some it → u.cycle < it.doneAt)) ∧
    (let s : State := idle; s.hostUp = true) ∧
    (let s : State := idle; s.hostUp = true ∧ s.evq.fwdOn = false) ∧
    (let s : State := { idle with evq.items := [anItem] }; s.evq.used ≤ 64) ∧
    (let body : List Byte := List.replicate 24 7; let s : State := idle; let n := cdiv body.length 8 + 1;
      let q := s.evq.forwarded s.cycle; n ≤ q.free s.cycle) ∧
    (let body : List Byte := List.replicate 24 7; let s : State := { idle with evq.items := List.replicate 31 anItem };
      let n := cdiv body.length 8 + 1; let q := s.evq.forwarded s.cycle; q.free s.cycle < n) := by
  refine ⟨?_, ?_, ?_, ?_, ?_, ?_, ?_, ?_⟩
  · decide +kernel
  · decide +kernel
  · exact ⟨by decide +kernel, Or.inr (fun it h => by cases h)⟩
  · decide +kernel
  · decide +kernel
  · decide +kernel
  · decide +kernel
  · decide +kernel

theorem witness_linksAndSmbus :
    (let key : List Byte := List.replicate 32 7; let s : State := idle; s.poweredUp = true ∧ key.length = 32) ∧
    (let v : U16 := 1; let s : State := idle; s.poweredUp = true ∧ v.getLsbD 0 = true) ∧
    (let s : State := idle; s.poweredUp = true) ∧
    (let s : State := { idle with link.boardStage := withCrc (List.replicate 124 7) }; s.poweredUp = true ∧
      s.link.boardWriting = none ∧ fld s.link.boardStage 124 4 = (crc32c (s.link.boardStage.take 124)).toNat) ∧
    (let s : State := { idle with link.boardStage := [7] }; s.poweredUp = true ∧ s.link.boardWriting = none ∧
      fld s.link.boardStage 124 4 ≠ (crc32c (s.link.boardStage.take 124)).toNat) ∧
    (let s : State := { idle with link.boardWriting := some [] }; let w := ([] : List Byte); s.poweredUp = true ∧
      s.link.boardWriting = some w) ∧
    (let s : State := idle; s.poweredUp = true) ∧
    (let s : State := { idle with link.perstN := false }; s.poweredUp = true ∧ s.link.perstN = false ∧
      s.power.mode = .standby) := by
  refine ⟨?_, ?_, ?_, ?_, ?_, ?_, ?_, ?_⟩
  · decide +kernel
  · decide +kernel
  · decide +kernel
  · refine ⟨by decide +kernel, by decide +kernel, ?_⟩
    exact (check_read (List.replicate 124 7)).trans (by simp [withCrc])
  · decide +kernel
  · decide +kernel
  · decide +kernel
  · decide +kernel

theorem witness_transportEvents :
    (let t : Ps := 0; let q : Fin 2 := 1; let s : State := setQ 1 { enable := true, tail := 15 } idle; let u := s.adv t;
      mayFetch q.val u = true) ∧
    (let t : Ps := 0; let port : Fin 2 := 1; let s : State := idle; let u := s.adv t; udpLost u = false ∧
      ipUp port.val u = true ∧ u.cmd.recovery = none ∧ u.mgmt.down = false) ∧
    (let t : Ps := 0; let port : Fin 2 := 0; let s : State := { idle with cmd.recovery := some default }; let u := s.adv t;
      udpLost u = false ∧ ipUp port.val u = true ∧ (u.cmd.recovery.isSome = true ∨ u.mgmt.down = true)) ∧
    (let t : Ps := 10000000000; let id : Nat := 5; let urgent : Bool := true;
      let s : State := { idle with cmd.sources := [{ id := 5, used := 0, urgent := { expect := some 1, held := [(0, got)] } }] };
      let u := s.adv t; let h := (0, got); let rest := ([] : List (Ps × Fetched)); (udpQ id urgent u).held = h :: rest ∧
      h.1 + 10000000000 ≤ u.now ∧ u.cmd.recovery = none ∧ u.pathDown = false) ∧
    (let t : Ps := 0; let s : State := idle; let u := s.adv t; s.hostUp = true ∧ u.pathDown = false ∧ u.cmd.recovery = none) ∧
    (let t : Ps := 0; let s : State := { idle with cmd.recovery := some default }; let u := s.adv t; s.hostUp = true ∧
      u.pathDown = false ∧ u.cmd.recovery.isSome = true) ∧
    (let t : Ps := 100000000; let src : Source := .pcie 0;
      let s : State := { idle with cmd.held := [{ req := got, first := 0, tried := 0 }] }; let u := s.adv t;
      let h := ({ req := got, first := 0, tried := 0 } : HeldCmd); heldOf src u = some h ∧ u.pathDown = false ∧
      u.cmd.recovery = none ∧ u.cmd.mirror = none ∧ h.tried + 100000000 ≤ u.now) ∧
    (let t : Ps := 100000000000; let src : Source := .pcie 0;
      let s : State := { idle with cmd.held := [{ req := got, first := 0, tried := 0 }] }; let u := s.adv t;
      let h := ({ req := got, first := 0, tried := 0 } : HeldCmd); heldOf src u = some h ∧ u.pathDown = false ∧
      u.cmd.recovery = none ∧ h.first + 100000000000 ≤ u.now) ∧
    (let r : Req := rq 0xFFFF []; let s : State := { idle with pair.phase := .paired, pair.role := 1 };
      (arrived r s).pathDown = false ∧ (arrived r s).inPair = true) ∧
    (let r : Req := rq 0xFFFF [];
      let s : State := { idle with pair.phase := .paired, pair.role := 1, cmd.recovery := some default };
      (arrived r s).pathDown = false ∧ (arrived r s).inPair = true ∧ (arrived r s).cmd.recovery.isSome = true) ∧
    (let t : Ps := 0; let s : State := { idle with cmd.mirror := some { req := got, reply := aReply, sent := 0 } };
      let u := s.adv t; let m := ({ req := got, reply := aReply, sent := 0 } : MirrorWait); u.cmd.mirror = some m ∧
      u.pathDown = false) ∧
    (let t : Ps := 50000000; let s : State := { idle with cmd.mirror := some { req := got, reply := aReply, sent := 0 } };
      let u := s.adv t; let m := ({ req := got, reply := aReply, sent := 0 } : MirrorWait); u.cmd.mirror = some m ∧
      u.pathDown = false ∧ m.sent + 50000000 ≤ u.now) ∧
    (let t : Ps := 0; let s : State := { idle with cmd.recovery := some default }; let u := s.adv t;
      let x := (default : RecoveryRec); u.pathDown = false ∧ u.cmd.recovery = some x) ∧
    (let t : Ps := 0; let cause : Byte := 5; let unit : U16 := 0xFFFF; let s : State := idle; let u := s.adv t;
      let x := (startRecovery cause unit [] u).cmd.recovery.getD default; u.pathDown = false ∧ u.cmd.recovery = none ∧
      cause.toNat ≤ 5 ∧ (startRecovery cause unit [] u).cmd.recovery = some x) ∧
    (let t : Ps := 0; let cause : Byte := 6; let s : State := idle; let u := s.adv t; u.pathDown = false ∧
      u.cmd.recovery = none ∧ 5 < cause.toNat) := by
  refine ⟨?_, ?_, ?_, ?_, ?_, ?_, ?_, ?_, ?_, ?_, ?_, ?_, ?_, ?_, ?_⟩ <;> decide +kernel

theorem witness_lineEvents :
    (let s : State := { warm with light.running := true }; s.light.running = true ∧ s.light.draining = false ∧
      waitsForEdge s = false ∧ s.light.nextSlot = 0) ∧
    (let s : State := { warm with light.running := true, light.nextSlot := 7 }; s.light.running = true ∧
      s.light.draining = false ∧ waitsForEdge s = false ∧ s.light.nextSlot ≠ 0) ∧
    (let s : State := { warm with fibre.gambit := some { ports := [1], range := 1250, tag := 1, back := 1, entry := false, on := 1 } };
      let g := ({ ports := [1], range := 1250, tag := 1, back := 1, entry := false, on := 1 } : Gambit);
      s.light.running = false ∧ s.fibre.gambit = some g ∧ surveying s = true ∧ s.light.switching = none) ∧
    (let s : State := draining; let g := ({ drainFrom := 0, start := 5, count := 1, tl := 1250000000 } : Seg);
      let rest := ([] : List Seg);
      let w := (let x := draining.adv draining.light.nextAt; beginSteps x.now (restartAcc (restartAllSlots
        { x with light.draining := false })));
      w = (let x := s.adv s.light.nextAt; beginSteps x.now (restartAcc (restartAllSlots
        { x with light.draining := false }))) ∧ s.light.draining = true ∧ w.light.segs = g :: rest) ∧
    (let s : State := draining; let g := ({ drainFrom := 0, start := 5, count := 1, tl := 1250000000 } : Seg);
      let rest := ([] : List Seg);
      let w := (let x := draining.adv draining.light.nextAt; beginSteps x.now (restartAcc (restartAllSlots
        { x with light.draining := false })));
      w = (let x := s.adv s.light.nextAt; beginSteps x.now (restartAcc (restartAllSlots
        { x with light.draining := false }))) ∧ s.light.draining = true ∧ w.light.segs = g :: rest ∧ s.cal.run = none) ∧
    (let s : State := { warm with light.switching := some (2, 5) }; let w := ((2, 5) : Nat × Ps); s.light.switching = some w) ∧
    (let s : State := warm; s.light.switching = none) ∧
    (let r : LaunchRec := aLaunch; let s : State := { warm with light.inflight := [aLaunch] };
      (s.light.inflight.find? (fun x => !x.ochre) = some r)) ∧
    (let r : LaunchRec := { aLaunch with ochre := true };
      let s : State := { warm with light.inflight := [aLaunch, { aLaunch with ochre := true }] };
      (s.light.inflight.find? (fun x => x.ochre) = some r)) ∧
    (let s : State := { warm with ochre.acc := { done := 65536 } }; s.ochre.cfg.acc ≤ s.ochre.acc.done) ∧
    (let t : Ps := 0;
      let s : State := { warm with ochre.ready := some { acc := {}, fits := [], starts := [], coilFit := none, coil := none, cfg := {} } };
      let u := s.adv t;
      let w := ({ acc := {}, fits := [], starts := [], coilFit := none, coil := none, cfg := {} } : OchreReady);
      u.ochre.ready = some w) ∧
    (let t : Ps := 5;
      let s : State := { warm with indigo.raw := some { tap := 4, slots := 0, first := 0, count := 1, lines := 1, start := none, startAt := 5, bytes := 8, handle := 0 } };
      let u := s.adv t;
      let c := ({ tap := 4, slots := 0, first := 0, count := 1, lines := 1, start := none, startAt := 5, bytes := 8, handle := 0 } : RawCapture);
      u.indigo.raw = some c ∧ (c.tap = 0 ∨ c.tap = 4) ∧ c.startAt ≤ u.now) := by
  refine ⟨?_, ?_, ?_, ?_, ?_, ?_, ?_, ?_, ?_, ?_, ?_, ?_⟩ <;> decide +kernel

theorem witness_lightEvents :
    (let s : State := idle; s.power.sleeping = false) ∧
    (let diff : Int := 5001; let ch : Fin 8 := 2; let s : State := gated; (vget s.light.ldc ch.val).enabled = true ∧
      shortLimit (vget s.light.ldc ch.val) < (diff.natAbs : Rat)) ∧
    (let diff : Int := -5000; let ch : Fin 8 := 2; let s : State := gated;
      (vget s.light.ldc ch.val).enabled = false ∨ (diff.natAbs : Rat) ≤ shortLimit (vget s.light.ldc ch.val)) ∧
    (let diff : Int := 5001; let ch : Fin 8 := 2; let s : State := idle;
      (vget s.light.ldc ch.val).enabled = false ∨ (diff.natAbs : Rat) ≤ shortLimit (vget s.light.ldc ch.val)) ∧
    (let t : Ps := 0; let s : State := gated; let u := s.adv t; (vget s.light.ldc 2).enabled = true ∧
      (gatePulses u).any (20000 ≤ ·) = true) ∧
    (let t : Ps := 0; let s : State := { gated with light.plan.pulse := true, light.plan.pulseLen := 20 }; let u := s.adv t;
      (vget s.light.ldc 2).enabled = true ∧ (gatePulses u).any (20000 ≤ ·) = true) ∧
    (let t : Ps := 0; let s : State := { gated with light.plan.pulse := true, light.plan.pulseLen := 19 }; let u := s.adv t;
      (gatePulses u).any (20000 ≤ ·) = false) ∧
    (let t : Ps := 0; let pass : Bool := true;
      let s : State := { gated with light.plan.pulse := true, light.plan.pulseLen := 19, light.probeCount := 1024 };
      let u := s.adv t; (vget s.light.ldc 2).enabled = true ∧ (gatePulses u).any (· < 20000) = true ∧
      (allDark u = true ∨ 1024 ≤ s.light.probeCount) ∧ pass = true ∧ allDark u = false) ∧
    (let t : Ps := 0; let pass : Bool := true;
      let s : State := { gated with light.plan.pulse := true, light.plan.pulseLen := 19, indigo.dark := 1 };
      let u := s.adv t; (vget s.light.ldc 2).enabled = true ∧ (gatePulses u).any (· < 20000) = true ∧
      (allDark u = true ∨ 1024 ≤ s.light.probeCount) ∧ pass = true ∧ allDark u = true) ∧
    (let t : Ps := 0; let pass : Bool := false;
      let s : State := { gated with light.plan.pulse := true, light.plan.pulseLen := 19, indigo.dark := 1 };
      let u := s.adv t; (vget s.light.ldc 2).enabled = true ∧ (gatePulses u).any (· < 20000) = true ∧
      (allDark u = true ∨ 1024 ≤ s.light.probeCount) ∧ pass = false ∧ allDark u = true) ∧
    (let t : Ps := 0; let pass : Bool := false;
      let s : State := { { gated with light.plan.pulse := true, light.plan.pulseLen := 19, light.probeCount := 1024 } with light.probeStreak := 1 };
      let u := s.adv t; let n := s.light.probeStreak; (vget s.light.ldc 2).enabled = true ∧
      (gatePulses u).any (· < 20000) = true ∧ (allDark u = true ∨ 1024 ≤ s.light.probeCount) ∧ pass = false ∧
      allDark u = false ∧ 1 ≤ n) ∧
    (let t : Ps := 0; let pass : Bool := false;
      let s : State := { gated with light.plan.pulse := true, light.plan.pulseLen := 19, light.probeCount := 1024 };
      let u := s.adv t; let n := s.light.probeStreak; (vget s.light.ldc 2).enabled = true ∧
      (gatePulses u).any (· < 20000) = true ∧ (allDark u = true ∨ 1024 ≤ s.light.probeCount) ∧ pass = false ∧
      allDark u = false ∧ n = 0) ∧
    (let t : Ps := 0; let s : State := { gated with light.probeCount := 1023 }; let u := s.adv t; allDark u = false ∧
      s.light.probeCount < 1024) := by
  refine ⟨?_, ?_, ?_, ?_, ?_, ?_, ?_, ?_, ?_, ?_, ?_, ?_, ?_⟩ <;> decide +kernel

theorem witness_receiverEvents :
    (let s : State := idle; s.ochre.sideLost = false) ∧
    (let s : State := { idle with ochre.sideLost := true }; s.ochre.sideLost = true) ∧
    (let s : State := idle; s.indigo.refLost = false) ∧
    (let s : State := { idle with indigo.refLost := true }; s.indigo.refLost = true) ∧
    (let pass : Bool := true; let lane : Fin 9 := 8;
      let s : State := { warm with indigo.suspect := some { slot := 0, old := 0, spare := 8, stage := .spareTest } };
      let q := ({ slot := 0, old := 0, spare := 8, stage := .spareTest } : LaneSuspect); s.indigo.suspect = some q ∧
      q.stage = .spareTest ∧ lane.val = q.spare ∧ pass = true) ∧
    (let pass : Bool := true; let lane : Fin 9 := 0;
      let s : State := { warm with indigo.suspect := some { slot := 0, old := 0, spare := 8, stage := .oldTest } };
      let q := ({ slot := 0, old := 0, spare := 8, stage := .oldTest } : LaneSuspect); s.indigo.suspect = some q ∧
      q.stage = .oldTest ∧ lane.val = q.old ∧ pass = true) ∧
    (let pass : Bool := false; let lane : Fin 9 := 0;
      let s : State := { warm with indigo.suspect := some { slot := 0, old := 0, spare := 8, stage := .oldTest } };
      let q := ({ slot := 0, old := 0, spare := 8, stage := .oldTest } : LaneSuspect); s.indigo.suspect = some q ∧
      q.stage = .oldTest ∧ lane.val = q.old ∧ pass = false) := by
  refine ⟨?_, ?_, ?_, ?_, ?_, ?_, ?_⟩ <;> decide +kernel

theorem witness_surveyAndCalibrationEvents :
    (let t : Ps := 0;
      let s : State := { warm with fibre.gambit := some { ports := [1, 2], range := 1250, tag := 1, back := 1, entry := true, on := 1 } };
      let u := s.adv t; let g := ({ ports := [1, 2], range := 1250, tag := 1, back := 1, entry := true, on := 1 } : Gambit);
      let port := 1; let rest := [2]; s.fibre.gambit = some g ∧ g.item = none ∧ g.ports = port :: rest ∧
      s.light.switching = none ∧ u.now ≤ g.since + 30000000000000) ∧
    (let t : Ps := 30000000000000;
      let s : State := { warm with fibre.gambit := some { ports := [1, 2], range := 1250, tag := 1, back := 1, entry := true, on := 1 } };
      let u := s.adv t; let g := ({ ports := [1, 2], range := 1250, tag := 1, back := 1, entry := true, on := 1 } : Gambit);
      let port := 1; let rest := [2]; s.fibre.gambit = some g ∧ g.item = none ∧ g.ports = port :: rest ∧
      s.light.switching = none ∧ u.now ≤ g.since + 30000000000000) ∧
    (let t : Ps := 30000000000000;
      let s : State := { warm with fibre.gambit := some { ports := [1, 2], range := 1250, tag := 1, back := 1, entry := true, on := 1 } };
      let u := s.adv t; let g := ({ ports := [1, 2], range := 1250, tag := 1, back := 1, entry := true, on := 1 } : Gambit);
      let port := 1; let rest := [2]; s.fibre.gambit = some g ∧ g.item = none ∧ g.ports = port :: rest ∧
      g.since + 30000000000000 ≤ u.now) ∧
    (let t : Ps := 30000000000001;
      let s : State := { warm with fibre.gambit := some { ports := [1, 2], range := 1250, tag := 1, back := 1, entry := true, on := 1 } };
      let u := s.adv t; let g := ({ ports := [1, 2], range := 1250, tag := 1, back := 1, entry := true, on := 1 } : Gambit);
      let port := 1; let rest := [2]; s.fibre.gambit = some g ∧ g.item = none ∧ g.ports = port :: rest ∧
      g.since + 30000000000000 < u.now) ∧
    (let t : Ps := 29999999999999;
      let s : State := { warm with fibre.gambit := some { ports := [1, 2], range := 1250, tag := 1, back := 1, entry := true, on := 1 } };
      let u := s.adv t; let g := ({ ports := [1, 2], range := 1250, tag := 1, back := 1, entry := true, on := 1 } : Gambit);
      let port := 1; let rest := [2]; s.fibre.gambit = some g ∧ g.item = none ∧ g.ports = port :: rest ∧
      u.now < g.since + 30000000000000) ∧
    (let port := 1; (port = 1 ∨ port = 2)) ∧
    (let port := 2; (port = 1 ∨ port = 2)) ∧
    (let s : State := { warm with cal.run := some aRun }; let r := aRun; let k := 6; let rest := ([] : List Nat);
      s.cal.run = some r ∧ r.started = true ∧ s.cmd.recovery = none ∧ r.todo = k :: rest) ∧
    (let k := 6; k < 7) ∧
    (let s : State := warm; let k := 6; k < 7 ∧ (vget s.cal.crossed k).1 ≠ s.cycle + 1) ∧
    (let s : State := { warm with cal.crossed := vset warm.cal.crossed 6 (1, true) }; let k := 6; k < 7 ∧
      (vget s.cal.crossed k).1 = s.cycle + 1) ∧
    (let t : Ps := 0; let step : Fin 7 := 1; let value : Int := 201; let s : State := warm; let u := s.adv t;
      s.inMode [.warm, .acoustic, .survey, .full] = true ∧ driftPasses step.val value u = true) ∧
    (let t : Ps := 0; let step : Fin 7 := 0; let value : Int := -1501;
      let s : State := { warm with cal.steps := vset warm.cal.steps 0 { st := 1 } }; let u := s.adv t;
      s.inMode [.warm, .acoustic, .survey, .full] = true ∧ driftPasses step.val value u = true) ∧
    (let t : Ps := 0; let step : Fin 7 := 1; let value : Int := 200; let s : State := warm; let u := s.adv t;
      (s.inMode [.warm, .acoustic, .survey, .full] = false ∨ driftPasses step.val value u = false)) ∧
    (let t : Ps := 0; let step : Fin 7 := 1; let value : Int := 201; let s : State := idle; let u := s.adv t;
      (s.inMode [.warm, .acoustic, .survey, .full] = false ∨ driftPasses step.val value u = false)) := by
  refine ⟨?_, ?_, ?_, ?_, ?_, ?_, ?_, ?_, ?_, ?_, ?_, ?_, ?_, ?_, ?_⟩ <;> decide +kernel

theorem witness_inputAndAlarmEvents :
    (let s : State := { idle with power.sleeping := true }; s.power.sleeping = true) ∧
    (let t : Ps := 9999; let pin4 : Fin 4 := 3; let rising : Bool := true;
      let s : State := { warm with alarm.accept := vset warm.alarm.accept 3 (some 0) }; let u := s.adv t;
      let v := lockTin pin4.val rising (timFeed pin4.val (!rising) u.now
        { u with alarm.level := vset s.alarm.level pin4.val rising }); s.power.sleeping = false ∧
      ((vget v.alarm.accept pin4.val).any (fun a => decide (v.now < a + 10000)) = true)) ∧
    (let t : Ps := 10000; let pin4 : Fin 4 := 3; let rising : Bool := true;
      let s : State := { warm with alarm.accept := vset warm.alarm.accept 3 (some 0) }; let u := s.adv t;
      let v := lockTin pin4.val rising (timFeed pin4.val (!rising) u.now
        { u with alarm.level := vset s.alarm.level pin4.val rising }); s.power.sleeping = false ∧
      ((vget v.alarm.accept pin4.val).any (fun a => decide (v.now < a + 10000)) = false)) ∧
    (let t : Ps := 0; let pin4 : Fin 4 := 0; let rising : Bool := false; let s : State := idle; let u := s.adv t;
      let v := lockTin pin4.val rising (timFeed pin4.val (!rising) u.now
        { u with alarm.level := vset s.alarm.level pin4.val rising }); s.power.sleeping = false ∧
      ((vget v.alarm.accept pin4.val).any (fun a => decide (v.now < a + 10000)) = false)) ∧
    (let code : Byte := 0x30; let s : State := idle; s.power.sleeping = false ∧ timSource code.toNat = true) ∧
    (let t : Ps := 1000000000000; let s : State := { warm with lock.phase := 1, lock.nEdges := 256 }; let u := s.adv t;
      s.lock.phase = 1 ∧ s.lock.nEdges ≤ 256 ∧ s.lock.since + 1000000000000 ≤ u.now) ∧
    (let t : Ps := 25; let s : State := { warm with lock.phase := 2, lock.edges := [0], lock.pBar := 10 }; let u := s.adv t;
      let e := (0 : Ps); let es := ([] : List Ps); s.lock.phase = 2 ∧ s.lock.edges = e :: es ∧
      2 * e + 5 * s.lock.pBar ≤ 2 * u.now ∧ s.lock.lostTold = false) ∧
    (let k : Fin 8 := 7; let s : State := setPin 7 { mode := 1, asserted := true } idle; (pin s k.val).mode = 1 ∧
      (pin s k.val).asserted = true) ∧
    (let k : Fin 8 := 7; let s : State := setPin 7 { mode := 1, asserted := true } idle; let e := (pin s k.val).endAt;
      (pin s k.val).mode = 1 ∧ (pin s k.val).asserted = true ∧ s.alarm.due = [] ∧ s.alarm.frame = none ∧
      (∀ j : Fin 8, j ≠ k → (pin s j.val).mode ≠ 1 ∨ (pin s j.val).asserted = false ∨ e < (pin s j.val).endAt)) ∧
    (let s : State := { idle with alarm.frame := some 5 }; let e := (5 : Ps); s.alarm.frame = some e) ∧
    (let s : State := { idle with alarm.frame := some 5, alarm.queue := [1] }; let e := (5 : Ps); let w := (1 : U32);
      let rest := ([] : List U32); s.alarm.frame = some e ∧ s.alarm.due = [] ∧
      (∀ j : Fin 8, (pin s j.val).mode ≠ 1 ∨ (pin s j.val).asserted = false ∨ e < (pin s j.val).endAt) ∧
      s.alarm.queue = w :: rest) ∧
    (let s : State := { idle with alarm.frame := some 5 }; let e := (5 : Ps); s.alarm.frame = some e ∧ s.alarm.due = [] ∧
      (∀ j : Fin 8, (pin s j.val).mode ≠ 1 ∨ (pin s j.val).asserted = false ∨ e < (pin s j.val).endAt) ∧ s.alarm.queue = []) ∧
    (let s : State := { idle with link.holdoffEnd := some 5 }; let e := (5 : Ps); s.link.holdoffEnd = some e ∧
      s.link.holdoffHit = false) ∧
    (let s : State := { idle with link.holdoffEnd := some 5, link.holdoffHit := true, link.holdoff := 1 }; let e := (5 : Ps);
      s.link.holdoffEnd = some e ∧ s.link.holdoffHit = true ∧ s.link.holdoff ≠ 0) := by
  refine ⟨?_, ?_, ?_, ?_, ?_, ?_, ?_, ?_, ?_, ?_, ?_, ?_, ?_, ?_⟩ <;> decide +kernel

theorem witness_zoneCoreEvents :
    (let c : Fin 32 := 31; let s : State := coreIs { bus := [aSample], buffer := List.replicate 63 aSample };
      let x := core s c.val; let m := aSample; let rest := ([] : List Sample); x.bus = m :: rest ∧ x.buffer.length < 64) ∧
    (let c : Fin 32 := 31; let s : State := coreIs { bus := [aSample], buffer := List.replicate 64 aSample };
      let x := core s c.val; let m := aSample; let rest := ([] : List Sample); x.bus = m :: rest ∧ 64 ≤ x.buffer.length) ∧
    (let c : Fin 32 := 31;
      let s : State := coreIs
        { inv := some aSample, cycles := 9, bindings := [{ ctx := 0, entry := 0, mask := 8, budget := 9, histLen := 0, histBase := 0, stateBase := 0, stateLen := 0, histY := false, stateY := false, pos := 0, size := 1, nLocal := 1 }] };
      let x := core s c.val; let m := aSample; x.inv = some m ∧ x.rep = 0 ∧ x.budget ≤ x.cycles) ∧
    (let k : Fin 256 := 255;
      let s : State := modCtx 255 (fun y => { y with jobs := [{ line := aLine, bits := [none, some 3] }] }) warm;
      let j := ({ line := aLine, bits := [none, some 3] } : CtxJob); let rest := ([] : List CtxJob); let r := 0;
      (ctx s k.val).jobs = j :: rest ∧ ((List.range j.bits.length).find? (fun r => (j.bits[r]?).getD none = none) = some r)) ∧
    (let k : Fin 256 := 255;
      let s : State := modCtx 255 (fun y => { y with jobs := [{ line := aLine, bits := [some 3, none] }] }) warm;
      let j := ({ line := aLine, bits := [some 3, none] } : CtxJob); let rest := ([] : List CtxJob); let r := 1;
      (ctx s k.val).jobs = j :: rest ∧ ((List.range j.bits.length).find? (fun r => (j.bits[r]?).getD none = none) = some r)) ∧
    (let k : Fin 256 := 255;
      let s : State := coreIs
        { state := .running, bindings := [{ aBinding with ctx := 255, mask := 2 ^ 31 }], inv := some { aSample with ctx := 255 } };
      let d := 31; let m := { aSample with ctx := 255 }; (ctx s k.val).jobs = [] ∧ oldestSample s k.val = some (d, m)) ∧
    (let k : Fin 256 := 255; let s : State := idle;
      ((ctx s k.val).jobs = [] ∧ oldestSample s k.val = none ∨ ∃ j rest, (ctx s k.val).jobs = j :: rest ∧ ∀ r <
        j.bits.length, (j.bits[r]?).getD none ≠ none)) ∧
    (let c : Fin 32 := 31; let s : State := coreIs { state := .running }; let x := core s c.val; x.state ≠ .retired) ∧
    (let c : Fin 32 := 31; let s : State := coreIs { state := .empty }; let x := core s c.val; x.state ≠ .retired) ∧
    (let c : Fin 32 := 31; let s : State := coreIs { state := .stopped, retireDue := true }; let x := core s c.val;
      x.retireDue = true ∧ x.state ≠ .retired) ∧
    (let t : Ps := 5; let c : Fin 32 := 31;
      let s : State := coreIs { state := .stopped, backAt := some 5, bindings := [aBinding] }; let u := s.adv t;
      let x := core s c.val; let b := (5 : Ps); x.backAt = some b ∧ x.state = .stopped ∧ x.bindings ≠ [] ∧ b ≤ u.now) ∧
    (let c : Fin 32 := 31; let s : State := coreIs { state := .stopped, backAt := some 5 }; let x := core s c.val;
      x.bindings = []) := by
  refine ⟨?_, ?_, ?_, ?_, ?_, ?_, ?_, ?_, ?_, ?_, ?_, ?_⟩
  · decide +kernel
  · decide +kernel
  · decide +kernel
  · decide +kernel
  · decide +kernel
  · decide +kernel
  · exact Or.inl (by decide +kernel)
  · decide +kernel
  · decide +kernel
  · decide +kernel
  · decide +kernel
  · decide +kernel

theorem witness_streamEvents :
    (let t : Ps := 0; let handle : U32 := 0x4000; let s : State := holding { aRecord with phase := .measuring };
      let u := s.adv t; let r := { aRecord with phase := .measuring }; findRec handle.toNat u = some r ∧ r.readBack = false ∧
      r.phase = .measuring ∧ r.ctx ≠ 256) ∧
    (let t : Ps := 0; let handle : U32 := 0x4000; let s : State := holding { aRecord with phase := .capture };
      let u := s.adv t; let r := { aRecord with phase := .capture }; findRec handle.toNat u = some r ∧ r.readBack = false ∧
      r.phase = .capture ∧ r.ctx ≠ 256) ∧
    (let k : Nat := 256; let s : State := streaming 256 { opened := [7] }; let x := (7 : Ps);
      let v := s.adv (x + (stream s k).maxAge * 1000000000); (stream s k).opened.head? = some x ∧ lineInProgress v k = none) ∧
    (let k : Nat := 0; let s : State := modStream 0 (fun _ => { opened := [0] }) midLine; let x := (0 : Ps);
      let v := s.adv (x + (stream s k).maxAge * 1000000000); (stream s k).opened.head? = some x ∧
      (lineInProgress v k).isSome = true) ∧
    (let t : Ps := 0; let k : Nat := 256; let s : State := idle; let u := s.adv t; k ≤ 256 ∧ (stream u k).waiting = []) ∧
    (let t : Ps := 0; let consumer : U32 := 0; let k : Nat := 256;
      let s : State := streaming 256 { transport := 1, ringSlots := 16, producer := 15, waiting := [aBlock] };
      let u := s.adv t; let b := aBlock; let rest := ([] : List Block); let x := stream u k;
      let full (c : U32) : Prop := x.ringSlots ≤ (x.producer - c).toNat; k ≤ 256 ∧ (stream u k).waiting = b :: rest ∧
      (stream u k).transport = 1 ∧ (¬ full x.consumer ∨ ¬ full consumer) ∧ u.hostUp = true) ∧
    (let t : Ps := 0; let consumer : U32 := 0; let k : Nat := 0;
      let s : State := streaming 0 { transport := 1, ringSlots := 16, producer := 16, waiting := [aBlock] };
      let u := s.adv t; let b := aBlock; let rest := ([] : List Block); let x := stream u k;
      let full (c : U32) : Prop := x.ringSlots ≤ (x.producer - c).toNat; k ≤ 256 ∧ (stream u k).waiting = b :: rest ∧
      (stream u k).transport = 1 ∧ (u.hostUp = false ∨ (full x.consumer ∧ full consumer)) ∧ b.pastDrops = none) ∧
    (let t : Ps := 0; let k : Nat := 256; let room : Bool := true;
      let s : State := streaming 256 { transport := 3, waiting := [aBlock] }; let u := s.adv t; let b := aBlock;
      let rest := ([] : List Block); let x := stream u k; k ≤ 256 ∧ (stream u k).waiting = b :: rest ∧
      (stream u k).transport ≠ 1 ∧ room = true ∧ ethUp u x.transport = true) ∧
    (let t : Ps := 0; let k : Nat := 0; let room : Bool := false;
      let s : State := streaming 0 { transport := 2, waiting := [aBlock] }; let u := s.adv t; let b := aBlock;
      let rest := ([] : List Block); let x := stream u k; k ≤ 256 ∧ (stream u k).waiting = b :: rest ∧
      (stream u k).transport ≠ 1 ∧ (room = false ∨ ethUp u x.transport = false) ∧ b.pastDrops = none) ∧
    (let t : Ps := 0; let s : State := idle; let u := s.adv t; let q := u.evq.forwarded (u.cycle + 1); q.forward = []) ∧
    (let t : Ps := 0; let room : Bool := false; let s : State := { idle with evq.forward := [anItem] }; let u := s.adv t;
      let q := u.evq.forwarded (u.cycle + 1); let z := stream u 257; q.forward ≠ [] ∧
      (room = false ∨ ethUp u z.transport = false)) ∧
    (let t : Ps := 0; let room : Bool := true;
      let s : State := { (streaming 257 { transport := 2 }) with evq.forward := [anItem] }; let u := s.adv t;
      let q := u.evq.forwarded (u.cycle + 1); let z := stream u 257; q.forward ≠ [] ∧ room = true ∧
      ethUp u z.transport = true) := by
  refine ⟨?_, ?_, ?_, ?_, ?_, ?_, ?_, ?_, ?_, ?_, ?_, ?_⟩ <;> decide +kernel

theorem witness_timeEvents :
    (let t : Ps := 0; let d : Fin 2 := 1;
      let src : PtpFrom := ({ port := 0, number := 0, transport := 0, addr := [], id := 7 } : PtpFrom);
      let s : State := setDomain 1 { phase := 1 } idle; let u := s.adv t; let x := domain u d.val; u.pathDown = false ∧
      (if x.port = 0 then u.link.eth0 else u.link.eth1) = true ∧ x.phase ≠ 0 ∧ x.hears src = true) ∧
    (let t : Ps := 0; let d : Fin 2 := 1;
      let src : PtpFrom := ({ port := 0, number := 0, transport := 0, addr := [], id := 7 } : PtpFrom);
      let s : State := setDomain 1 { phase := 1 } idle; let u := s.adv t; let x := domain u d.val; u.pathDown = false ∧
      (if x.port = 0 then u.link.eth0 else u.link.eth1) = true ∧ x.phase ≠ 0 ∧ x.hears src = true ∧ x.masters = []) ∧
    (let t : Ps := 0; let d : Fin 2 := 1;
      let src : PtpFrom := ({ port := 0, number := 0, transport := 0, addr := [], id := 7 } : PtpFrom);
      let s : State := setDomain 1 { phase := 1 } idle; let u := s.adv t; let x := domain u d.val; u.pathDown = false ∧
      (if x.port = 0 then u.link.eth0 else u.link.eth1) = true ∧ x.phase ≠ 0 ∧ x.hears src = true ∧ x.sender ≠ some src.id) ∧
    (let t : Ps := 0; let d : Fin 2 := 1;
      let src : PtpFrom := ({ port := 0, number := 0, transport := 0, addr := [], id := 7 } : PtpFrom);
      let two : Bool := true; let sync : Int := 5; let fu : Option Int := some 10000000000000;
      let s : State := setDomain 1 { sender := some 7, phase := 2, synced := true } idle; let u := s.adv t;
      let x := domain u d.val; let t1 := 10000000000000; u.pathDown = false ∧
      (if x.port = 0 then u.link.eth0 else u.link.eth1) = true ∧ x.phase ≠ 0 ∧ x.hears src = true ∧ x.sender = some src.id ∧
      (if two = true then fu = some t1 else sync = t1) ∧ x.synced = true) ∧
    (let t : Ps := 0; let d : Fin 2 := 1;
      let src : PtpFrom := ({ port := 0, number := 0, transport := 0, addr := [], id := 7 } : PtpFrom);
      let two : Bool := false; let sync : Int := 10000000000000; let fu : Option Int := none;
      let s : State := setDomain 1 { sender := some 7, phase := 2, synced := true } idle; let u := s.adv t;
      let x := domain u d.val; let t1 := 10000000000000; u.pathDown = false ∧
      (if x.port = 0 then u.link.eth0 else u.link.eth1) = true ∧ x.phase ≠ 0 ∧ x.hears src = true ∧ x.sender = some src.id ∧
      (if two = true then fu = some t1 else sync = t1) ∧ x.synced = true) ∧
    (let t : Ps := 0; let d : Fin 2 := 1;
      let src : PtpFrom := ({ port := 0, number := 0, transport := 0, addr := [], id := 7 } : PtpFrom); let rx : Nat := 0;
      let tx : Nat := 0; let two : Bool := true; let sync : Int := 5; let fu : Option Int := some 10000000000000;
      let t4 : Int := 0; let s : State := setDomain 1 { sender := some 7, phase := 2, synced := true } idle;
      let u := s.adv t; let x := domain u d.val; let t1 := 10000000000000;
      let t2 := x.copyPs rx + (if x.port = 0 then -211648 else -211904) + x.boardRx;
      let t3 := x.copyPs tx + (if x.port = 0 then 83328 else 83584) + x.boardTx;
      let o := ((t1 - t2) + (t4 - t3)) / 2 + x.asym; u.pathDown = false ∧
      (if x.port = 0 then u.link.eth0 else u.link.eth1) = true ∧ x.phase ≠ 0 ∧ x.hears src = true ∧ x.sender = some src.id ∧
      (if two = true then fu = some t1 else sync = t1) ∧ x.synced = true ∧ x.phase = 2 ∧ x.outlier < o.natAbs) ∧
    (let t : Ps := 0; let d : Fin 2 := 1;
      let src : PtpFrom := ({ port := 0, number := 0, transport := 0, addr := [], id := 7 } : PtpFrom);
      let two : Bool := true; let sync : Int := 5; let fu : Option Int := some 10000000000000;
      let s : State := setDomain 1 { sender := some 7, phase := 1 } idle; let u := s.adv t; let x := domain u d.val;
      let t1 := 10000000000000; u.pathDown = false ∧ (if x.port = 0 then u.link.eth0 else u.link.eth1) = true ∧ x.phase ≠ 0 ∧
      x.hears src = true ∧ x.sender = some src.id ∧ (if two = true then fu = some t1 else sync = t1) ∧ x.synced = false) ∧
    (let t : Ps := 0; let d : Fin 2 := 1;
      let src : PtpFrom := ({ port := 0, number := 0, transport := 0, addr := [], id := 7 } : PtpFrom);
      let s : State := idle; let u := s.adv t; let x := domain u d.val;
      (u.pathDown = true ∨ (if x.port = 0 then u.link.eth0 else u.link.eth1) = false ∨ x.phase = 0 ∨ x.hears src = false)) ∧
    (let t : Ps := 0; let d : Fin 2 := 1;
      let src : PtpFrom := ({ port := 0, number := 0, transport := 0, addr := [], id := 7 } : PtpFrom);
      let s : State := setDomain 1 { phase := 1 } { idle with link.eth0 := false }; let u := s.adv t;
      let x := domain u d.val;
      (u.pathDown = true ∨ (if x.port = 0 then u.link.eth0 else u.link.eth1) = false ∨ x.phase = 0 ∨ x.hears src = false)) ∧
    (let t : Ps := 3000000000000; let d : Fin 2 := 0; let s : State := setDomain 0 { phase := 2 } idle; let u := s.adv t;
      let x := domain u d.val; x.phase = 2 ∧ x.lastAnn + x.annTime x.annEvery ≤ u.now) ∧
    (let t : Ps := 3000000000000; let d : Fin 2 := 0; let s : State := setDomain 0 { phase := 2 } idle; let u := s.adv t;
      let x := domain u d.val; x.phase = 2 ∧ x.lastPair + x.lossTime ≤ u.now) ∧
    (let t : Ps := 0; let d : Fin 2 := 1; let s : State := idle; let u := s.adv t; let x := domain u d.val; x.phase ≠ 2) ∧
    (let t : Ps := 0; let d : Fin 2 := 1; let s : State := setDomain 1 { phase := 2, lastAnn := 5 } idle; let u := s.adv t;
      let x := domain u d.val; u.now < x.lastAnn + x.annTime x.annEvery) ∧
    (let t : Ps := 0; let d : Fin 2 := 1; let s : State := setDomain 1 { phase := 2, lastPair := 5 } idle; let u := s.adv t;
      let x := domain u d.val; u.now < x.lastPair + x.lossTime) ∧
    (let t : Ps := 60000000000000;
      let s : State := { (setDomain 0 { phase := 2, lockedAt := some 0 } idle) with time.revert := true, time.selected := some 1 };
      let u := s.adv t; let l := (0 : Ps); (domain u 0).lockedAt = some l ∧ (domain u 0).phase = 2 ∧ u.time.revert = true ∧
      u.time.selected = some 1 ∧ l + 60000000000000 ≤ u.now) ∧
    (let t : Ps := 5000000000000; let s : State := idle; s.power.sleeping = false ∧ s.power.starting = false ∧
      nextSecond s ≤ t) ∧
    (let t : Ps := 0; let s : State := { idle with power.sleeping := true };
      (s.power.sleeping = true ∨ s.power.starting = true ∨ t < nextSecond s)) ∧
    (let t : Ps := 0; let s : State := idle; (s.power.sleeping = true ∨ s.power.starting = true ∨ t < nextSecond s)) ∧
    (let t : Ps := 0; let freq : Int := 5; let s : State := idle; let u := s.adv t; let n := 0;
      n = (match u.time.ocxoLast with | some l => if (freq - l).natAbs < 2000 then u.time.ocxoStreak + 1 else 0 | none => 0)) ∧
    (let t : Ps := 0; let freq : Int := 1999; let s : State := { idle with time.ocxoLast := some 0, time.ocxoStreak := 29 };
      let u := s.adv t; let n := 30;
      n = (match u.time.ocxoLast with | some l => if (freq - l).natAbs < 2000 then u.time.ocxoStreak + 1 else 0 | none => 0)) ∧
    (let t : Ps := 0; let freq : Int := 2000; let s : State := { idle with time.ocxoLast := some 0, time.ocxoStreak := 29 };
      let u := s.adv t; let n := 0;
      n = (match u.time.ocxoLast with | some l => if (freq - l).natAbs < 2000 then u.time.ocxoStreak + 1 else 0 | none => 0)) := by
  refine ⟨?_, ?_, ?_, ?_, ?_, ?_, ?_, ?_, ?_, ?_, ?_, ?_, ?_, ?_, ?_, ?_, ?_, ?_, ?_, ?_, ?_⟩ <;> decide +kernel

theorem witness_auxEvents :
    (let t : Ps := 0; let ch : Fin 8 := 7; let s : State := idle; let u := s.adv t; let n := ch.val; converts u n = false) ∧
    (let t : Ps := 0; let ch : Fin 8 := 7; let raw : BitVec 24 := 99;
      let det : AuxDetect := { ballAny := false, ballEnd := false, limitAny := 0, limitEnd := 0 };
      let s : State := sensing wakeCh watchful; let u := s.adv t; let n := ch.val; let q := convert u n raw det (aux u n);
      let w := wakeStep u q.1 q.2; converts u n = true ∧ (tst q.1.flags 1 = false ∨ w.1.openTold = true) ∧ w.2 = false ∧
      (measuresCoil u n = false ∨ u.power.sleeping = true)) ∧
    (let t : Ps := 0; let ch : Fin 8 := 7; let raw : BitVec 24 := 0x7FFFFF;
      let det : AuxDetect := { ballAny := false, ballEnd := false, limitAny := 0, limitEnd := 0 };
      let s : State := sensing wakeCh warm; let u := s.adv t; let n := ch.val; let q := convert u n raw det (aux u n);
      let w := wakeStep u q.1 q.2; converts u n = true ∧ (tst q.1.flags 1 = false ∨ w.1.openTold = true) ∧ w.2 = false ∧
      (measuresCoil u n = false ∨ u.power.sleeping = true)) ∧
    (let t : Ps := 0; let ch : Fin 8 := 7; let raw : BitVec 24 := 0x7FFFFF;
      let det : AuxDetect := { ballAny := false, ballEnd := false, limitAny := 0, limitEnd := 0 };
      let s : State := { (sensing wakeCh warm) with ochre.coil := some { port := 1, auxCh := 7, rtd := 1, first := 0, len := 16, rZero := 0 } };
      let u := s.adv t; let n := ch.val; let q := convert u n raw det (aux u n); let w := wakeStep u q.1 q.2;
      converts u n = true ∧ (tst q.1.flags 1 = false ∨ w.1.openTold = true) ∧ measuresCoil u n = true ∧
      u.power.sleeping = false) ∧
    (let t : Ps := 0; let ch : Fin 8 := 7; let raw : BitVec 24 := 100;
      let det : AuxDetect := { ballAny := false, ballEnd := false, limitAny := 0, limitEnd := 0 };
      let s : State := sensing wakeCh watchful; let u := s.adv t; let n := ch.val; let q := convert u n raw det (aux u n);
      let w := wakeStep u q.1 q.2; converts u n = true ∧ tst q.1.flags 1 = false ∧ u.power.sleeping = true ∧ w.2 = true) ∧
    (let t : Ps := 0; let ch : Fin 8 := 7; let s : State := sensing wakeCh watchful; let u := s.adv t; let n := ch.val;
      let v : State := idle; converts u n = true ∧ v.aux.lastWakeAt = none) ∧
    (let t : Ps := 0; let ch : Fin 8 := 7; let raw : BitVec 24 := 0;
      let det : AuxDetect := { ballAny := true, ballEnd := true, limitAny := 0, limitEnd := 0 };
      let s : State := sensing { wakeCh with suspect := true, cfg := pl [(7, 0), (1, 1), (2, 0), (1, 1), (1, 1), (4, 100)] }
        warm; let u := s.adv t; let n := ch.val; let q := convert u n raw det (aux u n); let w := wakeStep u q.1 q.2;
      converts u n = true ∧ tst q.1.flags 1 = true ∧ w.1.openTold = false) ∧
    (let mv : Nat := 450; 450 ≤ mv) ∧
    (let mv : Nat := 449; let s : State := { idle with aux.vrefLow := true }; mv < 450 ∧ s.aux.vrefLow = true) ∧
    (let mv : Nat := 449; let s : State := idle; mv < 450 ∧ s.aux.vrefLow = false) ∧
    (let s : State := { warm with ochre.coil := some { port := 1, auxCh := 7, rtd := 1, first := 0, len := 16, rZero := 0 } };
      let q := ({ port := 1, auxCh := 7, rtd := 1, first := 0, len := 16, rZero := 0 } : Coil); s.ochre.coilDue = some q ∧
      s.inMode [.warm, .acoustic, .survey, .full] = true) ∧
    (let s : State := idle; s.ochre.coilDue = none) := by
  refine ⟨?_, ?_, ?_, ?_, ?_, ?_, ?_, ?_, ?_, ?_, ?_, ?_⟩ <;> decide +kernel

theorem witness_memoryEvents :
    (let t : Ps := 0; let ch : Fin 4 := 3;
      let s : State := { warm with mem.ch := vset warm.mem.ch 3 { selfRefresh := false } }; let u := s.adv t;
      let c := ch.val; let m := mch u c; m.live = true ∧ m.selfRefresh = false ∧ s.power.sleeping = false) ∧
    (let t : Ps := 0; let f : Nat := 8388608; let o : Fin 1792 := 0; let s : State := warm; let u := s.adv t;
      let addr := f * 1792 + o.val; memPlace u addr = none) ∧
    (let t : Ps := 0; let f : Nat := 1; let o : Fin 1792 := 0;
      let s : State := { warm with mem.ch := vset warm.mem.ch 1 { uncorrAt := List.replicate 14 0 } }; let u := s.adv t;
      let addr := f * 1792 + o.val; let p := placed; let w := touch p u;
      let near := (mch w p.chan).uncorrAt.filter (fun x => u.now < x + 1000000000000); memPlace u addr = some p ∧
      near.length < 15) ∧
    (let t : Ps := 999999999999; let f : Nat := 1; let o : Fin 1792 := 0;
      let s : State := { warm with mem.ch := vset warm.mem.ch 1 { uncorrAt := List.replicate 15 0 } }; let u := s.adv t;
      let addr := f * 1792 + o.val; let p := placed; let w := touch p u;
      let near := (mch w p.chan).uncorrAt.filter (fun x => u.now < x + 1000000000000); memPlace u addr = some p ∧
      15 ≤ near.length) ∧
    (let t : Ps := 1000000000000; let f : Nat := 1; let o : Fin 1792 := 0;
      let s : State := { warm with mem.ch := vset warm.mem.ch 1 { uncorrAt := List.replicate 15 0 } }; let u := s.adv t;
      let addr := f * 1792 + o.val; let p := placed; let w := touch p u;
      let near := (mch w p.chan).uncorrAt.filter (fun x => u.now < x + 1000000000000); memPlace u addr = some p ∧
      near.length < 15) ∧
    (let t : Ps := 0; let f : Nat := 8388607; let o : Fin 1792 := 1791; let s : State := warm; let u := s.adv t;
      let addr := f * 1792 + o.val; let p := (memPlace warm 15032385535).getD placed; memPlace u addr = some p) ∧
    (let t : Ps := 0; let ch : Fin 4 := 3; let k : Nat := 1;
      let s : State := { warm with mem.ch := vset warm.mem.ch 3 { corrSec := some 0 } }; let u := s.adv t; let c := ch.val;
      let m := mch u c; let sec := u.devSec u.now; k ≠ 0 ∧ m.live = true ∧
      s.inMode [.warm, .acoustic, .survey, .full, .calibrate] = true ∧ m.corrSec = some sec) ∧
    (let t : Ps := 0; let ch : Fin 4 := 3; let k : Nat := 1; let s : State := warm; let u := s.adv t; let c := ch.val;
      let m := mch u c; let sec := u.devSec u.now; k ≠ 0 ∧ m.live = true ∧
      s.inMode [.warm, .acoustic, .survey, .full, .calibrate] = true ∧ m.corrSec ≠ some sec) ∧
    (let t : Ps := 1000000000000; let s : State := { warm with mem.dropAt := some 0 }; let u := s.adv t; let x := (0 : Ps);
      s.mem.dropAt = some x ∧ x + 1000000000000 ≤ u.now) ∧
    (let t : Ps := 0; let ch : Fin 4 := 3; let s : State := State.reset; let u := s.adv t; let c := ch.val; let m := mch u c;
      s.power.mode = .standby ∧ m.live = true) ∧
    (let t : Ps := 0; let ch : Fin 4 := 3; let s : State := State.reset; let u := s.adv t; let c := ch.val; let m := mch u c;
      m.live = true ∧ m.drift = false) ∧
    (let t : Ps := 0; let ch : Fin 4 := 3; let d : TrainIn := sound; let s : State := training {}; let u := s.adv t;
      let c := ch.val; let m := mch u c; let x := ({ left := [3], tag := 1, began := 0 } : Training);
      let rest := ([] : List Nat); let r := trainReason u.mem.eyeMin d; s.mem.train = some x ∧ x.left = c :: rest ∧ r = 0 ∧
      m.live = true) ∧
    (let t : Ps := 0; let ch : Fin 4 := 3; let d : TrainIn := sound; let s : State := training { live := false };
      let u := s.adv t; let c := ch.val; let m := mch u c; let x := ({ left := [3], tag := 1, began := 0 } : Training);
      let rest := ([] : List Nat); let r := trainReason u.mem.eyeMin d; s.mem.train = some x ∧ x.left = c :: rest ∧ r = 0 ∧
      m.live = false) ∧
    (let t : Ps := 0; let ch : Fin 4 := 3; let d : TrainIn := { sound with finished := false }; let s : State := training {};
      let u := s.adv t; let c := ch.val; let m := mch u c; let x := ({ left := [3], tag := 1, began := 0 } : Training);
      let rest := ([] : List Nat); let r := trainReason u.mem.eyeMin d; s.mem.train = some x ∧ x.left = c :: rest ∧ r = 5 ∧
      m.live = true) ∧
    (let t : Ps := 0; let ch : Fin 4 := 3; let d : TrainIn := { sound with sweeps := [List.replicate 11 true] };
      let s : State := training {}; let u := s.adv t; let c := ch.val; let m := mch u c;
      let x := ({ left := [3], tag := 1, began := 0 } : Training); let rest := ([] : List Nat);
      let r := trainReason u.mem.eyeMin d; s.mem.train = some x ∧ x.left = c :: rest ∧ r ≠ 0 ∧ r ≠ 5 ∧ m.live = true) ∧
    (let t : Ps := 0; let ch : Fin 4 := 3; let d : TrainIn := { sound with sweeps := [List.replicate 11 true] };
      let s : State := training { live := false }; let u := s.adv t; let c := ch.val; let m := mch u c;
      let x := ({ left := [3], tag := 1, began := 0 } : Training); let rest := ([] : List Nat);
      let r := trainReason u.mem.eyeMin d; s.mem.train = some x ∧ x.left = c :: rest ∧ r ≠ 0 ∧ m.live = false) := by
  refine ⟨?_, ?_, ?_, ?_, ?_, ?_, ?_, ?_, ?_, ?_, ?_, ?_, ?_, ?_, ?_, ?_⟩ <;> decide +kernel

theorem witness_controllerEvents :
    (let s : State := idle; s.poweredUp = true ∧ s.mgmt.down = false) ∧
    (let s : State := idle; s.poweredUp = true ∧ s.mgmt.down = false ∧ s.mgmt.failed = none) ∧
    (let s : State := { idle with mgmt.failed := some 7 }; let c := 7; s.poweredUp = true ∧ s.mgmt.down = false ∧
      s.mgmt.ready = true ∧ s.mgmt.failed = some c) ∧
    (let pass : Bool := true; let s : State := { idle with mgmt.retest := true }; s.poweredUp = true ∧ s.mgmt.down = false ∧
      s.mgmt.retest = true ∧ pass = true) ∧
    (let pass : Bool := false; let s : State := { idle with mgmt.retest := true }; s.poweredUp = true ∧ s.mgmt.down = false ∧
      s.mgmt.retest = true ∧ pass = false) ∧
    (let pass : Bool := false; let s : State := { idle with mgmt.retest := true, mgmt.activeB := true }; s.poweredUp = true ∧
      s.mgmt.down = false ∧ s.mgmt.retest = true ∧ pass = false) ∧
    (let s : State := { idle with mgmt.ready := false, mgmt.failed := some 4 }; let c := 4; s.poweredUp = true ∧
      s.mgmt.down = false ∧ s.mgmt.ready = false ∧ s.mgmt.failed = some c ∧ c ≠ 7) ∧
    (let s : State := { idle with mgmt.ready := false, mgmt.failed := some 6 }; let c := 6; s.poweredUp = true ∧
      s.mgmt.down = false ∧ s.mgmt.ready = false ∧ s.mgmt.failed = some c ∧ c ≠ 7) ∧
    (let s : State := { idle with mgmt.down := true }; s.poweredUp = true ∧ s.mgmt.down = true) ∧
    (let t : Ps := 0; let s : State := { idle with mgmt.update := some (1, 3, none, false) }; let u := s.adv t;
      let tag := (1 : U16); let act := (3 : Byte); let img := (none : Option (List Byte)); let x := false;
      u.mgmt.update = some (tag, act, img, x) ∧ u.pathDown = false) ∧
    (let t : Ps := 0; let s : State := { idle with mgmt.selfTest := some (1, 63) }; let u := s.adv t; let tag := (1 : U16);
      let tests := (63 : Byte); u.mgmt.selfTest = some (tag, tests) ∧ u.pathDown = false) := by
  refine ⟨?_, ?_, ?_, ?_, ?_, ?_, ?_, ?_, ?_, ?_, ?_⟩ <;> decide +kernel

theorem witness_pairEvents :
    (let s : State := coupled; s.inPair = true ∧ s.power.sleeping = false) ∧
    (let lane : Fin 2 := 0; let s : State := { coupled with pair.lane0 := true }; s.inPair = true ∧
      s.power.sleeping = false ∧ lane = 0 ∧ s.pair.lane0 = true) ∧
    (let lane : Fin 2 := 1; let s : State := { coupled with pair.lane1 := true }; s.inPair = true ∧
      s.power.sleeping = false ∧ lane = 1 ∧ s.pair.lane1 = true) ∧
    (let t : Ps := 4000000; let s : State := coupled; let u := s.adv t; s.power.sleeping = false ∧
      s.pair.lastHb + 4000000 ≤ u.now) ∧
    (let t : Ps := 4000000; let s : State := { coupled with pair.autoTake := false }; let u := s.adv t;
      s.power.sleeping = false ∧ s.pair.lastHb + 4000000 ≤ u.now ∧ (s.pair.phase = .paired ∨ s.pair.phase = .yielded) ∧
      s.pair.autoTake = false) ∧
    (let t : Ps := 4000000; let s : State := { coupled with pair.phase := .solo }; let u := s.adv t;
      s.power.sleeping = false ∧ s.pair.lastHb + 4000000 ≤ u.now ∧ s.pair.phase ≠ .paired ∧ s.pair.phase ≠ .yielded) ∧
    (let t : Ps := 3999999; let s : State := coupled; let u := s.adv t; u.now < s.pair.lastHb + 4000000) ∧
    (let s : State := coupled; s.power.sleeping = false) ∧
    (let power : Int := -3999; let s : State := coupled; s.pair.phase = .paired ∧ s.pair.tests = [] ∧
      thruPresent s.pair power = true) ∧
    (let power : Int := -4000; let s : State := coupled; s.pair.phase = .paired ∧ s.pair.tests = [] ∧
      thruPresent s.pair power = false) := by
  refine ⟨?_, ?_, ?_, ?_, ?_, ?_, ?_, ?_, ?_, ?_⟩ <;> decide +kernel

theorem witness_modeEvents :
    (let t : Ps := 8; let s : State := bound_ .standby; let u := s.adv t;
      let x := ({ from_ := .warm, to_ := .standby, cause := 0, tag := 0, due := 9 } : Transition); u.power.trans = some x ∧
      notYet x u = true) ∧
    (let s : State := watchful; s.power.sleeping = true ∧ s.power.waking = none) ∧
    (let t : Ps := 0; let s : State := bound_ .dormant; let u := s.adv t; s.power.sleeping = false ∧ u.enteringSleep = true) ∧
    (let t : Ps := 0; let s : State := bound_ .standby; let u := s.adv t; s.power.sleeping = false ∧ u.enteringSleep = false) ∧
    (let s : State := { watchful with power.wake.period := 1 }; s.power.wake.period ≠ 0 ∧ s.power.sleeping = true ∧
      s.power.waking = none) ∧
    (let t : Ps := 0; let s : State := { warm with power.wake.period := 86400 }; let u := s.adv t; s.power.wake.period ≠ 0 ∧
      s.power.sleeping = false ∧ u.enteringSleep = false ∧ s.power.starting = false ∧ s.power.supplyOut = none) ∧
    (let s : State := watchful; s.power.wake.period = 0) ∧
    (let s : State := { watchful with power.waking := some 1 }; let c := (1 : Byte); s.power.waking = some c ∧
      s.power.sleeping = true) ∧
    (let s : State := watchful; s.power.waking = none) ∧
    (let t : Ps := 7; let s : State := { warm with power.duty := .dwell 0 7 }; let u := s.adv t; let x := (7 : Ps);
      s.power.duty = .dwell 0 x ∧ x ≤ u.now) ∧
    (let t : Ps := 7; let s : State := { warm with power.duty := .dwell 1 7 }; let u := s.adv t; let n := 1;
      let x := (7 : Ps); s.power.duty = .dwell n x ∧ (n ≠ 0 ∨ u.now < x)) ∧
    (let t : Ps := 6; let s : State := { warm with power.duty := .dwell 0 7 }; let u := s.adv t; let n := 0;
      let x := (7 : Ps); s.power.duty = .dwell n x ∧ (n ≠ 0 ∨ u.now < x)) ∧
    (let t : Ps := 7; let s : State := { warm with power.duty := .linger 7 }; let u := s.adv t; let x := (7 : Ps);
      s.power.duty = .linger x ∧ x ≤ u.now ∧ u.calibrating = false ∧ s.power.sleeping = false ∧ u.enteringSleep = false ∧
      s.power.supplyOut = none) := by
  refine ⟨?_, ?_, ?_, ?_, ?_, ?_, ?_, ?_, ?_, ?_, ?_, ?_, ?_⟩ <;> decide +kernel

theorem witness_powerEvents :
    (let ev : Fin 4 := 0; let temp : Int := 12701; let s : State := idle; s.poweredUp = true ∧ ev = 0 ∧ 12700 < temp) ∧
    (let ev : Fin 4 := 3; let temp : Int := 14001; let s : State := idle; s.poweredUp = true ∧ ev ≠ 0 ∧ 14000 < temp) ∧
    (let ev : Fin 4 := 0; let temp : Int := 12700; (ev = 0 → temp ≤ 12700) ∧ (ev ≠ 0 → temp ≤ 14000)) ∧
    (let ev : Fin 4 := 1; let temp : Int := 14000; (ev = 0 → temp ≤ 12700) ∧ (ev ≠ 0 → temp ≤ 14000)) ∧
    (let dev : Int := -101; let cur : Int := 2500000; let s : State := warm; tecAtLimit dev cur = true ∧ s.poweredUp = true ∧
      s.power.tecLimited = false ∧ s.power.mode ≠ .standby) ∧
    (let dev : Int := 100; let cur : Int := 2500000; let s : State := warm;
      (s.power.tecLimited = true ∨ tecAtLimit dev cur = false)) ∧
    (let dev : Int := 101; let cur : Int := -2499999; let s : State := warm;
      (s.power.tecLimited = true ∨ tecAtLimit dev cur = false)) ∧
    (let s : State := idle; s.poweredUp = true) ∧
    (let s : State := idle; s.poweredUp = true ∧ s.power.xtalOk = true) ∧
    (let s : State := { idle with power.xtalOk := false }; s.power.xtalOk = false) ∧
    (let supply : Fin 8 := 5; let mv : Nat := 0; let us : Nat := 10;
      (supply = 5 ∨ supplyBad supply.val mv = false ∨ us < 10)) ∧
    (let supply : Fin 8 := 7; let mv : Nat := 4750; let us : Nat := 10;
      (supply = 5 ∨ supplyBad supply.val mv = false ∨ us < 10)) ∧
    (let supply : Fin 8 := 7; let mv : Nat := 4749; let us : Nat := 9;
      (supply = 5 ∨ supplyBad supply.val mv = false ∨ us < 10)) ∧
    (let supply : Fin 8 := 7; let mv : Nat := 4749; let us : Nat := 10; let s : State := idle; supply ≠ 5 ∧
      supplyBad supply.val mv = true ∧ 10 ≤ us ∧ s.power.sleeping = false ∧ s.power.starting = false ∧
      s.power.supplyOut = none) ∧
    (let supply : Fin 8 := 7; let mv : Nat := 5251; let us : Nat := 10;
      let s : State := { idle with power.supplyOut := some (0, 700, 5) }; let n := (0 : Nat); let x := (700 : Nat);
      let y := (5 : Nat); supply ≠ 5 ∧ supplyBad supply.val mv = true ∧ 10 ≤ us ∧ s.power.sleeping = false ∧
      s.power.starting = false ∧ s.power.supplyOut = some (n, x, y) ∧ n ≠ supply.val) ∧
    (let s : State := { idle with power.supplyOut := some (0, 700, 5) }; let n := (0 : Nat); let x := (700 : Nat);
      let y := (5 : Nat); s.power.supplyOut = some (n, x, y)) ∧
    (let s : State := { idle with power.starting := true }; s.power.starting = true) := by
  refine ⟨?_, ?_, ?_, ?_, ?_, ?_, ?_, ?_, ?_, ?_, ?_, ?_, ?_, ?_, ?_, ?_, ?_⟩ <;> decide +kernel

theorem witness_headerChecks :
    (let sp : CmdSpec := setNodeSpec; let r : Req := rq 0xFFFF (zeros 4);
      let s : State := { idle with cmd.recovery := some { cause := 1, unit := 0xFFFF, started := 0, oldEpoch := 1, follow := [] } };
      ((arrived r s).pathDown || (arrived r s).cmd.recovery.isSome || passedOver (reqOf sp r s) (arrived r s)) = true) ∧
    (let sp : CmdSpec := setNodeSpec; let r : Req := rq 0 []; let s : State := idle; let u := begun r s;
      let st := St.badTarget;
      ((arrived r s).pathDown || (arrived r s).cmd.recovery.isSome || passedOver (reqOf sp r s) (arrived r s)) = false ∧
      preCheck sp (reqOf sp r s) u = some st) ∧
    (let sp : CmdSpec := setNodeSpec; let body : Fetched → State → Ans := fun _ u => reject St.ok u;
      let r : Req := rq 0xFFFF (zeros 4); let s : State := bound_ .dormant; let u := begun r s;
      ((arrived r s).pathDown || (arrived r s).cmd.recovery.isSome || passedOver (reqOf sp r s) (arrived r s)) = false ∧
      preCheck sp (reqOf sp r s) u = none ∧ u.enteringSleep = true ∧ (body (reqOf sp r s) u).status ≠ St.notFitted) ∧
    (let sp : CmdSpec := setNodeSpec; let body : Fetched → State → Ans := fun _ u => reject St.notFitted u;
      let r : Req := rq 0xFFFF (zeros 4); let s : State := bound_ .dormant; let u := begun r s;
      ((arrived r s).pathDown || (arrived r s).cmd.recovery.isSome || passedOver (reqOf sp r s) (arrived r s)) = false ∧
      preCheck sp (reqOf sp r s) u = none ∧ u.enteringSleep = true ∧ (body (reqOf sp r s) u).status = St.notFitted) ∧
    (let sp : CmdSpec := setNodeSpec; let r : Req := rq 0xFFFF []; let s : State := { idle with mgmt.bootRom := true };
      let u := begun r s; u.mgmt.bootRom = true ∧ sp.bootRom = false) ∧
    (let sp : CmdSpec := setNodeSpec; let r : Req := { rq 0xFFFF [] with flags := 8 };
      let s : State := { idle with part.caps := 0 }; let u := begun r s; let mirror := r.flags.getLsbD flMirror;
      (u.mgmt.bootRom = false ∨ sp.bootRom = true) ∧ mirror = true ∧ u.pairFitted = false) ∧
    (let sp : CmdSpec := setNodeSpec; let r : Req := { rq 0xFFFF [] with flags := 8 }; let s : State := idle;
      let u := begun r s; let mirror := r.flags.getLsbD flMirror; let pcie : Prop := ∃ q, r.src = .pcie q;
      let urgentOrAuth : Prop := r.flags.getLsbD flUrgent = true ∨ r.flags.getLsbD flAuth = true;
      let reserved : Prop := r.flags.getLsbD 6 = true ∨ r.flags.getLsbD 7 = true ∨ r.rsv ≠ 0 ∨ (mirror = true ∧ sp.mirror =
        false); (u.mgmt.bootRom = false ∨ sp.bootRom = true) ∧ (mirror = false ∨ u.pairFitted = true) ∧
      (reserved ∨ (pcie ∧ urgentOrAuth))) ∧
    (let sp : CmdSpec := setNodeSpec; let r : Req := { rq 0xFFFF [] with flags := 16 }; let s : State := idle;
      let u := begun r s; let mirror := r.flags.getLsbD flMirror; let pcie : Prop := ∃ q, r.src = .pcie q;
      let urgentOrAuth : Prop := r.flags.getLsbD flUrgent = true ∨ r.flags.getLsbD flAuth = true;
      let reserved : Prop := r.flags.getLsbD 6 = true ∨ r.flags.getLsbD 7 = true ∨ r.rsv ≠ 0 ∨ (mirror = true ∧ sp.mirror =
        false); (u.mgmt.bootRom = false ∨ sp.bootRom = true) ∧ (mirror = false ∨ u.pairFitted = true) ∧
      (reserved ∨ (pcie ∧ urgentOrAuth))) ∧
    (let sp : CmdSpec := setNodeSpec; let r : Req := { rq 0xFFFF [] with rsv := 1, src := .udp 5 true };
      let s : State := idle; let u := begun r s; let mirror := r.flags.getLsbD flMirror;
      let pcie : Prop := ∃ q, r.src = .pcie q;
      let urgentOrAuth : Prop := r.flags.getLsbD flUrgent = true ∨ r.flags.getLsbD flAuth = true;
      let reserved : Prop := r.flags.getLsbD 6 = true ∨ r.flags.getLsbD 7 = true ∨ r.rsv ≠ 0 ∨ (mirror = true ∧ sp.mirror =
        false); (u.mgmt.bootRom = false ∨ sp.bootRom = true) ∧ (mirror = false ∨ u.pairFitted = true) ∧
      (reserved ∨ (pcie ∧ urgentOrAuth))) ∧
    (let sp : CmdSpec := setNodeSpec; let r : Req := rq 0xFFFE []; let s : State := idle; let u := begun r s;
      let mirror := r.flags.getLsbD flMirror; let pcie : Prop := ∃ q, r.src = .pcie q;
      let urgentOrAuth : Prop := r.flags.getLsbD flUrgent = true ∨ r.flags.getLsbD flAuth = true;
      let reserved : Prop := r.flags.getLsbD 6 = true ∨ r.flags.getLsbD 7 = true ∨ r.rsv ≠ 0 ∨ (mirror = true ∧ sp.mirror =
        false); (u.mgmt.bootRom = false ∨ sp.bootRom = true) ∧ (mirror = false ∨ u.pairFitted = true) ∧ ¬ reserved ∧
      (¬ (pcie ∧ urgentOrAuth)) ∧ sp.target.accepts r.target.toNat = false) ∧
    (let sp : CmdSpec := fwUpdateSpec; let r : Req := rq 0 []; let s : State := { idle with mgmt.bootRom := true };
      let u := begun r s; let mirror := r.flags.getLsbD flMirror; let pcie : Prop := ∃ q, r.src = .pcie q;
      let urgentOrAuth : Prop := r.flags.getLsbD flUrgent = true ∨ r.flags.getLsbD flAuth = true;
      let reserved : Prop := r.flags.getLsbD 6 = true ∨ r.flags.getLsbD 7 = true ∨ r.rsv ≠ 0 ∨ (mirror = true ∧ sp.mirror =
        false); (u.mgmt.bootRom = false ∨ sp.bootRom = true) ∧ (mirror = false ∨ u.pairFitted = true) ∧ ¬ reserved ∧
      (¬ (pcie ∧ urgentOrAuth)) ∧ sp.target.accepts r.target.toNat = false) ∧
    (let sp : CmdSpec := setNodeSpec; let r : Req := rq 0xFFFF [0, 0, 0]; let s : State := idle; let u := begun r s;
      let mirror := r.flags.getLsbD flMirror; let pcie : Prop := ∃ q, r.src = .pcie q;
      let urgentOrAuth : Prop := r.flags.getLsbD flUrgent = true ∨ r.flags.getLsbD flAuth = true;
      let reserved : Prop := r.flags.getLsbD 6 = true ∨ r.flags.getLsbD 7 = true ∨ r.rsv ≠ 0 ∨ (mirror = true ∧ sp.mirror =
        false); (u.mgmt.bootRom = false ∨ sp.bootRom = true) ∧ (mirror = false ∨ u.pairFitted = true) ∧ ¬ reserved ∧
      (¬ (pcie ∧ urgentOrAuth)) ∧ sp.target.accepts r.target.toNat = true ∧ sp.len r.payload = false) ∧
    (let sp : CmdSpec := setNodeSpec; let r : Req := { rq 0xFFFF [0, 0, 0] with src := .udp 5 true, flags := 0x30 };
      let s : State := idle; let u := begun r s; let mirror := r.flags.getLsbD flMirror;
      let pcie : Prop := ∃ q, r.src = .pcie q;
      let urgentOrAuth : Prop := r.flags.getLsbD flUrgent = true ∨ r.flags.getLsbD flAuth = true;
      let reserved : Prop := r.flags.getLsbD 6 = true ∨ r.flags.getLsbD 7 = true ∨ r.rsv ≠ 0 ∨ (mirror = true ∧ sp.mirror =
        false); (u.mgmt.bootRom = false ∨ sp.bootRom = true) ∧ (mirror = false ∨ u.pairFitted = true) ∧ ¬ reserved ∧
      (¬ (pcie ∧ urgentOrAuth)) ∧ sp.target.accepts r.target.toNat = true ∧ sp.len r.payload = false) ∧
    (let sp : CmdSpec := setNodeSpec; let r : Req := rq 0xFFFF (zeros 4); let s : State := bound_ .warm; let u := begun r s;
      let mirror := r.flags.getLsbD flMirror; let pcie : Prop := ∃ q, r.src = .pcie q;
      let urgentOrAuth : Prop := r.flags.getLsbD flUrgent = true ∨ r.flags.getLsbD flAuth = true;
      let reserved : Prop := r.flags.getLsbD 6 = true ∨ r.flags.getLsbD 7 = true ∨ r.rsv ≠ 0 ∨ (mirror = true ∧ sp.mirror =
        false); (u.mgmt.bootRom = false ∨ sp.bootRom = true) ∧ (mirror = false ∨ u.pairFitted = true) ∧ ¬ reserved ∧
      (¬ (pcie ∧ urgentOrAuth)) ∧ sp.target.accepts r.target.toNat = true ∧ sp.len r.payload = true) ∧
    (let sp : CmdSpec := nopSpec; let body : Fetched → State → Ans := fun _ u => reject St.busy u;
      let r : Req := { rq 0xFFFF [] with flags := 4 }; let s : State := idle; let u := begun r s; let f := reqOf sp r s;
      Ready sp r s ∧ (body f u).status = St.busy ∧ f.has flDefer = true) ∧
    (let sp : CmdSpec := nopSpec; let body : Fetched → State → Ans := fun _ u => reject St.busy u;
      let r : Req := rq 0xFFFF []; let s : State := idle; let u := begun r s; let f := reqOf sp r s; Ready sp r s ∧
      ((body f u).status ≠ St.busy ∨ f.has flDefer = false)) ∧
    (let sp : CmdSpec := nopSpec; let body : Fetched → State → Ans := fun _ u => reject St.ok u;
      let r : Req := { rq 0xFFFF [] with flags := 4 }; let s : State := idle; let u := begun r s; let f := reqOf sp r s;
      Ready sp r s ∧ ((body f u).status ≠ St.busy ∨ f.has flDefer = false)) := by
  refine ⟨?_, ?_, ?_, ?_, ?_, ?_, ?_, ?_, ?_, ?_, ?_, ?_, ?_, ?_, ?_, ?_, ?_⟩ <;> decide +kernel

theorem witness_nopRepeats :
    (let r : Req := rq 0xFFFF []; let s : State := idle; Ready nopSpec r s) ∧
    (let r : Req := rq 0xFFFF [1, 2, 3]; let s : State := { idle with mgmt.bootRom := true }; Ready nopSpec r s) := by
  refine ⟨?_, ?_⟩ <;> decide +kernel

theorem witness_notifyRequests :
    (let q : Fin 2 := 0; let f : Fetched := got; let abort : Bool := false; let s : State := idle; f.src = .pcie q ∧
      (s.cmd.orphans.any (fun o => o.1 = f.src ∧ o.2 = f.seq) = false) ∧ (f.has flNotify = true ∨ abort = true)) ∧
    (let q : Fin 2 := 0; let f : Fetched := { got with flags := 0 }; let abort : Bool := true; let s : State := idle;
      f.src = .pcie q ∧ (s.cmd.orphans.any (fun o => o.1 = f.src ∧ o.2 = f.seq) = false) ∧
      (f.has flNotify = true ∨ abort = true)) ∧
    (let q : Fin 2 := 1; let f : Fetched := { got with src := .pcie 1 }; let abort : Bool := false; let s : State := idle;
      f.src = .pcie q ∧ (s.cmd.orphans.any (fun o => o.1 = f.src ∧ o.2 = f.seq) = false) ∧
      (f.has flNotify = true ∨ abort = true) ∧ s.link.masked 0 = true) := by
  refine ⟨?_, ?_, ?_⟩ <;> decide +kernel

theorem witness_startUpAbort :
    (let s : State := { idle with power.starting := true }; s.power.starting = true) := by
  decide +kernel

theorem witness_replies :
    (let status : Nat := 255; let flags_ : Nat := 255; let partner : Nat := 255; status < 256 ∧ flags_ < 256 ∧ partner < 256) ∧
    (let status : Nat := 0; let flags_ : Nat := 0; let partner : Nat := 0; let payload : List Byte := [0]; status < 256 ∧
      flags_ < 256 ∧ partner < 256 ∧ payload ≠ []) ∧
    (let f : Fetched := got; let status : Nat := 0; let flags_ : Nat := 0; let partner : Nat := 0;
      let payload : List Byte := []; status < 256 ∧ flags_ < 256 ∧ partner < 256 ∧ payload = [] ∧ f.opcode ≠ 0) ∧
    (let f : Fetched := got; let abort : Bool := false; let s : State := idle;
      (s.cmd.orphans.any (fun o => o.1 = f.src ∧ o.2 = f.seq) = false) ∧ (f.has flNotify = true ∨ abort = true)) ∧
    (let f : Fetched := { got with flags := 0 }; let abort : Bool := true; let s : State := idle;
      (s.cmd.orphans.any (fun o => o.1 = f.src ∧ o.2 = f.seq) = false) ∧ (f.has flNotify = true ∨ abort = true)) ∧
    (let f : Fetched := { got with flags := 0 }; let abort : Bool := false; let s : State := idle;
      (s.cmd.orphans.any (fun o => o.1 = f.src ∧ o.2 = f.seq) = false) ∧ f.has flNotify = false ∧ abort = false) ∧
    (let q : Fin 2 := 0; let f : Fetched := got; let s : State := setQ 0 { cqPos := 15 } idle; let x := getQ q.val s;
      (s.cmd.orphans.any (fun o => o.1 = f.src ∧ o.2 = f.seq) = false) ∧ x.cqPos + 1 = x.size) ∧
    (let q : Fin 2 := 0; let f : Fetched := got; let s : State := setQ 0 { cqPos := 14 } idle; let x := getQ q.val s;
      (s.cmd.orphans.any (fun o => o.1 = f.src ∧ o.2 = f.seq) = false) ∧ x.cqPos + 1 ≠ x.size) := by
  refine ⟨?_, ?_, ?_, ?_, ?_, ?_, ?_, ?_⟩ <;> decide +kernel

theorem witness_faultRaised :
    (let o : FaultOcc := { code := 0x0100 }; let c : Nat := 0; faultClass o.code = some c) ∧
    (let o : FaultOcc := { code := 0x0100 }; let c : Nat := 0; let k := 0x0101; faultClass o.code = some c ∧ k ≠ o.code) ∧
    (let o : FaultOcc := { code := 0x0102 }; let c : Nat := 0; faultClass o.code = some c ∧ faultQueued o.code = false) ∧
    (let o : FaultOcc := { code := 0x0E01 }; let c : Nat := 1;
      let s : State := { idle with evq.items := List.replicate 30 anItem }; let q := s.evq.forwarded s.cycle;
      faultClass o.code = some c ∧ faultQueued o.code = true ∧ 4 ≤ q.free s.cycle) ∧
    (let o : FaultOcc := { code := 0x0E01 }; let c : Nat := 1;
      let s : State := { idle with evq.items := List.replicate 31 anItem }; let q := s.evq.forwarded s.cycle;
      faultClass o.code = some c ∧ faultQueued o.code = true ∧ q.free s.cycle < 4) ∧
    (let s : State := { idle with fault.permanent := true }; s.fault.permanent = true) ∧
    (let perm : Bool := true; perm = true) ∧
    (let s : State := idle; s.power.sleeping = false) ∧
    (let s : State := watchful; s.power.sleeping = true) := by
  refine ⟨?_, ?_, ?_, ?_, ?_, ?_, ?_, ?_, ?_⟩ <;> decide +kernel

theorem witness_answersFrame :
    (let a : Ans := { status := St.ok, st := idle }; (∀ u, a.after u = u)) := by
  intro a u
  rfl

/-- The deadlines of `ZoneCoreEvents` with no bit missing, and with one missing that core 31 was to give. -/
theorem witness_coreDeadline :
    let s0 := modCtx 255 (fun y => { y with jobs := [{ line := aLine, bits := [some 3] }] }) warm
    let s1 := modCtx 255 (fun y => { y with jobs := [{ line := aLine, bits := [none] }] })
      (coreIs { bindings := [{ aBinding with ctx := 255 }] })
    let missing (s : State) : List Nat := match (ctx s 255).jobs with
      | j :: _ => (List.range j.bits.length).filter (fun r => (j.bits[r]?).getD none = none)
      | [] => []
    missing s0 = [] ∧ missing s1 = [0] ∧ coreAt s1 255 (0 % (groupOf s1 255).length) = some 31 := by decide +kernel

/-- The program counters of `CoreFrame` in a repeat, at its last execution and outside one. -/
theorem witness_advance :
    2 ≤ ({ rep := 2 } : Core).rep ∧ ({ rep := 1 } : Core).rep ≤ 1 ∧ ({} : Core).rep ≤ 1 := by decide +kernel

/-- The refreshes of `MemoryEvents` in an idle bank, with seven postponed, and with six. -/
theorem witness_refreshDue :
    let m (n : Nat) : MemCh := mch (training { selfRefresh := false, postponed := n }) 3
    (m 0).live = true ∧ (m 7).selfRefresh = false ∧ 8 ≤ (m 7).postponed + 1 ∧ (m 6).postponed + 1 < 8 ∧
      warm.power.sleeping = false := by decide +kernel

/-- A pair of messages of `TimeEvents` in a domain that follows its time transmitter, the offset taken and over the outlier. -/
theorem witness_pair :
    let s := setDomain 1 { phase := 2, synced := true } idle
    let x := domain s 1
    s.pathDown = false ∧ s.link.eth0 = true ∧ s.link.eth1 = true ∧ x.phase = 2 ∧ x.synced = true ∧ (domain (setDomain 1 { phase := 1 } idle) 1).synced = false ∧
      x.outlier < (x.pairOffset 0 0 10000000000000 0).natAbs ∧ (x.pairOffset 0 0 0 0).natAbs < x.outlier := by decide +kernel

/-- `EveryStep` with a core memory that lists bytes at both its ends, and a command that waits. -/
theorem witness_everyStep :
    let s : State := { coreIs { xmem := [(0, 1), (16383, 255)], imem := [(3, 4)] } with pending := [.launch, .heartbeatTx] }
    s.memOk = true ∧ ∃ t, step s = .next t ∧ t.pending = [.heartbeatTx] := by
  refine ⟨by decide +kernel, _, rfl, ?_⟩
  decide +kernel

end Slice0Tests
end

section
/-! PROOFS. What every row of the dispatcher keeps, and that every command and every step completes (O60). Built on
Laws/Keeps*.lean, which say what each operation keeps. -/

namespace Sys2Proof.Machine

open Sys2Proof

/-! ### Rules for the rows: a command that is answered, a branch that goes on from the other's state, a core's data -/

/-- A command row keeps what its command's own part keeps. -/
theorem performRow_keeps {s0 s : State} {sp : CmdSpec} {body : Fetched → State → Ans} {r : Req}
    (hb : ∀ f t, Keeps s0 t → KeepsA s0 (body f t)) (h : Keeps s0 s) : KeepsR s0 (.next (perform sp body r s)) :=
  keepsR_next (perform_keeps hb h)

theorem keeps_iteThen {s a b : State} {c : Prop} [Decidable c] (hb : Keeps s b) (ha : Keeps s b → Keeps s a) :
    Keeps s (if c then a else b) :=
  keeps_ite (ha hb) hb

theorem keeps_iteElse {s a b : State} {c : Prop} [Decidable c] (ha : Keeps s a) (hb : Keeps s a → Keeps s b) :
    Keeps s (if c then a else b) :=
  keeps_ite ha (hb ha)

theorem Core.memOk_branch {x : Core} (h : x.memOk = true) (taken : Bool) (t : BitVec 12) :
    (x.branch taken t).memOk = true := by
  unfold Core.branch
  split <;> exact h

theorem Core.memOk_setReg {x : Core} (h : x.memOk = true) (d : Fin 8) (v : U32) : (x.setReg d v).memOk = true := h

theorem Core.memOk_withAcc {x : Core} (h : x.memOk = true) (v : Vector (BitVec 40) 4) : { x with acc := v }.memOk = true := h

theorem Core.memOk_setAcc {x : Core} (h : x.memOk = true) (a : Fin 4) (v : Int) : (x.setAcc a v).memOk = true := h

theorem Core.memOk_narrowed {x : Core} {w : Nat} {a : Fin 4} {sh : BitVec 6} {f : Core → Int → Core}
    (hf : ∀ (y : Core) (v : Int), y.memOk = true → (f y v).memOk = true) (h : x.memOk = true) :
    (x.narrowed w a sh f).memOk = true :=
  hf _ _ h

/-! ### Queue registers, links and the board record (R354-R357, R550-R566) -/

theorem execSqTailWrite_keeps {s0 s : State} {q v} (h : Keeps s0 s) : KeepsR s0 (execSqTailWrite q v s) :=
  keepsR_next (keeps_ite h (keeps_ite (setQerr_keeps h) (setQ_keeps h)))

theorem execCqHeadWrite_keeps {s0 s : State} {q v} (h : Keeps s0 s) : KeepsR s0 (execCqHeadWrite q v s) :=
  keepsR_next (keeps_ite (setQ_keeps h) h)

theorem execQueueBaseSizeWrite_keeps {s0 s : State} {q reg v} (h : Keeps s0 s) :
    KeepsR s0 (execQueueBaseSizeWrite q reg v s) :=
  keepsR_next (keeps_ite h (keeps_ite (setQerr_keeps h) (setQ_keeps h)))

theorem execEnable_keeps {s0 s : State} {q v} (h : Keeps s0 s) : KeepsR s0 (execEnable q v s) :=
  keepsR_next (keeps_ite (setQ_keeps h) h)

theorem execFlush_keeps {s0 s : State} {t q es} (h : Keeps s0 s) : KeepsR s0 (execFlush t q es s) :=
  keepsR_next (keeps_ite h (keeps_ite (setQ_keeps h) (flushQueue_keeps h)))

theorem execKeyLoad_keeps {s0 s : State} {v} (h : Keeps s0 s) : KeepsR s0 (execKeyLoad v s) :=
  keepsR_next (keeps_ite (ctrlWrite_keeps h) h)

theorem execKeyClear_keeps {s0 s : State} {v} (h : Keeps s0 s) : KeepsR s0 (execKeyClear v s) :=
  keepsR_next (keeps_ite (ctrlWrite_keeps h) h)

theorem execW1cClear_keeps {s0 s : State} {reg v hw} (h : Keeps s0 s) : KeepsR s0 (execW1cClear reg v hw s) :=
  keepsR_next (keeps_ite (w1cClear_keeps h) h)

theorem execRegisterWrite_keeps {s0 s : State} {off size v} (h : Keeps s0 s) : KeepsR s0 (execRegisterWrite off size v s) :=
  keepsR_next (keeps_ite (registerWrite_keeps h) h)

theorem execPcieReset_keeps {s0 s : State} {k} (h : Keeps s0 s) : KeepsR s0 (execPcieReset k s) :=
  have hr : Keeps s0 (resetPcie s) := resetPcie_keeps h
  keepsR_next (keeps_ite (keeps_ite h h) (keeps_ite hr hr))

theorem execPerstNDeassert_keeps {s0 s : State} (h : Keeps s0 s) : KeepsR s0 (execPerstNDeassert s) :=
  keepsR_next h

theorem execEthLinkDown_keeps {s0 s : State} {t port} (h : Keeps s0 s) : KeepsR s0 (execEthLinkDown t port s) :=
  keepsR_next (setEth_keeps h)

theorem execEthLinkUp_keeps {s0 s : State} {t port} (h : Keeps s0 s) : KeepsR s0 (execEthLinkUp t port s) :=
  keepsR_next (keeps_ite (setEth_keeps h) h)

theorem execSmbKeyWrite_keeps {s0 s : State} {key pec} (h : Keeps s0 s) : KeepsR s0 (execSmbKeyWrite key pec s) :=
  keepsR_next (keeps_ite h h)

theorem execSmbKeyClear_keeps {s0 s : State} {v pec} (h : Keeps s0 s) : KeepsR s0 (execSmbKeyClear v pec s) :=
  keepsR_next (keeps_ite h h)

theorem execSmbRegisterWrite_keeps {s0 s : State} {code v pec} (h : Keeps s0 s) :
    KeepsR s0 (execSmbRegisterWrite code v pec s) :=
  keepsR_next (keeps_ite h h)

theorem execBoardData_keeps {s0 s : State} {w pec} (h : Keeps s0 s) : KeepsR s0 (execBoardData w pec s) :=
  keepsR_next (keeps_ite (boardAccess_keeps h) h)

theorem execBoardCommit_keeps {s0 s : State} {pec} (h : Keeps s0 s) : KeepsR s0 (execBoardCommit pec s) :=
  keepsR_next (keeps_ite h (keeps_ite h h))

theorem execBoardRecordWritten_keeps {s0 s : State} (h : Keeps s0 s) : KeepsR s0 (execBoardRecordWritten s) := by
  refine keepsR_next ?_
  split <;> exact h

theorem execJtagInstructionExit_keeps {s0 s : State} {t b} (h : Keeps s0 s) : KeepsR s0 (execJtagInstructionExit t b s) :=
  keepsR_next (keeps_ite (jtagRestart_keeps h) h)

/-! ### Fetches, datagrams, held and mirrored commands, recovery (R356-R374) -/

theorem execSqEntryFetch_keeps {s0 s : State} {t q e} (h : Keeps s0 s) : KeepsR s0 (execSqEntryFetch t q e s) :=
  keepsR_next (keeps_ite (fetchEntry_keeps h) h)

theorem execUdpDatagram_keeps {s0 s : State} {t port id a bytes} (h : Keeps s0 s) :
    KeepsR s0 (execUdpDatagram t port id a bytes s) :=
  keepsR_next (keeps_ite h (keeps_ite (bufferDatagram_keeps h) (takeDatagram_keeps h)))

theorem execUdpGap_keeps {s0 s : State} {t id u} (h : Keeps s0 s) : KeepsR s0 (execUdpGap t id u s) :=
  keepsR_next (keeps_ite (skipGap_keeps h) h)

theorem execDeferRetry_keeps {s0 s : State} {t src} (h : Keeps s0 s) : KeepsR s0 (execDeferRetry t src s) := by
  refine keepsR_next ?_
  split
  · exact keeps_ite h (drainPartner_keeps (retry_keeps h))
  · exact h

theorem execDeferTimeout_keeps {s0 s : State} {t src} (h : Keeps s0 s) : KeepsR s0 (execDeferTimeout t src s) := by
  refine keepsR_next ?_
  split
  · exact keeps_ite h (drainPartner_keeps (conclude_keeps (reject_keeps (unhold_keeps h))))
  · exact h

theorem execMirroredRequest_keeps {s0 s : State} {op r} (h : Keeps s0 s) : KeepsR s0 (execMirroredRequest op r s) :=
  keepsR_next (keeps_ite h (partnerRequest_keeps h))

theorem execMirrorReply_keeps {s0 s : State} {t st} (h : Keeps s0 s) : KeepsR s0 (execMirrorReply t st s) := by
  refine keepsR_next ?_
  split
  · exact keeps_ite h (mirrorDone_keeps h)
  · exact h

theorem execMirrorTimeout_keeps {s0 s : State} {t} (h : Keeps s0 s) : KeepsR s0 (execMirrorTimeout t s) := by
  refine keepsR_next ?_
  split
  · exact keeps_ite h (mirrorDone_keeps h)
  · exact h

theorem execRecovery_keeps {s0 s : State} {t cause unit e0 e1} (h : Keeps s0 s) :
    KeepsR s0 (execRecovery t cause unit e0 e1 s) := by
  refine keepsR_next (keeps_ite h ?_)
  extract_lets +onlyGivenNames started
  have hs : Keeps s0 started := keeps_ite (startRecovery_keeps h) h
  clear_value started
  split
  · exact drainPartner_keeps (finishRecovery_keeps hs)
  · exact hs

/-! ### The event queue and the streams (R319-R340) -/

theorem execEvtDataLoRead_keeps {s0 s : State} {t p} (h : Keeps s0 s) : KeepsR s0 (execEvtDataLoRead t p s) :=
  keepsR_next (keeps_ite (evtRead_keeps h) h)

theorem execEvtLostRead_keeps {s0 s : State} {d} (h : Keeps s0 s) : KeepsR s0 (execEvtLostRead d s) :=
  keepsR_next (keeps_ite (send_keeps h) h)

theorem execEvtMark_keeps {s0 s : State} (h : Keeps s0 s) : KeepsR s0 (execEvtMark s) :=
  keepsR_next (keeps_ite h h)

theorem execEvtRewind_keeps {s0 s : State} (h : Keeps s0 s) : KeepsR s0 (execEvtRewind s) :=
  keepsR_next (keeps_ite (riseCheck_keeps h) h)

theorem execEvtRelease_keeps {s0 s : State} (h : Keeps s0 s) : KeepsR s0 (execEvtRelease s) :=
  keepsR_next (keeps_ite (evtRelease_keeps h) h)

theorem execEvtFlush_keeps {s0 s : State} {t} (h : Keeps s0 s) : KeepsR s0 (execEvtFlush t s) :=
  keepsR_next (keeps_ite (evtFlush_keeps h) h)

theorem execEvtForwardSend_keeps {s0 s : State} {t room} (h : Keeps s0 s) : KeepsR s0 (execEvtForwardSend t room s) :=
  keepsR_next (keeps_ite h (keeps_ite h (sendDatagram_keeps h)))

theorem execBlockAgeExpiry_keeps {s0 s : State} {k} (h : Keeps s0 s) : KeepsR s0 (execBlockAgeExpiry k s) := by
  refine keepsR_next ?_
  split
  · exact keeps_ite (modStream_keeps h) (closeBlock_keeps h)
  · exact h

theorem execBlockSend_keeps {s0 s : State} {t k c room} (h : Keeps s0 s) : KeepsR s0 (execBlockSend t k c room s) := by
  refine keepsR_next (keeps_ite h ?_)
  split
  · exact h
  · extract_lets +onlyGivenNames x taken bytes sent full consumed told
    have ht : Keeps s0 taken := modStream_keeps h
    have hc : Keeps s0 told := modStream_keeps ht
    refine keeps_ite (keeps_ite (dropBlock_keeps hc) ?_) (keeps_ite (dropBlock_keeps ht) ?_)
    · exact blockIrq_keeps (modStream_keeps (writeToRing_keeps hc))
    · exact keeps_foldl (modStream_keeps ht) fun _ _ hu => sendDatagram_keeps hu

/-! ### Launches, drives and lines (R49-R89, R111-R145, R170) -/

theorem execLaunch_keeps {s0 s : State} (h : Keeps s0 s) : KeepsR s0 (execLaunch s) := by
  refine keepsR_next (keeps_ite ?_ (keeps_ite h (keeps_ite (boundary_keeps h) ?_)))
  · split
    · exact keeps_ite (surveyLaunch_keeps h) h
    · exact h
  · exact nextLaunch_keeps (launchSlot_keeps (takeSlot_keeps h))

theorem execDrainEnd_keeps {s0 s : State} (h : Keeps s0 s) : KeepsR s0 (execDrainEnd s) := by
  refine keepsR_next (keeps_ite h ?_)
  extract_lets +onlyGivenNames atEnd light begun
  have hb : Keeps s0 begun := beginSteps_keeps (restartAcc_keeps (restartAllSlots_keeps h))
  clear_value begun
  split
  · exact keeps_ite (keeps_ite (moveNow_keeps hb) hb) (keeps_iteThen hb moveNow_keeps)
  · exact hb

theorem execPortSwitchSettled_keeps {s0 s : State} (h : Keeps s0 s) : KeepsR s0 (execPortSwitchSettled s) := by
  refine keepsR_next ?_
  split
  · extract_lets +onlyGivenNames settled
    have hd : Keeps s0 settled := resetDark_keeps (resetChecks_keeps h)
    exact keeps_ite (surveyBack_keeps hd) (keeps_ite (homeSwitch_keeps hd) (loadRef_keeps hd))
  · exact h

theorem execCaseTempSample_keeps {s0 s : State} {t temp} (h : Keeps s0 s) : KeepsR s0 (execCaseTempSample t temp s) :=
  keepsR_next (keeps_ite h (newHeld_keeps (refreshDrives_keeps (retakeHeld_keeps (measureDrives_keeps h)))))

theorem execLdShortDetect_keeps {s0 s : State} {t ch d} (h : Keeps s0 s) : KeepsR s0 (execLdShortDetect t ch d s) :=
  keepsR_next (keeps_ite (retireDrive_keeps h) h)

theorem execSoaOpenConfirm_keeps {s0 s : State} {t d} (h : Keeps s0 s) : KeepsR s0 (execSoaOpenConfirm t d s) :=
  keepsR_next (keeps_ite (soaOpen_keeps h) h)

theorem execSoaProbe_keeps {s0 s : State} {t p} (h : Keeps s0 s) : KeepsR s0 (execSoaProbe t p s) :=
  keepsR_next (keeps_ite h (keeps_ite (keeps_ite (raise_keeps h) h)
    (keeps_ite (soaOpen_keeps h) (keeps_ite (soaOpen_keeps h) h))))

theorem execDasLine_keeps {s0 s : State} {d} (h : Keeps s0 s) : KeepsR s0 (execDasLine d s) := by
  refine keepsR_next ?_
  split
  · exact dasLine_keeps h
  · exact h

theorem execOchreLine_keeps {s0 s : State} {d} (h : Keeps s0 s) : KeepsR s0 (execOchreLine d s) := by
  refine keepsR_next ?_
  split
  · exact ochreLine_keeps h
  · exact h

theorem execOchreUpdate_keeps {s0 s : State} {t ringDrop} (h : Keeps s0 s) : KeepsR s0 (execOchreUpdate t ringDrop s) := by
  refine keepsR_next ?_
  split
  · exact h
  · exact flushPoints_keeps (lineToContexts_keeps (amonDts_keeps (dwellUpdate_keeps (ochreIssue_keeps h))))

theorem execAccumulationEnd_keeps {s0 s : State} (h : Keeps s0 s) : KeepsR s0 (execAccumulationEnd s) :=
  keepsR_next (endAccumulation_keeps h)

theorem execRawCaptureCopyDone_keeps {s0 s : State} {t gap} (h : Keeps s0 s) :
    KeepsR s0 (execRawCaptureCopyDone t gap s) := by
  refine keepsR_next ?_
  split
  · exact keeps_ite (rawDone_keeps h) h
  · exact h

theorem execSecondTick_keeps {s0 s : State} {t} (h : Keeps s0 s) : KeepsR s0 (execSecondTick t s) :=
  keepsR_next (keeps_ite h (timFeed_keeps (tickZones_keeps (statusSecond_keeps (epochItem_keeps h)))))

/-! ### Receivers, surveys and calibration (R35-R39, R102-R110, R174, R182-R198) -/

theorem execLaneSelfTestDone_keeps {s0 s : State} {t lane p} (h : Keeps s0 s) :
    KeepsR s0 (execLaneSelfTestDone t lane p s) :=
  keepsR_next (laneTested_keeps h)

theorem execRefLost_keeps {s0 s : State} {t p} (h : Keeps s0 s) : KeepsR s0 (execRefLost t p s) :=
  keepsR_next (keeps_ite h (drift_keeps (raise_keeps h)))

theorem execRefResume_keeps {s0 s : State} {t} (h : Keeps s0 s) : KeepsR s0 (execRefResume t s) :=
  keepsR_next h

theorem execSidebandLost_keeps {s0 s : State} {t p} (h : Keeps s0 s) : KeepsR s0 (execSidebandLost t p s) :=
  keepsR_next (keeps_ite h (raise_keeps h))

theorem execSidebandRecovered_keeps {s0 s : State} {t} (h : Keeps s0 s) : KeepsR s0 (execSidebandRecovered t s) :=
  keepsR_next (keeps_ite (restartAcc_keeps h) h)

theorem execSurveyDone_keeps {s0 s : State} {t d} (h : Keeps s0 s) : KeepsR s0 (execSurveyDone t d s) := by
  refine keepsR_next ?_
  split
  · split
    · exact keeps_ite h (keeps_iteThen (portSurveyed_keeps (storeSurvey_keeps h)) failEntry_keeps)
    · exact h
  · exact h

theorem execSurveyTimeout_keeps {s0 s : State} {t} (h : Keeps s0 s) : KeepsR s0 (execSurveyTimeout t s) := by
  refine keepsR_next ?_
  split
  · split
    · exact keeps_ite h (keeps_iteThen (portSurveyed_keeps h) failEntry_keeps)
    · exact h
  · exact h

theorem execCalStepDone_keeps {s0 s : State} {t d} (h : Keeps s0 s) : KeepsR s0 (execCalStepDone t d s) := by
  refine keepsR_next ?_
  split
  · split
    · exact advanceRun_keeps (leaveStep_keeps (applyStep_keeps h))
    · exact h
  · exact h

theorem execCalStepTimeout_keeps {s0 s : State} {t} (h : Keeps s0 s) : KeepsR s0 (execCalStepTimeout t s) := by
  refine keepsR_next ?_
  split
  · split
    · exact advanceRun_keeps (leaveStep_keeps h)
    · exact h
  · exact h

theorem execCalDrift_keeps {s0 s : State} {t k v} (h : Keeps s0 s) : KeepsR s0 (execCalDrift t k v s) :=
  keepsR_next (drift_keeps h)

/-! ### Inputs, alarm outputs and the interval unit (R219-R231, R402-R412) -/

theorem execTinEdge_keeps {s0 s : State} {t pin rising} (h : Keeps s0 s) : KeepsR s0 (execTinEdge t pin rising s) := by
  refine keepsR_next (keeps_ite h ?_)
  extract_lets +onlyGivenNames alarm levelled fed
  have hf : Keeps s0 fed := lockTin_keeps (timFeed_keeps h)
  clear_value fed
  exact keeps_ite hf (keeps_foldl hf fun _ _ hu => tinContext_keeps hu)

theorem execAlmPulseEnd_keeps {s0 s : State} {k} (h : Keeps s0 s) : KeepsR s0 (execAlmPulseEnd k s) :=
  keepsR_next (keeps_ite (alarmsBy_keeps h) h)

theorem execAlmsFrameEnd_keeps {s0 s : State} (h : Keeps s0 s) : KeepsR s0 (execAlmsFrameEnd s) := by
  refine keepsR_next ?_
  split
  · exact h
  · exact alarmsBy_keeps h

theorem execAlarmHoldoffEnd_keeps {s0 s : State} (h : Keeps s0 s) : KeepsR s0 (execAlarmHoldoffEnd s) := by
  refine keepsR_next ?_
  split
  · exact h
  · have hr (u : State) (hu : Keeps s0 u) : Keeps s0 (reqVector 2 u) := reqVector_keeps hu
    exact keeps_ite (keeps_ite (hr _ h) (hr _ h)) h

theorem execTimEdge_keeps {s0 s : State} {t code falling} (h : Keeps s0 s) : KeepsR s0 (execTimEdge t code falling s) :=
  keepsR_next (keeps_ite h (timFeed_keeps h))

theorem execTimWindowExpiry_keeps {s0 s : State} {t ch} (h : Keeps s0 s) : KeepsR s0 (execTimWindowExpiry t ch s) :=
  keepsR_next h

theorem execTimGateEnd_keeps {s0 s : State} {t ch} (h : Keeps s0 s) : KeepsR s0 (execTimGateEnd t ch s) :=
  keepsR_next h

theorem execTimSyncFail_keeps {s0 s : State} {t} (h : Keeps s0 s) : KeepsR s0 (execTimSyncFail t s) :=
  keepsR_next (keeps_ite (syncFail_keeps h) h)

theorem execTimMarkerLost_keeps {s0 s : State} {t} (h : Keeps s0 s) : KeepsR s0 (execTimMarkerLost t s) :=
  keepsR_next (keeps_ite (flywheel_keeps h) h)

/-! ### Zone cores and records (R226, R292-R303) -/

theorem execReadbackDone_keeps {s0 s : State} {t hd} (h : Keeps s0 s) : KeepsR s0 (execReadbackDone t hd s) := by
  refine keepsR_next ?_
  split
  · exact h
  · exact keeps_ite h (keeps_iteThen (modRec_keeps h) completeRec_keeps)

theorem execDone_keeps {s0 s : State} {c} (h : Keeps s0 s) : KeepsR s0 (execDone c s) :=
  keepsR_next (keeps_ite (endInv_keeps (modCore_keeps (fun _ _ hx => hx) h)) h)

theorem execZoneSampleToCore_keeps {s0 s : State} {c} (h : Keeps s0 s) : KeepsR s0 (execZoneSampleToCore c s) := by
  refine keepsR_next ?_
  split
  · exact h
  · exact keeps_ite (startNext_keeps (modCore_keeps (fun _ _ hx => hx) h))
      (deliver_keeps (modCore_keeps (fun _ _ hx => hx) h))

theorem execCoreBudgetCut_keeps {s0 s : State} {c} (h : Keeps s0 s) : KeepsR s0 (execCoreBudgetCut c s) := by
  refine keepsR_next ?_
  split
  · exact h
  · exact keeps_ite h (endInv_keeps (keeps_iteElse (modCore_keeps (fun _ _ hx => hx) h) raise_keeps))

theorem execCoreDeadline_keeps {s0 s : State} {k} (h : Keeps s0 s) : KeepsR s0 (execCoreDeadline k s) := by
  refine keepsR_next ?_
  split
  · split
    · exact markLate_keeps h
    · exact h
  · split
    · exact h
    · refine flushAlarms_keeps (finishJobs_keeps (modCtx_keeps ?_))
      split
      · exact markLate_keeps h
      · exact h

theorem execZcImemParity_keeps {s0 s : State} {t c addr} (h : Keeps s0 s) : KeepsR s0 (execZcImemParity t c addr s) :=
  keepsR_next (keeps_ite h (startRecovery_keeps (resetCore_keeps (modCore_keeps (fun _ _ hx => hx) h))))

theorem execZcDmemParity_keeps {s0 s : State} {t c addr} (h : Keeps s0 s) : KeepsR s0 (execZcDmemParity t c addr s) :=
  keepsR_next (keeps_ite h (raise_keeps (modCore_keeps (fun _ _ hx => hx) h)))

theorem execZcRetired_keeps {s0 s : State} {t c} (h : Keeps s0 s) : KeepsR s0 (execZcRetired t c s) :=
  keepsR_next (keeps_ite (retireCore_keeps (modCore_keeps (fun _ _ hx => hx) h)) h)

theorem execCoreMoveStart_keeps {s0 s : State} {t c} (h : Keeps s0 s) : KeepsR s0 (execCoreMoveStart t c s) := by
  refine keepsR_next ?_
  split
  · exact keeps_ite (modCore_keeps (fun _ _ hx => hx) h) h
  · exact h

/-! ### Sensors and record memory (R422-R440, R452-R470) -/

theorem execAmonVrefLow_keeps {s0 s : State} {t mv} (h : Keeps s0 s) : KeepsR s0 (execAmonVrefLow t mv s) :=
  keepsR_next (keeps_ite h (keeps_ite h (raise_keeps h)))

theorem execAuxResult_keeps {s0 s : State} {t ch raw det ringDrop} (h : Keeps s0 s) :
    KeepsR s0 (execAuxResult t ch raw det ringDrop s) := by
  unfold execAuxResult
  extract_lets +onlyGivenNames now n
  refine keepsR_next (keeps_ite h ?_)
  split
  split
  extract_lets +onlyGivenNames x fresh kept told stored opened woken coiled fed
  have hs : Keeps s0 stored := modAux_keeps h
  have ho : Keeps s0 opened := keeps_ite (raise_keeps hs) hs
  have hw : Keeps s0 woken := keeps_ite (requestWake_keeps (keepWake_keeps ho)) ho
  have hc : Keeps s0 coiled := keeps_ite (coilResult_keeps hw) hw
  exact auxLines_keeps (amonFeed_keeps hc)

theorem execRefResistorCheck_keeps {s0 s : State} {t} (h : Keeps s0 s) : KeepsR s0 (execRefResistorCheck t s) :=
  keepsR_next (keeps_ite (measureRef_keeps h) h)

theorem execMemEccUncorr_keeps {s0 s : State} {t frame offset reader rec word} (h : Keeps s0 s) :
    KeepsR s0 (execMemEccUncorr t frame offset reader rec word s) := by
  refine keepsR_next ?_
  split
  · exact h
  · extract_lets +onlyGivenNames touched c burst near counted raised marked
    have hr : Keeps s0 raised := raise_keeps (modMem_keeps (touch_keeps h))
    have hm : Keeps s0 marked := by
      subst marked
      split
      · exact keeps_ite hr (modRec_keeps hr)
      · exact hr
    exact keeps_ite (disableChannels_keeps (modMem_keeps hm)) hm

theorem execScrubPass_keeps {s0 s : State} {t ch n} (h : Keeps s0 s) : KeepsR s0 (execScrubPass t ch n s) :=
  keepsR_next (keeps_ite h (keeps_ite (modMem_keeps h) (raise_keeps (State.took_keeps (modMem_keeps h)))))

theorem execPhyFault_keeps {s0 s : State} {t ch} (h : Keeps s0 s) : KeepsR s0 (execPhyFault t ch s) :=
  keepsR_next (disableChannels_keeps h)

theorem execRtDropEpisodeEnd_keeps {s0 s : State} {t} (h : Keeps s0 s) : KeepsR s0 (execRtDropEpisodeEnd t s) :=
  keepsR_next (keeps_ite h h)

theorem execRefreshDue_keeps {s0 s : State} {ch bank idle} (h : Keeps s0 s) : KeepsR s0 (execRefreshDue ch bank idle s) :=
  keepsR_next (keeps_ite h (keeps_ite (send_keeps (modMem_keeps h)) (modMem_keeps h)))

theorem execSelfRefreshReturn_keeps {s0 s : State} {ch} (h : Keeps s0 s) : KeepsR s0 (execSelfRefreshReturn ch s) :=
  keepsR_next (keeps_ite (modMem_keeps h) h)

theorem execMemTrainChannelDone_keeps {s0 s : State} {t d} (h : Keeps s0 s) :
    KeepsR s0 (execMemTrainChannelDone t d s) := by
  refine keepsR_next ?_
  split
  · split
    · extract_lets +onlyGivenNames r was x sec done back
      have hd : Keeps s0 done := modMem_keeps h
      refine keeps_ite (nextTraining_keeps ?_) (keeps_ite (keeps_ite ?_ ?_) ?_)
      · exact keeps_ite (modMem_keeps hd) (returnChannel_keeps hd)
      · exact nextTraining_keeps hd
      · exact nextTraining_keeps (disableChannels_keeps hd)
      · exact nextTraining_keeps (modMem_keeps hd)
    · exact endTraining_keeps h
  · exact h

theorem execMemTrainReq_keeps {s0 s : State} {t ch} (h : Keeps s0 s) : KeepsR s0 (execMemTrainReq t ch s) :=
  keepsR_next (keeps_ite h (raise_keeps (modMem_keeps h)))

/-! ### Time (R387-R400) -/

theorem execPtpMessage_keeps {s0 s : State} {t d m} (h : Keeps s0 s) : KeepsR s0 (execPtpMessage t d m s) := by
  refine keepsR_next (keeps_ite h ?_)
  split
  · exact keeps_ite (setDomain_keeps h) h
  · exact keeps_ite (takePair_keeps h) h

theorem execAnnounceTimeout_keeps {s0 s : State} {t d} (h : Keeps s0 s) : KeepsR s0 (execAnnounceTimeout t d s) :=
  keepsR_next (keeps_ite (loseDomain_keeps h) h)

theorem execLossTimeout_keeps {s0 s : State} {t d} (h : Keeps s0 s) : KeepsR s0 (execLossTimeout t d s) :=
  keepsR_next (keeps_ite (loseDomain_keeps h) h)

theorem execDomainRevert_keeps {s0 s : State} {t} (h : Keeps s0 s) : KeepsR s0 (execDomainRevert t s) :=
  keepsR_next (revertDue_keeps h)

theorem execSlewDone_keeps {s0 s : State} {t} (h : Keeps s0 s) : KeepsR s0 (execSlewDone t s) :=
  keepsR_next (keeps_ite h (rebase_keeps h))

theorem execOcxoAverage_keeps {s0 s : State} {t f} (h : Keeps s0 s) : KeepsR s0 (execOcxoAverage t f s) :=
  keepsR_next (ocxoCheck_keeps h)

theorem execOcxoRdyChange_keeps {s0 s : State} {t l} (h : Keeps s0 s) : KeepsR s0 (execOcxoRdyChange t l s) :=
  keepsR_next (keeps_ite (ocxoCheck_keeps h) h)

theorem execOcxoLost_keeps {s0 s : State} {t} (h : Keeps s0 s) : KeepsR s0 (execOcxoLost t s) :=
  keepsR_next (raise_keeps h)

theorem execOcxoSignalReturn_keeps {s0 s : State} {t} (h : Keeps s0 s) : KeepsR s0 (execOcxoSignalReturn t s) :=
  keepsR_next (endBound_keeps h)

/-! ### The pair (R503-R517) -/

theorem execPartnerLost_keeps {s0 s : State} {t} (h : Keeps s0 s) : KeepsR s0 (execPartnerLost t s) :=
  keepsR_next (keeps_ite h (declareLost_keeps h))

theorem execThruWindowEnd_keeps {s0 s : State} {t slot p d} (h : Keeps s0 s) : KeepsR s0 (execThruWindowEnd t slot p d s) :=
  keepsR_next (keeps_ite h (thruWindow_keeps h))

theorem execHeartbeatTx_keeps {s0 s : State} (h : Keeps s0 s) : KeepsR s0 (execHeartbeatTx s) :=
  keepsR_next (keeps_ite (send_keeps h) h)

theorem execHeartbeatRx_keeps {s0 s : State} {t hb} (h : Keeps s0 s) : KeepsR s0 (execHeartbeatRx t hb s) :=
  keepsR_next (keeps_ite (heartbeat_keeps h) h)

theorem execPairLaneDown_keeps {s0 s : State} {t lane} (h : Keeps s0 s) : KeepsR s0 (execPairLaneDown t lane s) :=
  keepsR_next (keeps_ite (pairFault_keeps (keeps_ite h h)) h)

theorem execPlinkUp_keeps {s0 s : State} {t hello} (h : Keeps s0 s) : KeepsR s0 (execPlinkUp t hello s) :=
  keepsR_next (keeps_ite (linkUp_keeps h) h)

/-! ### Management controllers (R494-R502) -/

theorem execMgmtWatchdog_keeps {s0 s : State} {t} (h : Keeps s0 s) : KeepsR s0 (execMgmtWatchdog t s) :=
  keepsR_next (keeps_ite (controllerFails_keeps h) h)

theorem execMgmtLockstep_keeps {s0 s : State} {t} (h : Keeps s0 s) : KeepsR s0 (execMgmtLockstep t s) :=
  keepsR_next (keeps_ite (controllerFails_keeps h) h)

theorem execMgmtTakeover_keeps {s0 s : State} {t} (h : Keeps s0 s) : KeepsR s0 (execMgmtTakeover t s) := by
  refine keepsR_next ?_
  split
  · exact keeps_ite (takeControl_keeps h) h
  · exact h

theorem execMgmtRetestDone_keeps {s0 s : State} {t p} (h : Keeps s0 s) : KeepsR s0 (execMgmtRetestDone t p s) :=
  keepsR_next (keeps_ite (retested_keeps h) h)

theorem execMgmtNoController_keeps {s0 s : State} {t} (h : Keeps s0 s) : KeepsR s0 (execMgmtNoController t s) :=
  keepsR_next (keeps_ite h (keeps_mk (fatalSafe_keeps h)))

theorem execCommandPathRestart_keeps {s0 s : State} {t} (h : Keeps s0 s) : KeepsR s0 (execCommandPathRestart t s) := by
  refine keepsR_next (keeps_ite ?_ h)
  extract_lets +onlyGivenNames taken
  have ht : Keeps s0 taken := takeBuffers_keeps h
  exact startRecovery_keeps (bootController_keeps ht)

theorem execFwUpdateDone_keeps {s0 s : State} {t v r} (h : Keeps s0 s) : KeepsR s0 (execFwUpdateDone t v r s) := by
  refine keepsR_next ?_
  split
  · exact keeps_ite h (finishUpdate_keeps h)
  · exact h

theorem execSelfTestDone_keeps {s0 s : State} {t d} (h : Keeps s0 s) : KeepsR s0 (execSelfTestDone t d s) := by
  refine keepsR_next ?_
  split
  · exact keeps_ite h (finishTests_keeps h)
  · exact h

/-! ### Modes, power and supplies (R526-R547, R588-R597) -/

theorem execModeChange_keeps {s0 s : State} {t} (h : Keeps s0 s) : KeepsR s0 (execModeChange t s) :=
  keepsR_next (endTransition_keeps h)

theorem execWakeN_keeps {s0 s : State} {t} (h : Keeps s0 s) : KeepsR s0 (execWakeN t s) :=
  keepsR_next (requestWake_keeps h)

theorem execWakeTimer_keeps {s0 s : State} {t} (h : Keeps s0 s) : KeepsR s0 (execWakeTimer t s) :=
  keepsR_next (keeps_ite h (keeps_ite (requestWake_keeps h) (keeps_ite h h)))

theorem execWake_keeps {s0 s : State} {t b} (h : Keeps s0 s) : KeepsR s0 (execWake t b s) := by
  refine keepsR_next ?_
  split
  · exact keeps_ite (wakeUp_keeps h) h
  · exact h

theorem execDutyDwellEnd_keeps {s0 s : State} {t} (h : Keeps s0 s) : KeepsR s0 (execDutyDwellEnd t s) := by
  refine keepsR_next ?_
  split
  · exact keeps_ite h h
  · exact h

theorem execDutyLingerEnd_keeps {s0 s : State} {t} (h : Keeps s0 s) : KeepsR s0 (execDutyLingerEnd t s) := by
  refine keepsR_next ?_
  split
  · exact keeps_ite (beginTransition_keeps h) h
  · exact h

theorem execThermalTrip_keeps {s0 s : State} {t e temp} (h : Keeps s0 s) : KeepsR s0 (execThermalTrip t e temp s) :=
  keepsR_next (keeps_ite (fatalSafe_keeps (keeps_ite h h)) h)

theorem execTecLimit_keeps {s0 s : State} {t d c} (h : Keeps s0 s) : KeepsR s0 (execTecLimit t d c s) :=
  keepsR_next (keeps_ite h (raise_keeps h))

theorem execRefclkLost_keeps {s0 s : State} {t} (h : Keeps s0 s) : KeepsR s0 (execRefclkLost t s) :=
  keepsR_next (keeps_ite (fatalSafe_keeps h) h)

theorem execXtalFail_keeps {s0 s : State} {t st} (h : Keeps s0 s) : KeepsR s0 (execXtalFail t st s) :=
  keepsR_next (keeps_ite (raise_keeps h) h)

theorem execXtalRestored_keeps {s0 s : State} {t} (h : Keeps s0 s) : KeepsR s0 (execXtalRestored t s) :=
  keepsR_next (keeps_ite h (endBound_keeps h))

theorem execSupplyFault_keeps {s0 s : State} {t supply mv us} (h : Keeps s0 s) :
    KeepsR s0 (execSupplyFault t supply mv us s) := by
  refine keepsR_next (keeps_ite h ?_)
  split
  · exact h
  · exact supplyLost_keeps h

theorem execSupplyRestored_keeps {s0 s : State} {t b} (h : Keeps s0 s) : KeepsR s0 (execSupplyRestored t b s) := by
  refine keepsR_next ?_
  split
  · exact tellStart_keeps (startRecovery_keeps (startDomains_keeps (resetSettings_keeps (timeWake_keeps h))))
  · exact h

theorem execPowerDown_keeps {s0 s : State} (h : Keeps s0 s) : KeepsR s0 (execPowerDown s) :=
  keepsR_next (offState_keeps h)

theorem execStartUpAbort_keeps {s0 s : State} (h : Keeps s0 s) : KeepsR s0 (execStartUpAbort s) :=
  keepsR_next (keeps_ite (offState_keeps h) h)

theorem execPowerUp_keeps {s0 s : State} {t b} (h : Keeps s0 s) : KeepsR s0 (execPowerUp t b s) := by
  have ho : Keeps s0 (offState s) := offState_keeps h
  exact keepsR_next (keeps_ite (tellStart_keeps (startDomains_keeps ho)) h)

/-! ### Every command, every step -/

/-- An instruction of a zone core keeps the canonical form: registers hold no memory, a store writes by `Memory.setHalf`. -/
theorem coreRow_keeps {s0 s : State} {i : Instr} {c : Fin 32} (hi : coreInstr i = some c) (h : Keeps s0 s) :
    KeepsR s0 (exec i s) := by
  cases i with
  | nopInstr | setlc | setb | movi | movhi | mov | movp | movm | movpd | movdp | addi | add | sub | cmpd | cmpi
  | cmpa | addp | cmpad | clr | macd | msud | addAcc | subAcc | shr | shl | absA | mova | movd | clrst =>
    unfold exec; exact stepData_keeps (fun _ hx => by exact hx) h
  | ld | ldw =>
    unfold exec; exact stepData_keeps (fun _ hx => by exact Core.memOk_modify (Core.memOk_setReg hx _ _) _ _ _) h
  | lda => unfold exec; exact stepData_keeps (fun _ hx => by exact Core.memOk_modify (Core.memOk_withAcc hx _) _ _ _) h
  | mac | msu | mac2 =>
    unfold exec; exact stepData_keeps (fun _ hx => by exact Core.memOk_macModify (Core.memOk_setAcc hx _ _) _ _) h
  | st => unfold exec; exact stepData_keeps (fun _ hx => by exact Core.memOk_storeHalf hx _ _) h
  | stw => unfold exec; exact stepData_keeps (fun _ hx => by exact Core.memOk_storeWord hx _ _) h
  | sta =>
    unfold exec
    exact stepData_keeps (fun _ hx => by exact Core.memOk_narrowed (fun _ _ hy => Core.memOk_storeHalf hy _ _) hx) h
  | staw =>
    unfold exec
    exact stepData_keeps (fun _ hx => by exact Core.memOk_narrowed (fun _ _ hy => Core.memOk_storeWord hy _ _) hx) h
  | repeatI => unfold exec; exact stepControl_keeps (fun _ hx => by exact hx) h
  | dbnz =>
    unfold exec
    exact stepControl_keeps (fun x hx => by exact Core.memOk_branch (x := { x with lc := x.lc - 1 }) hx _ _) h
  | br | bcc => unfold exec; exact stepControl_keeps (fun _ hx => by exact Core.memOk_branch hx _ _) h
  | _ => cases hi

/-- What a row keeps: a request what its own command keeps, a row of the device what its lemma above says, an instruction of a
zone core the canonical form of the memories it stores to. -/
theorem exec_keeps {s0 s : State} (i : Instr) (h : Keeps s0 s) : KeepsR s0 (exec i s) := by
  cases i with
  | nop r => exact performRow_keeps (fun _ _ => cmdNop_keeps) h
  | getCaps r => exact performRow_keeps (fun _ _ => cmdGetCaps_keeps) h
  | getStatus r => exact performRow_keeps (fun _ _ => cmdGetStatus_keeps) h
  | setMode r => exact performRow_keeps (fun _ _ => cmdSetMode_keeps) h
  | resetUnit r => exact performRow_keeps (fun _ _ => cmdResetUnit_keeps) h
  | setNode r => exact performRow_keeps (fun _ _ => cmdSetNode_keeps) h
  | getLog r => exact performRow_keeps (fun _ _ => cmdGetLog_keeps) h
  | launchCfg r => exact performRow_keeps (fun _ _ => cmdLaunchCfg_keeps) h
  | slotCfg r => exact performRow_keeps (fun _ _ => cmdSlotCfg_keeps) h
  | lightCfg r => exact performRow_keeps (fun _ _ => cmdLightCfg_keeps) h
  | portSelect r => exact performRow_keeps (fun _ _ => cmdPortSelect_keeps) h
  | gambitRun r => exact performRow_keeps (fun _ _ => cmdGambitRun_keeps) h
  | gambitRead r => exact performRow_keeps (fun _ _ => cmdGambitRead_keeps) h
  | aprCfg r => exact performRow_keeps (fun _ _ => cmdAprCfg_keeps) h
  | indigoCfg r => exact performRow_keeps (fun _ _ => cmdIndigoCfg_keeps) h
  | zoneMapLoad r => exact performRow_keeps (fun _ _ => cmdZoneMapLoad_keeps) h
  | zoneMapRead r => exact performRow_keeps (fun _ _ => cmdZoneMapRead_keeps) h
  | ochreCfg r => exact performRow_keeps (fun _ _ => cmdOchreCfg_keeps) h
  | ochreRead r => exact performRow_keeps (fun _ _ => cmdOchreRead_keeps) h
  | refCoilCfg r => exact performRow_keeps (fun _ _ => cmdRefCoilCfg_keeps) h
  | ctxSet r => exact performRow_keeps (fun _ _ => cmdCtxSet_keeps) h
  | ctxGet r => exact performRow_keeps (fun _ _ => cmdCtxGet_keeps) h
  | ctxArm r => exact performRow_keeps (fun _ _ => cmdCtxArm_keeps) h
  | ctxDisarm r => exact performRow_keeps (fun _ _ => cmdCtxDisarm_keeps) h
  | patternSet r => exact performRow_keeps (fun _ _ => cmdPatternSet_keeps) h
  | threshLoad r => exact performRow_keeps (fun _ _ => cmdThreshLoad_keeps) h
  | alarmRoute r => exact performRow_keeps (fun _ _ => cmdAlarmRoute_keeps) h
  | recList r => exact performRow_keeps (fun _ _ => cmdRecList_keeps) h
  | recFetch r => exact performRow_keeps (fun _ _ => cmdRecFetch_keeps) h
  | recRelease r => exact performRow_keeps (fun _ _ => cmdRecRelease_keeps) h
  | poolCfg r => exact performRow_keeps (fun _ _ => cmdPoolCfg_keeps) h
  | coreLoad r => exact performRow_keeps (fun _ _ => cmdCoreLoad_keeps) h
  | coreStart r => exact performRow_keeps (fun _ _ => cmdCoreStart_keeps) h
  | coreStop r => exact performRow_keeps (fun _ _ => cmdCoreStop_keeps) h
  | coreRead r => exact performRow_keeps (fun _ _ => cmdCoreRead_keeps) h
  | streamCfg r => exact performRow_keeps (fun _ _ => cmdStreamCfg_keeps) h
  | streamSave r => exact performRow_keeps (fun _ _ => cmdStreamSave_keeps) h
  | streamRestore r => exact performRow_keeps (fun _ _ => cmdStreamRestore_keeps) h
  | bulkLoad r => exact performRow_keeps (fun _ _ => cmdBulkLoad_keeps) h
  | ptpCfg r => exact performRow_keeps (fun _ _ => cmdPtpCfg_keeps) h
  | ptpStatus r => exact performRow_keeps (fun _ _ => cmdPtpStatus_keeps) h
  | timeGet r => exact performRow_keeps (fun _ _ => cmdTimeGet_keeps) h
  | domainSelect r => exact performRow_keeps (fun _ _ => cmdDomainSelect_keeps) h
  | timCfg r => exact performRow_keeps (fun _ _ => cmdTimCfg_keeps) h
  | timRead r => exact performRow_keeps (fun _ _ => cmdTimRead_keeps) h
  | launchSync r => exact performRow_keeps (fun _ _ => cmdLaunchSync_keeps) h
  | calRun r => exact performRow_keeps (fun _ _ => cmdCalRun_keeps) h
  | calSave r => exact performRow_keeps (fun _ _ => cmdCalSave_keeps) h
  | calRestore r => exact performRow_keeps (fun _ _ => cmdCalRestore_keeps) h
  | calQuality r => exact performRow_keeps (fun _ _ => cmdCalQuality_keeps) h
  | memStatus r => exact performRow_keeps (fun _ _ => cmdMemStatus_keeps) h
  | memTrain r => exact performRow_keeps (fun _ _ => cmdMemTrain_keeps) h
  | memMap r => exact performRow_keeps (fun _ _ => cmdMemMap_keeps) h
  | auxCfg r => exact performRow_keeps (fun _ _ => cmdAuxCfg_keeps) h
  | auxRead r => exact performRow_keeps (fun _ _ => cmdAuxRead_keeps) h
  | amonCfg r => exact performRow_keeps (fun _ _ => cmdAmonCfg_keeps) h
  | pairCfg r => exact performRow_keeps (fun _ _ => cmdPairCfg_keeps) h
  | pairStatus r => exact performRow_keeps (fun _ _ => cmdPairStatus_keeps) h
  | castle r => exact performRow_keeps (fun _ _ => cmdCastle_keeps) h
  | faultRead r => exact performRow_keeps (fun _ _ => cmdFaultRead_keeps) h
  | faultClear r => exact performRow_keeps (fun _ _ => cmdFaultClear_keeps) h
  | spareStatus r => exact performRow_keeps (fun _ _ => cmdSpareStatus_keeps) h
  | rawCapture r => exact performRow_keeps (fun _ _ => cmdRawCapture_keeps) h
  | selfTest r => exact performRow_keeps (fun _ _ => cmdSelfTest_keeps) h
  | fwUpdate r => exact performRow_keeps (fun _ _ => cmdFwUpdate_keeps) h
  | fence r => exact keepsR_next (fenceRow_keeps h)
  | nopInstr | setlc | setb | movi | movhi | mov | movp | movm | movpd | movdp | addi | add | sub | cmpd | cmpi
  | cmpa | addp | cmpad | clr | macd | msud | addAcc | subAcc | shr | shl | absA | mova | movd | clrst | ld | ldw
  | lda | mac | msu | mac2 | st | stw | sta | staw | repeatI | dbnz | br | bcc =>
    exact coreRow_keeps rfl h
  | sqTailWrite => exact execSqTailWrite_keeps h
  | cqHeadWrite => exact execCqHeadWrite_keeps h
  | queueBaseSizeWrite => exact execQueueBaseSizeWrite_keeps h
  | enable => exact execEnable_keeps h
  | flush => exact execFlush_keeps h
  | keyLoad => exact execKeyLoad_keeps h
  | keyClear => exact execKeyClear_keeps h
  | w1cClear => exact execW1cClear_keeps h
  | registerWrite => exact execRegisterWrite_keeps h
  | evtDataLoRead => exact execEvtDataLoRead_keeps h
  | evtLostRead => exact execEvtLostRead_keeps h
  | evtMark => exact execEvtMark_keeps h
  | evtRewind => exact execEvtRewind_keeps h
  | evtRelease => exact execEvtRelease_keeps h
  | evtFlush => exact execEvtFlush_keeps h
  | smbKeyWrite => exact execSmbKeyWrite_keeps h
  | smbKeyClear => exact execSmbKeyClear_keeps h
  | boardData => exact execBoardData_keeps h
  | boardCommit => exact execBoardCommit_keeps h
  | smbRegisterWrite => exact execSmbRegisterWrite_keeps h
  | boardRecordWritten => exact execBoardRecordWritten_keeps h
  | pcieReset => exact execPcieReset_keeps h
  | sqEntryFetch => exact execSqEntryFetch_keeps h
  | udpDatagram => exact execUdpDatagram_keeps h
  | udpGap => exact execUdpGap_keeps h
  | deferRetry => exact execDeferRetry_keeps h
  | deferTimeout => exact execDeferTimeout_keeps h
  | mirroredRequest => exact execMirroredRequest_keeps h
  | mirrorReply => exact execMirrorReply_keeps h
  | mirrorTimeout => exact execMirrorTimeout_keeps h
  | recovery => exact execRecovery_keeps h
  | launch => exact execLaunch_keeps h
  | drainEnd => exact execDrainEnd_keeps h
  | dasLine => exact execDasLine_keeps h
  | laneSelfTestDone => exact execLaneSelfTestDone_keeps h
  | refLost => exact execRefLost_keeps h
  | refResume => exact execRefResume_keeps h
  | caseTempSample => exact execCaseTempSample_keeps h
  | ldShortDetect => exact execLdShortDetect_keeps h
  | soaOpenConfirm => exact execSoaOpenConfirm_keeps h
  | soaProbe => exact execSoaProbe_keeps h
  | surveyDone => exact execSurveyDone_keeps h
  | surveyTimeout => exact execSurveyTimeout_keeps h
  | portSwitchSettled => exact execPortSwitchSettled_keeps h
  | ochreLine => exact execOchreLine_keeps h
  | accumulationEnd => exact execAccumulationEnd_keeps h
  | ochreUpdate => exact execOchreUpdate_keeps h
  | sidebandLost => exact execSidebandLost_keeps h
  | sidebandRecovered => exact execSidebandRecovered_keeps h
  | calStepDone => exact execCalStepDone_keeps h
  | calStepTimeout => exact execCalStepTimeout_keeps h
  | calDrift => exact execCalDrift_keeps h
  | tinEdge => exact execTinEdge_keeps h
  | almPulseEnd => exact execAlmPulseEnd_keeps h
  | almsFrameEnd => exact execAlmsFrameEnd_keeps h
  | alarmHoldoffEnd => exact execAlarmHoldoffEnd_keeps h
  | readbackDone => exact execReadbackDone_keeps h
  | zoneSampleToCore => exact execZoneSampleToCore_keeps h
  | coreBudgetCut => exact execCoreBudgetCut_keeps h
  | coreDeadline => exact execCoreDeadline_keeps h
  | zcImemParity => exact execZcImemParity_keeps h
  | zcDmemParity => exact execZcDmemParity_keeps h
  | zcRetired => exact execZcRetired_keeps h
  | coreMoveStart => exact execCoreMoveStart_keeps h
  | done => exact execDone_keeps h
  | blockAgeExpiry => exact execBlockAgeExpiry_keeps h
  | blockSend => exact execBlockSend_keeps h
  | evtForwardSend => exact execEvtForwardSend_keeps h
  | secondTick => exact execSecondTick_keeps h
  | ptpMessage => exact execPtpMessage_keeps h
  | announceTimeout => exact execAnnounceTimeout_keeps h
  | lossTimeout => exact execLossTimeout_keeps h
  | domainRevert => exact execDomainRevert_keeps h
  | ocxoAverage => exact execOcxoAverage_keeps h
  | ocxoRdyChange => exact execOcxoRdyChange_keeps h
  | ocxoLost => exact execOcxoLost_keeps h
  | timEdge => exact execTimEdge_keeps h
  | timWindowExpiry => exact execTimWindowExpiry_keeps h
  | timGateEnd => exact execTimGateEnd_keeps h
  | timMarkerLost => exact execTimMarkerLost_keeps h
  | timSyncFail => exact execTimSyncFail_keeps h
  | auxResult => exact execAuxResult_keeps h
  | amonVrefLow => exact execAmonVrefLow_keeps h
  | refreshDue => exact execRefreshDue_keeps h
  | scrubPass => exact execScrubPass_keeps h
  | memEccUncorr => exact execMemEccUncorr_keeps h
  | phyFault => exact execPhyFault_keeps h
  | memTrainChannelDone => exact execMemTrainChannelDone_keeps h
  | memTrainReq => exact execMemTrainReq_keeps h
  | rtDropEpisodeEnd => exact execRtDropEpisodeEnd_keeps h
  | mgmtWatchdog => exact execMgmtWatchdog_keeps h
  | mgmtLockstep => exact execMgmtLockstep_keeps h
  | mgmtTakeover => exact execMgmtTakeover_keeps h
  | mgmtRetestDone => exact execMgmtRetestDone_keeps h
  | mgmtNoController => exact execMgmtNoController_keeps h
  | commandPathRestart => exact execCommandPathRestart_keeps h
  | fwUpdateDone => exact execFwUpdateDone_keeps h
  | selfTestDone => exact execSelfTestDone_keeps h
  | heartbeatTx => exact execHeartbeatTx_keeps h
  | heartbeatRx => exact execHeartbeatRx_keeps h
  | partnerLost => exact execPartnerLost_keeps h
  | pairLaneDown => exact execPairLaneDown_keeps h
  | plinkUp => exact execPlinkUp_keeps h
  | thruWindowEnd => exact execThruWindowEnd_keeps h
  | modeChange => exact execModeChange_keeps h
  | wakeN => exact execWakeN_keeps h
  | wakeTimer => exact execWakeTimer_keeps h
  | wake => exact execWake_keeps h
  | dutyDwellEnd => exact execDutyDwellEnd_keeps h
  | dutyLingerEnd => exact execDutyLingerEnd_keeps h
  | thermalTrip => exact execThermalTrip_keeps h
  | tecLimit => exact execTecLimit_keeps h
  | refclkLost => exact execRefclkLost_keeps h
  | supplyFault => exact execSupplyFault_keeps h
  | supplyRestored => exact execSupplyRestored_keeps h
  | xtalFail => exact execXtalFail_keeps h
  | xtalRestored => exact execXtalRestored_keeps h
  | powerUp => exact execPowerUp_keeps h
  | startUpAbort => exact execStartUpAbort_keeps h
  | powerDown => exact execPowerDown_keeps h
  | ethLinkDown => exact execEthLinkDown_keeps h
  | jtagInstructionExit => exact execJtagInstructionExit_keeps h
  | ocxoSignalReturn => exact execOcxoSignalReturn_keeps h
  | ethLinkUp => exact execEthLinkUp_keeps h
  | selfRefreshReturn => exact execSelfRefreshReturn_keeps h
  | rawCaptureCopyDone => exact execRawCaptureCopyDone_keeps h
  | slewDone => exact execSlewDone_keeps h
  | refResistorCheck => exact execRefResistorCheck_keeps h
  | perstNDeassert => exact execPerstNDeassert_keeps h

/-- No row is a fault or refused: each of the 238 commands comes to a next state. -/
theorem exec_completes (i : Instr) (s : State) : ∃ t, exec i s = .next t := by
  cases i <;> exact ⟨_, rfl⟩

/-- What every command comes to. -/
theorem exec_next_keeps (i : Instr) (s : State) : ∃ t, exec i s = .next t ∧ Keeps s t := by
  obtain ⟨t, ht⟩ := exec_completes i s
  exact ⟨t, ht, exec_keeps i (keeps_refl s) t ht⟩

/-- A step takes the command at the front and keeps the rest of the queue. -/
theorem step_next_keeps (s : State) : ∃ t, step s = .next t ∧ Keeps { s with pending := s.pending.tail } t := by
  unfold step
  split
  next hp => exact ⟨s, rfl, by simp [hp], rfl, id⟩
  next c rest hp =>
    rw [hp]
    exact exec_next_keeps c _

/-- Settles O60: every row keeps what `Keeps` names, and a step is a row on the state with the rest of the queue. -/
theorem everyStep : Obligations.EveryStep := by
  unfold Obligations.EveryStep
  exact ⟨exec_next_keeps, step_next_keeps⟩

end Sys2Proof.Machine
end

section
/-! PROOFS. The checks that every command has, in their order, and a busy command (O52). Built on Laws/Command.lean. -/

namespace Sys2Proof.Machine

open Sys2Proof

/-! ### Header checks (R350 steps 5 to 8, R366, R370, R537) -/

@[simp] theorem firstFail_true (st : Nat) (rest : List (Bool × Nat)) : firstFail ((true, st) :: rest) = some st := rfl
@[simp] theorem firstFail_false (st : Nat) (rest : List (Bool × Nat)) : firstFail ((false, st) :: rest) = firstFail rest := rfl
@[simp] theorem firstFail_nil : firstFail [] = none := rfl

/-- A request whose turn has not come changes nothing but the time. -/
theorem perform_notItsTurn {sp : CmdSpec} {body : Fetched → State → Ans} {r : Req} {s : State}
    (h : ((arrived r s).pathDown || (arrived r s).cmd.recovery.isSome || passedOver (reqOf sp r s) (arrived r s)) = true) :
    perform sp body r s = arrived r s := by
  unfold perform
  simp only [reqOf, arrived] at *
  rw [if_pos h]

/-- During an entry to sleep a command that is not fitted is answered so (R4). -/
theorem perform_sleepEntry_notFitted {sp : CmdSpec} {body : Fetched → State → Ans} {r : Req} {s : State}
    (h1 : ((arrived r s).pathDown || (arrived r s).cmd.recovery.isSome || passedOver (reqOf sp r s) (arrived r s)) = false)
    (h2 : preCheck sp (reqOf sp r s) (begun r s) = none)
    (h4 : (body (reqOf sp r s) (begun r s)).status = St.notFitted) :
    perform sp body r s = conclude (reqOf sp r s) (body (reqOf sp r s) (begun r s)) false := by
  unfold perform
  simp only [reqOf, begun, arrived] at *
  rw [if_neg (by simp only [h1]; decide), attempt, toFetched_src, h2]
  simp [h4, St.notFitted, St.busy]

theorem and_not_eq_false {a b : Bool} : (a && !b) = false ↔ a = false ∨ b = true := by
  rw [Bool.and_eq_false_iff, Bool.not_eq_false']

theorem notHeld_iff {sp : CmdSpec} {r : Req} {s : State} {a : Ans} :
    NotHeld sp r s a ↔ a.status ≠ St.busy ∨ (reqOf sp r s).has flDefer = false := by
  unfold NotHeld
  rw [Bool.and_eq_false_iff, decide_eq_false_iff_not]

section
variable {sp : CmdSpec} {f : Fetched} {u : State}

theorem preCheck_bootRom (hb : (u.mgmt.bootRom && !sp.bootRom) = true) : preCheck sp f u = some St.wrongMode := by
  simp only [preCheck, hb, firstFail_true]

theorem preCheck_mirrorUnfitted (hb : (u.mgmt.bootRom && !sp.bootRom) = false)
    (hm : (f.has flMirror && !u.pairFitted) = true) : preCheck sp f u = some St.notFitted := by
  simp only [preCheck, hb, hm, firstFail_true, firstFail_false]

theorem preCheck_reserved (hb : (u.mgmt.bootRom && !sp.bootRom) = false) (hm : (f.has flMirror && !u.pairFitted) = false)
    (hr : (f.has 6 || f.has 7 || f.rsv ≠ 0 || (f.has flMirror && !sp.mirror)) = true) :
    preCheck sp f u = some St.badParam := by
  simp only [preCheck, hb, hm, hr, firstFail_true, firstFail_false]

theorem preCheck_pcieFlags {q : Fin 2} (hb : (u.mgmt.bootRom && !sp.bootRom) = false)
    (hm : (f.has flMirror && !u.pairFitted) = false)
    (hr : (f.has 6 || f.has 7 || f.rsv ≠ 0 || (f.has flMirror && !sp.mirror)) = false)
    (hq : f.src = .pcie q) (hf : (f.has flUrgent || f.has flAuth) = true) : preCheck sp f u = some St.badParam := by
  simp only [preCheck, hb, hm, hr, hq, hf, firstFail_true, firstFail_false]

/-- Past the checks of the mode and the flags, only the target and the length are left. -/
theorem preCheck_targetLength (hb : (u.mgmt.bootRom && !sp.bootRom) = false) (hm : (f.has flMirror && !u.pairFitted) = false)
    (hr : (f.has 6 || f.has 7 || f.rsv ≠ 0 || (f.has flMirror && !sp.mirror)) = false)
    (hq : ∀ q, f.src = .pcie q → (f.has flUrgent || f.has flAuth) = false) :
    preCheck sp f u = firstFail [(!sp.target.accepts f.target.toNat, St.badTarget), (!sp.len f.payload, St.badLength)] := by
  simp only [preCheck, hb, hm, hr, firstFail_false]
  cases hs : f.src with
  | pcie q => simp only [hq q hs, firstFail_false]
  | udp id urgent => rfl
  | partner => rfl
end

/-- Settles O52: whether the turn has come, the entry to sleep, the ladder of R350 check by check, and the held command. -/
theorem headerChecks : Obligations.HeaderChecks := by
  unfold Obligations.HeaderChecks
  intro sp body r s u mirror pcie urgentOrAuth f reserved
  have hres : (f.has 6 || f.has 7 || f.rsv ≠ 0 || (f.has flMirror && !sp.mirror)) = true ↔ reserved := by
    simp [reserved, mirror, f, Fetched.has, toFetched, or_assoc]
  have hfl : (f.has flUrgent || f.has flAuth) = true ↔ urgentOrAuth := by
    simp [urgentOrAuth, f, Fetched.has, toFetched]
  refine ⟨perform_notItsTurn, fun hturn => ⟨fun st hst => perform_refused hturn hst, fun hpre hsleep =>
    ⟨perform_sleepEntry hturn hpre hsleep, perform_sleepEntry_notFitted hturn hpre⟩⟩, ?_, ?_, ?_⟩
  · intro h1 h2
    exact preCheck_bootRom (by simp [h1, h2])
  · intro hrom
    have hb : (u.mgmt.bootRom && !sp.bootRom) = false := and_not_eq_false.mpr hrom
    refine ⟨fun h1 h2 => preCheck_mirrorUnfitted hb (by rw [Bool.and_eq_true, h2]; exact ⟨h1, rfl⟩), fun hmir => ?_⟩
    have hm : (f.has flMirror && !u.pairFitted) = false := and_not_eq_false.mpr hmir
    refine ⟨fun hbad => ?_, fun hnres hnpcie => ?_⟩
    · by_cases hr : reserved
      · exact preCheck_reserved hb hm (hres.mpr hr)
      · obtain ⟨⟨q, hq⟩, hu⟩ := hbad.resolve_left hr
        exact preCheck_pcieFlags hb hm (Bool.eq_false_iff.mpr (mt hres.mp hr)) hq (hfl.mpr hu)
    · have hpast := preCheck_targetLength (sp := sp) hb hm (Bool.eq_false_iff.mpr (mt hres.mp hnres))
        fun q hq => Bool.eq_false_iff.mpr fun hu => hnpcie ⟨⟨q, hq⟩, hfl.mp hu⟩
      exact ⟨fun (ht : sp.target.accepts f.target.toNat = false) => hpast.trans (by simp [ht]),
        fun (ht : sp.target.accepts f.target.toNat = true) =>
          ⟨fun (hl : sp.len f.payload = false) => hpast.trans (by simp [ht, hl]),
            fun (hl : sp.len f.payload = true) => hpast.trans (by simp [ht, hl])⟩⟩
  · intro hready
    refine ⟨fun hbusy hdefer => ?_, fun hnot => ?_⟩
    · have hh : ¬ NotHeld sp r s (body f u) := by simp [notHeld_iff, hbusy, f, hdefer]
      exact perform_held hready hh
    · exact Host.Outcome.next.inj (perform_ready hready (notHeld_iff.mpr hnot))

end Sys2Proof.Machine
end

section
/-! PROOFS. Surveys and zone maps as the host asks for them (O19). Built on Laws/Command.lean. -/

namespace Sys2Proof.Machine

open Sys2Proof

@[simp] theorem toFetched_payload (sp : CmdSpec) (r : Req) (s : State) : (toFetched sp r s).payload = r.payload := rfl

theorem ok_ne_busy : St.ok ≠ St.busy := by decide
theorem accepted_ne_busy : St.accepted ≠ St.busy := by decide

/-! ### GAMBIT_RUN (R34, R35) -/

@[simp] theorem moveSwitch_power (a b : Nat) (s : State) : (moveSwitch a b s).power = s.power := by
  unfold moveSwitch
  split <;> rfl

/-- A run of the ports that a nonzero `PORTS` names starts on the lowest of them. -/
theorem surveyPorts_head {ports : Nat} (h1 : 1 ≤ ports) (h3 : ports ≤ 3) (d : Nat) :
    (((if tst ports 0 then [1] else []) ++ (if tst ports 1 then [2] else []) : List Nat).head?).getD d
      = if tst ports 0 = true then 1 else 2 := by
  obtain rfl | rfl | rfl : ports = 1 ∨ ports = 2 ∨ ports = 3 := by omega
  all_goals rfl

/-- In any mode but STANDBY a survey run drives the light source at once. -/
theorem beginSurvey_driven {g : Gambit} {s : State} (h : s.power.mode ≠ .standby) :
    beginSurvey g s = refreshDrives { s.took with fibre.gambit := some (startPort s g) } := by
  unfold beginSurvey
  exact if_neg h

theorem cmdGambitRun_accepted {f : Fetched} {s : State} (hmode : s.power.mode = .warm) (htrans : s.power.trans = none)
    (hlock : s.light.locked = true) (hlong : s.longBusy 0x14 = false) (hrun : s.fibre.gambit = none)
    (h1 : 1 ≤ fld f.payload 0 1) (h3 : fld f.payload 0 1 ≤ 3) (hrsv : fld f.payload 1 1 = 0)
    (hrange : fld f.payload 2 2 = 0 ∨ (10 ≤ fld f.payload 2 2 ∧ fld f.payload 2 2 ≤ 1250)) :
    let ports := fld f.payload 0 1
    let first := if tst ports 0 = true then 1 else 2
    let g : Gambit :=
      { ports := (if tst ports 0 then [1] else []) ++ (if tst ports 1 then [2] else []), on := first,
        range := if fld f.payload 2 2 = 0 then 1250 else fld f.payload 2 2, tag := f.tag, back := s.light.port, entry := false }
    let v := moveSwitch s.light.port first s
    cmdGambitRun f s =
      { status := St.accepted, st := refreshDrives { v.took with fibre.gambit := some (startPort v g) } } := by
  intro ports first g v
  have hr : (fld f.payload 2 2 = 0 || inR (fld f.payload 2 2) 10 1250) = true := by simpa [inR] using hrange
  have hv : v.power.mode ≠ .standby := by simp [v, hmode]
  unfold cmdGambitRun
  rw [checked_ok]
  · dsimp only
    rw [surveyPorts_head h1 h3, beginSurvey_driven hv]
  · simp [hmode, htrans, hlock, hlong, hrun, hrsv, hr, Nat.not_lt.mpr h3, Nat.ne_of_gt h1]

/-! ### GAMBIT_READ (R40) -/

theorem cmdGambitRead_reads {f : Fetched} {s : State} (hport : fld f.payload 0 1 = 1 ∨ fld f.payload 0 1 = 2)
    (hflag : fld f.payload 1 1 ≤ 1) (hrsv : fld f.payload 2 2 = 0) :
    cmdGambitRead f s =
      { status := St.ok, payload := gambitReply (fld f.payload 0 1) s,
        st := if fld f.payload 1 1 = 1 then setPort (fld f.payload 0 1) { s.portOf (fld f.payload 0 1) with aliasSticky := 0 } s
          else s } := by
  unfold cmdGambitRead
  rw [checked_ok]
  simp [hport, hrsv, Nat.not_lt.mpr hflag]

/-! ### ZONE_MAP_LOAD (R133 to R136) -/

/-- A staged map that passes every check of R24, R132 and R133 is only checked with `FLAGS` bit 0, and scheduled without it. -/
theorem cmdZoneMapLoad_passes {f : Fetched} {s : State} {img : List Byte}
    (himg : staged s (fld f.payload 0 1) = some img) (hbad : mapBad img = none)
    (hfit : s.ochreFitted = true) (hcal : s.inMode [.calibrate] = false) (hfree : mapBlocked s = false)
    (hstage : fld f.payload 0 1 ≤ 3) (hflag : fld f.payload 1 1 ≤ 1) (hrsv : fld f.payload 2 2 = 0)
    (hrate : okR24 ((mapOfImage img).das (projected s).light.port).length
      (nDas (projected s) (projected s).planMode (projected s).light.plan) (acceptedTl (projected s)) = true)
    (hochre : okOchre { (projected s) with indigo.map := mapOfImage img } (projected s).planMode = true)
    (hcrc : stageMismatch img (fld f.payload 4 4) (fld f.payload 8 4) = false) :
    let q := schedule f img false false 0 false s
    let rate := mapRate (mapOfImage img) s
    cmdZoneMapLoad f s =
      if fld f.payload 1 1 = 1 then { status := St.ok, st := s, payload := mapReply none img rate none }
      else { status := St.ok, st := q.1, names := q.2.named, due := q.2.dueOf,
             payload := mapReply (if q.2.now_ then none else some q.2) img rate none } := by
  intro q rate
  have hrange : (decide (fld f.payload 0 1 > 3) || decide (1 < fld f.payload 1 1) || decide (fld f.payload 2 2 ≠ 0))
      = false := by
    simp [hrsv, hstage, hflag]
  unfold cmdZoneMapLoad
  rw [checked_ok (by simp [hfit, hcal, hfree])]
  simp only [himg, hbad, hrange, hrate, hochre, hcrc, Option.isSome_none, Bool.not_true, Bool.or_false, Bool.false_eq_true,
    if_false]
  rfl

/-! ### ZONE_MAP_READ (R134, R137) -/

theorem cmdZoneMapRead_reads {f : Fetched} {s : State} (htab : fld f.payload 0 1 ≤ 1) (hrsv : fld f.payload 1 3 = 0)
    (h1 : 1 ≤ fld f.payload 8 2) (hmax : fld f.payload 8 2 ≤ if fld f.payload 0 1 = 1 then 250 else 500)
    (hrsv' : fld f.payload 10 2 = 0)
    (hfirst : (if fld f.payload 0 1 = 1 then s.indigo.map.nDts else s.indigo.map.nDas) = 0 ∨
      fld f.payload 4 4 < if fld f.payload 0 1 = 1 then s.indigo.map.nDts else s.indigo.map.nDas) :
    let m := s.indigo.map
    let es := if fld f.payload 0 1 = 1 then (((m.dts1 ++ m.dts2).drop (fld f.payload 4 4)).take (fld f.payload 8 2)).map dtsPlain
      else (((m.das1 ++ m.das2).drop (fld f.payload 4 4)).take (fld f.payload 8 2)).map dasPlain
    cmdZoneMapRead f s =
      { status := St.ok, st := s,
        payload := le4 m.nDas ++ le4 m.nDts ++ le4 m.das1.length ++ le4 m.dts1.length ++ le4 m.crc.toNat
          ++ le4 (fld f.payload 4 4) ++ le2 es.length ++ zeros 6 ++ es.flatten } := by
  intro m es
  have hn : inR (fld f.payload 8 2) 1 (if fld f.payload 0 1 = 1 then 250 else 500) = true := by simp [inR, h1, hmax]
  unfold cmdZoneMapRead
  rw [checked_ok]
  simp [hn, hrsv, hrsv', hfirst, htab]

/-- Settles O19: each command's own checks pass, and what it then answers is what its request is answered with. -/
theorem surveyAndMapCommands : Obligations.SurveyAndMapCommands := by
  unfold Obligations.SurveyAndMapCommands
  intro r s u p
  refine ⟨?run, ?read, ?load, ?check, ?das, ?dts⟩
  case run =>
    intro hready hmode htrans hlock hlong hrun h1 h3 hrsv hrange
    exact answers_of hready (cmdGambitRun_accepted hmode htrans hlock hlong hrun h1 h3 hrsv hrange) accepted_ne_busy
  case read =>
    intro hready hport hflag hrsv
    exact answers_of hready (cmdGambitRead_reads hport hflag hrsv) ok_ne_busy
  case load =>
    intro img hready himg hbad hfit hcal hfree hstage hflag hrsv _ _ hrate hochre hcrc
    have hpass := cmdZoneMapLoad_passes (f := reqOf zoneMapLoadSpec r s) himg hbad hfit hcal hfree hstage
      (hflag.trans_le (Nat.zero_le 1)) hrsv hrate hochre hcrc
    have hloads : ¬ fld p 1 1 = 1 := by simp [hflag]
    exact answers_of hready (hpass.trans (if_neg hloads)) ok_ne_busy
  case check =>
    intro img hready himg hbad hfit hcal hfree hstage hflag hrsv _ _ hrate hochre hcrc
    have hpass := cmdZoneMapLoad_passes (f := reqOf zoneMapLoadSpec r s) himg hbad hfit hcal hfree hstage hflag.le hrsv
      hrate hochre hcrc
    exact answers_of hready (hpass.trans (if_pos hflag)) ok_ne_busy
  case das =>
    intro hready htab hrsv h1 hmax hrsv' hfirst
    have hread := cmdZoneMapRead_reads (f := reqOf zoneMapReadSpec r s) (s := u)
    simp only [toFetched_payload, show fld r.payload 0 1 = 0 from htab, Nat.zero_ne_one, if_false] at hread
    exact answers_of hready (hread (Nat.zero_le 1) hrsv h1 hmax hrsv' hfirst) ok_ne_busy
  case dts =>
    intro hready htab hrsv h1 hmax hrsv' hfirst
    have hread := cmdZoneMapRead_reads (f := reqOf zoneMapReadSpec r s) (s := u)
    simp only [toFetched_payload, show fld r.payload 0 1 = 1 from htab, if_true] at hread
    exact answers_of hready (hread le_rfl hrsv h1 hmax hrsv' hfirst) ok_ne_busy

end Sys2Proof.Machine
end

section
/-! PROOFS. How surveys and calibration steps end, and drift indicators (O41). Built on Laws/State.lean and Laws/Tables.lean. -/

namespace Sys2Proof.Machine

open Sys2Proof

/-! ### A fault item leaves the calibration as it is -/

theorem ite_cal {c : Prop} [Decidable c] {a b : State} {x : CalState} (ha : a.cal = x) (hb : b.cal = x) :
    (if c then a else b).cal = x := by
  split
  · exact ha
  · exact hb

@[simp] theorem riseCheck_cal (n : Nat) (s : State) : (riseCheck n s).cal = s.cal := ite_cal (reqVector_cal _ _) rfl

@[simp] theorem evtItemAt_cal (t : Ps) (type : Nat) (epoch : U16) (body : List Byte) (s : State) :
    (evtItemAt t type epoch body s).cal = s.cal :=
  ite_cal rfl (ite_cal rfl (riseCheck_cal _ _))

@[simp] theorem evtItemE_cal (type : Nat) (epoch : U16) (body : List Byte) (s : State) :
    (evtItemE type epoch body s).cal = s.cal :=
  evtItemAt_cal _ _ _ _ _

@[simp] theorem raise_cal (o : FaultOcc) (s : State) : (raise o s).cal = s.cal := by
  unfold raise
  extract_lets index logged _ counted _ bound _ queued _ unread
  have hbound : bound.cal = s.cal := ite_cal rfl rfl
  have hqueued : queued.cal = s.cal := (evtItemE_cal _ _ _ _).trans hbound
  have hunread : unread.cal = s.cal := ite_cal hqueued hqueued
  split
  · exact hbound
  · exact ite_cal (ite_cal ((reqVector_cal _ _).trans hunread) hunread) hbound

@[simp] theorem driftItem_cal (s : State) : (driftItem s).cal = s.cal := raise_cal _ _

/-! ### Ports -/

@[simp] theorem portOf_setPort_same (k : Nat) (p : Port) (s : State) : (setPort k p s).portOf k = p := by
  unfold setPort State.portOf
  split <;> rfl

theorem portOf_setPort_other {k : Nat} (h : k = 1 ∨ k = 2) (p : Port) (s : State) :
    (setPort k p s).portOf (3 - k) = s.portOf (3 - k) := by
  obtain rfl | rfl := h <;> rfl

/-! ### Surveys end (R34 to R37) -/

section
variable {s : State} {g : Gambit} {port : Nat} {rest : List Nat}

/-- A survey completes only with the switch settled, and not after its limit. -/
theorem execSurveyDone_ofRun (t : Ps) (d : SurveyIn) (hg : s.fibre.gambit = some g) (hitem : g.item = none)
    (hports : g.ports = port :: rest) :
    let u := s.adv t
    let x := storeSurvey port g.range d u
    let v := portSurveyed g port 0x00 (surveyStatus (x.portOf port)) x
    execSurveyDone t d s =
      .next (if (u.light.switching.isSome || g.limit < u.now) = true then u
        else if (g.entry && entryRefused v) = true then failEntry St.badParam v else v) := by
  simp only [execSurveyDone, State.adv_fibre, hg, hitem, hports]

/-- A survey is given up at its limit, not before. -/
theorem execSurveyTimeout_ofRun (t : Ps) (hg : s.fibre.gambit = some g) (hitem : g.item = none)
    (hports : g.ports = port :: rest) :
    let u := s.adv t
    let w := portSurveyed g port 0x01 St.timeout u
    execSurveyTimeout t s = .next (if u.now < g.limit then u else if g.entry = true then failEntry St.timeout w else w) := by
  simp only [execSurveyTimeout, State.adv_fibre, hg, hitem, hports]
end

/-- What a survey stores (R36, R37, R39), given the end `e` found in the smoothed trace: that end, the strongest reflections, and
the proposals. (`e` is a variable so that no check unfolds `findEnd`.) -/
theorem storeSurvey_stores {port range : Nat} {d : SurveyIn} {s : State} {e : EndFound} (hport : port = 1 ∨ port = 2)
    (he : findEnd (Config.smooth d.trace) d.floor
      (reflectionsOf (cmSample (s.portOf port).groupIndex (range * 10000)) d.peaks) (s.portOf port).groupIndex (range * 10000)
        = e) :
    let p := s.portOf port
    let found := reflectionsOf (cmSample p.groupIndex (range * 10000)) d.peaks
    let tl := proposedTl s (p.groupIndex * e.cm)
    ∃ v, ((storeSurvey port range d s).portOf port).survey = some v ∧
      (storeSurvey port range d s).portOf (3 - port) = s.portOf (3 - port) ∧
      ((storeSurvey port range d s).portOf port).currentEnd = e.cm ∧ v.endCm = e.cm ∧ v.gi = p.groupIndex ∧
      v.isFloor = e.isFloor ∧ v.noBack = e.noBack ∧ v.isRange = e.isRange ∧ v.profile = Config.smooth d.trace ∧
      v.floor = d.floor ∧ v.refls.length = min 64 found.length ∧ v.propTl = tl ∧
      v.propSlots = proposedSlots s port tl ∧ v.propPower ≤ s.light.cfg.aprCeil := by
  intro p found tl
  simp only [storeSurvey, he, portOf_setPort_same, portOf_setPort_other hport, true_and]
  refine ⟨_, rfl, rfl, rfl, rfl, rfl, rfl, rfl, rfl, ?_, rfl, rfl, min_le_right ..⟩
  exact (List.length_map ..).trans List.length_take

/-! ### Calibration steps end (R183, R193) -/

theorem runningRun_of_started {s : State} {r : CalRun} (hrun : s.cal.run = some r) (hstarted : r.started = true)
    (hrec : s.cmd.recovery = none) : runningRun s = some r := by
  simp [runningRun, hrun, hstarted, hrec]

theorem execCalStepDone_ofRun {s : State} {r : CalRun} {k : Nat} {rest : List Nat} (t : Ps) (d : CalIn)
    (hrun : runningRun (s.adv t) = some r) (htodo : r.todo = k :: rest) :
    execCalStepDone t d s = .next (advanceRun 8 { r with
      todo := rest, ok := if stepInLimit k d.figure = true then r.ok + 2 ^ k else r.ok,
      out := if stepInLimit k d.figure = true then r.out else r.out + 2 ^ k } (leaveStep k (applyStep k d (s.adv t)))) := by
  simp only [execCalStepDone, hrun, htodo]

theorem execCalStepTimeout_ofRun {s : State} {r : CalRun} {k : Nat} {rest : List Nat} (t : Ps)
    (hrun : runningRun (s.adv t) = some r) (htodo : r.todo = k :: rest) :
    execCalStepTimeout t s = .next (advanceRun 8 { r with todo := rest, late := r.late + 2 ^ k }
      (leaveStep k { (s.adv t) with
        cal.steps := vmod s.cal.steps k (fun x => { x with result := 1, refreshed := false }) })) := by
  simp only [execCalStepTimeout, hrun, htodo, State.adv_cal]

/-! ### Requests for a step (R198) -/

theorem clearRequests_singleton (k : Nat) (s : State) :
    clearRequests [k] s =
      if (vget s.cal.crossed k).1 = s.cycle + 1 then
        if (vget s.cal.crossed k).2 then s
        else driftItem { s with cal.crossed := vset s.cal.crossed k ((vget s.cal.crossed k).1, true) }
      else { s with cal.requested := s.cal.requested &&& ~~~(mask7 k) } :=
  rfl

/-- A request that was crossed in this cycle stays; any other clears. Nothing of the steps' values changes. -/
theorem clearRequests_singleton_cal (k : Nat) (s : State) :
    (clearRequests [k] s).cal.gen = s.cal.gen ∧ (clearRequests [k] s).cal.steps = s.cal.steps ∧
      (clearRequests [k] s).cal.requested =
        if (vget s.cal.crossed k).1 = s.cycle + 1 then s.cal.requested else s.cal.requested &&& ~~~(mask7 k) := by
  rw [clearRequests_singleton]
  split
  · split
    · exact ⟨rfl, rfl, rfl⟩
    · simp only [driftItem_cal, and_self]
  · exact ⟨rfl, rfl, rfl⟩

/-- An indicator past its limit sets its bit; `CAL_DRIFT` is queued unless the bit was set. -/
theorem drift_past {k : Nat} {value : Int} {s : State} (hmode : s.inMode [.warm, .acoustic, .survey, .full] = true)
    (hpast : driftPasses k value s = true) :
    ∃ v : State, v.cal.requested = s.cal.requested ||| mask7 k ∧ v.cal.gen = s.cal.gen ∧ v.cal.steps = s.cal.steps ∧
      drift k value s = if s.cal.requested.getLsbD k = true then v else driftItem v := by
  unfold drift
  rw [if_neg (by simp [hmode, hpast])]
  exact ⟨{ s with cal.requested := s.cal.requested ||| mask7 k, cal.crossed := _ }, rfl, rfl, rfl, rfl⟩

/-- Out of the modes in which indicators are evaluated, or within its limit, an indicator changes nothing. -/
theorem drift_quiet {k : Nat} {value : Int} {s : State}
    (h : s.inMode [.warm, .acoustic, .survey, .full] = false ∨ driftPasses k value s = false) : drift k value s = s := by
  unfold drift
  exact if_pos (by simpa using h)

/-- Settles O41: the event of a survey, of a calibration step and of a drift indicator, each by the lemma on its row. -/
theorem surveyAndCalibrationEvents : Obligations.SurveyAndCalibrationEvents := by
  unfold Obligations.SurveyAndCalibrationEvents
  intro t d c step value s u
  refine ⟨?survey, ?stored, ?run, ?put, ?past, ?quiet⟩
  case survey =>
    intro g port rest hg hitem hports x v w
    have hdone := execSurveyDone_ofRun t d hg hitem hports
    have htimeout := execSurveyTimeout_ofRun t hg hitem hports
    refine ⟨fun hsw hin => hdone.trans (congrArg _ (if_neg ?_)), fun hout => htimeout.trans (congrArg _ (if_neg ?_)),
      fun hlate => hdone.trans (congrArg _ (if_pos ?_)), fun hearly => htimeout.trans (congrArg _ (if_pos hearly))⟩
    · have hlim : u.now ≤ g.limit := hin
      simp [-State.adv_now, show s.adv t = u from rfl, show u.light.switching = none from hsw, hlim]
    · exact Nat.not_lt.mpr hout
    · have hlim : g.limit < u.now := hlate
      simp [-State.adv_now, show s.adv t = u from rfl, hlim]
  case stored =>
    intro port range hport
    exact storeSurvey_stores hport rfl
  case run =>
    intro r k rest hrun hstarted hrec htodo
    have hrunning : runningRun u = some r := runningRun_of_started hrun hstarted hrec
    exact ⟨execCalStepDone_ofRun t c hrunning htodo, execCalStepTimeout_ofRun t hrunning htodo⟩
  case put =>
    intro k hk w
    obtain ⟨hgen, hsteps, hreq⟩ := clearRequests_singleton_cal k
      { s with cal.steps := vset s.cal.steps k (stepValues k c s), cal.gen := s.cal.gen + 1, cal.ref := vset s.cal.ref k c.ref }
    refine ⟨hgen, ?_, fun hother => hreq.trans (if_neg hother), fun hcrossed => hreq.trans (if_pos hcrossed)⟩
    exact (congrArg (vget · k) hsteps).trans (vget_vset_same _ _ _ hk)
  case past =>
    intro hmode hpast was
    obtain ⟨v, hreq, hgen, hsteps, hdrift⟩ := drift_past (s := u) hmode hpast
    exact ⟨v, hreq, hgen, hsteps, congrArg _ hdrift⟩
  case quiet =>
    intro h
    exact congrArg _ (drift_quiet (s := u) h)

end Sys2Proof.Machine
end

section
/-! PROOFS. Launches, drains, lines and accumulations (O38). Built on Laws/State.lean. -/

namespace Sys2Proof.Machine

open Sys2Proof

/-! ### Launches (R49 to R51, R35) -/

/-- While launches run, neither drained nor waiting for a marker edge, the next instant is a boundary or a further slot's
launch. -/
theorem execLaunch_running {s : State} (hrun : s.light.running = true) (hdrain : s.light.draining = false)
    (hedge : waitsForEdge s = false) :
    let u := s.adv s.light.nextAt
    execLaunch s = .next (if s.light.nextSlot = 0 then boundary s.light.nextAt u
      else nextLaunch s.light.nextAt (launchSlot s.light.nextSlot s.light.nextAt
        (takeSlot s.light.nextSlot (s.light.launches - 1) u))) := by
  unfold execLaunch
  rw [if_neg (by simp [hrun]), if_neg (by simp [hdrain, hedge])]
  rfl

/-- With no launches of the plan, a survey whose switch has settled makes its own. -/
theorem execLaunch_survey {s : State} {g : Gambit} (hrun : s.light.running = false) (hg : s.fibre.gambit = some g)
    (hsurvey : surveying s = true) (hswitch : s.light.switching = none) : execLaunch s = .next (surveyLaunch g s) := by
  simp only [execLaunch, hrun, hg, hsurvey, hswitch, Option.isNone_none, Bool.not_false, Bool.and_self, if_true]

/-! ### Drains and the port switch (R57, R58, R89) -/

/-- The state in which a drain has ended: every slot's line and the accumulation start anew, and a calibration run that
waited for the drain begins its steps. -/
def drained (s : State) : State :=
  let u := s.adv s.light.nextAt
  beginSteps u.now (restartAcc (restartAllSlots { u with light.draining := false }))

theorem execDrainEnd_draining {s : State} {g : Seg} {rest : List Seg} (hdrain : s.light.draining = true)
    (hsegs : (drained s).light.segs = g :: rest) :
    let v := if g.portMove = true then moveNow (drained s) else drained s
    execDrainEnd s = .next (if g.waits = true then v else { v with light.nextAt := g.start, light.nextSlot := 0 }) := by
  simp only [drained] at hsegs ⊢
  simp only [execDrainEnd, hdrain, hsegs, Bool.not_true, Bool.false_eq_true, if_false]

theorem beginSteps_noRun {s : State} (h : s.cal.run = none) (t : Ps) : beginSteps t s = s := by
  unfold beginSteps
  rw [h]

/-- Without a calibration run, the end of a drain only restarts the slots' lines and the accumulation. -/
theorem drained_noRun {s : State} (h : s.cal.run = none) :
    drained s = restartAcc (restartAllSlots { (s.adv s.light.nextAt) with light.draining := false }) :=
  beginSteps_noRun (by exact h) _

theorem execPortSwitchSettled_moving {s : State} {w : Nat × Ps} (h : s.light.switching = some w) :
    let v := resetDark (resetChecks { (s.adv w.2) with light.switching := none })
    execPortSwitchSettled s = .next (if v.fibre.gambit.isSome = true then surveyBack v
      else if delayRuns v = true then homeSwitch w.1 v else loadRef w.1 v) := by
  simp only [execPortSwitchSettled, h]

theorem execPortSwitchSettled_still {s : State} (h : s.light.switching = none) : execPortSwitchSettled s = .next s := by
  simp only [execPortSwitchSettled, h]

/-! ### Lines (R56, R154, R170) -/

theorem execDasLine_first {s : State} {r : LaunchRec} (d : LineIn) (h : s.light.inflight.find? (fun x => !x.ochre) = some r) :
    execDasLine d s = .next (dasLine r d s) := by
  simp only [execDasLine, h]

theorem execOchreLine_first {s : State} {r : LaunchRec} (d : OchreIn) (h : s.light.inflight.find? (fun x => x.ochre) = some r) :
    execOchreLine d s = .next (ochreLine r d s) := by
  simp only [execOchreLine, h]

/-! ### Accumulations and updates (R161, R162, R170) -/

/-- A complete accumulation makes an update ready, and the next one starts with the coil that was due. -/
theorem endAccumulation_complete {s : State} (h : s.ochre.cfg.acc ≤ s.ochre.acc.done) :
    let v := endAccumulation s
    v = { s with ochre := v.ochre } ∧ v.ochre.acc = {} ∧ v.ochre.coil = s.ochre.coilDue ∧ v.ochre.coilNext = none ∧
      v.ochre.ready.map (·.acc) = some s.ochre.acc ∧ v.ochre.zones = s.ochre.zones := by
  unfold endAccumulation
  rw [if_neg (Nat.not_lt.mpr h)]
  exact ⟨rfl, rfl, rfl, rfl, rfl, rfl⟩

theorem execOchreUpdate_ready {s : State} {w : OchreReady} (t : Ps) (drops : List (Nat × Fin 4))
    (h : (s.adv t).ochre.ready = some w) :
    let u := s.adv t
    let l := (ochreIssue w u).1
    let v := amonDts l (dwellUpdate l.count (ochreIssue w u).2)
    execOchreUpdate t drops s = .next (flushPoints (lineToContexts (lineContexts v 2 l.port)
      (srcOf 2 l (tst l.lflags 0 || l.count = 0) v.now (BitVec.ofNat 4 (flags v.alarm.level.toList))) drops v)) := by
  simp only [execOchreUpdate, h]

/-! ### Raw captures (R142) -/

theorem execRawCaptureCopyDone_due {s : State} {c : RawCapture} (t : Ps) (gap : Bool) (h : (s.adv t).indigo.raw = some c)
    (htap : c.tap = 0 ∨ c.tap = 4) (hstart : c.startAt ≤ (s.adv t).now) :
    let u := s.adv t
    execRawCaptureCopyDone t gap s = .next (rawDone { c with data := rawCopy c u.freeIdx u.indigo, full := gap } u.took) := by
  simp only [execRawCaptureCopyDone, h]
  exact congrArg _ (if_pos (by simp [-State.adv_now, htap, hstart]))

/-- Settles O38: each event by the lemma on its row. -/
theorem lineEvents : Obligations.LineEvents := by
  unfold Obligations.LineEvents
  intro t d od rd gap r s u
  refine ⟨?boundary, ?slot, ?survey, ?drain, ?moving, ?still, ?das, ?ochre, ?acc, ?update, ?raw⟩
  case boundary =>
    intro hrun hdrain hedge hslot
    exact (execLaunch_running hrun hdrain hedge).trans (congrArg _ (if_pos hslot))
  case slot =>
    intro hrun hdrain hedge hslot
    exact (execLaunch_running hrun hdrain hedge).trans (congrArg _ (if_neg hslot))
  case survey =>
    intro g hrun hg hsurvey hswitch
    exact execLaunch_survey hrun hg hsurvey hswitch
  case drain =>
    intro g rest w hw hdrain hsegs v
    obtain rfl : w = drained s := hw
    refine ⟨execDrainEnd_draining hdrain hsegs, fun hrun => ?_⟩
    rw [drained_noRun hrun]
    exact ⟨rfl, rfl, rfl, rfl, rfl⟩
  case moving =>
    intro w hw
    exact execPortSwitchSettled_moving hw
  case still => exact execPortSwitchSettled_still
  case das => exact execDasLine_first d
  case ochre => exact execOchreLine_first od
  case acc =>
    intro h
    exact ⟨endAccumulation s, rfl, endAccumulation_complete h⟩
  case update =>
    intro w hw
    exact execOchreUpdate_ready t rd hw
  case raw =>
    intro c hc htap hstart
    exact execRawCaptureCopyDone_due t gap hc htap hstart

end Sys2Proof.Machine
end

section
/-! PROOFS. The launch commands as the host gives them (O18). Built on Laws/Command.lean. -/

namespace Sys2Proof.Machine

open Sys2Proof

/-! ### What the five launch commands share (R56, R95, R96) -/

@[simp] theorem inR_iff {v lo hi : Nat} : inR v lo hi = true ↔ lo ≤ v ∧ v ≤ hi := by simp [inR]
@[simp] theorem inI_iff {v lo hi : Int} : inI v lo hi = true ↔ lo ≤ v ∧ v ≤ hi := by simp [inI]

/-- The answer to a request of keep values. -/
def launchRead (s : State) : Ans := { status := St.ok, payload := launchState none s, st := s }

/-- A change of the accepted plan at its boundary. -/
def scheduleChange (f : Fetched) (change : State → State) (s : State) : State × Bound :=
  schedule f f.payload (altersTiming s.planMode (projected s) (change (projected s))) false
    (periodOf (change (projected s)) s.planMode) ((change (projected s)).light.port ≠ (projected s).light.port) s

/-- The answer to a request that changes the accepted plan. -/
def launchChange (f : Fetched) (change : State → State) (s : State) : Ans :=
  let r := scheduleChange f change s
  { status := St.ok, payload := launchState (some r.2) r.1, names := r.2.named, due := r.2.dueOf, st := r.1 }

section
variable {f : Fetched} {keeps ranges : Bool} {early : List (Bool × Nat)} {rules : State → State → Bool} {s : State}

/-- A launch command whose values are all keep values reads. -/
theorem launchCmd_reads (degraded : Bool) (h : keeps = true) :
    launchCmd f keeps early ranges rules degraded s = launchRead s := by
  unfold launchCmd
  exact if_pos h

/-- A launch command whose checks pass makes its change at its boundary. -/
theorem launchCmd_changes (change : State → State) (hkeeps : keeps = false) (hearly : early.all (fun c => !c.1) = true)
    (hcal : s.calibrating = false) (hranges : ranges = true)
    (hchange : applyPlan { due := 0, opcode := f.opcode, target := f.target, payload := f.payload, src := f.src, seq := f.seq }
      = change)
    (hrules : rules (projected s) (change (projected s)) = true) :
    launchCmd f keeps early ranges rules false s = launchChange f change s :=
  launchCmd_ok hkeeps hearly hcal hranges hchange hrules
end

@[simp] theorem forwardPlan_status (f : Fetched) (touch : Bool) (a : Ans) : (forwardPlan f touch a).status = a.status := by
  unfold forwardPlan
  dsimp only
  split <;> rfl

/-- What only the device's own settings change is not forwarded. -/
theorem forwardPlan_untouched (f : Fetched) (a : Ans) : forwardPlan f false a = a := by
  unfold forwardPlan
  simp

@[simp] theorem startSwitch_status (before : Nat) (a : Ans) : (startSwitch before a).status = a.status := by
  unfold startSwitch
  split <;> rfl

/-- The switch does not start for the port it stands at. -/
theorem startSwitch_here (a : Ans) : startSwitch a.st.light.port a = a := by
  unfold startSwitch
  simp

theorem launchRead_ne_busy (s : State) : (launchRead s).status ≠ St.busy := ok_ne_busy

theorem launchChange_ne_busy (f : Fetched) (change : State → State) (s : State) :
    (launchChange f change s).status ≠ St.busy := ok_ne_busy

section
variable {f : Fetched} {s : State}

/-! ### LAUNCH_CFG (R90) -/

theorem cmdLaunchCfg_reads (hleader : leaderField f.payload = false) (hpower : sfld f.payload 12 2 = 0x7FFF) :
    cmdLaunchCfg f s = launchRead s := by
  unfold cmdLaunchCfg
  dsimp only
  rw [launchCmd_reads _ (by simp [hleader, hpower]), hleader, forwardPlan_untouched]

theorem cmdLaunchCfg_changes (hop : f.opcode = 0x10)
    (hset : leaderField f.payload = true ∨ sfld f.payload 12 2 ≠ 0x7FFF) (hcal : s.calibrating = false)
    (hcarrier : fld f.payload 14 2 = 0 ∨ fld f.payload 14 2 = (projected s).light.plan.carrier ∨
      (1600 ≤ fld f.payload 14 2 ∧ fld f.payload 14 2 ≤ 5900 ∧ s.inMode [.warm, .standby] = true))
    (hcarrierRange : fld f.payload 14 2 = 0 ∨ (1600 ≤ fld f.payload 14 2 ∧ fld f.payload 14 2 ≤ 5900))
    (hleads : follows f s = false ∨ leaderField f.payload = false)
    (hperiod : fld f.payload 0 4 = 0 ∨
      (1000 ≤ fld f.payload 0 4 ∧ fld f.payload 0 4 ≤ 200000 ∧ (projected s).lock.phase = 0))
    (hwave : fld f.payload 4 1 ≤ 2) (htaper : fld f.payload 5 1 ≤ 25 ∨ fld f.payload 5 1 = 0xFF)
    (hbw : fld f.payload 6 2 = 0 ∨ (20 ≤ fld f.payload 6 2 ∧ fld f.payload 6 2 ≤ 160))
    (hchirp : fld f.payload 8 2 = 0 ∨ (2 ≤ fld f.payload 8 2 ∧ fld f.payload 8 2 ≤ 2000))
    (hpulse : fld f.payload 10 2 = 0 ∨ (5 ≤ fld f.payload 10 2 ∧ fld f.payload 10 2 ≤ 200))
    (hpower : sfld f.payload 12 2 = 0x7FFF ∨
      (-100 ≤ sfld f.payload 12 2 ∧ sfld f.payload 12 2 ≤ (projected s).light.cfg.aprCeil))
    (hplan : planRules s (projected s) (applyLaunchCfg f.payload (projected s)) = true) :
    cmdLaunchCfg f s = forwardPlan f (leaderField f.payload) (launchChange f (applyLaunchCfg f.payload) s) := by
  have hkeeps : (!leaderField f.payload && decide (sfld f.payload 12 2 = 0x7FFF)) = false := by
    rcases hset with h | h <;> simp [h]
  have hmode : fld f.payload 14 2 = 0 ∨ fld f.payload 14 2 = (projected s).light.plan.carrier ∨
      s.inMode [.warm, .standby] = true := hcarrier.imp_right (Or.imp_right fun ⟨_, _, h⟩ => h)
  have hlock : (projected s).lock.phase = 0 ∨ fld f.payload 0 4 = 0 := (hperiod.imp_right fun ⟨_, _, h⟩ => h).symm
  have hperiodRange : fld f.payload 0 4 = 0 ∨ (1000 ≤ fld f.payload 0 4 ∧ fld f.payload 0 4 ≤ 200000) :=
    hperiod.imp_right fun ⟨hmin, hmax, _⟩ => ⟨hmin, hmax⟩
  unfold cmdLaunchCfg
  refine congrArg (forwardPlan f _)
    (launchCmd_changes (applyLaunchCfg f.payload) hkeeps ?early hcal ?ranges (by rw [hop]; rfl) hplan)
  case early => simp [or_assoc, hmode, hleads]
  case ranges => simp [hperiodRange, hwave, htaper, hbw, hchirp, hpulse, hpower, hcarrierRange, hlock]

/-! ### SLOT_CFG (R91) -/

theorem cmdSlotCfg_reads (hslots : fld f.payload 0 1 = 0) (hflags : fld f.payload 2 1 = 0) (hrsv : fld f.payload 3 1 = 0) :
    cmdSlotCfg f s = launchRead s := by
  have hleader : tst (fld f.payload 2 1) 0 = false := by simp [hflags, tst]
  unfold cmdSlotCfg
  dsimp only
  rw [launchCmd_reads _ (by simp [hslots, hflags, hrsv]), hleader, forwardPlan_untouched]

theorem cmdSlotCfg_changes (hop : f.opcode = 0x11) (hset : fld f.payload 0 1 ≠ 0 ∨ fld f.payload 2 1 ≠ 0)
    (hcal : s.calibrating = false) (hslots : [0, 1, 2, 4, 8].contains (fld f.payload 0 1) = true)
    (hfit : fld f.payload 0 1 ≤ s.slotsMax) (hflags : fld f.payload 2 1 ≤ 3) (hrsv : fld f.payload 3 1 = 0)
    (hnamedFit : (namedSlots f.payload).all (fun k => k < s.slotsMax) = true)
    (hnamed : (namedSlots f.payload).all
      (fun k => k < if fld f.payload 0 1 = 0 then (projected s).light.plan.nSlots else fld f.payload 0 1) = true)
    (htrim : tst (fld f.payload 2 1) 1 = false ∨
      (List.range 8).all (fun k => inI (sfld f.payload (4 + k) 1) (-20) 20) = true)
    (hfull : s.planMode ≠ .full ∨ fld f.payload 0 1 = 0 ∨ fld f.payload 0 1 = 8)
    (hpair : s.inPair = false ∨ fld f.payload 0 1 = 0 ∨ fld f.payload 0 1 = 8)
    (hleads : follows f s = false ∨ tst (fld f.payload 2 1) 0 = false)
    (hplan : planRules s (projected s) (applySlotCfg f.payload (projected s)) = true) :
    cmdSlotCfg f s = forwardPlan f (tst (fld f.payload 2 1) 0) (launchChange f (applySlotCfg f.payload) s) := by
  have hkeeps : (decide (fld f.payload 0 1 = 0) && decide (fld f.payload 2 1 = 0) && decide (fld f.payload 3 1 = 0)) = false := by
    rcases hset with h | h <;> simp [h]
  have hnamedOut : (namedSlots f.payload).any (fun k => s.slotsMax ≤ k) = false := by
    simpa using hnamedFit
  unfold cmdSlotCfg
  refine congrArg (forwardPlan f _)
    (launchCmd_changes (applySlotCfg f.payload) hkeeps ?early hcal ?ranges (by rw [hop]; rfl) hplan)
  case early => simp [hfit, hnamedOut, or_assoc, hfull, hleads]
  case ranges =>
    have htrims : (!tst (fld f.payload 2 1) 1
        || (List.range 8).all (fun k => inI (sfld f.payload (4 + k) 1) (-20) 20)) = true := by
      rwa [Bool.or_eq_true, Bool.not_eq_true']
    rw [hslots, hnamed, htrims]
    simp [hflags, hrsv, or_assoc, hpair]

/-! ### LIGHT_CFG (R92) -/

/-- Every field carries its keep value. -/
def lightKeeps (p : List Byte) : Bool :=
  fld p 0 1 = 0 && fld p 1 1 = 0xFF && fld p 2 1 = 0 && fld p 3 1 = 0
    && (List.range 3).all (fun i => fld p (4 + 4 * i) 2 = 0 && fld p (6 + 4 * i) 2 = 0xFFFF)

theorem cmdLightCfg_reads (hkeeps : lightKeeps f.payload = true) : cmdLightCfg f s = launchRead s := by
  unfold cmdLightCfg
  exact launchCmd_reads _ hkeeps

theorem cmdLightCfg_changes (hop : f.opcode = 0x12) (hkeeps : lightKeeps f.payload = false) (hcal : s.calibrating = false)
    (hloop : fld f.payload 0 1 ≤ 2) (hpair : s.inPair = false ∨ fld f.payload 0 1 ≠ 1)
    (hpumps : fld f.payload 1 1 = 0xFF ∨ (1 ≤ fld f.payload 1 1 ∧ fld f.payload 1 1 ≤ 7)) (hramp : fld f.payload 2 1 ≤ 30)
    (hknee : fld f.payload 3 1 = 0 ∨ (70 ≤ fld f.payload 3 1 ∧ fld f.payload 3 1 ≤ 110))
    (hbins : (List.range 3).all (fun i => fld f.payload (4 + 4 * i) 2 ≤ 2000
      && (fld f.payload (6 + 4 * i) 2 ≤ 2000 || fld f.payload (6 + 4 * i) 2 = 0xFFFF)) = true) :
    cmdLightCfg f s = { launchChange f (applyLightCfg f.payload) s with
      status := if fld f.payload 1 1 ≠ 0xFF ∧
          (List.range 3).any (fun i => tst (fld f.payload 1 1) i && (vget s.light.ldc (3 + i)).retired) = true
        then St.degraded else St.ok } := by
  unfold cmdLightCfg
  refine (launchCmd_ok (rules := fun _ _ => true) (change := applyLightCfg f.payload) hkeeps rfl hcal ?ranges
    (by rw [hop]; rfl) rfl).trans ?degraded
  case ranges =>
    rw [hbins]
    simp [hloop, hpair, hpumps, hramp, hknee]
  case degraded =>
    simp only [Bool.and_eq_true, decide_eq_true_eq]
    rfl

/-! ### PORT_SELECT (R89, R93) -/

theorem cmdPortSelect_reads (hport : fld f.payload 0 1 = 0) (hflags : fld f.payload 1 1 = 0) (hrsv : fld f.payload 6 2 = 0) :
    cmdPortSelect f s = launchRead s := by
  unfold cmdPortSelect
  dsimp only
  rw [launchCmd_reads _ (by simp [hport, hflags, hrsv])]
  exact startSwitch_here (launchRead s)

theorem cmdPortSelect_changes (hop : f.opcode = 0x13) (hset : fld f.payload 0 1 ≠ 0 ∨ fld f.payload 1 1 ≠ 0)
    (hcal : s.calibrating = false) (hport : fld f.payload 0 1 ≤ 2) (hflags : fld f.payload 1 1 ≤ 3)
    (hindex1 : tst (fld f.payload 1 1) 0 = false ∨ (14000 ≤ fld f.payload 2 2 ∧ fld f.payload 2 2 ≤ 15500))
    (hindex2 : tst (fld f.payload 1 1) 1 = false ∨ (14000 ≤ fld f.payload 4 2 ∧ fld f.payload 4 2 ≤ 15500))
    (hrsv : fld f.payload 6 2 = 0)
    (hsurvey : s.planMode.measures = false ∨ fld f.payload 0 1 = 0 ∨ fld f.payload 0 1 = (projected s).light.port ∨
      (s.portOf (fld f.payload 0 1)).survey.isSome = true)
    (hplan : planRules s (projected s) (applyPortSelect f.payload (projected s)) = true) :
    cmdPortSelect f s = startSwitch s.light.port (launchChange f (applyPortSelect f.payload) s) := by
  have hkeeps : (decide (fld f.payload 0 1 = 0) && decide (fld f.payload 1 1 = 0) && decide (fld f.payload 6 2 = 0)) = false := by
    rcases hset with h | h <;> simp [h]
  unfold cmdPortSelect
  refine congrArg (startSwitch _)
    (launchCmd_changes (applyPortSelect f.payload) hkeeps ?early hcal ?ranges (by rw [hop]; rfl) hplan)
  case early =>
    rcases hsurvey with h | h | h | h
    · simp [h]
    · simp [h]
    · simp [h]
    · simp [Option.isNone_eq_false_iff.mpr h]
  case ranges => simp [hport, hflags, hindex1, hindex2, hrsv]

/-! ### APR_CFG (R88, R94) -/

/-- Every field of a configuration carries its keep value. -/
def aprKeeps (p : List Byte) : Bool :=
  sfld p 2 2 = 0x7FFF && sfld p 4 2 = 0x7FFF && sfld p 6 2 = 0x7FFF && fld p 8 1 = 0 && fld p 1 1 = 0 && fld p 9 3 = 0

theorem cmdAprCfg_reads (haction : fld f.payload 0 1 = 0) (hkeeps : aprKeeps f.payload = true) :
    cmdAprCfg f s = launchRead s := by
  unfold cmdAprCfg
  refine launchCmd_reads _ ?_
  simpa [aprKeeps, haction] using hkeeps

/-- With no trip in force a restore changes nothing. -/
theorem cmdAprCfg_untripped_reads (haction : fld f.payload 0 1 = 1) (hcal : s.calibrating = false)
    (hlatch : s.fault.latch = false) (htrip : s.light.aprTrip = false) : cmdAprCfg f s = launchRead s := by
  unfold cmdAprCfg
  refine launchCmd_reads _ ?_
  simp [haction, hcal, hlatch, htrip]

theorem cmdAprCfg_restores (hop : f.opcode = 0x16) (haction : fld f.payload 0 1 = 1) (hcal : s.calibrating = false)
    (hlatch : s.fault.latch = false) (htrip : s.light.aprTrip = true) :
    cmdAprCfg f s = launchChange f (applyAprCfg f.payload) s := by
  unfold cmdAprCfg
  refine launchCmd_changes (applyAprCfg f.payload) ?_ ?_ hcal ?_ (by rw [hop]; rfl) ?_
  all_goals simp [haction, hlatch, htrip]

theorem cmdAprCfg_configures (hop : f.opcode = 0x16) (haction : fld f.payload 0 1 = 0) (hkeeps : aprKeeps f.payload = false)
    (hcal : s.calibrating = false) (hrsv1 : fld f.payload 1 1 = 0) (hrsv9 : fld f.payload 9 3 = 0)
    (hlevel : sfld f.payload 2 2 = 0x7FFF ∨ (-100 ≤ sfld f.payload 2 2 ∧ sfld f.payload 2 2 ≤ 200))
    (hceil : sfld f.payload 4 2 = 0x7FFF ∨ (-100 ≤ sfld f.payload 4 2 ∧ sfld f.payload 4 2 ≤ 270))
    (hrefl : sfld f.payload 6 2 = 0x7FFF ∨ (-450 ≤ sfld f.payload 6 2 ∧ sfld f.payload 6 2 ≤ -140))
    (hdrop : fld f.payload 8 1 = 0 ∨ (10 ≤ fld f.payload 8 1 ∧ fld f.payload 8 1 ≤ 100))
    (horder : (applyAprCfg f.payload (projected s)).light.cfg.aprLevel
      ≤ (applyAprCfg f.payload (projected s)).light.cfg.aprCeil) :
    cmdAprCfg f s = launchChange f (applyAprCfg f.payload) s := by
  unfold cmdAprCfg
  refine launchCmd_changes (applyAprCfg f.payload) ?keeps ?early hcal ?ranges (by rw [hop]; rfl) ?rules
  case keeps => simpa [aprKeeps, haction] using hkeeps
  case early => simp [haction]
  case ranges => simp [haction, hrsv1, hrsv9, hlevel, hceil, hrefl, hdrop]
  case rules => simp [horder]

end

/-- Settles O18: each command's own checks pass, and what it then answers is what its request is answered with. -/
theorem launchCommands : Obligations.LaunchCommands := by
  unfold Obligations.LaunchCommands
  intro r s u p scheduled done reads keepsLight keepsApr
  refine ⟨?launch, ?slot, ?light, ?port, ?restore, ?apr, ?idle, ?launchReads, ?slotReads, ?lightReads, ?portReads, ?aprReads⟩
  case launch =>
    intro hready hset hcal hcarrier hcarrierRange hleads hperiod hwave htaper hbw hchirp hpulse hpower hplan
    exact answers_of hready (cmdLaunchCfg_changes rfl hset hcal hcarrier hcarrierRange hleads hperiod hwave htaper hbw hchirp
      hpulse hpower hplan) ((forwardPlan_status _ _ _).trans_ne (launchChange_ne_busy _ _ u))
  case slot =>
    intro hready hset hcal hslots hfit hflags hrsv hnamedFit hnamed htrim hfull hpair hleads hplan
    exact answers_of hready (cmdSlotCfg_changes rfl hset hcal hslots hfit hflags hrsv hnamedFit hnamed htrim hfull hpair
      hleads hplan) ((forwardPlan_status _ _ _).trans_ne (launchChange_ne_busy _ _ u))
  case light =>
    intro hready hkeeps hcal hloop hpair hpumps hramp hknee hbins
    exact answers_of hready (cmdLightCfg_changes rfl hkeeps hcal hloop hpair hpumps hramp hknee hbins) (by
      dsimp only
      split <;> decide)
  case port =>
    intro hready hset hcal hport hflags hindex1 hindex2 hrsv hsurvey hplan
    exact answers_of hready (cmdPortSelect_changes rfl hset hcal hport hflags hindex1 hindex2 hrsv hsurvey hplan)
      ((startSwitch_status _ _).trans_ne (launchChange_ne_busy _ _ u))
  case restore =>
    intro hready haction hcal hlatch htrip
    exact answers_of hready (cmdAprCfg_restores rfl haction hcal hlatch htrip) (launchChange_ne_busy _ _ u)
  case apr =>
    intro hready haction hkeeps hcal hrsv1 hrsv9 hlevel hceil hrefl hdrop horder
    exact answers_of hready (cmdAprCfg_configures rfl haction hkeeps hcal hrsv1 hrsv9 hlevel hceil hrefl hdrop horder)
      (launchChange_ne_busy _ _ u)
  case idle =>
    intro hready haction hcal hlatch htrip
    exact answers_of hready (cmdAprCfg_untripped_reads haction hcal hlatch htrip) (launchRead_ne_busy u)
  case launchReads =>
    intro hready hleader hpower
    exact answers_of hready (cmdLaunchCfg_reads hleader hpower) (launchRead_ne_busy u)
  case slotReads =>
    intro hready hslots hflags hrsv
    exact answers_of hready (cmdSlotCfg_reads hslots hflags hrsv) (launchRead_ne_busy u)
  case lightReads =>
    intro hready hkeeps
    exact answers_of hready (cmdLightCfg_reads hkeeps) (launchRead_ne_busy u)
  case portReads =>
    intro hready hport hflags hrsv
    exact answers_of hready (cmdPortSelect_reads hport hflags hrsv) (launchRead_ne_busy u)
  case aprReads =>
    intro hready haction hkeeps
    exact answers_of hready (cmdAprCfg_reads haction hkeeps) (launchRead_ne_busy u)

end Sys2Proof.Machine
end

section
/-! PROOFS. `SET_MODE` (O32). Built on Laws/Command.lean. -/

namespace Sys2Proof.Machine

open Sys2Proof

/-! ### What SET_MODE begins (R534 to R536, R548) -/

/-- The settings that a mode command leaves: the duty cycle ended, and the wake configuration of a request that sets one. -/
def modeSettings (p : List Byte) (s : State) : State :=
  { s with power.duty := .none, power.wake := if tst (fld p 1 1) 0 = true then newWake p s.power.wake else s.power.wake }

/-- The mode asked for is in force with no change under way. -/
def staysInMode (m : Nat) (s : State) : Bool := Mode.ofCode m = s.power.mode && s.power.trans.isNone

/-- The device on its way to a mode; where it is there already, only the settings are new. -/
def modeBegun (f : Fetched) (s : State) : State :=
  let m := fld f.payload 0 1
  let v := modeSettings f.payload s
  if staysInMode m s = true then v else beginTransition (Mode.ofCode m) 0 f.tag 0 v

/-- The change under way has a target with light: WARM or a measurement mode. -/
def headsForLight (s : State) : Bool :=
  (s.power.trans.map (fun x => decide (x.to_ = .warm) || x.to_.measures)).getD false

/-- The leakage test, and then the drive channels (R75). -/
def testThenDrive (s : State) : State := refreshDrives (leakageTest (Config.leakTest s.freeIdx) s)

/-- The answer to a mode command (R549). -/
def modeAnswer (f : Fetched) (s : State) : Ans :=
  let m := fld f.payload 0 1
  let same := staysInMode m s
  let v := modeSettings f.payload s
  let t := modeBegun f s
  { status := St.ok, st := t,
    payload := le1 s.power.mode.code ++ le1 (if same = true then 0xFF else m)
      ++ le1 (flags [!same && (t.power.trans.map (·.survey)).getD false,
          !same && s.power.mode = .standby && (Mode.ofCode m).measures, v.power.wake.duty && v.power.wake.period ≠ 0])
      ++ le1 s.power.lastWake.toNat ++ le4 (if same = true then 0 else expectMs s t) ++ le4 (timerNext v)
      ++ le2 s.power.timerSkipped.toNat ++ zeros 2,
    after := if s.power.mode = .standby ∧ 3 ≤ m ∧ m ≤ 6 ∧ headsForLight s = false then testThenDrive else id }

/-- A mode command whose checks (R534) pass begins its change. -/
theorem cmdSetMode_begins {f : Fetched} {s : State} (hmode : fld f.payload 0 1 ≤ 6) (hflags : fld f.payload 1 1 ≤ 3)
    (hrsv : fld f.payload 22 2 = 0) (hwake : tst (fld f.payload 1 1) 0 = true → wakeBad f.payload = false)
    (hfit : s.ochreFitted = true ∨ (ochreMode (fld f.payload 0 1) = false ∧ (tst (fld f.payload 1 1) 0 = true →
      ochreMode (fld f.payload 2 1) = false ∧ ochreMode (fld f.payload 3 1) = false ∧ ochreMode (fld f.payload 4 1) = false)))
    (hwrong : modeWrong (fld f.payload 0 1) s = false) (hxtal : s.power.xtalOk = true ∨ 2 ≤ fld f.payload 0 1)
    (hcal : s.calibrating = false) (hparam : modeParam (fld f.payload 0 1) (projected s) = false)
    (hwatch : fld f.payload 0 1 = 1 → s.aux.chans.toList.any (fun c => c.enabled && c.wakeEn) = true) :
    cmdSetMode f s = modeAnswer f s := by
  have hunfit : (!s.ochreFitted && (ochreMode (fld f.payload 0 1) || (tst (fld f.payload 1 1) 0
      && [2, 3, 4].any (fun i => ochreMode (fld f.payload i 1))))) = false := by
    rcases hfit with h | ⟨hm, hw⟩
    · simp [h]
    · cases hset : tst (fld f.payload 1 1) 0 with
      | false => simp [hm]
      | true => simp [hm, hw hset]
  have hslow : (!s.power.xtalOk && decide (fld f.payload 0 1 < 2)) = false := by
    rcases hxtal with h | h
    · simp [h]
    · simp [Nat.not_lt.mpr h]
  have hconfig : (tst (fld f.payload 1 1) 0 && wakeBad f.payload) = false := by
    cases hset : tst (fld f.payload 1 1) 0 with
    | false => rfl
    | true => exact hwake hset
  have hunwatched : (decide (fld f.payload 0 1 = 1) && !s.aux.chans.toList.any (fun c => c.enabled && c.wakeEn)) = false := by
    by_cases h : fld f.payload 0 1 = 1
    · rw [hwatch h, Bool.not_true, Bool.and_false]
    · simp [h]
  have hcold : (decide (s.power.mode = .standby) && inR (fld f.payload 0 1) 3 6 && !headsForLight s) = true ↔
      s.power.mode = .standby ∧ 3 ≤ fld f.payload 0 1 ∧ fld f.payload 0 1 ≤ 6 ∧ headsForLight s = false := by
    simp [and_assoc]
  unfold cmdSetMode
  refine (checked_ok ?checks).trans ?effect
  case checks =>
    simp only [List.all_cons, List.all_nil, hunfit, hwrong, hslow, hcal, hconfig, hunwatched, hparam]
    simp [hmode, hflags, hrsv]
  case effect =>
    unfold modeAnswer
    simp only [← hcold]
    rfl

/-- Settles O32: the checks pass, and the answer with what it begins is what the request is answered with. -/
theorem modeCommand : Obligations.ModeCommand := by
  unfold Obligations.ModeCommand
  intro r s u p m sets hready hmode hflags hrsv hwake hfit hwrong hxtal hcal hparam hwatch v same t warmed
  have hbegins := cmdSetMode_begins (f := reqOf setModeSpec r s) hmode hflags hrsv hwake hfit hwrong hxtal hcal hparam hwatch
  exact answers_of hready hbegins ok_ne_busy

end Sys2Proof.Machine
end

section
/-! PROOFS. The light source as the device samples and probes it (O39). Built on Laws/State.lean. -/

namespace Sys2Proof.Machine

open Sys2Proof

/-! ### The case temperature (R68, R70) -/

theorem execCaseTempSample_awake {s : State} (t : Ps) (temp : Int) (h : s.power.sleeping = false) :
    execCaseTempSample t temp s =
      .next (newHeld (refreshDrives (retakeHeld (measureDrives { (s.adv t) with power.tCase := temp })))) := by
  have hawake : ¬ s.power.sleeping = true := by simp [h]
  unfold execCaseTempSample
  exact congrArg _ (if_neg hawake)

/-- The derating and the held power are of the light; the derating is that of the knee and the case temperature in force. -/
theorem retakeHeld_light (s : State) :
    retakeHeld s = { s with light := (retakeHeld s).light } ∧
      (retakeHeld s).light.derate = derateOf s.light.cfg.knee s.power.tCase :=
  ⟨rfl, rfl⟩

/-! ### Shorts (R76) -/

theorem execLdShortDetect_beyond {ch : Fin 8} {diff : Int} {s : State} (t : Ps) (hon : (vget s.light.ldc ch.val).enabled = true)
    (hlimit : shortLimit (vget s.light.ldc ch.val) < (diff.natAbs : Rat)) :
    execLdShortDetect t ch diff s = .next (retireDrive ch.val 0 (diff % 4294967296).toNat (s.adv t)) := by
  unfold execLdShortDetect
  exact congrArg _ (if_pos (by rw [State.adv_light, hon, decide_eq_true hlimit]; rfl))

theorem execLdShortDetect_within {ch : Fin 8} {diff : Int} {s : State} (t : Ps)
    (h : (vget s.light.ldc ch.val).enabled = false ∨ (diff.natAbs : Rat) ≤ shortLimit (vget s.light.ldc ch.val)) :
    execLdShortDetect t ch diff s = .next (s.adv t) := by
  unfold execLdShortDetect
  refine congrArg _ (if_neg ?_)
  rw [State.adv_light, Bool.and_eq_true, decide_eq_true_iff, not_and_or, Bool.not_eq_true, not_lt]
  exact h

/-! ### The SOA gate (R78 to R82) -/

theorem execSoaOpenConfirm_gated {s : State} {t : Ps} (diff : Int) (hon : (vget s.light.ldc 2).enabled = true)
    (hlong : (gatePulses (s.adv t)).any (20000 ≤ ·) = true) :
    execSoaOpenConfirm t diff s = .next (soaOpen 2 diff (s.adv t)) := by
  unfold execSoaOpenConfirm
  exact congrArg _ (if_pos (by rw [State.adv_light, hon, hlong]; rfl))

/-- Pulses shorter than 20 ns cannot show an open gate. -/
theorem execSoaOpenConfirm_short {s : State} {t : Ps} (diff : Int) (hshort : (gatePulses (s.adv t)).any (20000 ≤ ·) = false) :
    execSoaOpenConfirm t diff s = .next (s.adv t) := by
  unfold execSoaOpenConfirm
  exact congrArg _ (if_neg (by rw [hshort, Bool.and_false]; exact Bool.false_ne_true))

/-- A probe of the SOA gate counted: its run, its outcome, and a new cadence. -/
def probeCounted (pass : Bool) (s : State) : State :=
  { s with
    light.probeRuns := min 65535 (s.light.probeRuns + 1), light.probeCount := 0,
    light.probeFails := if pass = true then s.light.probeFails else min 65535 (s.light.probeFails + 1),
    light.probeStreak := if pass = true then 0 else s.light.probeStreak + 1 }

/-- What a probe that has run comes to: its outcome, whether every slot is dark, and how many failed before it. -/
def probeOutcome (pass dark : Bool) (before : Nat) (s : State) : State :=
  if pass = true then
    if dark = true then raise { code := 0x0206, unit := 0x0182, a0 := s.indigo.dark.toNat } s else s
  else if dark = true then soaOpen 4 0 s
  else if 1 ≤ before then soaOpen 3 0 s
  else s

theorem execSoaProbe_runs {s : State} {t : Ps} (pass : Bool) (hon : (vget s.light.ldc 2).enabled = true)
    (hshort : (gatePulses (s.adv t)).any (· < 20000) = true)
    (hdue : allDark (s.adv t) = true ∨ 1024 ≤ s.light.probeCount) :
    execSoaProbe t pass s =
      .next (probeOutcome pass (allDark (s.adv t)) s.light.probeStreak (probeCounted pass (s.adv t))) := by
  have hruns : ¬ (!(vget s.light.ldc 2).enabled || !(gatePulses (s.adv t)).any (· < 20000)
      || !(allDark (s.adv t) || decide (1024 ≤ s.light.probeCount))) = true := by
    simpa [hon, hshort, or_iff_not_imp_left] using hdue
  unfold execSoaProbe
  refine congrArg _ ((if_neg hruns).trans ?_)
  cases pass with
  | true => rfl
  | false => simp [probeOutcome, probeCounted]

/-- Between two probes of the cadence nothing is probed while a slot has light. -/
theorem execSoaProbe_notDue {s : State} {t : Ps} (pass : Bool) (hlit : allDark (s.adv t) = false)
    (hcount : s.light.probeCount < 1024) : execSoaProbe t pass s = .next (s.adv t) := by
  unfold execSoaProbe
  have hidle : (!(allDark (s.adv t) || decide (1024 ≤ s.light.probeCount))) = true := by simp [hlit, hcount]
  exact congrArg _ (if_pos (by rw [State.adv_light, hidle, Bool.or_true]))

/-- Settles O39: the sample, the short, the open gate, and each outcome of a probe. -/
theorem lightEvents : Obligations.LightEvents := by
  unfold Obligations.LightEvents
  intro t temp diff ch pass s u
  refine ⟨?sample, ?short, ?noShort, ?gate, ?noGate, ?probe, ?noProbe⟩
  case sample =>
    intro hawake v
    exact ⟨execCaseTempSample_awake t temp hawake, retakeHeld_light⟩
  case short => exact execLdShortDetect_beyond t
  case noShort => exact execLdShortDetect_within t
  case gate => exact execSoaOpenConfirm_gated diff
  case noGate => exact execSoaOpenConfirm_short diff
  case probe =>
    intro hon hshort hdue n v
    have hruns : execSoaProbe t pass s = .next (probeOutcome pass (allDark u) n v) := execSoaProbe_runs pass hon hshort hdue
    refine ⟨fun hpass hlit => ?_, fun hpass hdark => ?_, fun hfail hdark => ?_, fun hfail hlit hn => ?_,
      fun hfail hlit hn => ?_⟩
    · exact hruns.trans (by simp [probeOutcome, hpass, hlit])
    · exact hruns.trans (by simp [probeOutcome, hpass, hdark, v])
    · exact hruns.trans (by simp [probeOutcome, hfail, hdark])
    · exact hruns.trans (by simp [probeOutcome, hfail, hlit, Nat.ne_of_gt hn])
    · exact hruns.trans (by simp [probeOutcome, hfail, hlit, hn])
  case noProbe => exact execSoaProbe_notDue pass

end Sys2Proof.Machine
end

section
/-! PROOFS. The registers after reset (O56). Built on Laws/Tables.lean. -/

namespace Sys2Proof.Machine

open Sys2Proof

/-- Both queues start not enabled, empty, of 16 entries, with no error told and the phase at 1. -/
theorem getQ_reset (q : Nat) : getQ q State.reset = {} := by
  unfold getQ
  split <;> rfl

theorem qIdle_reset (q : Nat) : qIdle q State.reset = true := rfl

theorem core_reset (k : Fin 32) : core State.reset k.val = {} := vget_replicate _ _ k.isLt
theorem ctx_reset (k : Fin 256) : ctx State.reset k.val = {} := vget_replicate _ _ k.isLt
theorem stream_reset (k : Fin 258) : stream State.reset k.val = {} := vget_replicate _ _ k.isLt
theorem aux_reset (k : Fin 8) : aux State.reset k.val = {} := vget_replicate _ _ k.isLt
theorem calStep_reset (k : Fin 7) : vget State.reset.cal.steps k.val = {} := vget_replicate _ _ k.isLt

/-- Memories that nothing has written are in their canonical form. -/
theorem memOk_reset : State.reset.memOk = true := by
  have hcores : State.reset.cores.toList = List.replicate 32 {} := Vector.toList_replicate
  unfold State.memOk
  rw [hcores, List.all_replicate]
  rfl

/-- Settles O56: each register as its default has it, the tables entry by entry. -/
theorem resetValues : Obligations.ResetValues := by
  unfold Obligations.ResetValues
  intro s
  refine ⟨rfl, rfl, rfl, rfl, rfl, rfl, rfl, rfl, rfl, rfl, rfl, rfl, ?queues, rfl, rfl, rfl, rfl, rfl, rfl, rfl, rfl, rfl, rfl,
    rfl, rfl, rfl, rfl, rfl, rfl, rfl, rfl, rfl, rfl, rfl, rfl, rfl, rfl, rfl, rfl, rfl, rfl, rfl, rfl, rfl, rfl, ?cores, ?contexts,
    ?streams, ?channels, ?steps, memOk_reset⟩
  case queues =>
    intro q x
    have hx : x = {} := getQ_reset q.val
    rw [hx]
    exact ⟨rfl, rfl, rfl, rfl, rfl, rfl, rfl, rfl, rfl, rfl, rfl, qIdle_reset q.val⟩
  case cores => exact fun k => congrArg Core.state (core_reset k)
  case contexts => exact fun k => congrArg Ctx.live (ctx_reset k)
  case streams => exact fun k => congrArg Stream.configured (stream_reset k)
  case channels => exact fun k => congrArg AuxCh.enabled (aux_reset k)
  case steps => exact fun k => ⟨congrArg CalStep.st (calStep_reset k), congrArg CalStep.result (calStep_reset k)⟩

end Sys2Proof.Machine
end

section
/-! PROOFS. The receivers' own events: the side band, the reference laser, lane self-tests (O40). Built on Laws/State.lean. -/

namespace Sys2Proof.Machine

open Sys2Proof

/-! ### The Ochre side band (R174) -/

/-- The side band found lost, with everything launched since the loss began, 10 µs before, marked. -/
def sidebandLossMarked (s : State) : State :=
  let from_ := s.now - 10000000
  { s with
    ochre.sideLost := true
    ochre.ready := s.ochre.ready.map (fun r => { r with acc := { r.acc with lost := r.acc.lost || from_ ≤ r.acc.lastAt } })
    ochre.acc.lost := s.ochre.acc.lost || (s.ochre.acc.done ≠ 0 && from_ ≤ s.ochre.acc.lastAt)
    light.inflight := s.light.inflight.map (fun x => if x.ochre && from_ ≤ x.at_ then { x with sideLost := true } else x) }

section
variable {s : State} (t : Ps) (percent : Nat)

theorem execSidebandLost_present (h : s.ochre.sideLost = false) :
    execSidebandLost t percent s =
      .next (raise { code := 0x0401, unit := 0x0101, a0 := percent } (sidebandLossMarked (s.adv t))) := by
  have hpresent : ¬ (s.adv t).ochre.sideLost = true := by simp [h]
  unfold execSidebandLost
  exact congrArg _ (if_neg hpresent)

/-- A loss is told once: while the side band is lost another says nothing. -/
theorem execSidebandLost_lost (h : s.ochre.sideLost = true) : execSidebandLost t percent s = .next (s.adv t) := by
  unfold execSidebandLost
  exact congrArg _ (if_pos h)

theorem execSidebandRecovered_lost (h : s.ochre.sideLost = true) :
    execSidebandRecovered t s = .next (restartAcc { (s.adv t) with ochre.sideLost := false }) := by
  unfold execSidebandRecovered
  exact congrArg _ (if_pos h)

theorem execSidebandRecovered_present (h : s.ochre.sideLost = false) : execSidebandRecovered t s = .next (s.adv t) := by
  have hpresent : ¬ (s.adv t).ochre.sideLost = true := by simp [h]
  unfold execSidebandRecovered
  exact congrArg _ (if_neg hpresent)

/-! ### The Indigo reference (R110, R197) -/

/-- A loss of the reference counts as a drift indicator of `REFSCALE`. -/
theorem execRefLost_present (h : s.indigo.refLost = false) :
    execRefLost t percent s =
      .next (drift 2 1 (raise { code := 0x0305, unit := 0x0100, a0 := percent } { (s.adv t) with indigo.refLost := true })) := by
  have hpresent : ¬ (s.adv t).indigo.refLost = true := by simp [h]
  unfold execRefLost
  exact congrArg _ (if_neg hpresent)

theorem execRefLost_lost (h : s.indigo.refLost = true) : execRefLost t percent s = .next (s.adv t) := by
  unfold execRefLost
  exact congrArg _ (if_pos h)
end

/-! ### Lane self-tests (R102, R104) -/

section
variable {s : State} {q : LaneSuspect} {lane : Nat}

/-- A spare that passes its self-test takes the suspect lane's slot at the next boundary. -/
theorem laneTested_spare_passes (hq : s.indigo.suspect = some q) (hstage : q.stage = .spareTest) (hlane : lane = q.spare) :
    laneTested lane true s =
      { s with
        indigo.suspect := some { q with stage := .moving },
        indigo.moves := s.indigo.moves ++ [{ slot := q.slot, lane := q.spare, at_ := moveAt s }] } := by
  simp only [laneTested, hq, hstage, hlane, decide_true, Bool.and_self, if_true]

/-- The self-test of the lane taken out of its slot ends the suspicion: the lane is the spare, or is retired. -/
theorem laneTested_old (pass : Bool) (hq : s.indigo.suspect = some q) (hstage : q.stage = .oldTest) (hlane : lane = q.old) :
    laneTested lane pass s =
      if pass = true then laneFault 0x0302 lane q.slot 0 false { s with indigo.suspect := none, indigo.spare := some lane }
      else laneFault 0x0300 lane q.slot 0 true (retireLane lane { s with indigo.suspect := none }) := by
  have hspare : ¬ (decide (q.stage = .spareTest) && decide (lane = q.spare)) = true := by simp [hstage]
  have hold : (decide (q.stage = .oldTest) && decide (lane = q.old)) = true := by simp [hstage, hlane]
  simp only [laneTested, hq, if_neg hspare, if_pos hold]
end

/-- Settles O40: a loss first and again, each return, and each self-test that a suspicion waits for. -/
theorem receiverEvents : Obligations.ReceiverEvents := by
  unfold Obligations.ReceiverEvents
  intro t pass pct lane s u
  refine ⟨?sideLost, ?sideStillLost, ?sideBack, ?sidePresent, ?refLost, ?refStillLost, rfl, ?spare, ?oldPasses, ?oldFails⟩
  case sideLost => exact execSidebandLost_present t pct
  case sideStillLost => exact execSidebandLost_lost t pct
  case sideBack => exact execSidebandRecovered_lost t
  case sidePresent => exact execSidebandRecovered_present t
  case refLost => exact execRefLost_present t pct
  case refStillLost => exact execRefLost_lost t pct
  case spare =>
    intro q hq hstage hlane hpass
    subst hpass
    exact congrArg Host.Outcome.next (laneTested_spare_passes (s := u) hq hstage hlane)
  case oldPasses =>
    intro q hq hstage hlane hpass
    exact congrArg Host.Outcome.next ((laneTested_old (s := u) pass hq hstage hlane).trans (if_pos hpass))
  case oldFails =>
    intro q hq hstage hlane hfail
    have hnot : ¬ pass = true := by simp [hfail]
    exact congrArg Host.Outcome.next ((laneTested_old (s := u) pass hq hstage hlane).trans (if_neg hnot))

end Sys2Proof.Machine
end

section
/-! PROOFS. The receiver commands as the host gives them (O20). Built on Laws/Command.lean. -/

namespace Sys2Proof.Machine

open Sys2Proof

/-- A field that a request may leave undefined is in order when a request that uses it gives it a value in range. -/
@[simp] theorem definedOr0_iff {used ok : Bool} {v : Nat} :
    definedOr0 used v ok = true ↔ ok = true ∨ (used = false ∧ v = 0) := by
  simp [definedOr0]

/-! ### What INDIGO_CFG and OCHRE_CFG share (R56, R140, R178) -/

/-- The answer of a command whose reply is the settings it has, as they are or as they change at a boundary. -/
def settingsAnswer (reply : Option Bound → State → List Byte) (keeps : Bool) (change : State × Bound) (s : State) : Ans :=
  if keeps = true then { status := St.ok, payload := reply none s, st := s }
  else { status := St.ok, payload := reply (some change.2) change.1, names := change.2.named, due := change.2.dueOf,
         st := change.1 }

theorem settingsAnswer_ne_busy (reply : Option Bound → State → List Byte) (keeps : Bool) (change : State × Bound)
    (s : State) : (settingsAnswer reply keeps change s).status ≠ St.busy := by
  unfold settingsAnswer
  split <;> exact ok_ne_busy

section
variable {f : Fetched} {s : State}

/-! ### INDIGO_CFG (R138 to R140) -/

/-- Every field of the configuration carries its keep value. -/
def indigoKeeps (p : List Byte) : Bool := fld p 0 2 = 0 && fld p 3 1 = 0 && fld p 4 3 = 0

theorem cmdIndigoCfg_answers (hcal : s.calibrating = false)
    (hbands : fld f.payload 0 1 = 0 ∨ fld f.payload 0 1 = 1 ∨ fld f.payload 0 1 = 4) (hpol : fld f.payload 1 1 ≤ 3)
    (hset : fld f.payload 2 1 ≤ 15) (hflags : fld f.payload 3 1 ≤ 15)
    (hfade : fld f.payload 4 1 = 0 ∨ (4 ≤ fld f.payload 4 1 ∧ fld f.payload 4 1 ≤ 64))
    (halign : fld f.payload 5 1 = 0 ∨ (4 ≤ fld f.payload 5 1 ∧ fld f.payload 5 1 ≤ 12)) (hatten : fld f.payload 6 1 ≤ 4)
    (hrsv : fld f.payload 7 1 = 0) :
    cmdIndigoCfg f s =
      settingsAnswer indigoReply (indigoKeeps f.payload) (schedule f f.payload false false 1 false s) s := by
  unfold cmdIndigoCfg
  refine (checked_ok ?checks).trans ?effect
  case checks => simp [hcal, hbands, hpol, hset, hflags, hfade, halign, hatten, hrsv]
  case effect =>
    simp only [hset, hrsv, decide_true, Bool.and_true]
    rfl

/-! ### OCHRE_CFG (R176 to R178) -/

/-- Every field of the configuration carries its keep value. -/
def ochreKeeps (p : List Byte) : Bool :=
  fld p 0 2 = 0 && sfld p 2 2 = 0x7FFF && fld p 4 2 = 0 && fld p 6 2 = 0 && fld p 8 8 = 0 && fld p 17 1 = 0

/-- A change of the Ochre settings at its boundary. -/
def ochreChange (f : Fetched) (s : State) : State × Bound :=
  let b := projected s
  let a := applyOchreCfg f.payload b
  schedule f f.payload (altersTiming s.planMode b a) false (periodOf a s.planMode) false s

theorem cmdOchreCfg_answers (hfit : s.ochreFitted = true) (hcal : s.calibrating = false)
    (hpulse : fld f.payload 0 2 = 0 ∨ (10 ≤ fld f.payload 0 2 ∧ fld f.payload 0 2 ≤ 200 ∧ fld f.payload 0 2 % 2 = 0))
    (hpower : sfld f.payload 2 2 = 0x7FFF ∨
      (-100 ≤ sfld f.payload 2 2 ∧ sfld f.payload 2 2 ≤ (projected s).light.cfg.aprCeil))
    (hlo : fld f.payload 4 2 = 0 ∨ (10300 ≤ fld f.payload 4 2 ∧ fld f.payload 4 2 ≤ 11300)) (hpitch : fld f.payload 6 1 ≤ 16)
    (hfitHalf : fld f.payload 7 1 = 0 ∨ (20 ≤ fld f.payload 7 1 ∧ fld f.payload 7 1 ≤ 120))
    (hacc : fld f.payload 8 4 = 0 ∨ (16 ≤ fld f.payload 8 4 ∧ fld f.payload 8 4 ≤ 16777216 ∧ fld f.payload 8 4 % 16 = 0))
    (hperiod : fld f.payload 12 4 = 0 ∨ (1000 ≤ fld f.payload 12 4 ∧ fld f.payload 12 4 ≤ 200000))
    (hsettle : fld f.payload 16 1 ≤ 1) (hset : fld f.payload 17 1 ≤ 1) (hrsv : fld f.payload 18 2 = 0)
    (hrules : ochreKeeps f.payload = true ∨
      ochreRules s.planMode (projected s) (applyOchreCfg f.payload (projected s)) = true) :
    cmdOchreCfg f s = settingsAnswer ochreReply (ochreKeeps f.payload) (ochreChange f s) s := by
  unfold cmdOchreCfg
  simp only [hsettle, hrsv, decide_true, Bool.and_true]
  refine (checked_ok ?checks).trans ?effect
  case checks =>
    have hunruled : (!ochreKeeps f.payload && !ochreRules s.planMode (projected s) (applyOchreCfg f.payload (projected s)))
        = false := by simpa [or_iff_not_imp_left] using hrules
    rw [ochreKeeps] at hunruled
    simp only [List.all_cons, List.all_nil, hunruled]
    simp [hfit, hcal, hpulse, hpower, hlo, hpitch, hfitHalf, hacc, hperiod, hset, and_assoc]
  case effect => rfl

/-! ### OCHRE_READ (R179) -/

/-- The head of the reply: how many entries follow, and the shift of their values. -/
def ochreReadHead (p : List Byte) (o : OchreState) (n scale : Nat) : List Byte :=
  padTo 4 (o.desc.take 4) ++ padTo 4 ((o.desc.drop 4).take 4) ++ le4 (((o.refUse.map (·.1)).getD 0) % 4294967296).toNat
    ++ le2 ((o.refUse.map (fun x => degCode x.2)).getD 0) ++ padTo 2 ((o.desc.drop 12).take 2) ++ le4 (fld p 4 4) ++ le2 n
    ++ le1 (fld p 0 1) ++ le1 scale ++ zeros 8

/-- The two spectra of a reply: the zone's and the baseline, at the shift that fits both. -/
def ochreReadSpectra (p : List Byte) (o : OchreState) : List Byte :=
  let sp := wholeSpec (if o.specBase ≤ fld p 4 4 then (o.specs[fld p 4 4 - o.specBase]?).getD [] else [])
  let ba := wholeSpec o.base
  let k := specScale 256 (sp ++ ba) 0
  let row (l : List Nat) := (List.range 128).flatMap (fun i => le4 ((l[i]?).getD 0 / 2 ^ k))
  ochreReadHead p o 1 k ++ row sp ++ row ba

/-- The reply: the head alone before the first update, then the zones or the spectra asked for. -/
def ochreReadReply (p : List Byte) (o : OchreState) : List Byte :=
  let zs := (o.zones.drop (fld p 4 4)).take (fld p 8 2)
  if o.desc.isEmpty = true then ochreReadHead p o 0 0
  else if fld p 0 1 = 0 then ochreReadHead p o zs.length 0 ++ zs.flatMap dtsEntryBytes
  else ochreReadSpectra p o

theorem cmdOchreRead_reads (hfit : s.ochreFitted = true) (hwhat : fld f.payload 0 1 ≤ 1) (hrsv1 : fld f.payload 1 3 = 0)
    (hrsv10 : fld f.payload 10 2 = 0)
    (hcount : if fld f.payload 0 1 = 1 then fld f.payload 8 2 = 1 else 1 ≤ fld f.payload 8 2 ∧ fld f.payload 8 2 ≤ 250)
    (hfirst : s.indigo.map.nDts = 0 ∨ fld f.payload 4 4 < s.indigo.map.nDts) :
    cmdOchreRead f s = { status := St.ok, st := s, payload := ochreReadReply f.payload s.ochre } := by
  have hn : (if fld f.payload 0 1 = 1 then decide (fld f.payload 8 2 = 1) else inR (fld f.payload 8 2) 1 250) = true := by
    split at hcount <;> simp [*]
  unfold cmdOchreRead
  refine (checked_ok ?checks).trans ?effect
  case checks => simp [hfit, hrsv1, hrsv10, hn, hfirst, hwhat]
  case effect =>
    unfold ochreReadReply
    dsimp only
    split
    · rfl
    · split <;> rfl

/-! ### REF_COIL_CFG (R180, R181) -/

/-- Port 0 takes the coil away; port 1 or 2 places it, with all it needs defined and the map's zones clear of it. -/
theorem cmdRefCoilCfg_changes (hfit : s.ochreFitted = true) (hcal : s.calibrating = false)
    (hplace : fld f.payload 0 1 = 0 ∨ ((fld f.payload 0 1 = 1 ∨ fld f.payload 0 1 = 2) ∧ fld f.payload 1 1 ≤ 7 ∧
      (fld f.payload 2 1 = 1 ∨ fld f.payload 2 1 = 2) ∧ fld f.payload 3 1 = 0 ∧ 16 ≤ fld f.payload 8 2 ∧
      fld f.payload 8 2 ≤ 2048 ∧ fld f.payload 4 4 + fld f.payload 8 2 ≤ 262144 ∧ fld f.payload 10 2 = 0 ∧
      okOchre (applyRefCoil f.payload (projected s)) s.planMode = true)) :
    let q := schedule f f.payload false false 1 false s
    cmdRefCoilCfg f s = { status := St.ok, payload := coilReply q.1, due := q.2.dueOf, st := q.1 } := by
  intro q
  have hnotRead : ¬ fld f.payload 0 1 = 0xFF := by omega
  unfold cmdRefCoilCfg
  refine (checked_ok ?checks).trans (if_neg hnotRead)
  case checks =>
    rcases hplace with hnone | ⟨hport, hchan, hwire, hrsv3, hmin, hmax, hend, hrsv10, hochre⟩
    · simp [hfit, hcal, hnone]
    · have hwires : 1 ≤ fld f.payload 2 1 ∧ fld f.payload 2 1 ≤ 2 := by omega
      simp [hfit, hcal, hport, hchan, hwires, hrsv3, hmin, hmax, hend, hrsv10, hochre]

theorem cmdRefCoilCfg_reads (hfit : s.ochreFitted = true) (hcal : s.calibrating = false) (hport : fld f.payload 0 1 = 0xFF)
    (hchan : fld f.payload 1 1 ≤ 7) (hwire : fld f.payload 2 1 ≤ 2) (hrsv3 : fld f.payload 3 1 = 0)
    (hlen : fld f.payload 8 2 = 0 ∨ (16 ≤ fld f.payload 8 2 ∧ fld f.payload 8 2 ≤ 2048))
    (hend : fld f.payload 4 4 + fld f.payload 8 2 ≤ 262144) (hrsv10 : fld f.payload 10 2 = 0) :
    cmdRefCoilCfg f s = { status := St.ok, payload := coilReply s, st := s } := by
  have hwires : (1 ≤ fld f.payload 2 1 ∧ fld f.payload 2 1 ≤ 2) ∨ fld f.payload 2 1 = 0 := by omega
  unfold cmdRefCoilCfg
  refine (checked_ok ?checks).trans (if_pos hport)
  case checks => simp [hfit, hcal, hport, hchan, hwires, hrsv3, hlen.symm, hend, hrsv10]
end

/-- Settles O20: each command's own checks pass, and what it then answers is what its request is answered with. -/
theorem receiverCommands : Obligations.ReceiverCommands := by
  unfold Obligations.ReceiverCommands
  intro r s u p plain
  refine ⟨?indigo, ?ochre, ?read, ?coil, ?coilRead⟩
  case indigo =>
    intro hready hcal hbands hpol hset hflags hfade halign hatten hrsv
    exact answers_of hready (cmdIndigoCfg_answers hcal hbands hpol hset hflags hfade halign hatten hrsv)
      (settingsAnswer_ne_busy _ _ _ u)
  case ochre =>
    intro hready hfit hcal hpulse hpower hlo hpitch hfitHalf hacc hperiod hsettle hset hrsv keeps b a hrules
    exact answers_of hready (cmdOchreCfg_answers hfit hcal hpulse hpower hlo hpitch hfitHalf hacc hperiod hsettle hset hrsv
      hrules) (settingsAnswer_ne_busy _ _ _ u)
  case read =>
    intro hready hfit hwhat hrsv1 hrsv10 hcount hfirst
    exact answers_of hready (cmdOchreRead_reads hfit hwhat hrsv1 hrsv10 hcount hfirst) ok_ne_busy
  case coil =>
    intro hready hfit hcal hplace
    exact answers_of hready (cmdRefCoilCfg_changes hfit hcal hplace) ok_ne_busy
  case coilRead =>
    intro hready hfit hcal hport hchan hwire hrsv3 hlen hend hrsv10
    exact answers_of hready (cmdRefCoilCfg_reads hfit hcal hport hchan hwire hrsv3 hlen hend hrsv10) ok_ne_busy

end Sys2Proof.Machine
end

section
/-! PROOFS. The record commands as the host gives them (O23). Built on Laws/Command.lean. -/

namespace Sys2Proof.Machine

open Sys2Proof

section
variable {f : Fetched} {s : State}

/-! ### REC_LIST (R272) -/

theorem cmdRecList_lists (hctx : fld f.payload 0 2 ≤ 256 ∨ fld f.payload 0 2 = 0xFFFF) (hmin : 1 ≤ fld f.payload 2 2)
    (hmax : fld f.payload 2 2 ≤ 160) (hstart : fld f.payload 4 4 ≤ 16383) :
    let all := (recsSorted s).filter (fun x => fld f.payload 0 2 = 0xFFFF || x.ctx = fld f.payload 0 2)
    let rest := all.filter (fun x => fld f.payload 4 4 ≤ x.entry)
    let got := rest.take (fld f.payload 2 2)
    cmdRecList f s =
      { status := St.ok, st := s,
        payload := le4 all.length ++ le4 (((rest.drop (fld f.payload 2 2)).head?.map (·.entry)).getD 0xFFFFFFFF)
          ++ le4 (blocksFree s) ++ le2 got.length ++ zeros 2 ++ got.flatMap recEntry } := by
  unfold cmdRecList
  exact checked_ok (by simp [hctx, hmin, hmax, hstart])

/-! ### REC_FETCH (R273, R463, R467) -/

/-- A read-back in STANDBY takes the record memory out of self-refresh. -/
def readBackAwake (s : State) : State :=
  if s.power.mode = .standby then { s with mem.ch := s.mem.ch.map (fun m => { m with selfRefresh := false }) } else s

@[simp] theorem readBackAwake_pool (s : State) : (readBackAwake s).pool = s.pool := by
  unfold readBackAwake
  split <;> rfl

/-- A range of a completed record as the reply carries it. -/
def fetchRead (p : List Byte) (x : Record) (s : State) : Ans :=
  { status := if x.bad.any (fun w => fld p 8 8 / 8 ≤ w && w ≤ (fld p 8 8 + fld p 6 2 - 1) / 8) then St.degraded else St.ok,
    st := readBackAwake s,
    payload := le4 (fld p 0 4) ++ le8 (fld p 8 8) ++ le2 (fld p 6 2) ++ zeros 2 ++ le8 x.imageLen
      ++ maskBad x.bad (fld p 8 8) ((x.logical.drop (fld p 8 8)).take (fld p 6 2)) }

/-- Blocks of a completed record mapped into BAR4, in place of what the same pages held. -/
def fetchMapped (p : List Byte) (x : Record) (s : State) : Ans :=
  { status := St.ok,
    st := { (readBackAwake s) with
      pool.pages := (List.range (fld p 18 2)).map (fun i => (fld p 16 2 + i, fld p 0 4, fld p 8 8 + i))
        ++ s.pool.pages.filter (fun y => y.1 < fld p 16 2 || fld p 16 2 + fld p 18 2 ≤ y.1) },
    payload := le4 (fld p 0 4) ++ le4 x.preBlocks ++ le4 x.postBlocks ++ le2 (fld p 18 2) ++ zeros 2 }

theorem cmdRecFetch_completed {x : Record} (hrec : findRec (fld f.payload 0 4) s = some x)
    (hranges : fetchBad x f.payload = false) (hdone : x.phase = .done) (hkept : x.lost = false) :
    cmdRecFetch f s = if fld f.payload 4 1 = 0 then fetchRead f.payload x s else fetchMapped f.payload x s := by
  unfold cmdRecFetch
  simp only [hrec]
  refine (checked_ok ?checks).trans ?effect
  case checks => simp [hranges, hdone, hkept]
  case effect =>
    have hpages : (readBackAwake s).pool.pages = s.pool.pages := by rw [readBackAwake_pool]
    unfold fetchMapped
    rw [← hpages]
    rfl

theorem fetchRead_ne_busy (p : List Byte) (x : Record) (s : State) : (fetchRead p x s).status ≠ St.busy := by
  unfold fetchRead
  dsimp only
  split <;> decide

/-! ### REC_RELEASE (R274) -/

/-- The handles that a release names. -/
def releaseHandles (p : List Byte) : List Nat := (List.range (fld p 4 2)).map (fun i => fld p (8 + 4 * i) 4)

theorem cmdRecRelease_handles (hflags : fld f.payload 0 1 = 0) (hrsv1 : fld f.payload 1 1 = 0) (hctx : fld f.payload 2 2 = 0)
    (hmin : 1 ≤ fld f.payload 4 2) (hmax : fld f.payload 4 2 ≤ 64) (hrsv6 : fld f.payload 6 2 = 0) :
    let q := releaseAll (releaseHandles f.payload) s
    let t := retryReserves q.2
    cmdRecRelease f s =
      { status := if q.1.all (· = 0) then St.ok else St.degraded, st := t,
        payload := le2 (q.1.filter (· = 0)).length ++ zeros 2 ++ le4 (blocksFree t)
          ++ padTo (cdiv (fld f.payload 4 2) 4 * 4) (q.1.flatMap le1) } := by
  intro q t
  unfold cmdRecRelease
  refine (checked_ok ?checks).trans ?effect
  case checks => simp [hflags, hrsv1, hctx, hmax, hrsv6, Nat.ne_of_gt hmin]
  case effect =>
    simp only [hflags, Nat.zero_ne_one, if_false]
    rfl

/-- The handles of a context's records that no capture or measurement holds. -/
def releasable (c : Nat) (s : State) : List Nat :=
  (s.pool.recs.filter (fun x => x.ctx = c && x.phase ≠ .capture && x.phase ≠ .measuring)).map Record.handle

theorem cmdRecRelease_context (hflags : fld f.payload 0 1 = 1) (hrsv1 : fld f.payload 1 1 = 0) (hctx : fld f.payload 2 2 ≤ 256)
    (hcount : fld f.payload 4 2 = 0) (hrsv6 : fld f.payload 6 2 = 0) :
    let own := releasable (fld f.payload 2 2) s
    let t := retryReserves (own.foldl (fun s h => freeRec h s) s)
    cmdRecRelease f s =
      { status := St.ok, st := t, payload := le2 own.length ++ zeros 2 ++ le4 (blocksFree t) } := by
  intro own t
  have hnone : releaseAll ((List.range 0).map (fun i => fld f.payload (8 + 4 * i) 4)) s = ([], s) := rfl
  unfold cmdRecRelease
  refine (checked_ok ?checks).trans ?effect
  case checks => simp [hflags, hrsv1, hctx, hcount, hrsv6]
  case effect =>
    simp only [hflags, hcount, hnone, if_true]
    simp [own, t, releasable, padTo, zeros, cdiv]

/-! ### POOL_CFG (R247, R275, R450) -/

/-- The pool, quota and threshold of measurement as a request sets them, and what now fits reserved. -/
def poolSet (p : List Byte) (target : Nat) (s : State) : State :=
  let a := if tst (fld p 0 1) 0 = true then { s with pool.blocks := fld p 4 4 } else s
  let b := if tst (fld p 0 1) 1 = true then modCtx target (fun c => { c with quota := fld p 8 4 }) a else a
  retryReserves (if tst (fld p 0 1) 2 = true then modCtx target (fun c => { c with measThresh := fld p 12 4 }) b else b)

theorem cmdPoolCfg_sets (hflags : fld f.payload 0 1 ≤ 7) (hrsv : fld f.payload 1 3 = 0)
    (hblocks : fld f.payload 4 4 = 0 ∨ (1024 ≤ fld f.payload 4 4 ∧ fld f.payload 4 4 ≤ 13312))
    (hquota : fld f.payload 8 4 ≤ 13312)
    (hthresh : fld f.payload 12 4 = 0 ∨ (1 ≤ sfld f.payload 12 4 ∧ sfld f.payload 12 4 ≤ 8388607))
    (hpool : tst (fld f.payload 0 1) 0 = true → f.target = 0xFFFF ∧ s.ctxs.toList.any Ctx.live = false ∧ s.indigo.raw = none ∧
      s.pool.recs = [] ∧ 1024 ≤ fld f.payload 4 4 ∧ fld f.payload 4 4 ≤ 13312 ∧ fld f.payload 4 4 ≤ poolMax s)
    (hsetQuota : tst (fld f.payload 0 1) 1 = true → f.target ≠ 0xFFFF)
    (hsetThresh : tst (fld f.payload 0 1) 2 = true →
      f.target ≠ 0xFFFF ∧ 1 ≤ sfld f.payload 12 4 ∧ sfld f.payload 12 4 ≤ 8388607) :
    let t := poolSet f.payload f.target.toNat s
    cmdPoolCfg f s =
      { status := St.ok, st := t,
        payload := le4 t.pool.blocks ++ le4 (blocksFree t) ++ le4 (tableFree t)
          ++ (if f.target = 0xFFFF then zeros 12
            else le4 (ctx t f.target.toNat).quota ++ le4 (claimOf t f.target.toNat)
              ++ le4 (ctx t f.target.toNat).measThresh) } := by
  intro t
  have hdevice : f.target.toNat = 0xFFFF ↔ f.target = 0xFFFF := BitVec.toNat_inj (y := 0xFFFF)
  have hcontext : (decide (f.target = 0xFFFF) && (tst (fld f.payload 0 1) 1 || tst (fld f.payload 0 1) 2)) = false := by
    by_cases htarget : f.target = 0xFFFF
    · have hnoQuota : tst (fld f.payload 0 1) 1 = false := Bool.eq_false_iff.mpr fun h => hsetQuota h htarget
      have hnoThresh : tst (fld f.payload 0 1) 2 = false := Bool.eq_false_iff.mpr fun h => (hsetThresh h).1 htarget
      rw [hnoQuota, hnoThresh, Bool.or_self, Bool.and_false]
    · rw [decide_eq_false htarget, Bool.false_and]
  have hthreshIn : definedOr0 (tst (fld f.payload 0 1) 2) (fld f.payload 12 4) (inI (sfld f.payload 12 4) 1 8388607)
      = true := by
    cases hset : tst (fld f.payload 0 1) 2 with
    | false => simpa [hset] using hthresh.symm
    | true => simpa [hset] using (hsetThresh hset).2
  unfold cmdPoolCfg
  simp only [hdevice]
  refine (checked_ok ?checks).trans ?effect
  case checks =>
    simp only [List.all_cons, List.all_nil, hcontext, hthreshIn]
    cases hset : tst (fld f.payload 0 1) 0 with
    | false => simp [hflags, hrsv, hquota, hblocks.symm]
    | true =>
      obtain ⟨htarget, hdisarmed, hraw, hempty, hmin, hmax, hfits⟩ := hpool hset
      simp [hflags, hrsv, hquota, htarget, hdisarmed, hraw, hempty, hmin, hmax, hfits]
  case effect => rfl

/-! ### RAW_CAPTURE (R141 to R145) -/

/-- Taps 0 and 4 capture whole samples, of no slot. -/
def wholeTap (p : List Byte) : Bool := fld p 0 1 = 0 || fld p 0 1 = 4

/-- The bytes of a capture in the settings accepted. -/
def rawLength (p : List Byte) (s : State) : Nat :=
  rawBytes (projected s) (fld p 0 1) (fld p 1 1) (fld p 8 4) (fld p 12 4)

/-- The instant of the first sample or line captured. -/
def rawFirst (p : List Byte) (s : State) : Ps :=
  let j := projected s
  let at_ := ((rawStart p s).map (·.2)).getD (rawWarmStart (fld p 0 1) s)
  let k := ((List.range 8).find? (tst (fld p 1 1))).getD 0
  if wholeTap p = true then at_ else at_ + k * (j.light.plan.tl / j.light.plan.nSlots)

/-- The record of a capture that starts. -/
def rawRecord (p : List Byte) (s : State) : Record :=
  { entry := (newEntry s).1, gen := (newEntry s).2, ctx := 256, source := 0, cause := 0, epoch := s.cmd.epoch, firstZone := 0,
    nZones := 0, lineSize := 0, preReq := 0, postReq := 0, missedBefore := 0, zone := 0xFFFFFFFF, seq := 0,
    stamp := s.stamp (rawFirst p s), sec := s.devSec (rawFirst p s), nsec := s.devSubNs (rawFirst p s),
    postBlocks := blocksOf (128 + rawLength p s) }

/-- The capture that a request starts. -/
def rawRequested (p : List Byte) (s : State) : RawCapture :=
  { tap := fld p 0 1, slots := by8 (fld p 1 1), first := fld p 4 4, count := fld p 8 4, lines := fld p 12 4,
    start := (rawStart p s).map (·.1), startAt := rawFirst p s, bytes := rawLength p s, handle := (rawRecord p s).handle }

theorem cmdRawCapture_starts
    (hmode : s.inMode (if 1 ≤ fld f.payload 0 1 ∧ fld f.payload 0 1 ≤ 3 then [.acoustic, .full] else [.warm, .acoustic, .full])
      = true)
    (hlaunch : s.power.mode = .warm ∨ (rawStart f.payload s).isSome = true) (hfree : s.indigo.raw = none)
    (hranges : rawBad f.payload (projected s) = false)
    (hat : fld f.payload 2 1 = 1 → s.power.mode ≠ .warm ∧
      (rawStart f.payload s).any (fun x => s.now + Config.leadTime ≤ x.2) = true)
    (hrate : wholeTap f.payload = true ∨
      ((rawLineBytes (projected s) (fld f.payload 0 1) (fld f.payload 8 4) * popCount 8 (fld f.payload 1 1)
        * 1000000000000 : Nat) : Rat) ≤ ((rtReserve s : Rat) - rtArmed s) * (acceptedTl (projected s) : Rat))
    (hroom : blocksOf (128 + rawLength f.payload s) ≤ blocksFree s) (htable : tableFree s ≠ 0) :
    cmdRawCapture f s =
      { status := St.ok,
        st := { (addRec (rawRecord f.payload s) s) with indigo.raw := some (rawRequested f.payload s) },
        payload := le8 (((rawStart f.payload s).map (·.1)).getD (2 ^ 64 - 1)) ++ le4 (rawLength f.payload s) } := by
  unfold cmdRawCapture
  refine (checked_ok ?checks).trans ?effect
  case effect =>
    unfold rawRequested rawRecord
    generalize newEntry s = entry
    rfl
  case checks =>
    have hlaunched : (decide (s.power.mode ≠ .warm) && (rawStart f.payload s).isNone) = false := by
      rcases hlaunch with h | h
      · simp [h]
      · simp [Option.isNone_eq_false_iff.mpr h]
    have hlit : (decide (s.power.mode = .warm) && decide (fld f.payload 2 1 = 1)) = false := by
      by_cases h : fld f.payload 2 1 = 1
      · simp [(hat h).1]
      · simp [h]
    have hahead : (decide (fld f.payload 2 1 = 1)
        && !(rawStart f.payload s).any (fun x => s.now + Config.leadTime ≤ x.2)) = false := by
      simpa using fun h => (hat h).2
    have hcarried : (!(decide (fld f.payload 0 1 = 0) || decide (fld f.payload 0 1 = 4)) &&
        decide (((rtReserve s : Rat) - rtArmed s) * (acceptedTl (projected s) : Rat) <
          ((rawLineBytes (projected s) (fld f.payload 0 1) (fld f.payload 8 4) * popCount 8 (fld f.payload 1 1)
            * 1000000000000 : Nat) : Rat))) = false := by
      rw [wholeTap] at hrate
      rcases hrate with h | h
      · rw [h, Bool.not_true, Bool.false_and]
      · rw [decide_eq_false (not_lt.mpr h), Bool.and_false]
    have hfits : decide (blocksFree s < blocksOf (128 + rawBytes (projected s) (fld f.payload 0 1) (fld f.payload 1 1)
        (fld f.payload 8 4) (fld f.payload 12 4))) = false := decide_eq_false (not_lt.mpr hroom)
    have hentry : decide (tableFree s = 0) = false := decide_eq_false htable
    simp only [List.all_cons, List.all_nil, inR_iff, hmode, hlaunched, hfree, hranges, hlit, hahead, hcarried, hfits, hentry]
    rfl

end

/-- Settles O23: each command's own checks pass, and what it then answers is what its request is answered with. -/
theorem recordCommands : Obligations.RecordCommands := by
  unfold Obligations.RecordCommands
  intro r s u p memAwake
  refine ⟨?list, ?fetch, ?map, ?release, ?releaseContext, ?pool, ?raw⟩
  case list =>
    intro hready hctx hmin hmax hstart
    exact answers_of hready (cmdRecList_lists hctx hmin hmax hstart) ok_ne_busy
  case fetch =>
    intro x hready hrec hranges hdone hkept hread
    have hfetch := cmdRecFetch_completed (f := reqOf recFetchSpec r s) hrec hranges hdone hkept
    exact answers_of hready (hfetch.trans (if_pos hread)) (fetchRead_ne_busy p x u)
  case map =>
    intro x hready hrec hranges hdone hkept hmap
    have hfetch := cmdRecFetch_completed (f := reqOf recFetchSpec r s) hrec hranges hdone hkept
    exact answers_of hready (hfetch.trans (if_neg hmap)) ok_ne_busy
  case release =>
    intro hready hflags hrsv1 hctx hmin hmax hrsv6
    exact answers_of hready (cmdRecRelease_handles hflags hrsv1 hctx hmin hmax hrsv6) (by dsimp only; split <;> decide)
  case releaseContext =>
    intro hready hflags hrsv1 hctx hcount hrsv6
    exact answers_of hready (cmdRecRelease_context hflags hrsv1 hctx hcount hrsv6) ok_ne_busy
  case pool =>
    intro hready hflags hrsv hblocks hquota hthresh hpool hsetQuota hsetThresh
    exact answers_of hready (cmdPoolCfg_sets hflags hrsv hblocks hquota hthresh hpool (fun h => (hsetQuota h).1) hsetThresh)
      ok_ne_busy
  case raw =>
    intro hready tap whole start j bytes hmode hlaunch hfree hranges hat hrate hroom htable
    refine ⟨rawRequested p u, rawRecord p u,
      answers_of hready (cmdRawCapture_starts hmode hlaunch hfree hranges hat hrate hroom htable) ok_ne_busy,
      rfl, rfl, rfl, rfl, rfl, rfl, rfl, rfl, fun hwhole => ?_, rfl, rfl, rfl⟩
    exact if_pos hwhole

end Sys2Proof.Machine
end

section
/-! PROOFS. Auxiliary results, the monitor reference and the coil thermometer's check (O46). Built on Laws/State.lean. -/

namespace Sys2Proof.Machine

open Sys2Proof

/-! ### The wake count (R439) -/

/-- No result completes a wake count outside sleep. -/
theorem wakeStep_awake {s : State} (x : AuxRes) (c : AuxCh) (h : s.power.sleeping = false) : (wakeStep s x c).2 = false := by
  simp [wakeStep, h]

/-- A result that carries `OPEN` does not count. -/
theorem wakeStep_open {x : AuxRes} (s : State) (c : AuxCh) (h : tst x.flags 1 = true) : (wakeStep s x c).2 = false := by
  have hmasked : x.flags &&& 0x17 ≠ 0 := by
    intro h0
    have hbit : (x.flags &&& 0x17).testBit 1 = true := by rw [Nat.testBit_and]; exact Bool.and_eq_true_iff.mpr ⟨h, by decide⟩
    rw [h0, Nat.zero_testBit] at hbit
    exact Bool.false_ne_true hbit
  unfold wakeStep
  rw [if_pos hmasked]
  split <;> rfl

/-- `WAKE` is bit 5 of a result's flags, `OPEN` bit 1 (R433). -/
theorem tst_open_add_wake (f : Nat) : tst (f + 32) 1 = tst f 1 := by
  have hdiv : (f + 32) / 2 ^ 1 % 2 = f / 2 ^ 1 % 2 := by omega
  rw [tst, tst, Nat.testBit_eq_decide_div_mod_eq, Nat.testBit_eq_decide_div_mod_eq, hdiv]

@[simp] theorem keepWake_power (n : Nat) (r : Int) (s : State) : (keepWake n r s).power = s.power := by
  unfold keepWake
  extract_lets same
  split <;> rfl

/-- A wake request begins or changes a wake; the device sleeps until the wake comes. -/
@[simp] theorem requestWake_sleeping (c : Byte) (s : State) : (requestWake c s).power.sleeping = s.power.sleeping := by
  unfold requestWake
  split
  · split
    · rfl
    · split <;> rfl
  · split <;> rfl

/-- The first wake result since `VDD_AON` came up is kept whatever its channel. -/
theorem keepWake_first {s : State} (n : Nat) (r : Int) (h : s.aux.lastWakeAt = none) :
    keepWake n r s = { s with aux.lastWakeCh := n, aux.lastWake := r, aux.lastWakeAt := some s.now } := by
  simp [keepWake, h]

/-! ### A conversion taken (R433, R434, R437) -/

/-- A result in its channel's buffer, with whether the channel's open sensor has been told. -/
def auxKept (n : Nat) (x : AuxRes) (c : AuxCh) (told : Bool) (s : State) : State :=
  modAux n (fun _ => { (c.keep x) with openTold := told }) s

/-- A result at the coil's thermometer, if its channel measures it and the device is not asleep. -/
def auxAtCoil (n : Nat) (x : AuxRes) (s : State) : State :=
  if (measuresCoil s n && !s.power.sleeping) = true then coilResult x s else s

/-- A result at the monitor outputs and the contexts. -/
def auxFeeds (n : Nat) (rd : List (Nat × Fin 4)) (x : AuxRes) (s : State) : State :=
  auxLines n rd (amonFeed 3 n (fun _ => (x.r : Rat)) ((x.flags &&& 7) = 0) s)

/-- The fault of an open sensor (R431, R447). -/
def auxOpenFault (n : Nat) (x : AuxRes) : FaultOcc :=
  { code := 0x0900, unit := 0x0140 + n, a0 := (x.r % 4294967296).toNat, a1 := x.flags }

/-- A result with the flag of the wake that it completes (R433). -/
def AuxRes.waking (wakes : Bool) (x : AuxRes) : AuxRes := if wakes then { x with flags := x.flags + 32 } else x

/-- The result `x` of channel `n`, in state `c` after it, taken: an open sensor not yet told is told, and a result that `wakes`
requests the wake. -/
def auxTaken (n : Nat) (rd : List (Nat × Fin 4)) (x : AuxRes) (c : AuxCh) (wakes : Bool) (s : State) : State :=
  let fresh := tst x.flags 1 && !c.openTold
  let kept := auxKept n x c (c.openTold || fresh) s
  let told := if fresh then raise (auxOpenFault n x) kept else kept
  let woken := if wakes then requestWake 3 (keepWake n x.r told) else told
  auxFeeds n rd x (auxAtCoil n x woken)

section
variable {s : State} (t : Ps) (ch : Fin 8) (raw : BitVec 24) (det : AuxDetect) (rd : List (Nat × Fin 4))

theorem execAuxResult_stopped (h : converts (s.adv t) ch.val = false) :
    execAuxResult t ch raw det rd s = .next (s.adv t) := by
  have hstopped : (!converts (s.adv t) ch.val) = true := by rw [h]; rfl
  unfold execAuxResult
  exact congrArg _ (if_pos hstopped)

/-- The conversion gives the result and the channel, the wake count whether it wakes, and the result is taken so. -/
theorem execAuxResult_converts {q : AuxRes × AuxCh} {w : AuxCh × Bool} (h : converts (s.adv t) ch.val = true)
    (hq : convert (s.adv t) ch.val raw det (aux (s.adv t) ch.val) = q) (hw : wakeStep (s.adv t) q.1 q.2 = w) :
    execAuxResult t ch raw det rd s =
      .next (auxTaken ch.val rd (q.1.waking w.2) w.1 w.2 (s.adv t)) := by
  subst hq hw
  have hruns : ¬ (!converts (s.adv t) ch.val) = true := by rw [h]; exact Bool.false_ne_true
  unfold execAuxResult
  exact congrArg _ (if_neg hruns)
end

section
variable {n : Nat} {s : State} (rd : List (Nat × Fin 4)) (x : AuxRes) (c : AuxCh)

theorem auxAtCoil_measures (hcoil : measuresCoil s n = true) (hawake : s.power.sleeping = false) :
    auxAtCoil n x s = coilResult x s := if_pos (by rw [hcoil, hawake]; rfl)

theorem auxAtCoil_other (h : measuresCoil s n = false ∨ s.power.sleeping = true) : auxAtCoil n x s = s :=
  if_neg (by rcases h with h | h <;> simp [h])

/-- A result that tells nothing and wakes nothing. -/
theorem auxTaken_plain (h : tst x.flags 1 = false ∨ c.openTold = true) :
    auxTaken n rd x c false s = auxFeeds n rd x (auxAtCoil n x (auxKept n x c c.openTold s)) := by
  have hfresh : (tst x.flags 1 && !c.openTold) = false := by rcases h with h | h <;> simp [h]
  simp [auxTaken, hfresh]

theorem auxTaken_tells (hopen : tst x.flags 1 = true) (hnew : c.openTold = false) :
    auxTaken n rd x c false s =
      auxFeeds n rd x (auxAtCoil n x (raise (auxOpenFault n x) (auxKept n x c true s))) := by
  simp [auxTaken, hopen, hnew]

/-- A result that wakes the device is taken in sleep, where no coil is measured. -/
theorem auxTaken_wakes (hclosed : tst x.flags 1 = false) (hasleep : s.power.sleeping = true) :
    auxTaken n rd x c true s =
      auxFeeds n rd x (requestWake 3 (keepWake n x.r (auxKept n x c c.openTold s))) := by
  have hcoil : auxAtCoil n x (requestWake 3 (keepWake n x.r (auxKept n x c c.openTold s))) =
      requestWake 3 (keepWake n x.r (auxKept n x c c.openTold s)) :=
    auxAtCoil_other x (.inr (by simp [auxKept, hasleep]))
  simpa [auxTaken, hclosed] using congrArg (auxFeeds n rd x) hcoil
end

/-! ### The monitor reference (R440) -/

section
variable {s : State} {mv : Nat} (t : Ps)

theorem execAmonVrefLow_high (h : 450 ≤ mv) :
    execAmonVrefLow t mv s = .next { (s.adv t) with aux.vrefMv := mv, aux.vrefLow := false } := by
  unfold execAmonVrefLow
  exact congrArg _ (if_pos h)

/-- An episode that has been told tells nothing more. -/
theorem execAmonVrefLow_still (h : mv < 450) (hlow : s.aux.vrefLow = true) :
    execAmonVrefLow t mv s = .next { (s.adv t) with aux.vrefMv := mv } := by
  unfold execAmonVrefLow
  exact congrArg _ ((if_neg (Nat.not_le.mpr h)).trans (if_pos hlow))

theorem execAmonVrefLow_begins (h : mv < 450) (hhigh : s.aux.vrefLow = false) :
    execAmonVrefLow t mv s =
      .next (raise { code := 0x0901, unit := 0x0148, a0 := mv } { (s.adv t) with aux.vrefMv := mv, aux.vrefLow := true }) := by
  have hnot : ¬ s.aux.vrefLow = true := by rw [hhigh]; exact Bool.false_ne_true
  unfold execAmonVrefLow
  exact congrArg _ ((if_neg (Nat.not_le.mpr h)).trans (if_neg hnot))
end

/-! ### The coil thermometer's check (R436) -/

/-- A channel with four conversion periods on the reference resistor before it, its last value held meanwhile. -/
def AuxCh.onReference (c : AuxCh) : AuxCh := { c with refLeft := 4, refHold := (c.last.map (·.r)).getD 0 }

theorem measureRef_due {s : State} {q : Coil} (h : s.ochre.coilDue = some q) :
    measureRef s = modAux q.auxCh AuxCh.onReference s := by
  unfold measureRef
  rw [h]
  rfl

theorem measureRef_none {s : State} (h : s.ochre.coilDue = none) : measureRef s = s := by
  simp only [measureRef, h]

theorem execRefResistorCheck_due {s : State} {q : Coil} (t : Ps) (hdue : s.ochre.coilDue = some q)
    (hmode : s.inMode [.warm, .acoustic, .survey, .full] = true) :
    execRefResistorCheck t s =
      .next (modAux q.auxCh AuxCh.onReference (s.adv t)) := by
  unfold execRefResistorCheck
  exact congrArg _ ((if_pos hmode).trans (measureRef_due (s := s.adv t) hdue))

theorem execRefResistorCheck_none {s : State} (t : Ps) (h : s.ochre.coilDue = none) :
    execRefResistorCheck t s = .next (s.adv t) := by
  unfold execRefResistorCheck
  exact congrArg _ (by rw [measureRef_none (s := s.adv t) h, ite_self])

/-- Settles O46: a conversion taken as it tells, wakes or does neither; the reference by its voltage; the check by the coil. -/
theorem auxEvents : Obligations.AuxEvents := by
  unfold Obligations.AuxEvents
  intro t ch raw det rd mv s u n
  refine ⟨execAuxResult_stopped t ch raw det rd, fun hconv => ?conversion, execAmonVrefLow_high t, execAmonVrefLow_still t,
    execAmonVrefLow_begins t, fun q => execRefResistorCheck_due t, execRefResistorCheck_none t⟩
  intro q w kept feeds same
  have hrun : exec (.auxResult t ch raw det rd) s = .next (auxTaken n rd (q.1.waking w.2) w.1 w.2 u) :=
    execAuxResult_converts t ch raw det rd hconv rfl rfl
  have hplain (htold : tst q.1.flags 1 = false ∨ w.1.openTold = true) (hstays : w.2 = false) :
      exec (.auxResult t ch raw det rd) s = .next (feeds q.1 (auxAtCoil n q.1 same)) := by
    rw [hrun, hstays]
    exact congrArg _ (auxTaken_plain rd q.1 w.1 htold)
  refine ⟨?ordinary, ?coil, ?wakes, fun v => keepWake_first n q.1.r, ?opens⟩
  case ordinary =>
    intro htold hstays hother
    rw [hplain htold hstays, auxAtCoil_other (s := same) q.1 hother]
  case coil =>
    intro htold hcoil hawake
    rw [hplain htold (wakeStep_awake q.1 q.2 hawake), auxAtCoil_measures (s := same) q.1 hcoil hawake]
  case wakes =>
    intro hclosed hasleep hwakes x
    rw [hrun, hwakes]
    exact congrArg _ (auxTaken_wakes rd x w.1 ((tst_open_add_wake q.1.flags).trans hclosed) hasleep)
  case opens =>
    intro hopen hnew v
    have hstays : w.2 = false := wakeStep_open u q.2 hopen
    rw [hrun, hstays]
    exact congrArg _ (auxTaken_tells rd q.1 w.1 hopen hnew)

end Sys2Proof.Machine
end

section
/-! PROOFS. The calibration commands as the host gives them (O28). Built on Laws/Command.lean. -/

namespace Sys2Proof.Machine

open Sys2Proof

/-! ### What the commands report (R191) -/

/-- The calibration that the commands report: steps, `CAL_GEN`, `REQUESTED`, steps not applicable, `LO_OFFSET` and coil. -/
structure CalView where
  steps     : Vector CalStep 7
  gen       : U32
  requested : BitVec 7
  na        : Nat
  lo        : Nat
  coil      : Nat × Nat

/-- The values in force. -/
def calInForce (s : State) : CalView :=
  { steps := s.cal.steps, gen := s.cal.gen, requested := s.cal.requested, na := naMask s, lo := s.cal.loAt,
    coil := (s.cal.coilCh, s.cal.coilRtd) }

/-- The values that a run holds from its start. -/
def CalRun.view (x : CalRun) : CalView :=
  { steps := x.held, gen := x.heldGen, requested := x.heldReq, na := x.heldNa, lo := x.heldLo, coil := x.heldCoil }

/-- In CALIBRATE the commands report the state at the start of the run, else the values in force (R191). -/
def reportedCal (s : State) : CalView := (s.cal.run.map CalRun.view).getD (calInForce s)

theorem reportedCal_idle {s : State} (h : s.cal.run = none) : reportedCal s = calInForce s := by
  rw [reportedCal, h]
  rfl

theorem reportedCal_running {s : State} {x : CalRun} (h : s.cal.run = some x) : reportedCal s = x.view := by
  rw [reportedCal, h]
  rfl

theorem inMode_mono {ms ns : List Mode} {s : State} (hsub : ms ⊆ ns) (h : s.inMode ms = true) : s.inMode ns = true :=
  List.contains_iff_mem.mpr (hsub (List.contains_iff_mem.mp h))

section
variable {f : Fetched} {s : State}

/-! ### CAL_RUN (R188, R202) -/

theorem cmdCalRun_accepted (hmode : s.inMode [.warm, .acoustic, .survey, .full] = true) (htrans : s.power.trans = none)
    (hlong : s.longBusy 0x70 = false) (hcal : s.calibrating = false) (hmin : 1 ≤ fld f.payload 0 1)
    (hmax : fld f.payload 0 1 ≤ 127) (hrsv : fld f.payload 1 3 = 0) :
    cmdCalRun f s =
      { status := St.accepted, st := s, after := startRun ((List.range 7).filter (tst (fld f.payload 0 1))) f.tag false } := by
  have hlit : s.inMode [.warm, .acoustic, .survey, .full, .calibrate] = true :=
    inMode_mono (List.subset_append_left _ [Mode.calibrate]) hmode
  unfold cmdCalRun
  exact checked_ok (by simp [hlit, htrans, hlong, hcal, hmax, hrsv, Nat.ne_of_gt hmin])

/-! ### CAL_SAVE (R199, R200) -/

/-- The blob of a view with the `CAL_GEN` it was taken at. -/
def CalView.snapshot (v : CalView) (s : State) : List Byte × U32 := (makeBlob v.steps v.gen v.na v.lo v.coil s, v.gen)

/-- The reply with `n` bytes of a snapshot from `off` on. -/
def calPiece (off n : Nat) (snap : List Byte × U32) : List Byte :=
  le4 snap.2.toNat ++ le4 off ++ le2 n ++ zeros 2 ++ le4 12288 ++ (snap.1.drop off).take n

theorem cmdCalSave_reads {snap : List Byte × U32} (halign : fld f.payload 0 4 % 4 = 0) (hmin : 4 ≤ fld f.payload 4 2)
    (hmax : fld f.payload 4 2 ≤ 4032) (hlen : fld f.payload 4 2 % 4 = 0) (hrsv : fld f.payload 6 2 = 0)
    (hend : fld f.payload 0 4 + fld f.payload 4 2 ≤ 12288) (hlater : fld f.payload 0 4 ≠ 0) (hsnap : s.cal.snap = some snap) :
    cmdCalSave f s =
      { status := St.ok, st := s, payload := calPiece (fld f.payload 0 4) (fld f.payload 4 2) snap } := by
  unfold cmdCalSave
  refine (checked_ok ?checks).trans ?effect
  case checks => simp [halign, hmin, hmax, hlen, hrsv, hend, hsnap]
  case effect =>
    simp only [if_neg hlater, hsnap, Option.getD_some]
    rfl

/-- A request with `OFFSET` 0 takes the snapshot and reads its first piece. -/
theorem cmdCalSave_takes (hfirst : fld f.payload 0 4 = 0) (hmin : 4 ≤ fld f.payload 4 2) (hmax : fld f.payload 4 2 ≤ 4032)
    (hlen : fld f.payload 4 2 % 4 = 0) (hrsv : fld f.payload 6 2 = 0) :
    let snap := (reportedCal s).snapshot s
    cmdCalSave f s =
      { status := St.ok, st := { s with cal.snap := some snap }, payload := calPiece 0 (fld f.payload 4 2) snap } := by
  intro snap
  have hend : fld f.payload 4 2 ≤ 12288 := hmax.trans (by decide)
  unfold cmdCalSave
  refine (checked_ok ?checks).trans ?effect
  case checks => simp [hfirst, hmin, hmax, hlen, hrsv, hend]
  case effect =>
    cases hrun : s.cal.run with
    | none =>
      simp only [hfirst, if_true, Option.getD_some, snap, reportedCal_idle hrun]
      rfl
    | some x =>
      simp only [hfirst, if_true, Option.getD_some, snap, reportedCal_running hrun]
      rfl

/-! ### CAL_RESTORE (R201) -/

/-- The reason code of every step. -/
def restoreReasons (s : State) (img : List Byte) (sections : Nat) : List Nat := (List.range 7).map (restoreReason s img sections)

/-- The steps with reason code 0. -/
def sectionsLoaded (reasons : List Nat) : List Nat := (List.range 7).filter (fun k => (reasons[k]?).getD 1 = 0)

/-- The sections of a blob that pass, loaded in order. -/
def restored (img : List Byte) (sections : Nat) (s : State) : State :=
  (sectionsLoaded (restoreReasons s img sections)).foldl (fun st k => loadSection img k st) s

/-- The answer to a restore whose header passes: `DONE_DEGRADED` when a section requested is not loaded. -/
def restoreAnswer (img : List Byte) (sections : Nat) (s : State) : Ans :=
  let rs := restoreReasons s img sections
  let t := restored img sections s
  { status := if (List.range 7).all (fun k => !tst sections k || (rs[k]?).getD 1 = 0) then St.ok else St.degraded, st := t,
    payload := rs.flatMap (fun x => le1 x) ++ le1 (((sectionsLoaded rs).map (2 ^ ·)).sum) ++ le4 t.cal.gen.toNat }

theorem restoreAnswer_ne_busy (img : List Byte) (sections : Nat) (s : State) :
    (restoreAnswer img sections s).status ≠ St.busy := by
  unfold restoreAnswer
  dsimp only
  split <;> decide

theorem cmdCalRestore_loads {img : List Byte} (himg : (vget s.stages (fld f.payload 0 1)).decoded = img)
    (hmode : s.inMode [.standby, .warm] = true) (hstage : fld f.payload 0 1 ≤ 3) (hmin : 1 ≤ fld f.payload 1 1)
    (hmax : fld f.payload 1 1 ≤ 127) (hrsv : fld f.payload 2 2 = 0) (hdeclared : fld f.payload 4 4 = 12288)
    (hwhole : (vget s.stages (fld f.payload 0 1)).phase = 2) (hlen : img.length = 12288)
    (hcrc : fld f.payload 8 4 = (crc32c img).toNat) (hcheck : fld img 12284 4 = (crc32c (img.take 12284)).toNat)
    (hformat : fld img 0 2 = 1) (hstepping : fld img 2 1 = s.part.caps.toNat % 256)
    (hpart : fld img 3 1 = s.part.caps.toNat / 2 ^ 18 % 4) (hdie : fld img 4 8 = s.part.dieId.toNat) :
    cmdCalRestore f s = restoreAnswer img (fld f.payload 1 1) s := by
  unfold cmdCalRestore
  simp only [himg]
  refine (checked_ok ?checks).trans ?effect
  case checks =>
    simp only [hmode, hrsv, hdeclared, hwhole, hlen, hcrc, hcheck, hformat, hstepping, hpart, hdie]
    simp [hstage, hmax, Nat.ne_of_gt hmin]
  case effect => rfl

/-! ### CAL_QUALITY (R198, R203) -/

/-- The report of the calibration of a view. -/
def CalView.quality (v : CalView) (s : State) : List Byte :=
  le4 v.gen.toNat ++ le1 v.requested.toNat ++ zeros 3
    ++ ((List.range 7).zip v.steps.toList).flatMap (fun x => qualityStep s v.na x.2 x.1)

theorem cmdCalQuality_reports (hflags : fld f.payload 0 1 ≤ 1) (hrsv : fld f.payload 1 3 = 0) :
    cmdCalQuality f s =
      { status := St.ok, st := if fld f.payload 0 1 = 1 then clearRequests (List.range 7) s else s,
        payload := (reportedCal s).quality s } := by
  unfold cmdCalQuality
  refine (checked_ok ?checks).trans ?effect
  case checks => simp [hflags, hrsv]
  case effect =>
    cases hrun : s.cal.run with
    | none =>
      rw [reportedCal_idle hrun]
      rfl
    | some x =>
      rw [reportedCal_running hrun]
      rfl
end

/-- Settles O28: each command's own checks pass, and what it then answers is what its request is answered with; the two cases
of the first piece and of the report are those of what the commands report. -/
theorem calibrationCommands : Obligations.CalibrationCommands := by
  unfold Obligations.CalibrationCommands
  intro r s u p
  refine ⟨?run, ?later, ?first, ?firstInRun, ?restore, ?quality, ?qualityInRun⟩
  case run =>
    intro hready hmode htrans hlong hcal hmin hmax hrsv
    exact answers_of hready (cmdCalRun_accepted hmode htrans hlong hcal hmin hmax hrsv) accepted_ne_busy
  case later =>
    intro hready halign hmin hmax hlen hrsv hend hlater b g hsnap
    have hreads := cmdCalSave_reads (f := reqOf calSaveSpec r s) halign hmin hmax hlen hrsv hend hlater hsnap
    exact answers_of hready hreads ok_ne_busy
  case first =>
    intro hready hfirst hmin hmax hlen hrsv hidle b
    have htakes := cmdCalSave_takes (f := reqOf calSaveSpec r s) (s := u) hfirst hmin hmax hlen hrsv
    rw [reportedCal_idle hidle] at htakes
    exact answers_of hready htakes ok_ne_busy
  case firstInRun =>
    intro x hready hfirst hmin hmax hlen hrsv hrun b
    have htakes := cmdCalSave_takes (f := reqOf calSaveSpec r s) (s := u) hfirst hmin hmax hlen hrsv
    rw [reportedCal_running hrun] at htakes
    exact answers_of hready htakes ok_ne_busy
  case restore =>
    intro hready hmode hstage hmin hmax hrsv hdeclared b img hwhole hlen hcrc hcheck hformat hstepping hpart hdie rs load t
    exact answers_of hready (cmdCalRestore_loads rfl hmode hstage hmin hmax hrsv hdeclared hwhole hlen hcrc hcheck hformat
      hstepping hpart hdie) (restoreAnswer_ne_busy img (fld p 1 1) u)
  case quality =>
    intro hready hflags hrsv hidle
    have hreports := cmdCalQuality_reports (f := reqOf calQualitySpec r s) (s := u) hflags hrsv
    rw [reportedCal_idle hidle] at hreports
    exact answers_of hready hreports ok_ne_busy
  case qualityInRun =>
    intro x hready hflags hrsv hrun
    have hreports := cmdCalQuality_reports (f := reqOf calQualitySpec r s) (s := u) hflags hrsv
    rw [reportedCal_running hrun] at hreports
    exact answers_of hready hreports ok_ne_busy

end Sys2Proof.Machine
end

section
/-! PROOFS. The commands of watch contexts as the host gives them (O21). Built on Laws/Command.lean. -/

namespace Sys2Proof.Machine

open Sys2Proof

/-- A field that ends within the first `n` bytes. -/
theorem fld_take {off k n : Nat} (p : List Byte) (h : off + k ≤ n) : fld (p.take n) off k = fld p off k := by
  unfold fld
  rw [List.drop_take, List.take_take, Nat.min_eq_left (Nat.le_sub_of_add_le' h)]

section
variable {f : Fetched} {s : State}

/-! ### CTX_SET, CTX_GET (R240, R241) -/

/-- The context's settings replaced, and its bindings given their share of its width. -/
def ctxConfigured (k : Nat) (cfg : List Byte) (s : State) : State :=
  resizeBinding k (modCtx k (fun c => { c with cfg := cfg }) s)

theorem cmdCtxSet_clears (hdisarmed : (ctx s f.target.toNat).live = false) (hsource : fld f.payload 0 1 = 0) :
    cmdCtxSet f s = { status := St.ok, st := ctxConfigured f.target.toNat ({} : Ctx).cfg s } := by
  have hclear : Ctx.source { ctx s f.target.toNat with cfg := f.payload.take 56 } = 0 :=
    (fld_take f.payload (by decide)).trans hsource
  unfold cmdCtxSet
  refine (checked_ok ?checks).trans ?effect
  case checks => simp [hclear, hdisarmed]
  case effect =>
    simp only [hclear, if_true]
    rfl

theorem cmdCtxSet_configures (hdisarmed : (ctx s f.target.toNat).live = false) (hsource : fld f.payload 0 1 ≠ 0)
    (hfit : fld f.payload 0 1 = 2 → s.ochreFitted = true)
    (hranges : setBad { ctx s f.target.toNat with cfg := f.payload.take 56 } = false) :
    cmdCtxSet f s = { status := St.ok, st := ctxConfigured f.target.toNat (f.payload.take 56) s } := by
  have hset : Ctx.source { ctx s f.target.toNat with cfg := f.payload.take 56 } = fld f.payload 0 1 :=
    fld_take f.payload (by decide)
  unfold cmdCtxSet
  refine (checked_ok ?checks).trans ?effect
  case checks => simpa [hset, hdisarmed, hranges, imp_iff_not_or] using hfit
  case effect =>
    simp only [hset, if_neg hsource]
    rfl

/-! ### CTX_ARM (R224, R225, R242) -/

/-- The contexts whose load counts when one is armed: itself, its waiting points lapsed, and those armed already. -/
def armedWith (k : Nat) (s : State) : List Ctx := ctx (lapsePoints k s) k :: (ctxsWhere s Ctx.live).map (ctx s)

/-- The condition of R224 that a request to arm a context fails. -/
def armVerdict (k : Nat) (s : State) : Nat :=
  armReason (lapsePoints k s) k (engineLoad s (armedWith k s)) (ringRate s (armedWith k s))

/-- A context as its run starts. -/
def Ctx.started (flags : Nat) (due : Ps) (tabs : List (Nat × Nat)) (c : Ctx) : Ctx :=
  { (if flags = 1 then clearCounts c else c) with
    state := .armed, runC := 0, runW := 0, lines := 0, startAt := due, effect := 2 ^ 64 - 1, jobs := [], cuts := [],
    stopping := none, tabs := tabs, lastLine := none, trigs := [], edges := [], marks := [], recent := none }

/-- The answer to a request that arms its context. -/
def armAnswer (p : List Byte) (k : Nat) (s : State) : Ans :=
  let w := ctxWhen s (ctx (lapsePoints k s) k)
  { status := St.ok, names := w.count ≠ 2 ^ 64 - 1, due := w.settle,
    payload := armReply 0 w.count (engineLoad s (armedWith k s)) (ringRate s (armedWith k s)),
    st := claimAtArm k (modCtx k (Ctx.started (fld p 0 1) w.due (tablesNow s k)) (lapsePoints k s)) }

theorem cmdCtxArm_arms (hmode : s.inMode armModes = true) (hflags : fld f.payload 0 1 ≤ 1) (hrsv : fld f.payload 1 3 = 0)
    (hdisarmed : (ctx (lapsePoints f.target.toNat s) f.target.toNat).live = false)
    (hmeets : armVerdict f.target.toNat s = 0) : cmdCtxArm f s = armAnswer f.payload f.target.toNat s := by
  have hplain : ¬ (decide (1 < fld f.payload 0 1) || decide (fld f.payload 1 3 ≠ 0)) = true := by simp [hflags, hrsv]
  unfold cmdCtxArm
  refine (checked_ok ?_).trans ((if_neg hplain).trans (if_neg (not_not_intro hmeets)))
  simp [hmode, hdisarmed]

/-! ### CTX_DISARM (R226, R243) -/

/-- The answer to a disarm that takes effect at a point of its own; one that waits already keeps the launch it names. -/
def disarmAnswer (p : List Byte) (k : Nat) (s : State) : Ans :=
  let c := ctx s k
  let w := ctxWhen s c
  { status := St.ok, names := w.count ≠ 2 ^ 64 - 1, due := w.settle,
    payload := le1 (if (c.state = .capture ∨ c.state = .disarming) ∧ fld p 0 1 = 0 then 4 else 0) ++ zeros 3 ++ le8 w.count,
    st := atPoint k w.due (.disarm (tst (fld p 0 1) 0))
      (modCtx k (fun c => { c with effect := (if disarmDue c = true ∨ c.state = .disarming then c.effect else w.count) }) s) }

theorem abandonFlag_iff {flags : Nat} (h : flags ≤ 1) : tst flags 0 = true ↔ flags = 1 := by
  obtain rfl | rfl : flags = 0 ∨ flags = 1 := by omega
  all_goals decide

theorem cmdCtxDisarm_disarmed (hflags : fld f.payload 0 1 ≤ 1) (hrsv : fld f.payload 1 3 = 0)
    (hdisarmed : (ctx s f.target.toNat).live = false) :
    cmdCtxDisarm f s = { status := St.ok, st := s, payload := le1 0 ++ zeros 3 ++ le8 (2 ^ 64 - 1) } := by
  unfold cmdCtxDisarm
  refine (checked_ok ?checks).trans (if_pos ?idle)
  case checks => simp [hflags, hrsv]
  case idle => simp [hdisarmed]

theorem cmdCtxDisarm_stops (hflags : fld f.payload 0 1 ≤ 1) (hrsv : fld f.payload 1 3 = 0)
    (hlive : (ctx s f.target.toNat).live = true)
    (hnew : (ctx s f.target.toNat).state ≠ .disarming ∨ fld f.payload 0 1 = 1) :
    cmdCtxDisarm f s = disarmAnswer f.payload f.target.toNat s := by
  have habandon := abandonFlag_iff hflags
  have hfirst : ¬ (decide ((ctx s f.target.toNat).state = .disarming) && !tst (fld f.payload 0 1) 0) = true := by
    simpa [habandon, imp_iff_not_or] using hnew
  have hends : tst (fld f.payload 0 1) 0 = false ↔ fld f.payload 0 1 = 0 := by
    rw [← Bool.not_eq_true, habandon]
    omega
  unfold cmdCtxDisarm
  refine (checked_ok ?checks).trans ((if_neg ?armed).trans ((if_neg hfirst).trans ?effect))
  case checks => simp [hflags, hrsv]
  case armed => simp [hlive]
  case effect =>
    unfold disarmAnswer
    simp only [Bool.and_eq_true, Bool.or_eq_true, Bool.not_eq_true', decide_eq_true_eq, hends]

theorem cmdCtxDisarm_disarming (hflags : fld f.payload 0 1 = 0) (hrsv : fld f.payload 1 3 = 0)
    (hstate : (ctx s f.target.toNat).state = .disarming) :
    cmdCtxDisarm f s =
      { status := St.ok, st := s, payload := le1 4 ++ zeros 3 ++ le8 (ctx s f.target.toNat).effect,
        names := (ctx s f.target.toNat).effect ≠ 2 ^ 64 - 1 } := by
  unfold cmdCtxDisarm
  refine (checked_ok ?checks).trans ((if_neg ?armed).trans (if_pos ?again))
  case checks => simp [hflags, hrsv]
  case armed => simp [Ctx.live, hstate]
  case again => simp [hstate, hflags, tst]

end

/-- Settles O21: each command's own checks pass, and what it then answers is what its request is answered with. -/
theorem contextCommands : Obligations.ContextCommands := by
  unfold Obligations.ContextCommands
  intro r s u p k c w
  refine ⟨?clear, ?set, ?get, ?arm, ?idle, ?stop, ?again⟩
  case clear =>
    intro hready hdisarmed hsource
    exact answers_of hready (cmdCtxSet_clears hdisarmed hsource) ok_ne_busy
  case set =>
    intro hready hdisarmed hsource hfit hranges
    exact answers_of hready (cmdCtxSet_configures hdisarmed hsource hfit hranges) ok_ne_busy
  case get =>
    intro hready
    exact answers_of (body := cmdCtxGet) hready rfl ok_ne_busy
  case arm =>
    intro hready hmode hflags hrsv u0 c0 load ring hdisarmed hmeets
    exact answers_of hready (cmdCtxArm_arms hmode hflags hrsv hdisarmed hmeets) ok_ne_busy
  case idle =>
    intro hready hflags hrsv hdisarmed
    exact answers_of hready (cmdCtxDisarm_disarmed hflags hrsv hdisarmed) ok_ne_busy
  case stop =>
    intro hready hflags hrsv hlive hnew
    exact answers_of hready (cmdCtxDisarm_stops hflags hrsv hlive hnew) ok_ne_busy
  case again =>
    intro hready hflags hrsv hstate
    exact answers_of hready (cmdCtxDisarm_disarming hflags hrsv hstate) ok_ne_busy

end Sys2Proof.Machine
end

section
/-! PROOFS. Patterns, threshold tables and alarm outputs as the host sets them (O22). Built on Laws/Command.lean. -/

namespace Sys2Proof.Machine

open Sys2Proof

/-! ### The copies of threshold tables (R234) -/

theorem modCtx_foldl_stages (f : State → Nat → Ctx → Ctx) (l : List Nat) (s : State) :
    (l.foldl (fun s k => modCtx k (f s k) s) s).stages = s.stages := by
  induction l generalizing s with
  | nil => rfl
  | cons k l ih => exact (ih _).trans (modCtx_stages k _ s)

/-- Freeing copies leaves the staging buffers alone. -/
@[simp] theorem freeCopies_stages (s : State) : (freeCopies s).stages = s.stages :=
  modCtx_foldl_stages (fun s k c => { c with tabs := c.tabs.filter (fun t => usesTable s k t.1) }) _ s

theorem staged_freeCopies (s : State) (k : Nat) : staged (freeCopies s) k = staged s k := by
  unfold staged stageOf
  rw [freeCopies_stages]

section
variable {f : Fetched} {s : State}

/-! ### PATTERN_SET (R244) -/

/-- The pattern that a request sets. -/
def patternAct (p : List Byte) : CtxAct :=
  .pattern (fld p 0 1) (BitVec.ofNat 256 (fld p 4 32)) (BitVec.ofNat 256 (fld p 36 32))

/-- A pattern takes effect at the context's point, or at once in a context that is not armed. -/
def patternAnswer (p : List Byte) (k : Nat) (s : State) : Ans :=
  let w := ctxWhen s (ctx s k)
  if (ctx s k).live = true then
    { status := St.ok, st := atPoint k w.due (patternAct p) s, payload := le8 w.count, names := w.count ≠ 2 ^ 64 - 1,
      due := w.settle }
  else { status := St.ok, st := applyPoint k (patternAct p) s.now s, payload := le8 (2 ^ 64 - 1) }

theorem patternAnswer_ne_busy (p : List Byte) (k : Nat) (s : State) : (patternAnswer p k s).status ≠ St.busy := by
  unfold patternAnswer
  dsimp only
  split <;> exact ok_ne_busy

theorem cmdPatternSet_sets (hrsv : fld f.payload 1 3 = 0) (hmin : 1 ≤ fld f.payload 0 1) (hmax : fld f.payload 0 1 ≤ 64)
    (hvalue : fld f.payload 4 32 / 16 ^ fld f.payload 0 1 = 0) (hcare : fld f.payload 36 32 / 16 ^ fld f.payload 0 1 = 0)
    (hfits : (ctx s f.target.toNat).live = true → fld f.payload 0 1 ≤ (ctx s f.target.toNat).n) :
    cmdPatternSet f s = patternAnswer f.payload f.target.toNat s := by
  have hwide : ((ctx s f.target.toNat).live && decide ((ctx s f.target.toNat).n < fld f.payload 0 1)) = false := by
    simpa using hfits
  have hwidth : inR (fld f.payload 0 1) 1 64 = true := inR_iff.mpr ⟨hmin, hmax⟩
  unfold cmdPatternSet
  refine (checked_ok ?checks).trans ?effect
  case checks =>
    simp only [hrsv, hwidth, hvalue, hcare, hwide]
    rfl
  case effect => rfl

/-! ### THRESH_LOAD (R234, R245) -/

/-- A table forgotten, and the copies freed that nothing reads any more. -/
def tableDeleted (n : Nat) (s : State) : State :=
  freeCopies { s with thresh.newest := s.thresh.newest.filter (fun t => t.1 ≠ n) }

/-- A new copy as the newest of its table. -/
def tableStored (n first : Nat) (img : List Byte) (s : State) : State :=
  freeCopies { s with
    thresh.copies := ({ id := s.thresh.nextId, first := first, entries := unitsOf img } : ThreshCopy) :: s.thresh.copies,
    thresh.nextId := s.thresh.nextId + 1,
    thresh.newest := (n, s.thresh.nextId) :: s.thresh.newest.filter (fun t => t.1 ≠ n) }

/-- The answer when table `n` has become as in `s` and no launch is named. -/
def threshAnswer (n : Nat) (s : State) : Ans :=
  { status := St.ok, st := s, payload := le4 (freeAfter s n) ++ le8 (2 ^ 64 - 1) }

section
variable (htable : fld f.payload 1 1 ≤ 63) (hrsv : fld f.payload 3 1 = 0) (hfirst : fld f.payload 4 4 ≤ 131071)
  (hmin : 1 ≤ fld f.payload 8 4) (hend : fld f.payload 4 4 + fld f.payload 8 4 ≤ 131072)
  (hunused : (tableUsers (freeCopies s) (fld f.payload 1 1)).isEmpty = true)
include htable hrsv hfirst hmin hend hunused

theorem cmdThreshLoad_deletes (hflags : fld f.payload 2 1 = 1) :
    cmdThreshLoad f s = threshAnswer (fld f.payload 1 1) (tableDeleted (fld f.payload 1 1) (freeCopies s)) := by
  have hdelete : tst (fld f.payload 2 1) 0 = true := by rw [hflags]; rfl
  have hmax : fld f.payload 8 4 ≤ 131072 := by omega
  unfold cmdThreshLoad
  refine (if_pos hdelete).trans ((checked_ok ?_).trans rfl)
  simp [List.isEmpty_iff.mp hunused, htable, hflags, hrsv, hfirst, hmin, hmax, hend]

theorem cmdThreshLoad_stores {img : List Byte} (hflags : fld f.payload 2 1 = 0)
    (himg : staged s (fld f.payload 0 1) = some img)
    (hnew : (freeCopies s).thresh.newest.find? (fun t => t.1 = fld f.payload 1 1) = none)
    (hlen : fld f.payload 12 4 = 2 * fld f.payload 8 4)
    (hcheck : stageMismatch img (fld f.payload 12 4) (fld f.payload 16 4) = false)
    (hroom : entriesHeld (freeCopies s).thresh.copies + fld f.payload 8 4 ≤ Config.threshEntries) :
    cmdThreshLoad f s =
      threshAnswer (fld f.payload 1 1) (tableStored (fld f.payload 1 1) (fld f.payload 4 4) img (freeCopies s)) := by
  have hload : ¬ tst (fld f.payload 2 1) 0 = true := by rw [hflags]; decide
  have hmax : fld f.payload 8 4 ≤ 131072 := by omega
  have himg' : staged (freeCopies s) (fld f.payload 0 1) = some img := (staged_freeCopies s _).trans himg
  have hnone : (if 63 < fld f.payload 1 1 then [] else tableUsers (freeCopies s) (fld f.payload 1 1)) = [] :=
    (if_neg (not_lt.mpr htable)).trans (List.isEmpty_iff.mp hunused)
  unfold cmdThreshLoad
  refine (if_neg hload).trans ?_
  simp only [hnone, himg', hnew, Option.getD_some]
  refine (checked_ok ?checks).trans ?effect
  case checks =>
    rw [hlen] at hcheck
    simp [htable, hflags, hrsv, hfirst, hmin, hmax, hend, hlen, hcheck, hroom]
  case effect => rfl
end

/-! ### ALARM_ROUTE (R227, R246) -/

/-- The alarm outputs as a request leaves them: pins configured, or cleared, once what is due has been driven. -/
def alarmsRouted (p : List Byte) (s : State) : State :=
  let ks := (List.range 8).filter (tst (fld p 1 1))
  let v := alarmsBy s.now s
  if fld p 0 1 = 0 then ks.foldl (fun s k => configPin (fld p 2 1) (fld p 3 1) (fld p 4 2) k s) v
  else if fld p 0 1 = 1 then ks.foldl (fun s k => clearPin k s) v
  else v

theorem cmdAlarmRoute_routes (haction : fld f.payload 0 1 ≤ 2) (hrsv : fld f.payload 6 2 = 0)
    (hconfig : fld f.payload 0 1 = 0 →
      fld f.payload 2 1 ≤ 2 ∧ fld f.payload 3 1 ≤ 1 ∧ (fld f.payload 2 1 = 1 → fld f.payload 4 2 ≠ 0)) :
    let t := alarmsRouted f.payload s
    cmdAlarmRoute f s = { status := St.ok, st := t, payload := alarmReply t } := by
  unfold cmdAlarmRoute
  refine (checked_ok ?checks).trans ?effect
  case checks => simpa [haction, hrsv, imp_iff_not_or, and_assoc] using hconfig
  case effect =>
    unfold alarmsRouted
    obtain h | h | h : fld f.payload 0 1 = 0 ∨ fld f.payload 0 1 = 1 ∨ fld f.payload 0 1 = 2 := by omega
    · simp only [h, if_true]
    · simp only [h, if_true, one_ne_zero, if_false]
    · simp only [h, OfNat.ofNat_ne_zero, OfNat.ofNat_ne_one, if_false]
end

/-- Settles O22: each command's own checks pass, and what it then answers is what its request is answered with. -/
theorem patternAndAlarmCommands : Obligations.PatternAndAlarmCommands := by
  unfold Obligations.PatternAndAlarmCommands
  intro r s u p k c w v
  refine ⟨?pattern, ?delete, ?store, ?route⟩
  case pattern =>
    intro hready hrsv hmin hmax hvalue hcare hfits a
    exact answers_of hready (cmdPatternSet_sets hrsv hmin hmax hvalue hcare hfits) (patternAnswer_ne_busy p k u)
  case delete =>
    intro hready hflags htable hrsv hfirst hmin hend hunused t
    exact answers_of hready (cmdThreshLoad_deletes htable hrsv hfirst hmin hend hunused hflags) ok_ne_busy
  case store =>
    intro img hready hflags htable hrsv himg hfirst hmin hend hunused hnew hlen hcheck hroom t
    have hstores := cmdThreshLoad_stores (f := reqOf threshLoadSpec r s) (s := u) htable hrsv hfirst hmin hend hunused hflags
      himg hnew hlen hcheck hroom
    exact answers_of hready hstores ok_ne_busy
  case route =>
    intro hready haction hrsv hconfig ks v t
    exact answers_of hready (cmdAlarmRoute_routes (f := reqOf alarmRouteSpec r s) (s := u) haction hrsv hconfig) ok_ne_busy

end Sys2Proof.Machine
end

section
/-! PROOFS. Trigger inputs, the interval unit, the launch lock and alarm outputs as the device sees them (O42). Built on
Laws/State.lean. -/

namespace Sys2Proof.Machine

open Sys2Proof

/-! ### Trigger inputs (R219, R402, R408) -/

section
variable {s : State} (t : Ps) (pin4 : Fin 4) (rising : Bool)

/-- An input at its new level. -/
def tinLevelNoted (pin : Nat) (rising : Bool) (s : State) : State :=
  { s with alarm.level := vset s.alarm.level pin rising }

/-- An edge as the interval unit and the launch lock take it. -/
def tinFed (pin : Nat) (rising : Bool) (s : State) : State :=
  lockTin pin rising (timFeed pin (!rising) s.now (tinLevelNoted pin rising s))

/-- An accepted edge as every context takes it. -/
def tinAccepted (pin : Nat) (rising : Bool) (s : State) : State :=
  (List.range 256).foldl (fun w c => tinContext pin rising c w)
    { s with alarm.accept := vset s.alarm.accept pin (some s.now) }

/-- Is an edge less than 10 ns after the last accepted one? -/
def tinNear (pin : Nat) (s : State) : Bool := (vget s.alarm.accept pin).any (fun a => decide (s.now < a + 10000))

theorem execTinEdge_sleeping (h : s.power.sleeping = true) :
    execTinEdge t pin4 rising s = .next (tinLevelNoted pin4.val rising (s.adv t)) := by
  unfold execTinEdge
  exact congrArg _ (if_pos h)

theorem execTinEdge_awake (h : s.power.sleeping = false) :
    execTinEdge t pin4 rising s = .next (if tinNear pin4.val (tinFed pin4.val rising (s.adv t)) = true
      then tinFed pin4.val rising (s.adv t)
      else tinAccepted pin4.val rising (tinFed pin4.val rising (s.adv t))) := by
  have hawake : ¬ (s.adv t).power.sleeping = true := by simp [h]
  unfold execTinEdge
  exact congrArg _ (if_neg hawake)

/-! ### The interval unit (R402) -/

theorem execTimEdge_feeds {code : Byte} (falling : Bool) (hawake : s.power.sleeping = false)
    (hsource : timSource code.toNat = true) :
    execTimEdge t code falling s = .next (timFeed code.toNat falling t (s.adv t)) := by
  have hfed : ¬ ((s.adv t).power.sleeping || !timSource code.toNat) = true := by simp [hawake, hsource]
  unfold execTimEdge
  exact congrArg _ (if_neg hfed)

/-! ### The launch lock (R408, R410) -/

theorem execTimSyncFail_late (hphase : s.lock.phase = 1) (hedges : s.lock.nEdges ≤ 256)
    (hlate : s.lock.since + 1000000000000 ≤ (s.adv t).now) :
    execTimSyncFail t s = .next (dropLock (lockFault 0x0806 (s.adv t))) := by
  have hfails : (decide ((s.adv t).lock.phase = 1) && decide ((s.adv t).lock.nEdges ≤ 256)
      && decide ((s.adv t).lock.since + 1000000000000 ≤ (s.adv t).now)) = true := by
    simp only [State.adv_lock, hphase, hedges, hlate, decide_true, Bool.and_self]
  unfold execTimSyncFail
  exact congrArg _ (if_pos hfails)

theorem flywheel_untold (code : Nat) (h : s.lock.lostTold = false) :
    flywheel code s = { (lockFault code s) with lock.phase := 3, lock.lostTold := true } := by
  have huntold : ¬ s.lock.lostTold = true := by simp [h]
  unfold flywheel
  rw [if_neg huntold]

theorem execTimMarkerLost_late {e : Ps} {es : List Ps} (hphase : s.lock.phase = 2) (hedges : s.lock.edges = e :: es)
    (hlate : 2 * e + 5 * s.lock.pBar ≤ 2 * (s.adv t).now) :
    execTimMarkerLost t s = .next (flywheel 0x0804 (s.adv t)) := by
  unfold execTimMarkerLost
  simp only [State.adv_lock, hphase, hedges, hlate, decide_true, Bool.and_self, if_true]

end

/-! ### The alarm outputs as they stand (R227 to R231) -/

section
variable {s : State}

/-- A pin that has no pulse to end by an instant. -/
def AlmPin.quietBy (e : Ps) (p : AlmPin) : Prop := p.mode ≠ 1 ∨ p.asserted = false ∨ e < p.endAt

theorem endPulse_quiet {k : Nat} {e : Ps} (h : (pin s k).quietBy e) : endPulse k e s = s := by
  have hquiet : ¬ (decide ((pin s k).mode = 1) && (pin s k).asserted && decide ((pin s k).endAt ≤ e)) = true := by
    unfold AlmPin.quietBy at h
    simp only [Bool.and_eq_true, decide_eq_true_eq, not_and_or, Bool.not_eq_true, not_le, or_assoc]
    exact h
  unfold endPulse
  exact if_neg hquiet

/-- A pulse that has run its width ends: its pin is deasserted, not before its edge. -/
theorem endPulse_ends {k : Nat} {e : Ps} (hmode : (pin s k).mode = 1) (hup : (pin s k).asserted = true)
    (hend : (pin s k).endAt = e) :
    endPulse k e s = send (.almPin k false (max e (pin s k).edgeAt))
      (setPin k { pin s k with asserted := false, endedAt := max e (pin s k).edgeAt } s) := by
  subst hend
  unfold endPulse releasePin
  simp only [hmode, hup, le_refl, decide_true, Bool.and_self, if_true]

@[simp] theorem pin_send (o : Out) (s : State) (k : Nat) : pin (send o s) k = pin s k := rfl

theorem pin_setPin_other {k j : Nat} (p : AlmPin) (h : k ≠ j) : pin (setPin k p s) j = pin s j :=
  vget_vset_other _ _ _ _ h

theorem pin_endPulse_other {k j : Nat} (e : Ps) (h : k ≠ j) : pin (endPulse k e s) j = pin s j := by
  unfold endPulse releasePin
  dsimp only
  split
  · split
    · rw [pin_send, pin_setPin_other _ h]
    · rfl
  · rfl

theorem foldl_endPulse_quiet {e : Ps} {ks : List Nat} (h : ∀ k ∈ ks, (pin s k).quietBy e) :
    ks.foldl (fun s k => endPulse k e s) s = s := by
  induction ks with
  | nil => rfl
  | cons k ks ih =>
    rw [List.foldl_cons, endPulse_quiet (h k List.mem_cons_self)]
    exact ih fun j hj => h j (List.mem_cons_of_mem _ hj)

/-- While every other pulse runs on, the end of one is all that the pins do. -/
theorem foldl_endPulse_one {e : Ps} {k : Nat} {ks : List Nat} (hnodup : ks.Nodup) (hk : k ∈ ks)
    (h : ∀ j ∈ ks, j ≠ k → (pin s j).quietBy e) : ks.foldl (fun s k => endPulse k e s) s = endPulse k e s := by
  induction ks with
  | nil => exact absurd hk List.not_mem_nil
  | cons i ks ih =>
    obtain ⟨hi, hks⟩ := List.nodup_cons.mp hnodup
    rw [List.foldl_cons]
    by_cases hik : i = k
    · subst hik
      refine foldl_endPulse_quiet fun j hj => ?_
      have hji : j ≠ i := fun hji => hi (hji ▸ hj)
      rw [pin_endPulse_other e hji.symm]
      exact h j (List.mem_cons_of_mem _ hj) hji
    · rw [endPulse_quiet (h i List.mem_cons_self hik)]
      exact ih hks (List.mem_of_ne_of_mem (Ne.symm hik) hk) fun j hj => h j (List.mem_cons_of_mem _ hj)

/-- With no alarm waiting nothing is driven. -/
theorem driveDue_none {ready : AlarmDue → Bool} (h : s.alarm.due = []) : driveDue ready s = s := by
  have hsame : { s with alarm.due := ([] : List AlarmDue) } = s := by rw [← h]
  simp only [driveDue, h, List.filter_nil, List.mergeSort_nil, List.foldl_nil, hsame]

theorem alarmsBy_noneDue {e : Ps} (h : s.alarm.due = []) : alarmsBy e s = alarmsTo e s := by
  unfold alarmsBy
  rw [driveDue_none h]

theorem framesTo_idle {t : Ps} (n : Nat) (h : s.alarm.frame = none) : framesTo n t s = s := by
  cases n with
  | zero => rfl
  | succ n => simp only [framesTo, h]

theorem framesTo_later {t e : Ps} (n : Nat) (h : s.alarm.frame = some e) (he : t < e) : framesTo n t s = s := by
  cases n with
  | zero => rfl
  | succ n => simp only [framesTo, h, if_neg (not_le.mpr he)]

theorem framesTo_due {t e : Ps} (n : Nat) (h : s.alarm.frame = some e) (he : e ≤ t) :
    framesTo (n + 1) t s = framesTo n t (nextFrame e s) := by
  simp only [framesTo, h, if_pos he]

theorem nextFrame_queued {e : Ps} {w : U32} {rest : List U32} (h : s.alarm.queue = w :: rest) :
    nextFrame e s = startFrame w e { s with alarm.frame := none, alarm.queue := rest } := by
  simp only [nextFrame, h]

theorem nextFrame_idle {e : Ps} (h : s.alarm.queue = []) :
    nextFrame e s = startIdle e { s with alarm.frame := none } := by
  simp only [nextFrame, h]

/-- What follows a frame lasts beyond its end. -/
theorem framesTo_nextFrame (n : Nat) (e : Ps) : framesTo n e (nextFrame e s) = nextFrame e s := by
  cases hq : s.alarm.queue with
  | nil =>
    rw [nextFrame_idle hq]
    exact framesTo_idle n rfl
  | cons w rest =>
    rw [nextFrame_queued hq]
    exact framesTo_later n (e := e + 280000) rfl (Nat.lt_add_of_pos_right (by decide))

/-- While every other pulse runs on and no frame is being sent, the end of one pulse is all that the outputs do. -/
theorem alarmsBy_pulseEnds {e : Ps} {k : Nat} (hk : k < 8) (hmode : (pin s k).mode = 1) (hup : (pin s k).asserted = true)
    (hend : (pin s k).endAt = e) (hdue : s.alarm.due = []) (hframe : s.alarm.frame = none)
    (hothers : ∀ j < 8, j ≠ k → (pin s j).quietBy e) :
    alarmsBy e s = send (.almPin k false (max e (pin s k).edgeAt))
      (setPin k { pin s k with asserted := false, endedAt := max e (pin s k).edgeAt } s) := by
  have hpins := foldl_endPulse_one (s := s) (List.nodup_range (n := 8)) (List.mem_range.mpr hk)
    fun j hj hjk => hothers j (List.mem_range.mp hj) hjk
  rw [alarmsBy_noneDue hdue, alarmsTo, hpins, endPulse_ends hmode hup hend]
  exact framesTo_idle _ hframe

/-- While every pulse runs on, the end of a frame and what follows it at once are all that the outputs do. -/
theorem alarmsBy_frameEnds {e : Ps} (hframe : s.alarm.frame = some e) (hdue : s.alarm.due = [])
    (hpins : ∀ j < 8, (pin s j).quietBy e) : alarmsBy e s = nextFrame e s := by
  have hquiet := foldl_endPulse_quiet (s := s) (ks := List.range 8) fun j hj => hpins j (List.mem_range.mp hj)
  rw [alarmsBy_noneDue hdue, alarmsTo, hquiet]
  exact (framesTo_due 64 hframe le_rfl).trans (framesTo_nextFrame 64 e)

theorem execAlmPulseEnd_ends {k : Fin 8} (hmode : (pin s k.val).mode = 1) (hup : (pin s k.val).asserted = true) :
    execAlmPulseEnd k s = .next (alarmsBy (pin s k.val).endAt (s.adv (pin s k.val).endAt)) := by
  unfold execAlmPulseEnd
  exact congrArg _ (if_pos (by rw [hmode, hup]; rfl))

theorem execAlmsFrameEnd_ends {e : Ps} (hframe : s.alarm.frame = some e) :
    execAlmsFrameEnd s = .next (alarmsBy e (s.adv e)) := by
  simp only [execAlmsFrameEnd, hframe]

/-! ### The hold-off of the alarm-summary interrupt (R557) -/

/-- A hold-off at its end. -/
def holdoffOver (e : Ps) (s : State) : State := { (s.adv e) with link.holdoffEnd := none }

/-- The interrupt that a hold-off kept back. -/
def heldIrqSent (s : State) : State := reqVector 2 { s with link.holdoffHit := false }

theorem execAlarmHoldoffEnd_quiet {e : Ps} (hend : s.link.holdoffEnd = some e) (hhit : s.link.holdoffHit = false) :
    execAlarmHoldoffEnd s = .next (holdoffOver e s) := by
  have hnone : ¬ (holdoffOver e s).link.holdoffHit = true := Bool.eq_false_iff.mp hhit
  unfold execAlarmHoldoffEnd
  simp only [hend]
  exact congrArg _ (if_neg hnone)

theorem execAlarmHoldoffEnd_hit {e : Ps} (hend : s.link.holdoffEnd = some e) (hhit : s.link.holdoffHit = true)
    (hon : s.link.holdoff ≠ 0) :
    execAlarmHoldoffEnd s = .next { (heldIrqSent (holdoffOver e s)) with
      link.holdoffEnd := some ((heldIrqSent (holdoffOver e s)).now + s.link.holdoff.toNat * 1000000) } := by
  unfold execAlarmHoldoffEnd
  simp only [hend]
  exact congrArg _ ((if_pos hhit).trans (if_neg hon))
end

/-- Settles O42: each edge, each end and each failure as its own row takes it. -/
theorem inputAndAlarmEvents : Obligations.InputAndAlarmEvents := by
  unfold Obligations.InputAndAlarmEvents
  intro t pin4 k rising code s u
  refine ⟨?asleep, ?awake, ?edge, rfl, rfl, ?syncFail, ?markerLost, ?pulse, ?frame, ?holdoff, ?holdoffHit⟩
  case asleep => exact execTinEdge_sleeping t pin4 rising
  case awake =>
    intro hawake v
    have hedge := execTinEdge_awake t pin4 rising hawake
    exact ⟨fun hnear => hedge.trans (congrArg _ (if_pos hnear)),
      fun hfar => hedge.trans (congrArg _ (if_neg (Bool.eq_false_iff.mp hfar)))⟩
  case edge => exact execTimEdge_feeds t rising
  case syncFail => exact execTimSyncFail_late t
  case markerLost =>
    intro e es hphase hedges hlate htold
    have hflywheels := flywheel_untold (s := u) 0x0804 htold
    exact (execTimMarkerLost_late t hphase hedges hlate).trans (congrArg _ hflywheels)
  case pulse =>
    intro hmode hup e m
    have hends := execAlmPulseEnd_ends hmode hup
    refine ⟨hends, fun hdue hframe hothers => hends.trans (congrArg _ ?_)⟩
    exact alarmsBy_pulseEnds (s := s.adv e) k.isLt hmode hup rfl hdue hframe
      fun j hj hjk => hothers ⟨j, hj⟩ (Fin.ne_of_val_ne hjk)
  case frame =>
    intro e hframe
    have hends := execAlmsFrameEnd_ends hframe
    refine ⟨hends, fun hdue hpins => ?_⟩
    have hnext : alarmsBy e (s.adv e) = nextFrame e (s.adv e) :=
      alarmsBy_frameEnds (s := s.adv e) hframe hdue fun j hj => hpins ⟨j, hj⟩
    exact ⟨fun w rest hqueue => hends.trans (congrArg _ (hnext.trans (nextFrame_queued hqueue))),
      fun hqueue => hends.trans (congrArg _ (hnext.trans (nextFrame_idle hqueue)))⟩
  case holdoff => exact fun e => execAlarmHoldoffEnd_quiet
  case holdoffHit => exact fun e => execAlarmHoldoffEnd_hit

end Sys2Proof.Machine
end

section
/-! PROOFS. A record's read-back, a block's age, blocks delivered or dropped and items forwarded (O44). Built on
Laws/State.lean. -/

namespace Sys2Proof.Machine

open Sys2Proof

section
variable {s : State} {k : Nat}

/-! ### What a stream reads after an update -/

theorem stream_modStream_same (f : Stream → Stream) (hk : k ≤ 256) : stream (modStream k f s) k = f (stream s k) :=
  vget_vmod_same _ _ _ (by omega)

theorem stream_send (o : Out) (s : State) (k : Nat) : stream (send o s) k = stream s k := rfl

/-! ### A record's read-back (R255) -/

/-- A record whose pre part is read back. -/
def readBackNoted (h : Nat) (s : State) : State := modRec h (fun x => { x with readBack := true }) s

theorem execReadbackDone_awaited {t : Ps} {handle : U32} {r : Record} (hrec : findRec handle.toNat (s.adv t) = some r)
    (hunread : r.readBack = false) (hphase : r.phase = .capture ∨ r.phase = .measuring) (hctx : r.ctx ≠ 256) :
    execReadbackDone t handle s = .next (if r.phase = .measuring
      then completeRec handle.toNat (readBackNoted handle.toNat (s.adv t)) else readBackNoted handle.toNat (s.adv t)) := by
  have hawaited : ¬ (r.readBack || !(decide (r.phase = .capture) || decide (r.phase = .measuring)) || decide (r.ctx = 256))
      = true := by simpa [hunread, hctx, ← or_iff_not_imp_left] using hphase
  unfold execReadbackDone
  simp only [hrec]
  exact congrArg _ (if_neg hawaited)

/-! ### A block's age (R320) -/

theorem execBlockAgeExpiry_open {x : Ps} (hopen : (stream s k).opened.head? = some x) :
    let v := s.adv (x + (stream s k).maxAge * 1000000000)
    execBlockAgeExpiry k s = .next (if (lineInProgress v k).isSome = true
      then modStream k (fun y => { y with closeDue := true }) v else closeBlock k v) := by
  unfold execBlockAgeExpiry
  simp only [hopen]

/-! ### A block that is delivered or dropped (R322 to R324) -/

/-- The oldest complete block is off the queue. -/
def blockTaken (k : Nat) (rest : List Block) (s : State) : State := modStream k (fun x => { x with waiting := rest }) s

/-- A block's bytes as its stream delivers it. -/
def Stream.deliveredBytes (k : Nat) (b : Block) (x : Stream) : List Byte :=
  b.bytes k (x.afterDrop || b.after) (b.pastDrops.getD x.drops)

/-- A stream that has delivered so many bytes of a block. -/
def Stream.delivered (b : Block) (n : Nat) (x : Stream) : Stream :=
  { x with afterDrop := false, sent := x.sent + 1,
           bytesOut := if b.pastDrops.isSome then x.bytesOut else x.bytesOut + BitVec.ofNat 64 n }

/-- Has a ring no free slot, if its consumer stands at `c`? -/
def Stream.ringFull (x : Stream) (c : U32) : Bool := x.ringSlots ≤ (x.producer - c).toNat

/-- The consumer as the device knows it: read anew when the ring looks full. -/
def Stream.consumerSeen (x : Stream) (c : U32) : U32 := if x.ringFull x.consumer = true then c else x.consumer

theorem Stream.ringFull_consumerSeen (x : Stream) (c : U32) :
    x.ringFull (x.consumerSeen c) = true ↔ x.ringFull x.consumer = true ∧ x.ringFull c = true := by
  unfold Stream.consumerSeen
  by_cases hfull : x.ringFull x.consumer = true
  · rw [if_pos hfull]
    exact (and_iff_right hfull).symm
  · rw [if_neg hfull]
    exact iff_of_false hfull fun h => hfull h.1

/-- The state in which the device looks for room in the ring. -/
def ringTried (k : Nat) (rest : List Block) (c : U32) (s : State) : State :=
  modStream k (fun y => { y with consumer := (stream s k).consumerSeen c }) (blockTaken k rest s)

/-- A block is in its slot and `PRODUCER` behind it; its interrupt is still to come. -/
def ringWritten (k : Nat) (b : Block) (rest : List Block) (c : U32) (s : State) : State :=
  let bytes := (stream s k).deliveredBytes k b
  modStream k (fun y => { y.delivered b bytes.length with producer := y.producer + 1 })
    (writeToRing k bytes (ringTried k rest c s))

/-- Every datagram of a block is sent. -/
def fragmentsSent (k : Nat) (b : Block) (rest : List Block) (s : State) : State :=
  let x := stream s k
  let bytes := x.deliveredBytes k b
  (fragments k b.node b.seq x s.cmd.key bytes).foldl (fun s d => sendDatagram k d s)
    (modStream k (Stream.delivered b bytes.length) (blockTaken k rest s))

section
variable (t : Ps) (consumer : U32) (room : Bool) {b : Block} {rest : List Block}

theorem execBlockSend_noneWaiting (hk : k ≤ 256) (hwaiting : (stream (s.adv t) k).waiting = []) :
    execBlockSend t k consumer room s = .next (s.adv t) := by
  unfold execBlockSend
  simp only [if_neg (not_lt.mpr hk), hwaiting]

theorem execBlockSend_ring (hk : k ≤ 256) (hwaiting : (stream (s.adv t) k).waiting = b :: rest)
    (hring : (stream (s.adv t) k).transport = 1) :
    let u := s.adv t
    execBlockSend t k consumer room s = .next (
      if (!u.hostUp || (stream u k).ringFull ((stream u k).consumerSeen consumer)) = true
      then dropBlock k b (ringTried k rest consumer u)
      else blockIrq k (b.padFrom < 4096) (ringWritten k b rest consumer u)) := by
  unfold execBlockSend
  simp only [if_neg (not_lt.mpr hk), hwaiting, hring, if_true]
  rfl

theorem execBlockSend_ethernet (hk : k ≤ 256) (hwaiting : (stream (s.adv t) k).waiting = b :: rest)
    (heth : (stream (s.adv t) k).transport ≠ 1) :
    let u := s.adv t
    execBlockSend t k consumer room s = .next (
      if (!room || !ethUp u (stream u k).transport) = true then dropBlock k b (blockTaken k rest u)
      else fragmentsSent k b rest u) := by
  unfold execBlockSend
  simp only [if_neg (not_lt.mpr hk), hwaiting, if_neg heth]
  rfl

end

/-! ### A block dropped (R324) -/

theorem dropBlock_outbox (b : Block) : (dropBlock k b s).outbox = s.outbox := rfl

/-- A drop of the stream's present run of blocks. -/
theorem stream_dropBlock {b : Block} (hk : k ≤ 256) (hpresent : b.pastDrops = none) :
    stream (dropBlock k b s) k = { stream s k with drops := satInc (stream s k).drops, afterDrop := true } := by
  unfold dropBlock
  rw [stream_modStream_same _ hk]
  simp [hpresent]

/-! ### A block in its ring (R322) -/

variable {b : Block} {rest : List Block}

theorem stream_blockTaken (hk : k ≤ 256) : stream (blockTaken k rest s) k = { stream s k with waiting := rest } :=
  stream_modStream_same _ hk

theorem stream_ringTried (c : U32) (hk : k ≤ 256) :
    stream (ringTried k rest c s) k =
      { stream s k with waiting := rest, consumer := (stream s k).consumerSeen c } := by
  unfold ringTried
  rw [stream_modStream_same _ hk, stream_blockTaken hk]

theorem stream_ringWritten (c : U32) (hk : k ≤ 256) :
    stream (ringWritten k b rest c s) k =
      { (stream s k).delivered b ((stream s k).deliveredBytes k b).length with
        waiting := rest, consumer := (stream s k).consumerSeen c, producer := (stream s k).producer + 1 } := by
  unfold ringWritten writeToRing
  rw [stream_modStream_same _ hk, stream_send, stream_send, stream_ringTried c hk]
  rfl

/-- The block goes to the producer's slot, then `PRODUCER` to the control area. -/
theorem ringWritten_outbox (c : U32) (hk : k ≤ 256) :
    (ringWritten k b rest c s).outbox =
      .hostWrite k ((stream s k).ringBase + 4) (le4 ((stream s k).producer + 1).toNat)
        :: .hostWrite k (slotAddr (stream s k)) ((stream s k).deliveredBytes k b) :: s.outbox := by
  unfold ringWritten writeToRing
  simp only [modStream_outbox, send_outbox, stream_ringTried c hk]
  rfl

/-! ### A block sent in datagrams (R323) -/

theorem foldl_sendDatagram_streams (ds : List (List Byte)) :
    (ds.foldl (fun s d => sendDatagram k d s) s).streams = s.streams := by
  induction ds generalizing s with
  | nil => rfl
  | cons d ds ih => exact ih.trans rfl

theorem foldl_sendDatagram_outbox (ds : List (List Byte)) :
    (ds.foldl (fun s d => sendDatagram k d s) s).outbox =
      ds.reverse.map (Out.datagram k ((stream s k).transport - 2) (stream s k).destAddr (stream s k).destPort)
        ++ s.outbox := by
  induction ds generalizing s with
  | nil => rfl
  | cons d ds ih =>
    rw [List.foldl_cons, ih, List.reverse_cons, List.map_append, List.append_assoc]
    rfl

theorem stream_fragmentsSent (hk : k ≤ 256) :
    stream (fragmentsSent k b rest s) k =
      { (stream s k).delivered b ((stream s k).deliveredBytes k b).length with waiting := rest } := by
  have hsent := congrArg (vget · k) (foldl_sendDatagram_streams (k := k)
    (s := modStream k (Stream.delivered b ((stream s k).deliveredBytes k b).length) (blockTaken k rest s))
    (fragments k b.node b.seq (stream s k) s.cmd.key ((stream s k).deliveredBytes k b)))
  refine hsent.trans ((stream_modStream_same _ hk).trans ?_)
  rw [stream_blockTaken hk]
  rfl

theorem fragmentsSent_outbox (hk : k ≤ 256) :
    (fragmentsSent k b rest s).outbox =
      (fragments k b.node b.seq (stream s k) s.cmd.key ((stream s k).deliveredBytes k b)).reverse.map
          (Out.datagram k ((stream s k).transport - 2) (stream s k).destAddr (stream s k).destPort)
        ++ s.outbox := by
  unfold fragmentsSent
  rw [foldl_sendDatagram_outbox, stream_modStream_same _ hk, stream_blockTaken hk]
  rfl

/-! ### Items forwarded (R340) -/

theorem EvqState.forwarded_lost (q : EvqState) (cyc : Nat) : (q.forwarded cyc).lost = q.lost := by
  unfold EvqState.forwarded
  split <;> rfl

theorem EvqState.forwarded_fwdSeq (q : EvqState) (cyc : Nat) : (q.forwarded cyc).fwdSeq = q.fwdSeq := by
  unfold EvqState.forwarded
  split <;> rfl

/-- The datagram of the items at the front of the forwarding queue. -/
def forwardDatagram (s : State) : List Byte :=
  let x := stream s 257
  let body := (s.evq.forward.take 16).flatMap (fun i => itemBytes i.words)
  streamDatagram s.cmd.key x.auth
    (le2 257 ++ le2 s.cmd.node.toNat ++ le4 s.evq.fwdSeq.toNat ++ le1 0 ++ le1 1 ++ le1 (bit x.auth) ++ zeros 1
      ++ le4 body.length) body

/-- The items complete by now have left the event queue. -/
def itemsForwarded (s : State) : State := { s with evq := s.evq.forwarded (s.cycle + 1) }

theorem execEvtForwardSend_none (t : Ps) (room : Bool) (h : (itemsForwarded (s.adv t)).evq.forward = []) :
    execEvtForwardSend t room s = .next (itemsForwarded (s.adv t)) := by
  have hnone : ((itemsForwarded (s.adv t)).evq.forward.take 16).isEmpty = true := by rw [h]; rfl
  unfold execEvtForwardSend
  exact congrArg _ (if_pos hnone)

theorem execEvtForwardSend_some (t : Ps) (room : Bool) (h : (itemsForwarded (s.adv t)).evq.forward ≠ []) :
    let u := itemsForwarded (s.adv t)
    let z := stream u 257
    execEvtForwardSend t room s = .next (if (!room || !ethUp u z.transport) = true
      then { u with evq.forward := u.evq.forward.drop 16, evq.lost := satAdd u.evq.lost (u.evq.forward.take 16).length }
      else sendDatagram 257 (forwardDatagram u)
        { u with evq.forward := u.evq.forward.drop 16, evq.fwdSeq := u.evq.fwdSeq + 1 }) := by
  have hsome : ¬ ((itemsForwarded (s.adv t)).evq.forward.take 16).isEmpty = true := by
    simpa [List.isEmpty_iff, List.take_eq_nil_iff] using h
  unfold execEvtForwardSend
  exact congrArg _ (if_neg hsome)

end

/-- Settles O44: the blocks and items that find room are written or sent as their stream says, the others counted. -/
theorem streamEvents : Obligations.StreamEvents := by
  unfold Obligations.StreamEvents
  intro t handle consumer k room s u
  refine ⟨?measuring, ?capture, ?age, ?none, ?ring, ?ethernet, ?forward⟩
  case measuring =>
    intro r hrec hunread hphase hctx
    exact (execReadbackDone_awaited hrec hunread (.inr hphase) hctx).trans (congrArg _ (if_pos hphase))
  case capture =>
    intro r hrec hunread hphase hctx
    have hstays : ¬ r.phase = .measuring := by simp [hphase]
    exact (execReadbackDone_awaited hrec hunread (.inl hphase) hctx).trans (congrArg _ (if_neg hstays))
  case age =>
    intro x hopen v
    have hage := execBlockAgeExpiry_open hopen
    refine ⟨fun hnone => hage.trans (congrArg _ (if_neg ?_)), fun hline => hage.trans (congrArg _ (if_pos hline))⟩
    rw [hnone]
    exact Bool.false_ne_true
  case none => exact execBlockSend_noneWaiting t consumer room
  case ring =>
    intro b rest hk hwaiting hring x full bytes slot
    have hsend := execBlockSend_ring t consumer room hk hwaiting hring
    have hfull (c : U32) : x.ringFull c = true ↔ full c := decide_eq_true_iff
    have hseen : x.ringFull (x.consumerSeen consumer) = true ↔ full x.consumer ∧ full consumer := by
      rw [x.ringFull_consumerSeen, hfull, hfull]
    refine ⟨fun hroom hup => ?_, fun hnone hpresent => ?_⟩
    · have hfree : ¬ (!u.hostUp || x.ringFull (x.consumerSeen consumer)) = true := by
        simpa [hup, hseen, ← not_and_or] using hroom
      refine ⟨_, ringWritten k b rest consumer u, hsend.trans (congrArg _ (if_neg hfree)), rfl,
        ringWritten_outbox consumer hk, ?_⟩
      rw [stream_ringWritten consumer hk]
      exact ⟨rfl, rfl, rfl, rfl, rfl⟩
    · have hdrops : (!u.hostUp || x.ringFull (x.consumerSeen consumer)) = true := by
        simpa [hseen] using hnone
      refine ⟨_, hsend.trans (congrArg _ (if_pos hdrops)), dropBlock_outbox b, ?_⟩
      rw [stream_dropBlock hk hpresent, stream_ringTried consumer hk]
      exact ⟨rfl, rfl, rfl, rfl⟩
  case ethernet =>
    intro b rest hk hwaiting heth x bytes
    have hsend := execBlockSend_ethernet t consumer room hk hwaiting heth
    refine ⟨fun hroom hup => ?_, fun hnone hpresent => ?_⟩
    · have hgoes : ¬ (!room || !ethUp u x.transport) = true := by simp [hroom, hup]
      refine ⟨_, hsend.trans (congrArg _ (if_neg hgoes)), fragmentsSent_outbox hk, ?_⟩
      rw [stream_fragmentsSent hk]
      exact ⟨rfl, rfl, rfl⟩
    · have hdrops : (!room || !ethUp u x.transport) = true := by simpa using hnone
      refine ⟨_, hsend.trans (congrArg _ (if_pos hdrops)), dropBlock_outbox b, ?_⟩
      rw [stream_dropBlock hk hpresent, stream_blockTaken hk]
      exact ⟨rfl, rfl, rfl⟩
  case forward =>
    intro q z
    refine ⟨execEvtForwardSend_none t room, fun hitems hnone => ?_, fun hitems hroom hup => ?_⟩
    · have hlost : (!room || !ethUp u z.transport) = true := by simpa using hnone
      exact (execEvtForwardSend_some t room hitems).trans (congrArg _ (if_pos hlost))
    · have hgoes : ¬ (!room || !ethUp u z.transport) = true := by simp [hroom, hup]
      refine ⟨_, _, (execEvtForwardSend_some t room hitems).trans (congrArg _ (if_neg hgoes)), rfl, rfl, rfl, ?_, ?_⟩
      · exact congrArg (· + 1) (EvqState.forwarded_fwdSeq u.evq _)
      · exact EvqState.forwarded_lost u.evq _

end Sys2Proof.Machine
end

section
/-! PROOFS. The words of zone-core instructions (O2, O3): for each format of R283 one equivalence between a word put together
from its fields and the fields taken out of a word; decoder and encoder then agree opcode by opcode. -/

namespace Sys2Proof.Zc

open Sys2Proof Sys2Proof.Machine

/-! ### Fields -/

theorem when_eq_some_iff {b : Bool} {i j : Instr} : when b i = some j ↔ b = true ∧ i = j := by
  cases b <;> simp [when]

theorem fin8_eq_iff {n : Nat} {d : Fin 8} : fin8 n = d ↔ n % 8 = d.val := Fin.ext_iff

theorem fin4_eq_iff {n : Nat} {a : Fin 4} : fin4 n = a ↔ n % 4 = a.val := Fin.ext_iff

theorem ofNat_eq_iff {k n : Nat} {v : BitVec k} : BitVec.ofNat k n = v ↔ n % 2 ^ k = v.toNat := by
  rw [← BitVec.toNat_inj, BitVec.toNat_ofNat]

/-! ### Formats: a word is put together from its fields exactly when they are its fields

The checks become propositions before the fields are opened, since a check decides about the closed field. -/

section
variable {n w : Nat} {d e f : Fin 8} {a b : Fin 4} {m : MemOp} {sh : BitVec 6}

theorem word_bare_iff : op n = w ↔ w / 67108864 = n ∧ decide (w % 67108864 = 0) = true := by
  simp only [decide_eq_true_eq]
  simp only [op]
  omega

theorem word_target_iff {t : BitVec 12} :
    op n + t.toNat = w ↔ w / 67108864 = n ∧ okC w = true ∧ BitVec.ofNat 12 (w % 4096) = t := by
  simp only [okC, decide_eq_true_eq]
  simp only [op, ofNat_eq_iff]
  omega

theorem word_count_iff {imm : BitVec 16} :
    op n + imm.toNat = w ↔ w / 67108864 = n ∧ decide (w % 67108864 < 65536) = true ∧ BitVec.ofNat 16 (w % 65536) = imm := by
  simp only [decide_eq_true_eq]
  simp only [op, ofNat_eq_iff]
  omega

theorem word_mask_iff {mask : BitVec 5} :
    op n + mask.toNat = w ↔ w / 67108864 = n ∧ decide (w % 67108864 < 32) = true ∧ BitVec.ofNat 5 (w % 32) = mask := by
  simp only [decide_eq_true_eq]
  simp only [op, ofNat_eq_iff]
  omega

theorem word_condition_iff {cond : BitVec 4} {t : BitVec 12} :
    condListed cond = true ∧ op n + cond.toNat * 4096 + t.toNat = w ↔
      w / 67108864 = n ∧ (decide (w % 67108864 < 65536) && condOk (fCond w)) = true ∧ BitVec.ofNat 4 (fCond w) = cond ∧
        BitVec.ofNat 12 (w % 4096) = t := by
  simp only [condListed, condOk, Bool.or_eq_true, Bool.and_eq_true, decide_eq_true_eq, beq_iff_eq]
  simp only [op, fCond, ofNat_eq_iff]
  omega

theorem word_detector_iff {cond : BitVec 4} :
    condListed cond = true ∧ op n + b.val * 65536 + cond.toNat * 4096 = w ↔
      w / 67108864 = n ∧ (decide (w % 67108864 < 262144) && decide (w % 4096 = 0) && condOk (fCond w)) = true ∧
        fin4 (fB w) = b ∧ BitVec.ofNat 4 (fCond w) = cond := by
  simp only [condListed, condOk, Bool.or_eq_true, Bool.and_eq_true, decide_eq_true_eq, beq_iff_eq]
  simp only [op, fCond, fB, ofNat_eq_iff, fin4_eq_iff]
  omega

theorem word_immediate_iff {imm : BitVec 16} :
    op n + r1 d + imm.toNat = w ↔
      w / 67108864 = n ∧ okI w = true ∧ fin8 (fR w) = d ∧ BitVec.ofNat 16 (w % 65536) = imm := by
  simp only [okI, Bool.and_eq_true, decide_eq_true_eq]
  simp only [op, r1, fA, fR, ofNat_eq_iff, fin8_eq_iff]
  omega

theorem word_pointerImmediate_iff {imm : BitVec 14} :
    op n + r1 d + imm.toNat = w ↔
      w / 67108864 = n ∧ okI14 w = true ∧ fin8 (fR w) = d ∧ BitVec.ofNat 14 (w % 16384) = imm := by
  simp only [okI14, okI, Bool.and_eq_true, decide_eq_true_eq]
  simp only [op, r1, fA, fR, ofNat_eq_iff, fin8_eq_iff]
  omega

theorem word_modulo_iff {imm : BitVec 14} :
    op n + r1a a + imm.toNat = w ↔
      w / 67108864 = n ∧ (okI14 w && decide (fR w < 4)) = true ∧ fin4 (fR w) = a ∧ BitVec.ofNat 14 (w % 16384) = imm := by
  simp only [okI14, okI, Bool.and_eq_true, decide_eq_true_eq]
  simp only [op, r1a, fA, fR, ofNat_eq_iff, fin4_eq_iff]
  omega

theorem word_registers2_iff :
    op n + r1 d + r2 e = w ↔
      w / 67108864 = n ∧ (decide (fA w = 0) && okR2 w) = true ∧ fin8 (fR w) = d ∧ fin8 (fR2 w) = e := by
  simp only [okR2, Bool.and_eq_true, decide_eq_true_eq]
  simp only [op, r1, r2, fA, fR, fR2, fin8_eq_iff]
  omega

theorem word_registers3_iff :
    op n + r1 d + r2 e + r3 f = w ↔
      w / 67108864 = n ∧ (decide (fA w = 0) && decide (w % 32768 = 0)) = true ∧ fin8 (fR w) = d ∧ fin8 (fR2 w) = e ∧
        fin8 (fR3 w) = f := by
  simp only [Bool.and_eq_true, decide_eq_true_eq]
  simp only [op, r1, r2, r3, fA, fR, fR2, fR3, fin8_eq_iff]
  omega

theorem word_accumulator_iff :
    op n + rA a = w ↔ w / 67108864 = n ∧ decide (w % 16777216 = 0) = true ∧ fin4 (fA w) = a := by
  simp only [decide_eq_true_eq]
  simp only [op, rA, fA, fin4_eq_iff]
  omega

theorem word_accumulators_iff :
    op n + rA a + r1a b = w ↔
      w / 67108864 = n ∧ (okR1 w && decide (fR w < 4)) = true ∧ fin4 (fA w) = a ∧ fin4 (fR w) = b := by
  simp only [okR1, Bool.and_eq_true, decide_eq_true_eq]
  simp only [op, rA, r1a, fA, fR, fin4_eq_iff]
  omega

theorem word_accumulatorRegister_iff :
    op n + rA a + r1 d = w ↔ w / 67108864 = n ∧ okR1 w = true ∧ fin4 (fA w) = a ∧ fin8 (fR w) = d := by
  simp only [okR1, decide_eq_true_eq]
  simp only [op, rA, r1, fA, fR, fin4_eq_iff, fin8_eq_iff]
  omega

theorem word_accumulatorRegisters_iff :
    op n + rA a + r1 d + r2 e = w ↔
      w / 67108864 = n ∧ okR2 w = true ∧ fin4 (fA w) = a ∧ fin8 (fR w) = d ∧ fin8 (fR2 w) = e := by
  simp only [okR2, decide_eq_true_eq]
  simp only [op, rA, r1, r2, fA, fR, fR2, fin4_eq_iff, fin8_eq_iff]
  omega

theorem word_shift_iff :
    shiftOk1 sh = true ∧ op n + rA a + rSh sh = w ↔
      w / 67108864 = n ∧ (decide (w % 16777216 = fSh w * 512) && decide (1 ≤ fSh w) && decide (fSh w ≤ 39)) = true ∧
        fin4 (fA w) = a ∧ BitVec.ofNat 6 (fSh w) = sh := by
  simp only [shiftOk1, Bool.and_eq_true, decide_eq_true_eq]
  simp only [op, rA, rSh, fA, fSh, fin4_eq_iff, ofNat_eq_iff]
  omega

theorem word_narrowed_iff :
    shiftOk sh = true ∧ op n + rA a + r1 d + rSh sh = w ↔
      w / 67108864 = n ∧ (decide (w % 2097152 = fSh w * 512) && decide (fSh w ≤ 39)) = true ∧ fin8 (fR w) = d ∧
        fin4 (fA w) = a ∧ BitVec.ofNat 6 (fSh w) = sh := by
  simp only [shiftOk, Bool.and_eq_true, decide_eq_true_eq]
  simp only [op, rA, r1, rSh, fA, fR, fSh, fin4_eq_iff, fin8_eq_iff, ofNat_eq_iff]
  omega

/-! ### Memory operands -/

theorem memOp_eq_iff :
    memOp w = m ↔ fSpace w = (if m.spaceY then 1 else 0) ∧ fP w = m.p.val ∧ fMod w = m.mod.toNat := by
  obtain ⟨y, p, k⟩ := m
  have hy : fSpace w < 2 := Nat.mod_lt _ (by decide)
  have hp : fP w < 8 := Nat.mod_lt _ (by decide)
  have hk : fMod w < 4 := Nat.mod_lt _ (by decide)
  simp only [memOp, MemOp.mk.injEq, fin8_eq_iff, ofNat_eq_iff]
  cases y <;> simp <;> omega

theorem memOp_ok_iff : m.ok = true ↔ m.mod.toNat ≠ 3 := by simp [MemOp.ok, modOk]

theorem memBits_eq : memBits m = (if m.spaceY then 1 else 0) * 1048576 + m.p.val * 131072 + m.mod.toNat * 32768 := by
  unfold memBits
  split <;> omega

theorem word_load_iff :
    m.ok = true ∧ op n + r1 d + memBits m = w ↔
      w / 67108864 = n ∧ okL w = true ∧ fin8 (fR w) = d ∧ memOp w = m := by
  have hy : (if m.spaceY then 1 else 0) < 2 := by split <;> decide
  rw [memOp_eq_iff, memOp_ok_iff, memBits_eq]
  simp only [okL, Bool.and_eq_true, decide_eq_true_eq]
  simp only [op, r1, fA, fR, fSpace, fP, fMod, fin8_eq_iff]
  generalize (if m.spaceY then 1 else 0) = y at hy ⊢
  omega

theorem word_accumulatorStore_iff :
    (m.ok && shiftOk sh) = true ∧ op n + rA a + memBits m + rSh sh = w ↔
      w / 67108864 = n ∧ (okLa w && decide (fSh w ≤ 39)) = true ∧ fin4 (fA w) = a ∧ BitVec.ofNat 6 (fSh w) = sh ∧
        memOp w = m := by
  have hy : (if m.spaceY then 1 else 0) < 2 := by split <;> decide
  rw [memOp_eq_iff, Bool.and_eq_true, memOp_ok_iff, memBits_eq]
  simp only [shiftOk, okLa, Bool.and_eq_true, decide_eq_true_eq]
  simp only [op, rA, rSh, fA, fR, fSh, fSpace, fP, fMod, fin4_eq_iff, ofNat_eq_iff]
  generalize (if m.spaceY then 1 else 0) = y at hy ⊢
  omega

theorem word_accumulatorLoad_iff :
    m.ok = true ∧ op n + rA a + memBits m = w ↔
      w / 67108864 = n ∧ (okLa w && decide (fSh w = 0)) = true ∧ fin4 (fA w) = a ∧ memOp w = m := by
  have hy : (if m.spaceY then 1 else 0) < 2 := by split <;> decide
  rw [memOp_eq_iff, memOp_ok_iff, memBits_eq]
  simp only [okLa, Bool.and_eq_true, decide_eq_true_eq]
  simp only [op, rA, fA, fR, fSh, fSpace, fP, fMod, fin4_eq_iff]
  generalize (if m.spaceY then 1 else 0) = y at hy ⊢
  omega

theorem word_mac_iff {m : MacOp} :
    m.ok = true ∧ op n + rA a + macBits m = w ↔
      w / 67108864 = n ∧ okM w = true ∧ fin4 (fA w) = a ∧ macOp w = m := by
  obtain ⟨px, xk, py, yk⟩ := m
  simp only [MacOp.ok, modOk, okM, Bool.and_eq_true, decide_eq_true_eq, bne_iff_ne]
  simp only [op, rA, macBits, macOp, fA, fR, fXm, fPy, fYm, MacOp.mk.injEq, fin4_eq_iff, fin8_eq_iff,
    ofNat_eq_iff, Nat.mod_mod, Nat.reducePow]
  omega

end

/-! ### Words and instructions -/

section
variable {c : Fin 32} {i j : Instr} {n x w : Nat}

/-- A zone-core instruction is well formed when its own operands are. -/
theorem wellFormed_eq_coreOk (hi : coreInstr i = some c ∨ i = .done c) : i.wellFormed = i.coreOk := by
  obtain hi | rfl := hi
  · cases i with
    | nopInstr | repeatI | setlc | dbnz | br | bcc | setb | movi | movhi | mov | movp | movm | movpd | movdp | addi | add | sub
    | cmpd | cmpi | cmpa | addp | cmpad | ld | ldw | st | stw | sta | staw | lda | clr | mac | msu | mac2 | macd | msud
    | addAcc | subAcc | shr | shl | absA | mova | movd | clrst =>
      exact (Bool.and_true _).trans (Bool.and_true _)
    | _ => cases hi
  · rfl

/-- A well-formed instruction with its word. -/
def Spells (w : Nat) (i : Instr) : Prop := i.wellFormed = true ∧ encode i = some w

theorem spells_of_when {b : Bool} (h : when b j = some i) (hj : coreInstr j = some c ∨ j = .done c) (hx : encode j = some x)
    (hw : b = true → j.coreOk = true ∧ x = w) : Spells w i := by
  obtain ⟨hok, rfl⟩ := when_eq_some_iff.mp h
  obtain ⟨hcore, rfl⟩ := hw hok
  exact ⟨(wellFormed_eq_coreOk hj).trans hcore, hx⟩

/-! ### What a word decodes to has that word -/

section
variable (hn : w / 67108864 = n)
include hn

theorem spells_of_control (h : control c n w = some i) : Spells w i := by
  unfold control at h
  split_ifs at h with h0 h1 h2 h3 h4 h5 h6 h7 <;> subst n
  · exact spells_of_when h (.inl rfl) rfl fun hok => ⟨rfl, word_bare_iff.mpr ⟨h0, hok⟩⟩
  · exact spells_of_when h (.inr rfl) rfl fun hok => ⟨rfl, word_bare_iff.mpr ⟨h1, hok⟩⟩
  · exact spells_of_when h (.inl rfl) rfl fun hok => ⟨rfl, word_target_iff.mpr ⟨h2, hok, rfl⟩⟩
  · exact spells_of_when h (.inl rfl) rfl fun hok => ⟨rfl, word_count_iff.mpr ⟨h3, hok, rfl⟩⟩
  · exact spells_of_when h (.inl rfl) rfl fun hok => ⟨rfl, word_target_iff.mpr ⟨h4, hok, rfl⟩⟩
  · exact spells_of_when h (.inl rfl) rfl fun hok => ⟨rfl, word_target_iff.mpr ⟨h5, hok, rfl⟩⟩
  · exact spells_of_when h (.inl rfl) rfl fun hok => word_condition_iff.mpr ⟨h6, hok, rfl, rfl⟩
  · exact spells_of_when h (.inl rfl) rfl fun hok => word_detector_iff.mpr ⟨h7, hok, rfl, rfl⟩

theorem spells_of_move (h : move c n w = some i) : Spells w i := by
  unfold move at h
  split_ifs at h with h8 h9 hA hB hC hD hE hF <;> subst n
  · exact spells_of_when h (.inl rfl) rfl fun hok => ⟨rfl, word_immediate_iff.mpr ⟨h8, hok, rfl, rfl⟩⟩
  · exact spells_of_when h (.inl rfl) rfl fun hok => ⟨rfl, word_immediate_iff.mpr ⟨h9, hok, rfl, rfl⟩⟩
  · exact spells_of_when h (.inl rfl) rfl fun hok => ⟨rfl, word_registers2_iff.mpr ⟨hA, hok, rfl, rfl⟩⟩
  · exact spells_of_when h (.inl rfl) rfl fun hok => ⟨rfl, word_pointerImmediate_iff.mpr ⟨hB, hok, rfl, rfl⟩⟩
  · exact spells_of_when h (.inl rfl) rfl fun hok => ⟨rfl, word_modulo_iff.mpr ⟨hC, hok, rfl, rfl⟩⟩
  · exact spells_of_when h (.inl rfl) rfl fun hok => ⟨rfl, word_registers2_iff.mpr ⟨hD, hok, rfl, rfl⟩⟩
  · exact spells_of_when h (.inl rfl) rfl fun hok => ⟨rfl, word_registers2_iff.mpr ⟨hE, hok, rfl, rfl⟩⟩
  · exact spells_of_when h (.inl rfl) rfl fun hok => ⟨rfl, word_immediate_iff.mpr ⟨hF, hok, rfl, rfl⟩⟩

theorem spells_of_arith (h : arith c n w = some i) : Spells w i := by
  unfold arith at h
  split_ifs at h with h0 h1 h2 h3 h4 h5 h6 <;> subst n
  · exact spells_of_when h (.inl rfl) rfl fun hok => ⟨rfl, word_registers3_iff.mpr ⟨h0, hok, rfl, rfl, rfl⟩⟩
  · exact spells_of_when h (.inl rfl) rfl fun hok => ⟨rfl, word_registers3_iff.mpr ⟨h1, hok, rfl, rfl, rfl⟩⟩
  · exact spells_of_when h (.inl rfl) rfl fun hok => ⟨rfl, word_registers2_iff.mpr ⟨h2, hok, rfl, rfl⟩⟩
  · exact spells_of_when h (.inl rfl) rfl fun hok => ⟨rfl, word_immediate_iff.mpr ⟨h3, hok, rfl, rfl⟩⟩
  · exact spells_of_when h (.inl rfl) rfl fun hok => ⟨rfl, word_accumulators_iff.mpr ⟨h4, hok, rfl, rfl⟩⟩
  · exact spells_of_when h (.inl rfl) rfl fun hok => ⟨rfl, word_pointerImmediate_iff.mpr ⟨h5, hok, rfl, rfl⟩⟩
  · exact spells_of_when h (.inl rfl) rfl fun hok => ⟨rfl, word_accumulatorRegister_iff.mpr ⟨h6, hok, rfl, rfl⟩⟩

theorem spells_of_memory (h : memory c n w = some i) : Spells w i := by
  unfold memory at h
  split_ifs at h with h8 h9 hA hB hC hD hE <;> subst n
  · exact spells_of_when h (.inl rfl) rfl fun hok => word_load_iff.mpr ⟨h8, hok, rfl, rfl⟩
  · exact spells_of_when h (.inl rfl) rfl fun hok => word_load_iff.mpr ⟨h9, hok, rfl, rfl⟩
  · exact spells_of_when h (.inl rfl) rfl fun hok => word_load_iff.mpr ⟨hA, hok, rfl, rfl⟩
  · exact spells_of_when h (.inl rfl) rfl fun hok => word_load_iff.mpr ⟨hB, hok, rfl, rfl⟩
  · exact spells_of_when h (.inl rfl) rfl fun hok => word_accumulatorStore_iff.mpr ⟨hC, hok, rfl, rfl, rfl⟩
  · exact spells_of_when h (.inl rfl) rfl fun hok => word_accumulatorStore_iff.mpr ⟨hD, hok, rfl, rfl, rfl⟩
  · exact spells_of_when h (.inl rfl) rfl fun hok => word_accumulatorLoad_iff.mpr ⟨hE, hok, rfl, rfl⟩

theorem spells_of_accum (h : accum c n w = some i) : Spells w i := by
  unfold accum at h
  split_ifs at h with h0 h1 h2 h3 h4 h5 h6 h7 <;> subst n
  · exact spells_of_when h (.inl rfl) rfl fun hok => ⟨rfl, word_accumulator_iff.mpr ⟨h0, hok, rfl⟩⟩
  · exact spells_of_when h (.inl rfl) rfl fun hok => word_mac_iff.mpr ⟨h1, hok, rfl, rfl⟩
  · exact spells_of_when h (.inl rfl) rfl fun hok => word_mac_iff.mpr ⟨h2, hok, rfl, rfl⟩
  · exact spells_of_when h (.inl rfl) rfl fun hok => word_mac_iff.mpr ⟨h3, hok, rfl, rfl⟩
  · exact spells_of_when h (.inl rfl) rfl fun hok => ⟨rfl, word_accumulatorRegisters_iff.mpr ⟨h4, hok, rfl, rfl, rfl⟩⟩
  · exact spells_of_when h (.inl rfl) rfl fun hok => ⟨rfl, word_accumulatorRegisters_iff.mpr ⟨h5, hok, rfl, rfl, rfl⟩⟩
  · exact spells_of_when h (.inl rfl) rfl fun hok => ⟨rfl, word_accumulators_iff.mpr ⟨h6, hok, rfl, rfl⟩⟩
  · exact spells_of_when h (.inl rfl) rfl fun hok => ⟨rfl, word_accumulators_iff.mpr ⟨h7, hok, rfl, rfl⟩⟩

theorem spells_of_accum2 (h : accum2 c n w = some i) : Spells w i := by
  unfold accum2 at h
  split_ifs at h with h8 h9 hA hB hC hD <;> subst n
  · exact spells_of_when h (.inl rfl) rfl fun hok => word_shift_iff.mpr ⟨h8, hok, rfl, rfl⟩
  · exact spells_of_when h (.inl rfl) rfl fun hok => word_shift_iff.mpr ⟨h9, hok, rfl, rfl⟩
  · exact spells_of_when h (.inl rfl) rfl fun hok => ⟨rfl, word_accumulator_iff.mpr ⟨hA, hok, rfl⟩⟩
  · exact spells_of_when h (.inl rfl) rfl fun hok => ⟨rfl, word_accumulatorRegister_iff.mpr ⟨hB, hok, rfl, rfl⟩⟩
  · exact spells_of_when h (.inl rfl) rfl fun hok => word_narrowed_iff.mpr ⟨hC, hok, rfl, rfl, rfl⟩
  · exact spells_of_when h (.inl rfl) rfl fun hok => ⟨rfl, word_mask_iff.mpr ⟨hD, hok, rfl⟩⟩

end

theorem spells_of_decode (hw : w < 2 ^ 32) (h : decode c w = some i) : Spells w i := by
  have hn : w / 67108864 = w / 67108864 % 64 := by omega
  unfold decode at h
  dsimp only at h
  split_ifs at h
  · exact spells_of_control hn h
  · exact spells_of_move hn h
  · exact spells_of_arith hn h
  · exact spells_of_memory hn h
  · exact spells_of_accum hn h
  · exact spells_of_accum2 hn h

/-! ### The word of an instruction decodes to it -/

/-- The table of R284 at one opcode. -/
def decodeOp (c : Fin 32) (n w : Nat) : Option Instr :=
  if n < 0x08 then control c n w
  else if n < 0x10 then move c n w
  else if n < 0x18 then arith c n w
  else if n < 0x20 then memory c n w
  else if n < 0x28 then accum c n w
  else accum2 c n w

theorem decode_eq_decodeOp (hn : w / 67108864 = n) (hlt : n < 64) : decode c w = decodeOp c n w := by
  obtain rfl := hn
  unfold decode
  rw [Nat.mod_eq_of_lt hlt]
  rfl

theorem decode_of_table {b : Bool} (hn : w / 67108864 = n) (hlt : n < 64) (ht : decodeOp c n w = when b i) (hok : b = true) :
    decode c w = some i :=
  (decode_eq_decodeOp hn hlt).trans (ht.trans (when_eq_some_iff.mpr ⟨hok, rfl⟩))

theorem decode_of_encode (hi : coreInstr i = some c) (hcore : i.coreOk = true) (hw : encode i = some w) :
    decode c w = some i := by
  cases i with
  | nopInstr =>
    obtain rfl := Option.some.inj hi
    obtain ⟨hn, hok⟩ := (word_bare_iff (n := 0)).mp (Option.some.inj hw)
    exact decode_of_table hn (by decide) rfl hok
  | repeatI | dbnz | br =>
    obtain rfl := Option.some.inj hi
    obtain ⟨hn, hok, rfl⟩ := word_target_iff.mp (Option.some.inj hw)
    exact decode_of_table hn (by decide) rfl hok
  | setlc =>
    obtain rfl := Option.some.inj hi
    obtain ⟨hn, hok, rfl⟩ := word_count_iff.mp (Option.some.inj hw)
    exact decode_of_table hn (by decide) rfl hok
  | clrst =>
    obtain rfl := Option.some.inj hi
    obtain ⟨hn, hok, rfl⟩ := word_mask_iff.mp (Option.some.inj hw)
    exact decode_of_table hn (by decide) rfl hok
  | bcc =>
    obtain rfl := Option.some.inj hi
    obtain ⟨hn, hok, rfl, rfl⟩ := word_condition_iff.mp ⟨hcore, Option.some.inj hw⟩
    exact decode_of_table hn (by decide) rfl hok
  | setb =>
    obtain rfl := Option.some.inj hi
    obtain ⟨hn, hok, rfl, rfl⟩ := word_detector_iff.mp ⟨hcore, Option.some.inj hw⟩
    exact decode_of_table hn (by decide) rfl hok
  | movi | movhi | addi | cmpi =>
    obtain rfl := Option.some.inj hi
    obtain ⟨hn, hok, rfl, rfl⟩ := word_immediate_iff.mp (Option.some.inj hw)
    exact decode_of_table hn (by decide) rfl hok
  | movp | addp =>
    obtain rfl := Option.some.inj hi
    obtain ⟨hn, hok, rfl, rfl⟩ := word_pointerImmediate_iff.mp (Option.some.inj hw)
    exact decode_of_table hn (by decide) rfl hok
  | movm =>
    obtain rfl := Option.some.inj hi
    obtain ⟨hn, hok, rfl, rfl⟩ := word_modulo_iff.mp (Option.some.inj hw)
    exact decode_of_table hn (by decide) rfl hok
  | mov | movpd | movdp | cmpd =>
    obtain rfl := Option.some.inj hi
    obtain ⟨hn, hok, rfl, rfl⟩ := word_registers2_iff.mp (Option.some.inj hw)
    exact decode_of_table hn (by decide) rfl hok
  | add | sub =>
    obtain rfl := Option.some.inj hi
    obtain ⟨hn, hok, rfl, rfl, rfl⟩ := word_registers3_iff.mp (Option.some.inj hw)
    exact decode_of_table hn (by decide) rfl hok
  | cmpa | addAcc | subAcc =>
    obtain rfl := Option.some.inj hi
    obtain ⟨hn, hok, rfl, rfl⟩ := word_accumulators_iff.mp (Option.some.inj hw)
    exact decode_of_table hn (by decide) rfl hok
  | cmpad | mova =>
    obtain rfl := Option.some.inj hi
    obtain ⟨hn, hok, rfl, rfl⟩ := word_accumulatorRegister_iff.mp (Option.some.inj hw)
    exact decode_of_table hn (by decide) rfl hok
  | ld | ldw | st | stw =>
    obtain rfl := Option.some.inj hi
    obtain ⟨hn, hok, rfl, rfl⟩ := word_load_iff.mp ⟨hcore, Option.some.inj hw⟩
    exact decode_of_table hn (by decide) rfl hok
  | sta | staw =>
    obtain rfl := Option.some.inj hi
    obtain ⟨hn, hok, rfl, rfl, rfl⟩ := word_accumulatorStore_iff.mp ⟨hcore, Option.some.inj hw⟩
    exact decode_of_table hn (by decide) rfl hok
  | lda =>
    obtain rfl := Option.some.inj hi
    obtain ⟨hn, hok, rfl, rfl⟩ := word_accumulatorLoad_iff.mp ⟨hcore, Option.some.inj hw⟩
    exact decode_of_table hn (by decide) rfl hok
  | clr | absA =>
    obtain rfl := Option.some.inj hi
    obtain ⟨hn, hok, rfl⟩ := word_accumulator_iff.mp (Option.some.inj hw)
    exact decode_of_table hn (by decide) rfl hok
  | mac | msu | mac2 =>
    obtain rfl := Option.some.inj hi
    obtain ⟨hn, hok, rfl, rfl⟩ := word_mac_iff.mp ⟨hcore, Option.some.inj hw⟩
    exact decode_of_table hn (by decide) rfl hok
  | macd | msud =>
    obtain rfl := Option.some.inj hi
    obtain ⟨hn, hok, rfl, rfl, rfl⟩ := word_accumulatorRegisters_iff.mp (Option.some.inj hw)
    exact decode_of_table hn (by decide) rfl hok
  | shr | shl =>
    obtain rfl := Option.some.inj hi
    obtain ⟨hn, hok, rfl, rfl⟩ := word_shift_iff.mp ⟨hcore, Option.some.inj hw⟩
    exact decode_of_table hn (by decide) rfl hok
  | movd =>
    obtain rfl := Option.some.inj hi
    obtain ⟨hn, hok, rfl, rfl, rfl⟩ := word_narrowed_iff.mp ⟨hcore, Option.some.inj hw⟩
    exact decode_of_table hn (by decide) rfl hok
  | _ => cases hi

end

end Sys2Proof.Zc

namespace Sys2Proof.Machine

open Sys2Proof Sys2Proof.Zc

/-- Settles O3: the word of an instruction decodes to it format by format, and what a word decodes to has that word opcode by
opcode. -/
theorem coreDecodeOfEncode : Obligations.CoreDecodeOfEncode := by
  unfold Obligations.CoreDecodeOfEncode
  refine ⟨?decodes, fun c w i hw h => spells_of_decode hw h⟩
  case decodes =>
    intro i c w hwf hi hw
    have hcore : i.coreOk = true := (wellFormed_eq_coreOk hi).symm.trans hwf
    obtain hi | rfl := hi
    · exact decode_of_encode hi hcore hw
    · obtain ⟨hn, hok⟩ := word_bare_iff.mp (Option.some.inj hw)
      exact decode_of_table hn (by decide) rfl hok

/-- Settles O2: each word by computation. -/
theorem coreWordsDecode : Obligations.CoreWordsDecode := by
  unfold Obligations.CoreWordsDecode
  decide

end Sys2Proof.Machine
end

section
/-! PROOFS. What each zone-core instruction does when its turn has come (O4 to O11) and how a pointer wraps (O14): an
instruction comes to the core that its row names, then to what every instruction does last. -/

namespace Sys2Proof.Machine

open Sys2Proof

/-! ### Rows of instructions whose turn has come -/

section
variable {c : Fin 32} {i : Instr} {s : State} {x : Core}

theorem stepData_ranTo {cost : Core → Nat} {f : Core → Core} {n : Nat} (h : Runs c i s) (hx : f (core s c.val) = x)
    (hn : cost (core s c.val) = n) : RanTo c s (stepData c i cost f s) x n := by
  subst hx hn
  exact congrArg _ (if_pos h)

theorem stepControl_wentTo {f : Core → Core} (h : Runs c i s) (hx : f (core s c.val) = x) :
    WentTo c s (stepControl c i f s) x := by
  subst hx
  exact congrArg _ (if_pos h)

end

/-! ### The status register (R279, R285) -/

theorem getLsbD_twoPow16 {i : Nat} (hi : i < 16) (k : Nat) : (BitVec.ofNat 16 (2 ^ i)).getLsbD k = decide (k = i) := by
  rw [BitVec.getLsbD_ofNat, Nat.testBit_two_pow]
  by_cases hk : k = i
  · simp [hk, hi]
  · simp [hk, Ne.symm hk]

theorem getLsbD_stBit (st : U16) {i : Nat} (hi : i < 16) (b : Bool) (k : Nat) :
    (stBit st i b).getLsbD k = if k = i then b else st.getLsbD k := by
  have hset : (stBit st i true).getLsbD k = (st.getLsbD k || decide (k = i)) := by
    rw [← getLsbD_twoPow16 hi, ← BitVec.getLsbD_or]
    rfl
  have hclear : (stBit st i false).getLsbD k = (st.getLsbD k && (decide (k < 16) && !decide (k = i))) := by
    rw [← getLsbD_twoPow16 hi, ← BitVec.getLsbD_not, ← BitVec.getLsbD_and]
    rfl
  have hwidth : 16 ≤ k → st.getLsbD k = false := BitVec.getLsbD_of_ge st k
  cases b
  case false =>
    rw [hclear]
    by_cases hk : k = i
    · simp [hk]
    · by_cases hk16 : k < 16
      · simp [hk, hk16]
      · simp [hk, hwidth (not_lt.mp hk16)]
  case true =>
    rw [hset]
    by_cases hk : k = i <;> simp [hk]

/-- The bits that a compare leaves: its own three, and the others as they were. -/
theorem getLsbD_stCompare (st : U16) (u v : Int) :
    (stCompare st u v).getLsbD 5 = decide (u < v) ∧ (stCompare st u v).getLsbD 6 = decide (u = v) ∧
      (stCompare st u v).getLsbD 7 = decide (v < u) ∧
      ∀ k, k ≠ 5 → k ≠ 6 → k ≠ 7 → (stCompare st u v).getLsbD k = st.getLsbD k := by
  have hbits (k : Nat) : (stCompare st u v).getLsbD k =
      if k = 7 then decide (v < u) else if k = 6 then decide (u = v) else if k = 5 then decide (u < v) else st.getLsbD k := by
    unfold stCompare
    rw [getLsbD_stBit _ (by decide), getLsbD_stBit _ (by decide), getLsbD_stBit _ (by decide)]
  refine ⟨hbits 5, hbits 6, hbits 7, fun k h5 h6 h7 => ?_⟩
  rw [hbits k, if_neg h7, if_neg h6, if_neg h5]

/-- `OV` of R285 is any of the four `ACC_OV` bits. -/
theorem accOv_eq (st : U16) : decide (st.extractLsb' 0 4 ≠ 0#4) =
    (st.getLsbD 0 || st.getLsbD 1 || st.getLsbD 2 || st.getLsbD 3) := by
  have hany : ∀ v : BitVec 4, decide (v ≠ 0#4) = (v.getLsbD 0 || v.getLsbD 1 || v.getLsbD 2 || v.getLsbD 3) := by decide
  rw [hany]
  simp only [BitVec.getLsbD_extractLsb', Nat.zero_add]
  rfl

theorem getLsbD_clear (st : U16) (mask : BitVec 5) (k : Nat) :
    (st &&& ~~~(mask.zeroExtend 16)).getLsbD k = (st.getLsbD k && !mask.getLsbD k) := by
  rw [BitVec.getLsbD_and, BitVec.getLsbD_not, BitVec.zeroExtend, BitVec.getLsbD_setWidth]
  by_cases hk : k < 16
  · simp [hk]
  · simp [BitVec.getLsbD_of_ge st k (not_lt.mp hk)]

/-! ### Operands of a `mac2` (R281) -/

/-- The second halfword lies one on in the direction of the modify, forward where there is none. -/
theorem secondStep_eq (k : BitVec 2) : (if modDir k = 0 then 1 else modDir k) = if k = 2 then -1 else (1 : Int) := by
  revert k
  decide

theorem Core.product2_eq (x : Core) (m : MacOp) : x.product2 m =
    (Memory.half (x.space false) (x.addr (x.ptrAt m.px (if m.xmod = 2 then -1 else 1)))).toInt *
      (Memory.half (x.space true) (x.addr (x.ptrAt m.py (if m.ymod = 2 then -1 else 1)))).toInt := by
  rw [← secondStep_eq, ← secondStep_eq]
  rfl

/-! ### Buffers (R281) -/

/-- A buffer's length lies within the power of two that its base is a multiple of. -/
theorem le_two_pow_clog2 (m : Nat) : m ≤ 2 ^ clog2 m := by
  unfold clog2
  split
  · omega
  · have := Nat.lt_log2_self (n := m - 1)
    omega

theorem clog2_le {m n : Nat} (hm : m ≤ 2 ^ n) : clog2 m ≤ n := by
  unfold clog2
  split
  · exact Nat.zero_le n
  · exact (Nat.log2_lt (by omega)).mpr (by omega)

/-- A block of `2 ^ k` halfwords that begins below `2 ^ n` ends at or below it. -/
theorem block_end_le {p k n : Nat} (hp : p < 2 ^ n) (hk : k ≤ n) : p / 2 ^ k * 2 ^ k + 2 ^ k ≤ 2 ^ n := by
  have hn : 2 ^ (n - k) * 2 ^ k = 2 ^ n := by rw [← Nat.pow_add, Nat.sub_add_cancel hk]
  have hq : p / 2 ^ k < 2 ^ (n - k) := (Nat.div_lt_iff_lt_mul (Nat.two_pow_pos k)).mpr (hn.symm ▸ hp)
  calc p / 2 ^ k * 2 ^ k + 2 ^ k = (p / 2 ^ k + 1) * 2 ^ k := (Nat.succ_mul _ _).symm
    _ ≤ 2 ^ (n - k) * 2 ^ k := Nat.mul_le_mul_right _ hq
    _ = 2 ^ n := hn

/-- Where a pointer with a buffer comes to: the base, and the distance modulo the length. -/
theorem wrapPtr_toNat {p : BitVec 14} {m : Nat} {s : Int} (hm : 0 < m) (hmax : m < 2 ^ 14) :
    let b := p.toNat / 2 ^ clog2 m * 2 ^ clog2 m
    ((wrapPtr p m s).toNat : Int) = b + ((p.toNat : Int) - b + s) % m := by
  intro b
  have hb : b ≤ p.toNat := Nat.div_mul_le_self _ _
  have hend : b + 2 ^ clog2 m ≤ 2 ^ 14 := block_end_le p.isLt (clog2_le hmax.le)
  have hlen : m ≤ 2 ^ clog2 m := le_two_pow_clog2 m
  have hpos : 0 ≤ ((p.toNat : Int) - b + s) % m := Int.emod_nonneg _ (by omega)
  have hlt : ((p.toNat : Int) - b + s) % m < m := Int.emod_lt_of_pos _ (by omega)
  have hwrap : wrapPtr p m s = BitVec.ofNat 14 (b + ((p.toNat : Int) - b + s) % m).toNat := by
    unfold wrapPtr
    rw [if_neg (by omega), ← Nat.cast_sub hb]
    rfl
  generalize ((p.toNat : Int) - b + s) % m = r at hpos hlt hwrap ⊢
  have hfit : (b + r).toNat < 2 ^ 14 := by omega
  rw [hwrap, BitVec.toNat_ofNat, Nat.mod_eq_of_lt hfit]
  omega

/-- Settles O14: the distance modulo the length is what is left of the buffer's length. -/
theorem pointerWraps : Obligations.PointerWraps := by
  unfold Obligations.PointerWraps
  intro p m s hm hmax b
  have hpos : 0 ≤ ((p.toNat : Int) - b + s) % m := Int.emod_nonneg _ (by omega)
  have hlt : ((p.toNat : Int) - b + s) % m < m := Int.emod_lt_of_pos _ (by omega)
  have hat : ((wrapPtr p m s).toNat : Int) = b + ((p.toNat : Int) - b + s) % m := wrapPtr_toNat hm hmax
  generalize ((p.toNat : Int) - b + s) % m = r at hpos hlt hat ⊢
  exact ⟨by omega, by omega, hat⟩

/-! ### The instructions of R284 -/

/-- Settles O4: each form writes its destination. -/
theorem coreMoves : Obligations.CoreMoves := by
  unfold Obligations.CoreMoves
  intro c s d e p q m a imm imm14 x
  and_intros
  all_goals
    intro h
    unfold exec
    exact stepData_ranTo h rfl rfl

/-- Settles O5: the sum and the difference are those of 32-bit words, the pointer's that of R281. -/
theorem coreArithmetic : Obligations.CoreArithmetic := by
  unfold Obligations.CoreArithmetic
  intro c s d e f p imm imm14 x
  and_intros
  all_goals
    intro h
    unfold exec
    exact stepData_ranTo h rfl rfl

/-- Settles O6: each compare leaves the bits of `stCompare`. -/
theorem coreCompares : Obligations.CoreCompares := by
  unfold Obligations.CoreCompares
  intro c s d e a b imm x flags3
  and_intros
  all_goals
    intro h
    unfold exec
    exact ⟨_, stepData_ranTo h rfl rfl, getLsbD_stCompare x.st _ _⟩

/-- Settles O7: the operand is read as addressed before the pointer is modified. -/
theorem coreLoads : Obligations.CoreLoads := by
  unfold Obligations.CoreLoads
  intro c s d a m x half word
  and_intros
  all_goals
    intro h
    unfold exec
    exact stepData_ranTo h rfl rfl

/-- Settles O8: a store costs what its mode says; an accumulator is narrowed first. -/
theorem coreStores : Obligations.CoreStores := by
  unfold Obligations.CoreStores
  intro c s d a sh m x cycles v sat
  and_intros
  all_goals
    intro h
    unfold exec
    exact stepData_ranTo h rfl rfl

/-- Settles O9: an accumulator takes the exact result, limited; the second product and the absolute value are written as R284
does. -/
theorem coreAccumulates : Obligations.CoreAccumulates := by
  unfold Obligations.CoreAccumulates
  intro c s d e a b sh m x A put at_ prod dir prod2 reg moved
  have hmac2 : (x.setAcc a (A + (x.product m + x.product2 m))).macModify m 2 = moved 2 (put (A + (prod + prod2))) := by
    rw [x.product2_eq]
    rfl
  have habs : x.setAcc a (A.natAbs : Int) = put |A| := by
    rw [← Int.abs_eq_natAbs]
    rfl
  refine ⟨?mac, ?msu, ?mac2, ?macd, ?msud, ?add, ?sub, ?shr, ?shl, ?abs⟩
  case mac2 =>
    intro h
    unfold exec
    exact stepData_ranTo h hmac2 rfl
  case abs =>
    intro h
    unfold exec
    exact stepData_ranTo h habs rfl
  all_goals
    intro h
    unfold exec
    exact stepData_ranTo h rfl rfl

/-- Settles O10: each control instruction sets the program counter itself; `dbnz` branches while the count left is not 0. -/
theorem coreControl : Obligations.CoreControl := by
  unfold Obligations.CoreControl
  intro c s n t b cond mask x jump
  have hleft : decide (x.lc - 1 ≠ 0) = decide (x.lc ≠ 1) := decide_eq_decide.mpr (by bv_omega)
  have hdbnz : { x with lc := x.lc - 1 }.branch (x.lc - 1 ≠ 0) t = jump { x with lc := x.lc - 1 } (x.lc ≠ 1) := by
    rw [hleft]
    rfl
  refine ⟨?repeats, ?dbnz, ?br, ?bcc, ?setb, ?clrst, fun h => congrArg _ (if_pos h)⟩
  case dbnz =>
    intro h
    unfold exec
    exact stepControl_wentTo h hdbnz
  case setb =>
    intro h
    unfold exec
    refine ⟨_, stepData_ranTo h rfl rfl, ?_, fun k hk => ?_⟩
    · rw [getLsbD_stBit _ (by omega), if_pos rfl]
    · rw [getLsbD_stBit _ (by omega), if_neg hk]
  case clrst =>
    intro h
    unfold exec
    exact ⟨_, stepData_ranTo h rfl rfl, getLsbD_clear x.st mask⟩
  all_goals
    intro h
    unfold exec
    exact stepControl_wentTo h rfl

/-- Settles O11: the conditions by the code; a branch goes where its condition says, `setb` writes what it says. -/
theorem conditions : Obligations.Conditions := by
  unfold Obligations.Conditions
  refine ⟨?codes, ?uses⟩
  case codes =>
    intro st LT EQ GT OV
    have hov : decide (st.extractLsb' 0 4 ≠ 0#4) = OV := accOv_eq st
    exact ⟨rfl, rfl, rfl, rfl, rfl, rfl, hov, congrArg Bool.not hov, rfl, rfl⟩
  case uses =>
    intro c b t cond s x
    refine ⟨fun hmin hmax => ?reserved, fun h => ?branches, fun h => ?writes⟩
    case reserved =>
      have hcond : condListed cond = false := by
        simp only [condListed, Bool.or_eq_false_iff, decide_eq_false_iff_not, beq_eq_false_iff_ne]
        omega
      exact ⟨(Zc.wellFormed_eq_coreOk (c := c) (.inl rfl)).trans hcond,
        (Zc.wellFormed_eq_coreOk (c := c) (.inl rfl)).trans hcond⟩
    case branches =>
      unfold exec
      refine ⟨_, stepControl_wentTo h rfl, ?_⟩
      unfold Core.branch
      split <;> rfl
    case writes =>
      unfold exec
      refine ⟨_, stepData_ranTo h rfl rfl, ?_⟩
      rw [getLsbD_stBit _ (by omega), if_pos rfl]

end Sys2Proof.Machine
end

section
/-! PROOFS. Counterexamples of the zone cores (O12, O13, O24), each a state that the model evaluates. -/

namespace Sys2Proof.Machine

open Sys2Proof

/-! ### The end of a repeat begins the next invocation (R288, R303)

A recovery waits for a repeat in progress. The instruction that ends the repeat also discards the invocation, and a sample that
has come meanwhile has its input window set in the same row. -/

/-- A zone-sample of value 1. -/
def windowSample : Sample := { ctx := 0, seq := 0, zone := 0, value := 1, flag := 0, skipped := false }

/-- A binding with a history of one halfword, at address 0 of X. -/
def windowBinding : Binding :=
  { ctx := 0, entry := 0, mask := 1, budget := 1, histLen := 1, histBase := 0, stateBase := 0, stateLen := 0, histY := false,
    stateY := false, pos := 0, size := 1, nLocal := 1 }

/-- Core 0 before the last execution of a repeated `nop`: a recovery waits for it, and the next sample has come. -/
def repeatEnding : State :=
  modCore 0 (fun _ => { state := .running, rep := 1, inv := some windowSample, dropDue := true, buffer := [windowSample],
                        bindings := [windowBinding] }) State.reset

/-- Refutes O12: the `nop` that ends the repeat leaves the binding with a history place, as the next invocation has begun. -/
theorem not_coreFrame : ¬ Obligations.CoreFrame := by
  unfold Obligations.CoreFrame
  rintro ⟨hframe, -⟩
  obtain ⟨-, -, -, hbindings⟩ := hframe (.nopInstr 0) 0 repeatEnding _ rfl rfl
  exact absurd hbindings (by decide +kernel)

/-- Refutes O13: that `nop` stores nothing, yet the next invocation's sample stands in X as its history. -/
theorem not_coreMemoryFrame : ¬ Obligations.CoreMemoryFrame := by
  unfold Obligations.CoreMemoryFrame
  intro hframe
  obtain ⟨-, hx, -⟩ := hframe (.nopInstr 0) 0 repeatEnding _ rfl rfl
  exact absurd hx (by decide +kernel)

/-! ### A stop that evaluates a waiting line moves the clock (R126, R209, R308)

A DAS position is decided 700 ns after its zone's last sample. A `CORE_STOP` before that evaluates the line without its bits, the
decision takes the clock to its own instant, and a halt at another context's point falls due as counted from there. -/

/-- Settings of one zone of a source, with `PERSIST` 1. -/
def oneZone (source : Nat) : List Byte := le1 source ++ zeros 2 ++ le1 1 ++ zeros 4 ++ le4 1 ++ zeros 52

/-- A running core that serves a context alone. -/
def coreServing (k : Nat) : Core :=
  { state := .running, bindings := [{ windowBinding with ctx := k, mask := BitVec.ofNat 32 (2 ^ k) }] }

/-- A DAS line of one zone, launched at 0, that waits for the zone's bits; any bits match the pattern. -/
def openJob : CtxJob :=
  { line := { seq := 0, at_ := 0, dev := 0, epoch := 1, lag := 700000, slot := 0, desc := [], values := [0], flags := [0],
              nfRel := 1, excTo := 0, skipped := false, gate := true },
    bits := [none] }

/-- 500 ns after the last launch: context 0 on core 0 has its line open, context 1 on core 1 is armed on an auxiliary channel. -/
def stopping : State :=
  { State.reset with
    now := 500000, power.mode := .warm,
    aux.chans := vset State.reset.aux.chans 0 { enabled := true, cfg := zeros 16 },
    cores := vset (vset State.reset.cores 0 (coreServing 0)) 1 (coreServing 1),
    ctxs := vset (vset State.reset.ctxs 0 { cfg := oneZone 1, patW := 1, state := .armed, lines := 1, jobs := [openJob] })
      1 { cfg := oneZone 3, patW := 1, state := .armed } }

/-- `CORE_STOP` of cores 0 and 1 whatever they serve. -/
def stopRequest : Req :=
  { src := .pcie 0, at_ := 500000, tag := 1, seq := 1, flags := 0, target := 0, rsv := 0, replyTo := 0,
    payload := le4 1 ++ le4 3 }

/-- When the points of context 1 fall due. -/
def pointsDue : Res → List Ps
  | .next t => (ctx t 1).points.map (·.due)
  | _ => []

theorem ready_stopRequest : Ready coreStopSpec stopRequest stopping := by decide +kernel

/-- The point falls due 25 us after the decision, 25.2 us after the command. -/
theorem pointsDue_stopRequest : pointsDue (exec (.coreStop stopRequest) stopping) = [700000 + Config.leadTime] := by
  decide +kernel

/-- Refutes O24: in its answer to the stop the point falls due 25 us after the command, as if the clock had stood still. -/
theorem not_coreCommands : ¬ Obligations.CoreCommands := by
  unfold Obligations.CoreCommands
  intro hcommands
  obtain ⟨-, -, hstop, -⟩ := hcommands stopRequest stopping
  have hstated := hstop ready_stopRequest (by decide +kernel) (by decide +kernel) (by decide +kernel) (by decide +kernel)
    (.inr (by decide +kernel))
  have hdue := pointsDue_stopRequest
  rw [hstated] at hdue
  exact absurd hdue (by decide +kernel)

end Sys2Proof.Machine
end

section
/-! PROOFS. What happens to a zone core (O43): samples, cuts, deadlines, parity errors, retirement and moves (R292 to R301). -/

namespace Sys2Proof.Machine

open Sys2Proof

section
variable {c : Fin 32} {k : Fin 256} {s : State} {t : Ps}

/-! ### Samples and cuts (R292, R295) -/

theorem execZoneSampleToCore_room {m : Sample} {rest : List Sample} (hbus : (core s c.val).bus = m :: rest)
    (hroom : (core s c.val).buffer.length < 64) :
    execZoneSampleToCore c s =
      .next (startNext c.val (modCore c.val (fun y => { y with bus := rest, buffer := y.buffer ++ [m] }) s)) := by
  unfold execZoneSampleToCore
  dsimp only
  rw [hbus]
  exact congrArg _ (if_pos hroom)

theorem execZoneSampleToCore_full {m : Sample} {rest : List Sample} (hbus : (core s c.val).bus = m :: rest)
    (hfull : 64 ≤ (core s c.val).buffer.length) :
    execZoneSampleToCore c s =
      .next (deliver m 0 (modCore c.val (fun y => { y with bus := rest, inDrop := satInc y.inDrop }) s)) := by
  unfold execZoneSampleToCore
  dsimp only
  rw [hbus]
  exact congrArg _ (if_neg (not_lt.mpr hfull))

/-- An invocation whose budget is spent: counted, its place noted, and told of. -/
def overrun (x : Core) : Core := { x with overruns := satInc x.overruns, lastOverPc := x.pc, overTold := true }

theorem execCoreBudgetCut_spent {m : Sample} (hinv : (core s c.val).inv = some m) (hrep : (core s c.val).rep = 0)
    (hspent : (core s c.val).budget ≤ (core s c.val).cycles) :
    execCoreBudgetCut c s = .next (endInv c.val 0 false
      (if (core s c.val).overTold = true then modCore c.val overrun s
        else raise { code := 0x0604, unit := c.val, a0 := (core s c.val).pc.toNat, a1 := (core s c.val).ctx0 }
          (modCore c.val overrun s))) := by
  have hcut : ¬ (decide ((core s c.val).rep ≠ 0) || decide ((core s c.val).cycles < (core s c.val).budget)) = true := by
    simpa [hrep] using hspent
  unfold execCoreBudgetCut
  dsimp only
  rw [hinv]
  exact congrArg _ (if_neg hcut)

/-! ### Deadlines (R298) -/

/-- The zone of a line's first missing bits, if any is missing. -/
def CtxJob.missing (j : CtxJob) : Option Nat :=
  (List.range j.bits.length).find? (fun r => (j.bits[r]?).getD none = none)

theorem CtxJob.missing_none {j : CtxJob} (h : ∀ r < j.bits.length, (j.bits[r]?).getD none ≠ none) : j.missing = none := by
  unfold CtxJob.missing
  rw [List.find?_eq_none]
  simpa using h

/-- The state after the deadline of a line's zone: the core that owes its bits counts it late. -/
def deadlineCounted (k : Nat) (j : CtxJob) (r : Nat) (s : State) : State :=
  match coreAt s k (r % (groupOf s k).length) with
  | some d => markLate d k j.line.seq r s
  | none => s

theorem execCoreDeadline_missing {j : CtxJob} {rest : List CtxJob} {r : Nat} (hjobs : (ctx s k.val).jobs = j :: rest)
    (hr : j.missing = some r) :
    execCoreDeadline k s = .next (flushAlarms (finishJobs (rest.length + 2) k.val (modCtx k.val (fun y => { y with
      jobs := { j with bits := j.bits.set r (some 0) } :: rest }) (deadlineCounted k.val j r s)))) := by
  unfold CtxJob.missing at hr
  unfold execCoreDeadline
  rw [hjobs]
  dsimp only
  rw [hr]
  rfl

theorem execCoreDeadline_complete {j : CtxJob} {rest : List CtxJob} (hjobs : (ctx s k.val).jobs = j :: rest)
    (hnone : j.missing = none) : execCoreDeadline k s = .next s := by
  unfold CtxJob.missing at hnone
  unfold execCoreDeadline
  rw [hjobs]
  dsimp only
  rw [hnone]

theorem execCoreDeadline_oldest {d : Nat} {m : Sample} (hjobs : (ctx s k.val).jobs = [])
    (hold : oldestSample s k.val = some (d, m)) : execCoreDeadline k s = .next (markLate d k.val m.seq m.zone s) := by
  unfold execCoreDeadline
  rw [hjobs]
  dsimp only
  rw [hold]

theorem execCoreDeadline_idle (hjobs : (ctx s k.val).jobs = []) (hold : oldestSample s k.val = none) :
    execCoreDeadline k s = .next s := by
  unfold execCoreDeadline
  rw [hjobs]
  dsimp only
  rw [hold]

theorem late_markLate (j q r : Nat) : (core (markLate c.val j q r s) c.val).late = satInc (core s c.val).late :=
  congrArg Core.late (vget_vmod_same _ _ _ c.isLt)

/-! ### Moves (R301) -/

theorem execCoreMoveStart_due {b : Ps} (hback : (core s c.val).backAt = some b) (hstopped : (core s c.val).state = .stopped)
    (hbound : (core s c.val).bindings ≠ []) (hdue : b ≤ (s.adv t).now) :
    execCoreMoveStart t c s =
      .next (modCore c.val (fun y => { y.clearRegs with state := .running, backAt := none }) (s.adv t)) := by
  have hback' : (core (s.adv t) c.val).backAt = some b := hback
  have hgoes : (decide ((core s c.val).state = .stopped) && !(core s c.val).bindings.isEmpty &&
      decide (b ≤ (s.adv t).now)) = true := by
    simpa [hstopped, hbound] using hdue
  unfold execCoreMoveStart
  dsimp only
  rw [hback']
  exact congrArg _ (if_pos hgoes)

theorem execCoreMoveStart_unbound (hbound : (core s c.val).bindings = []) : execCoreMoveStart t c s = .next (s.adv t) := by
  have hbound' : (core (s.adv t) c.val).bindings = [] := hbound
  unfold execCoreMoveStart
  dsimp only
  rw [hbound']
  split
  · exact congrArg _ (if_neg (by simp))
  · rfl

end

/-- Settles O43: each row by the case its hypotheses name. -/
theorem zoneCoreEvents : Obligations.ZoneCoreEvents := by
  unfold Obligations.ZoneCoreEvents
  intro t c k a s u x
  refine ⟨fun m rest => execZoneSampleToCore_room, fun m rest => execZoneSampleToCore_full, fun m => execCoreBudgetCut_spent,
    ?deadline, fun d m => execCoreDeadline_oldest, late_markLate k.val, ?nothing, ?instruction, ?data, ?retired,
    fun b => execCoreMoveStart_due, execCoreMoveStart_unbound⟩
  case deadline =>
    intro j rest r hjobs hr
    refine ⟨deadlineCounted k.val j r s, execCoreDeadline_missing hjobs hr, fun hnone => ?_, fun d hsome => ?_⟩
    · unfold deadlineCounted
      rw [hnone]
    · unfold deadlineCounted
      rw [hsome]
  case nothing =>
    rintro (⟨hjobs, hold⟩ | ⟨j, rest, hjobs, hin⟩)
    · exact execCoreDeadline_idle hjobs hold
    · exact execCoreDeadline_complete hjobs (CtxJob.missing_none hin)
  case instruction => exact fun hfitted => congrArg _ (if_neg hfitted)
  case data => exact fun hfitted => congrArg _ (if_neg hfitted)
  case retired =>
    intro hdue hfitted
    have hretires : (x.retireDue && decide (x.state ≠ .retired)) = true := by simp [hdue, hfitted]
    exact congrArg _ (if_pos hretires)

end Sys2Proof.Machine
end

section
/-! PROOFS. Streams and bulk loads as the host asks for them (O25). Built on Laws/Command.lean. -/

namespace Sys2Proof.Machine

open Sys2Proof

section
variable {f : Fetched} {s : State}

/-! ### STREAM_CFG (R320, R321, R341) -/

/-- The answer of a `STREAM_CFG` that leaves the device so. -/
def streamCfgAnswer (k : Nat) (t : State) : Ans := { status := St.ok, st := t, payload := streamReply k t }

/-- A configuration accepted: it takes effect at once, or once a save inside a line is coded (R326). -/
def streamConfigured (k : Nat) (p : List Byte) (s : State) : State :=
  if (stream s k).owed.isSome = true then modStream k (fun x => { x with renew := x.renew ++ [p] }) s
  else forwardSync (streamStopped k (modStream k (configure p) s))

/-- A stream that was not configured, or was paused, starts anew; any other goes on with its new settings. -/
theorem configure_eq (p : List Byte) : configure p = fun x => { newCfg p x with
    paused := false, resync := x.resync || !x.configured || x.paused,
    resumed := x.resumed && !(!x.configured || x.paused),
    resumeAt := if (!x.configured || x.paused) = true then none else x.resumeAt } := by
  funext x
  rw [Bool.or_assoc]
  rfl

theorem cmdStreamCfg_reads (haction : fld f.payload 0 1 = 0) (hform : streamForm f.payload = true) :
    cmdStreamCfg f s = streamCfgAnswer f.target.toNat s := by
  unfold cmdStreamCfg
  simp only [haction]
  exact checked_ok (by simp [hform])

theorem cmdStreamCfg_configures (haction : fld f.payload 0 1 = 1) (hform : streamForm f.payload = true)
    (hruns : streamRuns s f.target.toNat = false ∨
      cfgSame (newCfg f.payload (stream s f.target.toNat)) (stream s f.target.toNat) = true)
    (hgood : streamBad f.target.toNat (f.target.toNat < 256 && (ctx s f.target.toNat).source = 1)
      (newCfg f.payload (stream s f.target.toNat)) = false) :
    cmdStreamCfg f s = streamCfgAnswer f.target.toNat (streamConfigured f.target.toNat f.payload s) := by
  have hfree : (streamRuns s f.target.toNat &&
      !cfgSame (newCfg f.payload (stream s f.target.toNat)) (stream s f.target.toNat)) = false := by
    simpa [or_iff_not_imp_left] using hruns
  unfold cmdStreamCfg
  simp only [haction]
  refine (checked_ok ?_).trans rfl
  simp [hfree, hform, hgood]

theorem cmdStreamCfg_clears (haction : fld f.payload 0 1 = 2) (hform : streamForm f.payload = true)
    (hruns : streamRuns s f.target.toNat = false) :
    cmdStreamCfg f s =
      streamCfgAnswer f.target.toNat (forwardSync (modStream f.target.toNat Stream.bare s)) := by
  unfold cmdStreamCfg
  simp only [haction]
  refine (checked_ok ?_).trans rfl
  simp [hform, hruns]

/-! ### STREAM_SAVE (R326, R342) -/

theorem checked_streamSave (hkind : f.target.toNat ≠ 257) (hruns : streamRuns s f.target.toNat = true) (k : Unit → Ans) :
    checked [(f.target.toNat = 257 || !streamRuns s f.target.toNat, St.wrongMode)] s k = k () :=
  checked_ok (by simp [hkind, hruns])

/-- Between lines the block in progress is closed, and the stream paused. -/
theorem cmdStreamSave_closes (hkind : f.target.toNat ≠ 257) (hruns : streamRuns s f.target.toNat = true)
    (hline : lineInProgress s f.target.toNat = none) :
    let v := closeBlock f.target.toNat s
    cmdStreamSave f s =
      { status := St.ok,
        st := (modStream f.target.toNat
          (fun x => { x with paused := true, saved := some (x.lineSeq.toNat, x.secs, x.tick) }) v).took,
        payload := withCrc (coderState f.target.toNat (savedAt (stream v f.target.toNat)) v) } := by
  unfold cmdStreamSave
  refine (checked_streamSave hkind hruns _).trans ?_
  rw [hline]

/-- Inside a line the stream is paused, and owes the values of the line that have come. -/
theorem cmdStreamSave_owes {line units : Nat} (hkind : f.target.toNat ≠ 257) (hruns : streamRuns s f.target.toNat = true)
    (hline : lineInProgress s f.target.toNat = some (line, units)) :
    cmdStreamSave f s =
      { status := St.ok,
        st := (modStream f.target.toNat (fun x => { x with paused := true, owed := some (line, units) }) s).took,
        payload := withCrc (coderState f.target.toNat (savedIn (stream s f.target.toNat) line units) s) } := by
  unfold cmdStreamSave
  refine (checked_streamSave hkind hruns _).trans ?_
  rw [hline]

/-! ### STREAM_RESTORE (R327, R343) -/

/-- The first line that a restored stream codes: its context's next, or one of stream 0x0100 after the lead time. -/
def restoreWhen (k : Nat) (s : State) : CtxWhen :=
  if k < 256 then ctxWhen s (ctx s k) else { due := s.now + Config.leadTime, count := 2 ^ 64 - 1, settle := none }

/-- A stream that goes on from a saved coder state at an instant. -/
def Stream.restored (p : List Byte) (due : Ps) (x : Stream) : Stream :=
  { x with
    paused := false, resync := false, resumed := true, resumeAt := some due, carry := 0, longRun := false,
    nextSeq := BitVec.ofNat 32 (fld p 4 4) + 1, drops := BitVec.ofNat 32 (fld p 16 4),
    secs := if x.paused = true then x.secs else x.secsAfter (fld p 8 4) }

theorem cmdStreamRestore_restores (hruns : streamRuns s f.target.toNat = false) (hkind : f.target.toNat ≠ 257)
    (hconfig : (stream s f.target.toNat).configured = true) (hversion : fld f.payload 0 1 = 1)
    (htarget : fld f.payload 2 2 = f.target.toNat)
    (hcoding : fld f.payload 1 1 = if codesRle s f.target.toNat then 1 else 2)
    (hfirst : fld f.payload 24 4 = (streamSpan s f.target.toNat).1)
    (hcount : fld f.payload 28 4 = (streamSpan s f.target.toNat).2)
    (hcrc : fld f.payload 60 4 = (crc32c (f.payload.take 60)).toNat) :
    let w := restoreWhen f.target.toNat s
    cmdStreamRestore f s =
      { status := St.ok, names := w.count ≠ 2 ^ 64 - 1, due := w.settle, payload := le8 w.count,
        st := modStream f.target.toNat (Stream.restored f.payload w.due) (endSave f.target.toNat s) } := by
  unfold cmdStreamRestore
  refine (checked_ok ?_).trans rfl
  simp [hruns, hkind, hconfig, hversion, htarget, hcoding, hfirst, hcount, hcrc]

/-! ### BULK_LOAD (R328 to R330, R344) -/

/-- The answer of a bulk load that leaves its buffer so. -/
def bulkAnswer (k status : Nat) (b : StageBuf) (s : State) : Ans :=
  { status := status, st := setStage k b s, payload := bulkReply k (setStage k b s) }

theorem bulkFields_defined {stage flags : Nat} (hstage : stage ≤ 3) (hflags : flags ≤ 7) :
    ¬ (decide (3 < stage) || decide (7 < flags)) = true := by
  simp [hstage, hflags]

theorem cmdBulkLoad_frees (hstage : fld f.payload 0 1 ≤ 3) (hflags : fld f.payload 1 1 ≤ 7)
    (hfree : tst (fld f.payload 1 1) 2 = true) :
    cmdBulkLoad f s = bulkAnswer (fld f.payload 0 1) St.ok {} s := by
  unfold cmdBulkLoad
  exact (if_neg (bulkFields_defined hstage hflags)).trans (if_pos hfree)

/-- The buffer a piece is decoded into: a new one for the first piece. -/
def bulkBuffer (p : List Byte) (s : State) : StageBuf :=
  if tst (fld p 1 1) 0 = true then { phase := 1, declared := fld p 8 4 } else stageOf s (fld p 0 1)

/-- Does a piece stand where the load stands: the first at 0 with the length declared, a later one where the last one ended? -/
def bulkFollows (p : List Byte) (s : State) : Prop :=
  if tst (fld p 1 1) 0 = true then fld p 4 4 = 0 ∧ fld p 8 4 % 2 = 0 ∧ 2 ≤ fld p 8 4 ∧ fld p 8 4 ≤ 2097216
  else fld p 8 4 = 0 ∧ (stageOf s (fld p 0 1)).phase = 1 ∧ fld p 4 4 = (stageOf s (fld p 0 1)).accepted

theorem tst_two_of_le {v : Nat} (h : v ≤ 3) : tst v 2 = false :=
  Nat.testBit_lt_two_pow (by omega)

theorem cmdBulkLoad_decodes (hstage : fld f.payload 0 1 ≤ 3) (hflags : fld f.payload 1 1 ≤ 3)
    (hrsv : fld f.payload 2 2 = 0) (hend : fld f.payload 18 2 = 0) (heven : fld f.payload 16 2 % 2 = 0)
    (hmin : 2 ≤ fld f.payload 16 2) (hmax : fld f.payload 16 2 ≤ 4056)
    (hcrc : tst (fld f.payload 1 1) 1 = true ∨ fld f.payload 12 4 = 0) (hfollows : bulkFollows f.payload s) :
    let q := bulkPiece (bulkBuffer f.payload s) ((f.payload.drop 20).take (fld f.payload 16 2)) (tst (fld f.payload 1 1) 1)
      (fld f.payload 12 4)
    cmdBulkLoad f s = bulkAnswer (fld f.payload 0 1) q.1 q.2 s := by
  have hdefined := bulkFields_defined hstage (hflags.trans (by decide))
  have hkeeps : ¬ tst (fld f.payload 1 1) 2 = true := by simp [tst_two_of_le hflags]
  have hsize : inR (fld f.payload 16 2) 2 4056 = true := inR_iff.mpr ⟨hmin, hmax⟩
  have hcheck : (!tst (fld f.payload 1 1) 1 && decide (fld f.payload 12 4 ≠ 0)) = false := by
    simpa [or_iff_not_imp_left] using hcrc
  unfold bulkFollows at hfollows
  unfold cmdBulkLoad
  refine (if_neg hdefined).trans ((if_neg hkeeps).trans ((if_neg ?_).trans rfl))
  simp only [hrsv, hend, heven, hsize, hcheck]
  split at hfollows
  next hfirst => simpa [hfirst, Config.stageBytes, and_assoc] using hfollows
  next hlater => simpa [hlater, and_assoc] using hfollows
end

/-- Settles O25: each command's own checks pass, and what it then answers is what its request is answered with. -/
theorem streamCommands : Obligations.StreamCommands := by
  unfold Obligations.StreamCommands
  intro r s u p k x
  refine ⟨?read, ?configure, ?clear, ?save, ?restore, ?free, ?piece⟩
  case read =>
    intro hready haction hform
    exact answers_of hready (cmdStreamCfg_reads (f := reqOf streamCfgSpec r s) (s := u) haction hform) ok_ne_busy
  case configure =>
    intro hready haction hform hruns hgood t
    have hconfigures := cmdStreamCfg_configures (f := reqOf streamCfgSpec r s) (s := u) haction hform hruns hgood
    unfold streamConfigured at hconfigures
    rw [configure_eq] at hconfigures
    exact answers_of hready hconfigures ok_ne_busy
  case clear =>
    intro hready haction hform hruns t
    exact answers_of hready (cmdStreamCfg_clears (f := reqOf streamCfgSpec r s) haction hform hruns) ok_ne_busy
  case save =>
    intro hready hkind hruns v
    refine ⟨fun hline => ?closes, fun q n hline => ?owes⟩
    case closes =>
      exact answers_of hready (cmdStreamSave_closes (f := reqOf streamSaveSpec r s) hkind hruns hline) ok_ne_busy
    case owes => exact answers_of hready (cmdStreamSave_owes (f := reqOf streamSaveSpec r s) hkind hruns hline) ok_ne_busy
  case restore =>
    intro hready hruns hkind hconfig hversion htarget hcoding hfirst hcount hcrc w
    exact answers_of hready (cmdStreamRestore_restores (f := reqOf streamRestoreSpec r s) hruns hkind hconfig hversion htarget
      hcoding hfirst hcount hcrc) ok_ne_busy
  case free =>
    intro hready hstage hflags hfree
    exact answers_of hready (cmdBulkLoad_frees (f := reqOf bulkLoadSpec r s) hstage hflags hfree) ok_ne_busy
  case piece =>
    intro hready hstage hflags hrsv hend heven hmin hmax hcrc hfollows b q t hok
    have hdecodes := cmdBulkLoad_decodes (f := reqOf bulkLoadSpec r s) (s := u) hstage hflags hrsv hend heven hmin hmax hcrc
      hfollows
    have hanswer := hdecodes.trans (congrArg (bulkAnswer (fld p 0 1) · q.2 u) hok)
    exact answers_of hready hanswer ok_ne_busy

end Sys2Proof.Machine
end

section
/-! PROOFS. The event-queue port and how the queue admits an item (O35). Built on Laws/State.lean. -/

namespace Sys2Proof.Machine

open Sys2Proof

section
variable {s : State}

/-! ### Items in the queue (R333) -/

/-- The words of items. -/
def wordCount (l : List EvtItem) : Nat := (l.map (·.words.length)).sum

theorem EvqState.used_eq (q : EvqState) : q.used = wordCount q.items := rfl

theorem wordCount_append (a b : List EvtItem) : wordCount (a ++ b) = wordCount a + wordCount b := by
  simp [wordCount]

/-- Items written later hold the same words. -/
theorem wordCount_later (n : Nat) (l : List EvtItem) :
    wordCount (l.map (fun x => { x with doneAt := x.doneAt + n })) = wordCount l := by
  simp [wordCount, Function.comp_def]

/-- What `insertItem` puts ahead of the new item is the front of the queue. -/
theorem insertItem_head_prefix (k : Nat) (stays : EvtItem → Bool) (l : List EvtItem) :
    l.take k ++ (l.drop k).takeWhile stays <+: l := by
  have hfront := (List.prefix_append_right_inj (l.take k)).mpr (List.takeWhile_prefix stays (l := l.drop k))
  rwa [List.take_append_drop] at hfront

theorem wordCount_insertItem (k : Nat) (stays : EvtItem → Bool) (it : EvtItem) (l : List EvtItem) :
    wordCount (insertItem k stays it l) = wordCount l + it.words.length := by
  unfold insertItem
  extract_lets head tail n start
  have hsplit : wordCount head + wordCount tail = wordCount l := by
    rw [← wordCount_append]
    exact congrArg wordCount (List.prefix_iff_eq_append.mp (insertItem_head_prefix k stays l))
  have hnew : wordCount ({ it with doneAt := start + n } :: tail.map (fun x => { x with doneAt := x.doneAt + n })) =
      it.words.length + wordCount tail := by
    rw [← wordCount_later n tail]
    rfl
  rw [wordCount_append, hnew]
  omega

theorem wordCount_placeItem (it : EvtItem) (l : List EvtItem) :
    wordCount (placeItem it l) = wordCount l + it.words.length :=
  wordCount_insertItem _ _ _ _

theorem EvqState.forwarded_rdItem (q : EvqState) (cyc : Nat) : (q.forwarded cyc).rdItem = q.rdItem := by
  unfold EvqState.forwarded
  split <;> rfl

theorem EvqState.used_forwarded_le (q : EvqState) (cyc : Nat) : (q.forwarded cyc).used ≤ q.used := by
  unfold EvqState.forwarded
  split
  next => exact ((List.dropWhile_sublist _).map _).sum_le_sum (by simp)
  next => exact le_rfl

/-- A queue without items forwards nothing. -/
theorem EvqState.forwarded_empty {q : EvqState} (h : q.items = []) (cyc : Nat) : q.forwarded cyc = q := by
  cases q
  subst h
  simp [EvqState.forwarded]

/-- What finds room finds it within the 64 stages. -/
theorem EvqState.used_add_le {q : EvqState} {cyc n : Nat} (hpos : 0 < n) (hroom : n ≤ q.free cyc) : q.used + n ≤ 64 := by
  unfold EvqState.free at hroom
  omega

theorem EvqState.free_empty {q : EvqState} {cyc : Nat} (hitems : q.items = []) (hrel : q.relWords = 0) : q.free cyc = 64 := by
  simp [EvqState.free, EvqState.used, hitems, hrel]

/-! ### Admission (R331, R333) -/

@[simp] theorem riseCheck_evq (n : Nat) (s : State) : (riseCheck n s).evq = s.evq := by
  unfold riseCheck
  split <;> rfl

/-- An item decided now, before it has its place. -/
def newItem (type : Nat) (body : List Byte) (s : State) : EvtItem :=
  let ws := itemWords type s.cmd.epoch.toNat (s.stamp s.now) body
  { words := ws, poison := ws.map (fun _ => false), doneAt := 0, cyc := s.cycle, rank := itemRank type body }

theorem newItem_length (type : Nat) (body : List Byte) (s : State) :
    (newItem type body s).words.length = cdiv body.length 8 + 1 := by
  simp [newItem, itemWords]

theorem evtItem_admitted {type : Nat} {body : List Byte}
    (hroom : cdiv body.length 8 + 1 ≤ (s.evq.forwarded s.cycle).free s.cycle) :
    let q := s.evq.forwarded s.cycle
    (evtItem type body s).evq = { q with items := placeItem (newItem type body s) q.items } := by
  intro q
  have hfits : ¬ q.free s.cycle < (newItem type body s).words.length := by
    rw [newItem_length]
    exact not_lt.mpr hroom
  have hplace : (if s.now < s.now then placePast q (newItem type body s) else placeItem (newItem type body s) q.items) =
      placeItem (newItem type body s) q.items := if_neg (lt_irrefl _)
  refine (congrArg State.evq (if_neg hfits)).trans ?_
  split
  next => exact congrArg (fun l => { q with items := l }) hplace
  next => exact (riseCheck_evq _ _).trans (congrArg (fun l => { q with items := l }) hplace)

theorem evtItem_dropped {type : Nat} {body : List Byte}
    (hfull : (s.evq.forwarded s.cycle).free s.cycle < cdiv body.length 8 + 1) :
    let q := s.evq.forwarded s.cycle
    (evtItem type body s).evq = { q with lost := satInc q.lost } := by
  intro q
  have hlacks : q.free s.cycle < (newItem type body s).words.length := by
    rw [newItem_length]
    exact hfull
  exact congrArg State.evq (if_pos hlacks)

/-- The queue holds what it held and an item admitted. -/
theorem used_evtItem_admitted {type : Nat} {body : List Byte}
    (hroom : cdiv body.length 8 + 1 ≤ (s.evq.forwarded s.cycle).free s.cycle) :
    (evtItem type body s).evq.used = (s.evq.forwarded s.cycle).used + (cdiv body.length 8 + 1) := by
  rw [evtItem_admitted hroom, ← newItem_length type body s]
  exact wordCount_placeItem _ _

/-- An item admitted or dropped never takes the queue past its 64 stages. -/
theorem used_evtItem_le (type : Nat) (body : List Byte) (h : s.evq.used ≤ 64) : (evtItem type body s).evq.used ≤ 64 := by
  have hkept := (s.evq.used_forwarded_le s.cycle).trans h
  obtain hroom | hfull := le_or_gt (cdiv body.length 8 + 1) ((s.evq.forwarded s.cycle).free s.cycle)
  · rw [used_evtItem_admitted hroom]
    exact EvqState.used_add_le (Nat.succ_pos _) hroom
  · rw [evtItem_dropped hfull]
    exact hkept

/-! ### Reads (R334, R336, R340) -/

theorem testBit_flags (bs : List Bool) (i : Nat) : (flags bs).testBit i = bs.getD i false := by
  induction bs generalizing i with
  | nil => simp [flags]
  | cons b bs ih =>
    cases i with
    | zero => cases b <;> simp [flags, bit, Nat.testBit_zero, Nat.add_mod]
    | succ i =>
      have hrest : (bit b + 2 * flags bs) / 2 = flags bs := by
        have hbit : bit b < 2 := by cases b <;> decide
        omega
      rw [Nat.testBit_succ, flags, hrest, ih, List.getD_cons_succ]

/-- The four flags of `EVT_TAG` are its lowest bits. -/
theorem evtTag_getLsbD (first last idle poison : Bool) (word unread i : Nat) (hi : i < 4) :
    (evtTag first last idle poison word unread).getLsbD i = [first, last, idle, poison].getD i false := by
  have hflags : flags [first, last, idle, poison] < 2 ^ 4 := by
    revert first last idle poison
    decide
  have htag : flags [first, last, idle, poison] + word % 8 * 16 + unread % 128 * 256 =
      2 ^ 4 * (word % 8 + unread % 128 * 16) + flags [first, last, idle, poison] := by omega
  unfold evtTag
  rw [BitVec.getLsbD_ofNat, htag, Nat.testBit_two_pow_mul_add _ hflags, if_pos hi, testBit_flags,
    decide_eq_true (by omega), Bool.true_and]

/-- A complete item at the read point gives its next word. -/
theorem evtRead_word {it : EvtItem} {w : U64} (hfwd : s.evq.fwdOn = false)
    (hfront : s.evq.front s.cycle = some it) (hword : it.words[s.evq.rdWord]? = some w)
    (hpoison : it.poison[s.evq.rdWord]? = some false) :
    evtRead false s = send (.regRead 0x0400 (w.extractLsb' 0 32)) { s with evq := { s.evq.advance it with
      dataHi := w.extractLsb' 32 32,
      tag := evtTag (s.evq.rdWord = 0) (s.evq.rdWord + 1 = it.words.length) false false s.evq.rdWord
        ((s.evq.advance it).unreadAt s.cycle) } } := by
  unfold evtRead
  simp only [hfwd, hfront, hword, hpoison, Bool.false_eq_true, if_false, Option.getD_some, Bool.or_self]

/-- Without a complete item, or while forwarding runs, the read gives the `EVENT_IDLE` word. -/
theorem evtRead_idle (parity : Bool) (hnone : s.evq.fwdOn = true ∨ s.evq.front s.cycle = none) :
    evtRead parity s = send (.regRead 0x0400 (BitVec.ofNat 32 (s.cmd.epoch.toNat * 65536))) { s with
      evq.dataHi := BitVec.ofNat 32 (s.stamp s.now), evq.tag := 7 } := by
  have hidle : (if s.evq.fwdOn = true then none else s.evq.front s.cycle) = none := by
    obtain hfwd | hfront := hnone
    · exact if_pos hfwd
    · rw [hfront, ite_self]
  unfold evtRead
  simp only [hidle]
  rfl

section
variable {q : EvqState} {it : EvtItem}

theorem EvqState.front_complete {cyc : Nat} (hitem : q.items[q.rdItem]? = some it) (hdone : it.doneAt ≤ cyc) :
    q.front cyc = some it := by
  simp [EvqState.front, hitem, hdone]

theorem EvqState.front_none {cyc : Nat} (h : ∀ it, q.items[q.rdItem]? = some it → cyc < it.doneAt) :
    q.front cyc = none := by
  unfold EvqState.front
  split
  next it hitem => exact if_neg (not_le.mpr (h it hitem))
  next => rfl

theorem EvqState.advance_within (h : q.rdWord + 1 < it.words.length) :
    (q.advance it).rdItem = q.rdItem ∧ (q.advance it).rdWord = q.rdWord + 1 := by
  rw [EvqState.advance, if_pos h]
  exact ⟨rfl, rfl⟩

theorem EvqState.advance_past (h : it.words.length ≤ q.rdWord + 1) :
    (q.advance it).rdItem = q.rdItem + 1 ∧ (q.advance it).rdWord = 0 := by
  rw [EvqState.advance, if_neg (not_lt.mpr h)]
  exact ⟨rfl, rfl⟩

theorem EvqState.advance_items (q : EvqState) (it : EvtItem) : (q.advance it).items = q.items := by
  unfold EvqState.advance
  split <;> rfl

theorem EvqState.advance_mark (q : EvqState) (it : EvtItem) : (q.advance it).mark = q.mark := by
  unfold EvqState.advance
  split <;> rfl
end

/-! ### Marks, rewinds and releases (R335, R340) -/

/-- The points move for the host while forwarding does not run. -/
theorem portOpen (hup : s.hostUp = true) (hfwd : s.evq.fwdOn = false) : (s.hostUp && !s.evq.fwdOn) = true := by
  simp [hup, hfwd]

/-! ### Flushes (R338) -/

/-- The queue without its items, its points at the write point. -/
def flushStart (s : State) : State :=
  { s with evq := { s.evq with items := [], rdItem := 0, rdWord := 0, mark := 0, forward := [], relWords := 0 } }

/-- The body of the `FLUSH_MARK`: items discarded, items dropped, `EVT_LOST`. -/
def flushBody (s : State) : List Byte :=
  let old := s.evq.items.filter (fun it => it.cyc ≠ s.cycle)
  le2 ((old.filter (fun it => it.doneAt ≤ s.cycle)).length + s.evq.forward.length)
    ++ le1 (old.filter (fun it => ¬ it.doneAt ≤ s.cycle)).length ++ zeros 1 ++ le4 s.evq.lost.toNat

theorem flushBody_words (s : State) : cdiv (flushBody s).length 8 + 1 = 2 := by
  have hlen : (flushBody s).length = 8 := by simp [flushBody, le1, le2, le4, zeros]
  rw [hlen]
  rfl

/-- The `FLUSH_MARK` in an empty queue. -/
def flushMark (s : State) : EvtItem :=
  let it := newItem 0x0A (flushBody s) (flushStart s)
  { it with doneAt := max it.cyc 0 + it.words.length }

theorem flushMark_length (s : State) : (flushMark s).words.length = 2 :=
  (newItem_length _ _ _).trans (flushBody_words s)

theorem evtItem_flushMark (s : State) :
    (evtItem 0x0A (flushBody s) (flushStart s)).evq = { (flushStart s).evq with items := [flushMark s] } := by
  have hempty := EvqState.forwarded_empty (q := (flushStart s).evq) rfl (flushStart s).cycle
  have hroom : cdiv (flushBody s).length 8 + 1 ≤
      ((flushStart s).evq.forwarded (flushStart s).cycle).free (flushStart s).cycle := by
    rw [flushBody_words, hempty, EvqState.free_empty rfl rfl]
    decide
  refine (evtItem_admitted hroom).trans ?_
  rw [hempty]
  rfl

/-- The `FLUSH_MARK` is the first item, and what was decided in the cycle of the flush follows it. -/
theorem evtFlush_evq (s : State) : (evtFlush s).evq = { (flushStart s).evq with
    items := (s.evq.items.filter (fun x => x.cyc = s.cycle)).foldl (fun l x => placeItem x l) [flushMark s] } := by
  have hmark := evtItem_flushMark s
  refine (riseCheck_evq _ _).trans ?_
  exact congrArg (fun q : EvqState => { q with
    items := (s.evq.items.filter (fun x : EvtItem => x.cyc = s.cycle)).foldl (fun l x => placeItem x l) q.items }) hmark

end

/-- Settles O35: each access to the port by its own row, and an item by whether the words free at the start of the cycle hold
it. -/
theorem eventPort : Obligations.EventPort := by
  unfold Obligations.EventPort
  refine ⟨?port, ?admission⟩
  case' port =>
    intro t parity drop s hup u
    refine ⟨?word, ?idle, ?lost, ?mark, ?rewind, ?release, ?flush⟩
  case' admission =>
    intro type body s n q v
    refine ⟨used_evtItem_le type body, ?admitted, ?dropped⟩
  case word =>
    intro it w hfwd hitem hdone hword hparity hpoison
    subst hparity
    have hread := evtRead_word (s := u) hfwd (EvqState.front_complete hitem hdone) hword hpoison
    have htag := evtTag_getLsbD (s.evq.rdWord = 0) (s.evq.rdWord + 1 = it.words.length) false false s.evq.rdWord
      ((s.evq.advance it).unreadAt u.cycle)
    refine ⟨_, congrArg Host.Outcome.next ((if_pos hup).trans hread), rfl, rfl, EvqState.advance_items _ _,
      EvqState.advance_mark _ _, htag 0 (by decide), htag 1 (by decide), htag 2 (by decide), htag 3 (by decide),
      EvqState.advance_within, fun hlast => EvqState.advance_past hlast.ge⟩
  case idle =>
    intro hnone
    have hidle := evtRead_idle (s := u) parity (hnone.imp_right EvqState.front_none)
    exact congrArg Host.Outcome.next ((if_pos hup).trans hidle)
  case lost => exact congrArg Host.Outcome.next (if_pos hup)
  case mark =>
    intro hfwd
    exact congrArg Host.Outcome.next (if_pos (portOpen hup hfwd))
  case rewind =>
    intro hfwd
    refine ⟨_, congrArg Host.Outcome.next (if_pos (portOpen hup hfwd)), ?_⟩
    rw [riseCheck_evq]
    exact ⟨rfl, rfl, rfl, rfl⟩
  case release =>
    intro hfwd
    exact ⟨_, congrArg Host.Outcome.next (if_pos (portOpen hup hfwd)), rfl, rfl, rfl, rfl⟩
  case flush =>
    refine ⟨_, flushMark u, congrArg Host.Outcome.next (if_pos hup), flushMark_length u, ?_⟩
    rw [evtFlush_evq]
    exact ⟨rfl, rfl, rfl, rfl, rfl, rfl⟩
  case admitted =>
    intro hroom
    refine ⟨used_evtItem_admitted hroom, ?_⟩
    have hevq : v.evq = _ := evtItem_admitted hroom
    rw [hevq]
    exact ⟨EvqState.forwarded_lost _ _, EvqState.forwarded_rdItem _ _⟩
  case dropped =>
    intro hfull
    have hevq : v.evq = _ := evtItem_dropped hfull
    rw [hevq]
    exact ⟨rfl, congrArg satInc (EvqState.forwarded_lost _ _)⟩

end Sys2Proof.Machine
end

section
/-! PROOFS. A step of the block and the system commands as the host gives them (O1, O15, O16, O53). Built on Laws/Command.lean. -/

namespace Sys2Proof.Machine

open Sys2Proof

/-! ### A step -/

theorem step_idle {s : State} (h : s.pending = []) : step s = .next s := by
  simp only [step, h]

theorem step_front {c : Instr} {rest : List Instr} {s : State} (h : s.pending = c :: rest) :
    step s = exec c { s with pending := rest } := by
  simp only [step, h]

/-- Settles O1: the two cases of the queue. -/
theorem stepRunsFront : Obligations.StepRunsFront := by
  unfold Obligations.StepRunsFront
  exact ⟨fun _ _ _ h => step_front h, fun _ h => step_idle h⟩

section
variable {f : Fetched} {s : State}

/-! ### SET_NODE, GET_LOG (R384, R385) -/

theorem cmdSetNode_sets (hnode : fld f.payload 0 2 ≤ 16383) (hrsv : fld f.payload 2 2 = 0) :
    cmdSetNode f s =
      { status := St.ok, payload := le2 s.cmd.node.toNat ++ le2 (fld f.payload 0 2),
        st := { s with cmd.node := BitVec.ofNat 14 (fld f.payload 0 2) } } := by
  unfold cmdSetNode
  exact checked_ok (by simp [hnode, hrsv])

theorem cmdGetLog_reads (hmin : 1 ≤ fld f.payload 4 2) (hmax : fld f.payload 4 2 ≤ 250) (hrsv : fld f.payload 6 2 = 0) :
    let got := (s.fault.log.reverse.filter (fun e => fld f.payload 0 4 ≤ e.index.toNat)).take (fld f.payload 4 2)
    let oldest := ((s.fault.log.reverse.head?).map (·.index)).getD s.fault.logNext
    cmdGetLog f s =
      { status := St.ok, st := s,
        payload := le4 oldest.toNat ++ le4 s.fault.logNext.toNat ++ le2 got.length ++ zeros 6 ++ got.flatMap logBytes } := by
  unfold cmdGetLog
  exact checked_ok (by simp [hmin, hmax, hrsv])

/-! ### RESET_UNIT, FENCE (R367, R382, R383) -/

/-- What follows the reply to a reset: a takeover for the controller, a recovery with cause 1 for any other unit. -/
def afterReset (unit : U16) (x : State) : State :=
  if unit.toNat = 0x107 then controllerFails 6 x else startRecovery 1 unit [] (unitReset unit.toNat x)

theorem cmdResetUnit_resets
    (hcore : f.target.toNat < 32 → f.target.toNat < s.zoneCores ∧ (core s f.target.toNat).state ≠ .retired)
    (hochre : f.target.toNat = 0x101 → s.ochreFitted = true) (hstandby : f.target.toNat = 0x107 → s.mgmt.ready = true) :
    cmdResetUnit f s =
      { status := if f.target.toNat = 0x101 && s.ochre.retired then St.degraded else St.ok, st := s,
        payload := le2 (if s.cmd.epoch = 0xFFFF then 1 else s.cmd.epoch + 1).toNat ++ zeros 2,
        after := afterReset f.target } := by
  have hfitted : ((f.target.toNat < 32 && s.zoneCores ≤ f.target.toNat) ||
      (f.target.toNat = 0x101 && !s.ochreFitted)) = false := by
    simpa using ⟨fun h => (hcore h).1, hochre⟩
  have hinUse : (f.target.toNat < 32 && (core s f.target.toNat).state = .retired) = false := by
    simpa using fun h => (hcore h).2
  have hready : (f.target.toNat = 0x107 && !s.mgmt.ready) = false := by simpa using hstandby
  unfold cmdResetUnit
  refine (checked_ok ?_).trans rfl
  simp only [hfitted, hinUse, hready, List.all_cons, List.all_nil, Bool.not_false, Bool.and_self]

/-- A `FENCE` whose turn has come begins to wait, and is answered at once when nothing is left to wait for. -/
theorem execFence_ready {r : Req} (h : Ready fenceSpec r s) :
    exec (.fence r) s = .next (settleFences 64 { (dropFetched (reqOf fenceSpec r s) (begun r s)) with
      cmd.fences := (begun r s).cmd.fences ++ [fenceWait (reqOf fenceSpec r s) (begun r s)] }) := by
  obtain ⟨hturn, hpre, hawake⟩ := h
  have hrow : fenceRow r s = beginFence (reqOf fenceSpec r s) (begun r s) := if_neg (by rw [hturn]; decide)
  refine congrArg Host.Outcome.next (hrow.trans ?_)
  unfold beginFence
  rw [hpre]
  exact if_neg (by rw [hawake]; decide)
end

/-- Settles O53: `NOP` has no checks of its own, and its reply ends with the check of the payload it repeats. -/
theorem nopRepeats : Obligations.NopRepeats := by
  unfold Obligations.NopRepeats
  intro r s
  refine ⟨fun _ => rfl, fun hready => ⟨answers_of (body := cmdNop) hready rfl ok_ne_busy, ?_⟩⟩
  simp [mkReply, toFetched, nopSpec, by8, withCrc]

/-- Settles O15: what each command answers is what its request is answered with; the first three have no checks of their own. -/
theorem systemCommands : Obligations.SystemCommands := by
  unfold Obligations.SystemCommands
  intro r s u p
  refine ⟨?nop, ?caps, ?status, ?node, ?log⟩
  case nop => exact fun hready => answers_of (body := cmdNop) hready rfl ok_ne_busy
  case caps => exact fun hready => answers_of (body := cmdGetCaps) hready rfl ok_ne_busy
  case status => exact fun hready => answers_of (body := cmdGetStatus) hready rfl ok_ne_busy
  case node =>
    intro hready hnode hrsv
    exact answers_of hready (cmdSetNode_sets (f := reqOf setNodeSpec r s) hnode hrsv) ok_ne_busy
  case log =>
    intro hready hmin hmax hrsv got oldest
    exact answers_of hready (cmdGetLog_reads (f := reqOf getLogSpec r s) hmin hmax hrsv) ok_ne_busy

/-- Settles O16: `RESET_UNIT` by its checks and what follows its reply, `FENCE` by its row. -/
theorem resetAndFence : Obligations.ResetAndFence := by
  unfold Obligations.ResetAndFence
  intro r s u k
  refine ⟨?reset, execFence_ready⟩
  case reset =>
    intro hready hcore hochre hstandby
    have hresets := cmdResetUnit_resets (f := reqOf resetUnitSpec r s) (s := u) hcore hochre hstandby
    refine ⟨_, answers_of hready hresets ?_, rfl, ?_, rfl, fun _ => rfl⟩
    · dsimp only
      split <;> decide
    · exact if_congr (by rw [Bool.and_eq_true, decide_eq_true_iff]; rfl) rfl rfl

end Sys2Proof.Machine
end

section
/-! PROOFS. Fault, spare, self-test and firmware commands as the host gives them (O17). Built on Laws/Command.lean. -/

namespace Sys2Proof.Machine

open Sys2Proof

section
variable {f : Fetched} {s : State}

/-! ### FAULT_READ, FAULT_CLEAR (R518, R519) -/

theorem cmdFaultRead_reads (hmin : 1 ≤ fld f.payload 2 2) (hmax : fld f.payload 2 2 ≤ 250) :
    let got := (s.fault.table.drop (fld f.payload 0 2)).take (fld f.payload 2 2)
    cmdFaultRead f s =
      { status := St.ok, st := s,
        payload := le2 s.fault.table.length ++ le2 (s.fault.fatalCode.getD 0xFFFF) ++ le1 (latchByte s) ++ zeros 1
          ++ le2 got.length ++ got.flatMap faultEntryBytes } := by
  unfold cmdFaultRead
  exact checked_ok (by simp [hmin, hmax])

/-- What a clear leaves: marks first, then counts, the latch and the sticky flags, each where its bit is set. -/
def faultsCleared (v : Nat) (s : State) : State :=
  let a := if tst v 3 then markRead s else s
  let b := if tst v 0 then clearFaultCounts a else a
  let c := if tst v 1 then clearFatal b else b
  if tst v 2 then clearSticky c else c

theorem cmdFaultClear_clears (hflags : fld f.payload 0 1 ≤ 15) (hrsv : fld f.payload 1 3 = 0) :
    let t := faultsCleared (fld f.payload 0 1) s
    cmdFaultClear f s =
      { status := if tst (fld f.payload 0 1) 1 && latchHolds s then St.degraded else St.ok,
        payload := le1 (latchByte t) ++ zeros 3, st := t } := by
  unfold cmdFaultClear
  exact checked_ok (by simp [hflags, hrsv])

/-! ### SELF_TEST (R502) -/

theorem cmdSelfTest_accepted (hmode : s.inMode [.standby, .warm, .acoustic, .survey, .full] = true)
    (hlong : s.longBusy 0xF1 = false) (htests : fld f.payload 0 1 ≤ 63) (hrsv : fld f.payload 1 3 = 0) :
    cmdSelfTest f s =
      { status := St.accepted,
        st := { s with mgmt.selfTest := some (f.tag, by8 (fld f.payload 0 1)), mgmt.selfTestCut := false } } := by
  unfold cmdSelfTest
  exact checked_ok (by simp [hmode, hlong, htests, hrsv])

/-! ### FW_UPDATE (R499 to R501) -/

/-- An activation writes no image. -/
theorem cmdFwUpdate_activates (hmode : s.inMode [.standby, .warm] = true) (hlong : s.longBusy 0xF2 = false)
    (hstandby : s.mgmt.ready = true) (haction : fld f.payload 1 1 = 3) (hrsv : fld f.payload 2 2 = 0)
    (hlen : fld f.payload 4 4 = 0 ∨ (1024 ≤ fld f.payload 4 4 ∧ fld f.payload 4 4 ≤ 2097152)) (hlive : liveMask s ≠ 0) :
    cmdFwUpdate f s = { status := St.accepted, st := { s with mgmt.update := some (f.tag, 3, none, false) } } := by
  unfold cmdFwUpdate
  simp only [haction]
  exact checked_ok (by simp [hmode, hlong, hstandby, hrsv, definedOr0, hlen.symm, hlive])

/-- The other two actions write the image staged; the one that activates it too needs the standby. -/
theorem cmdFwUpdate_writes {img : List Byte} (hmode : s.inMode [.standby, .warm] = true) (hlong : s.longBusy 0xF2 = false)
    (haction : fld f.payload 1 1 = 1 ∨ fld f.payload 1 1 = 2 ∧ s.mgmt.ready = true) (hrsv : fld f.payload 2 2 = 0)
    (hstage : fld f.payload 0 1 ≤ 3) (hmin : 1024 ≤ fld f.payload 4 4) (hmax : fld f.payload 4 4 ≤ 2097152)
    (hlive : liveMask s ≠ 0) (himg : staged s (fld f.payload 0 1) = some img)
    (hmatch : stageMismatch img (fld f.payload 4 4) (fld f.payload 8 4) = false) :
    cmdFwUpdate f s =
      { status := St.accepted, st := { s with mgmt.update := some (f.tag, by8 (fld f.payload 1 1), some img, false) } } := by
  unfold cmdFwUpdate
  simp only [himg]
  rcases haction with h | ⟨h, hstandby⟩
  · simp only [h]
    exact checked_ok (by simp [hmode, hlong, hrsv, hstage, definedOr0, hmin, hmax, hlive, hmatch])
  · simp only [h]
    exact checked_ok (by simp [hmode, hlong, hstandby, hrsv, hstage, definedOr0, hmin, hmax, hlive, hmatch])
end

/-- Settles O17: each command's own checks pass, and what it then answers is what its request is answered with. -/
theorem faultCommands : Obligations.FaultCommands := by
  unfold Obligations.FaultCommands
  intro r s u p
  refine ⟨?read, ?clear, ?spares, ?test, ?activate, ?write⟩
  case read =>
    intro hready hmin hmax got
    exact answers_of hready (cmdFaultRead_reads (f := reqOf faultReadSpec r s) hmin hmax) ok_ne_busy
  case clear =>
    intro hready hflags hrsv v a b c d
    have hclears := cmdFaultClear_clears (f := reqOf faultClearSpec r s) (s := u) hflags hrsv
    refine answers_of hready hclears ?_
    dsimp only
    split <;> decide
  case spares => exact fun hready => answers_of (body := cmdSpareStatus) hready rfl ok_ne_busy
  case test =>
    intro hready hmode hlong htests hrsv
    exact answers_of hready (cmdSelfTest_accepted (f := reqOf selfTestSpec r s) hmode hlong htests hrsv) accepted_ne_busy
  case activate =>
    intro hready hmode hlong hstandby haction hrsv hlen hlive
    exact answers_of hready (cmdFwUpdate_activates (f := reqOf fwUpdateSpec r s) hmode hlong hstandby haction hrsv hlen hlive)
      accepted_ne_busy
  case write =>
    intro hready hmode hlong haction hrsv hstage hmin hmax hlive img himg hmatch
    exact answers_of hready (cmdFwUpdate_writes (f := reqOf fwUpdateSpec r s) hmode hlong haction hrsv hstage hmin hmax hlive
      himg hmatch) accepted_ne_busy

end Sys2Proof.Machine
end

section
/-! PROOFS. Time, the interval unit and the launch lock as the host sets them (O26, O27). Built on Laws/Command.lean. -/

namespace Sys2Proof.Machine

open Sys2Proof

section
variable {f : Fetched} {s : State}

/-! ### PTP_CFG, DOMAIN_SELECT (R397, R413, R416) -/

/-- What an action of `PTP_CFG` does: 1 configures the domain, 2 stops it, 0 reads. -/
def ptpConfigured (p : List Byte) (s : State) : State :=
  if fld p 1 1 = 1 then restartDomain (fld p 0 1) (p.drop 2) s
  else if fld p 1 1 = 2 then disableDomain (fld p 0 1) s else s

theorem cmdPtpCfg_configures (hdomain : fld f.payload 0 1 ≤ 1) (haction : fld f.payload 1 1 ≤ 2)
    (hranges : ptpCfgBad (fld f.payload 1 1 = 1) f.payload = false) :
    let d := fld f.payload 0 1
    let t := ptpConfigured f.payload s
    cmdPtpCfg f s =
      { status := St.ok, st := t,
        payload := le1 d ++ le1 (if (domain t d).phase = 0 then 2 else 1) ++ (domain t d).cfg } := by
  unfold cmdPtpCfg ptpConfigured
  refine (checked_ok (by simp [hdomain, haction, hranges])).trans ?_
  split
  next h => simp only [h, if_true]
  next h => simp only [h, if_true, OfNat.ofNat_ne_one, if_false]
  next h1 h2 => rw [if_neg h1, if_neg h2]

/-- The settings that a request selects: the flags of its mask, and the limits that it does not keep. -/
def timeSettings (p : List Byte) (s : State) : State :=
  let pick (k : Nat) (old : Bool) : Bool := if tst (fld p 2 1) k then tst (fld p 1 1) k else old
  { s with
    time.auto := pick 0 s.time.auto, time.revert := pick 1 s.time.revert, time.hold := pick 2 s.time.hold,
    time.slewMax := if fld p 4 2 = 0 then s.time.slewMax else fld p 4 2,
    time.stepLimit := if fld p 8 4 = 0xFFFFFFFF then s.time.stepLimit else fld p 8 4 }

/-- The domain asked for is selected, unless it is already; 0xFF asks for none. -/
def selectAsked (d : Nat) (s : State) : State := if d ≤ 1 && s.time.selected ≠ some d then selectDomain d s else s

/-- The answer of a request that leaves the device's time so. -/
def timeAnswer (t : State) : Ans := { status := St.ok, st := t, payload := timeHead t }

/-- The automatic changes due by then come first; then the settings, then the domain asked for. -/
theorem cmdDomainSelect_selects
    (hdomain : fld f.payload 0 1 = 0xFF ∨ (fld f.payload 0 1 ≤ 1 ∧ (domain (dueChanges s) (fld f.payload 0 1)).phase = 2))
    (hflags : fld f.payload 1 1 ≤ 7) (hmask : fld f.payload 2 1 ≤ 7) (hrsv3 : fld f.payload 3 1 = 0)
    (hslew : fld f.payload 4 2 ≤ 10000) (hrsv6 : fld f.payload 6 2 = 0) :
    cmdDomainSelect f s =
      timeAnswer (selectAsked (fld f.payload 0 1) (timeSettings f.payload (rebase (dueChanges s).now (dueChanges s)))) := by
  have hlocked : (fld f.payload 0 1 ≤ 1 && (domain (dueChanges s) (fld f.payload 0 1)).phase ≠ 2) = false := by
    rcases hdomain with h | ⟨-, h⟩ <;> simp [h]
  have hdefined : fld f.payload 0 1 ≤ 1 ∨ fld f.payload 0 1 = 0xFF := hdomain.symm.imp_left And.left
  unfold cmdDomainSelect
  refine (checked_ok ?_).trans rfl
  simp only [List.all_cons, hlocked]
  simp [hdefined, hflags, hmask, hrsv3, hslew, hrsv6]

/-! ### TIM_CFG, TIM_READ (R417, R418) -/

theorem cmdTimCfg_configures (hranges : timCfgBad f.payload = false) :
    let c : TimChan := { cfg := (f.payload.take 16).set 6 0, gateAt := s.devPs s.now }
    let trim := if tst (fld f.payload 6 1) 0 then Vector.ofFn (fun i => sfld f.payload (16 + 2 * i.val) 2) else s.tim.trim
    cmdTimCfg f s =
      { status := St.ok, st := { s with tim := { s.tim with chans := vset s.tim.chans (fld f.payload 0 1) c, trim := trim } },
        payload := c.cfg ++ trim.toList.flatMap (leInt 2) } := by
  unfold cmdTimCfg
  exact checked_ok (by simp [hranges])

theorem cmdTimRead_takes (hchannel : fld f.payload 0 1 ≤ 3) (hrsv : fld f.payload 1 1 = 0) (hmin : 1 ≤ fld f.payload 2 2)
    (hmax : fld f.payload 2 2 ≤ 250) :
    let c := vget s.tim.chans (fld f.payload 0 1)
    let rs := c.results.take (fld f.payload 2 2)
    cmdTimRead f s =
      { status := St.ok,
        st := { s with
          tim.chans := vset s.tim.chans (fld f.payload 0 1) { c with results := c.results.drop (fld f.payload 2 2) } },
        payload := le1 (fld f.payload 0 1) ++ le1 c.mode ++ le2 rs.length ++ le4 c.dropped.toNat ++ le4 c.missed.toNat ++ zeros 4
          ++ rs.flatMap (timEntry c.mode) } := by
  unfold cmdTimRead
  exact checked_ok (by simp [hchannel, hrsv, hmax, Nat.ne_of_gt hmin])

/-! ### LAUNCH_SYNC (R408 to R411, R419) -/

/-- The fields that every action of `LAUNCH_SYNC` has in range. -/
structure SyncFields (p : List Byte) : Prop where
  pin     : fld p 1 1 ≤ 3
  edge    : fld p 2 1 ≤ 1
  delay   : fld p 4 4 ≤ 1999999999
  periods : fld p 8 4 ≤ fld p 12 4

/-- An answer that names no boundary. -/
def syncUnnamed (s : State) : Ans := { status := St.ok, st := s, payload := syncReply (2 ^ 64 - 1) (2 ^ 32 - 1) s }

/-- The answer to an acquisition with no launches running: the next launch is named. -/
def syncNext (t : State) : Ans :=
  { status := St.ok, st := t, names := true, payload := syncReply t.light.launches (2 ^ 32 - 1) t }

/-- The answer to an acquisition whose first launch waits for the marker, at the boundary of R56. -/
def syncPlaced (f : Fetched) (t : State) : Ans :=
  let q := schedule f f.payload true true (fld f.payload 3 1 * fld f.payload 8 4 * 1000) false t
  { status := St.ok, st := q.1, names := q.2.named, due := q.2.dueOf,
    payload := syncReply (if q.2.named = true then q.2.count else t.light.launches) (2 ^ 32 - 1) q.1 }

/-- The answer to an acquisition whose marker is measured from now on. -/
def syncBegun (f : Fetched) (t : State) : Ans :=
  if t.light.running && t.runMode = .survey then syncUnnamed t else if t.light.running then syncPlaced f t else syncNext t

theorem syncBegun_still {t : State} (h : t.light.running = false) : syncBegun f t = syncNext t := by simp [syncBegun, h]

theorem syncBegun_survey {t : State} (h : t.light.running = true) (hm : t.runMode = .survey) : syncBegun f t = syncUnnamed t := by
  simp [syncBegun, h, hm]

theorem syncBegun_placed {t : State} (h : t.light.running = true) (hm : t.runMode ≠ .survey) :
    syncBegun f t = syncPlaced f t := by
  simp [syncBegun, h, hm]

/-- The answer to a release whose free-running period comes at its boundary. -/
def syncFreed (f : Fetched) (s : State) : Ans :=
  let p := f.payload.take 16 ++ le8 (freeTl (projected s))
  let q := schedule f p (s.lock.phase ≠ 0 && s.planMode ≠ .survey) false (applySync p (projected s)).light.plan.tl false s
  { status := St.ok, st := q.1, names := q.2.named, due := q.2.dueOf,
    payload := syncReply (if q.2.named = true then q.2.count else 2 ^ 64 - 1) (if q.2.named = true then q.2.stamp else 2 ^ 32 - 1)
      q.1 }

/-- The answer to a release: an acquisition under way ends at once. -/
def syncReleased (f : Fetched) (s : State) : Ans :=
  if s.lock.phase = 1 then syncUnnamed (endWaiting (freeTl s) s) else syncFreed f s

section
variable (hfields : SyncFields f.payload)
include hfields

/-- Reading and releasing have the same checks: the period range is either unused or in its range. -/
theorem cmdLaunchSync_unlocked (haction : fld f.payload 0 1 = 0 ∨ fld f.payload 0 1 = 2)
    (hperiod : fld f.payload 8 4 = 0 ∨ (5000 ≤ fld f.payload 8 4 ∧ fld f.payload 8 4 ≤ 2000000)) :
    cmdLaunchSync f s = if fld f.payload 0 1 = 0 then syncUnnamed s else syncReleased f s := by
  obtain ⟨hpin, hedge, hdelay, hperiods⟩ := hfields
  unfold cmdLaunchSync
  obtain h | h := haction
  all_goals
    refine (checked_ok ?_).trans ?_
    · simp [h, hpin, hedge, hdelay, hperiods, definedOr0, hperiod.symm]
    · simp only [h]
      rfl

theorem cmdLaunchSync_begins (haction : fld f.payload 0 1 = 1) (hmode : s.power.mode ≠ .standby) (hpair : s.inPair = false)
    (hdivider : 1 ≤ fld f.payload 3 1) (hmin : 5000 ≤ fld f.payload 8 4) (hmax : fld f.payload 8 4 ≤ 2000000)
    (hrules : syncRules f.payload (projected s) = true) :
    cmdLaunchSync f s = syncBegun f (beginLock f.payload s) := by
  obtain ⟨hpin, hedge, hdelay, hperiods⟩ := hfields
  unfold cmdLaunchSync
  refine (checked_ok ?_).trans ?_
  · simp [haction, hmode, hpair, hpin, hedge, hdelay, hperiods, definedOr0, Nat.ne_of_gt hdivider, hmin, hmax, hrules]
  · simp only [haction]
    rfl
end
end

/-- Settles O26: each command's own checks pass, and what it then answers is what its request is answered with. -/
theorem timeCommands : Obligations.TimeCommands := by
  unfold Obligations.TimeCommands
  intro r s u p
  refine ⟨?configure, ?status, ?time, ?select⟩
  case configure =>
    intro hready hdomain haction hranges d t
    exact answers_of hready (cmdPtpCfg_configures (f := reqOf ptpCfgSpec r s) (s := u) hdomain haction hranges) ok_ne_busy
  case status => exact fun hready => answers_of (body := cmdPtpStatus) hready rfl ok_ne_busy
  case time => exact fun hready => answers_of (body := cmdTimeGet) hready rfl ok_ne_busy
  case select =>
    intro hready c hdomain hflags hmask hrsv3 hslew hrsv6 v pick w t
    have hselects := cmdDomainSelect_selects (f := reqOf domainSelectSpec r s) (s := u) hdomain hflags hmask hrsv3 hslew hrsv6
    have hsettings : timeSettings p (rebase c.now c) = w := rfl
    have hasked : selectAsked (fld p 0 1) (timeSettings p (rebase c.now c)) = t := congrArg (selectAsked _) hsettings
    exact answers_of hready (hselects.trans (congrArg timeAnswer hasked)) ok_ne_busy

/-- Settles O27: each command's own checks pass; the answers of `LAUNCH_SYNC` are split by action and by whether launches run. -/
theorem intervalAndLockCommands : Obligations.IntervalAndLockCommands := by
  unfold Obligations.IntervalAndLockCommands
  intro r s u p
  refine ⟨?configure, ?take, ?sync⟩
  case configure =>
    intro hready hranges c trim
    exact answers_of hready (cmdTimCfg_configures (f := reqOf timCfgSpec r s) hranges) ok_ne_busy
  case take =>
    intro hready hchannel hrsv hmin hmax c rs
    exact answers_of hready (cmdTimRead_takes (f := reqOf timReadSpec r s) hchannel hrsv hmin hmax) ok_ne_busy
  case sync =>
    intro hready hpin hedge hdelay hperiods
    have hfields : SyncFields (reqOf launchSyncSpec r s).payload := ⟨hpin, hedge, hdelay, hperiods⟩
    refine ⟨fun haction hperiod => ?read, fun haction hmode hpair hdivider hmin hmax hrules => ?begin,
      fun haction hperiod => ?release⟩
    case read =>
      exact answers_of hready ((cmdLaunchSync_unlocked hfields (.inl haction) hperiod).trans (if_pos haction)) ok_ne_busy
    case begin =>
      intro t q
      have hbegins := cmdLaunchSync_begins (s := u) hfields haction hmode hpair hdivider hmin hmax hrules
      exact ⟨fun hstill => answers_of hready (hbegins.trans (syncBegun_still hstill)) ok_ne_busy,
        fun hrun hsurvey => answers_of hready (hbegins.trans (syncBegun_survey hrun hsurvey)) ok_ne_busy,
        fun hrun hplain => answers_of hready (hbegins.trans (syncBegun_placed hrun hplain)) ok_ne_busy⟩
    case release =>
      intro p' q v
      have hother : ¬ fld (reqOf launchSyncSpec r s).payload 0 1 = 0 := fun h => absurd (haction.symm.trans h) (by decide)
      have hreleases := (cmdLaunchSync_unlocked (s := u) hfields (.inr haction) hperiod).trans (if_neg hother)
      exact ⟨fun hwaits => answers_of hready (hreleases.trans (if_pos hwaits)) ok_ne_busy,
        fun hfree => answers_of hready (hreleases.trans (if_neg hfree)) ok_ne_busy⟩

end Sys2Proof.Machine
end

section
/-! PROOFS. Record memory, auxiliary channels, monitors and the pair as the host sets them (O29, O30, O31). Built on
Laws/Command.lean. -/

namespace Sys2Proof.Machine

open Sys2Proof

section
variable {f : Fetched} {s : State}

/-! ### MEM_STATUS, MEM_TRAIN, MEM_MAP (R475 to R477) -/

/-- The channels with their counters cleared. -/
def memCountsCleared (s : State) : State :=
  { s.took with mem.ch := s.mem.ch.map (fun m => { m with
      eccCorr := 0, eccUncorr := 0, rtDrop := 0, postponeMax := 0, overSeen := rtLoadOver s.took }) }

theorem cmdMemStatus_reports (hflags : fld f.payload 0 1 ≤ 1) (hrsv : fld f.payload 1 3 = 0) :
    cmdMemStatus f s =
      { status := St.ok, payload := memStatusReply s,
        st := if fld f.payload 0 1 = 1 then memCountsCleared s else s.took } := by
  unfold cmdMemStatus
  exact checked_ok (by simp [hflags, hrsv])

theorem cmdMemTrain_accepted (hmode : s.inMode [.warm, .acoustic, .survey, .full] = true) (hrec : recording s = false)
    (htrain : s.longBusy 0x79 = false) (htest : s.longBusy 0xF1 = false) (hupdate : s.longBusy 0xF2 = false)
    (hlive : s.pool.recs = [] ∨ ∀ c, c < 4 → tst (fld f.payload 0 1) c = true → (mch s c).live = true)
    (hmin : 1 ≤ fld f.payload 0 1) (hmax : fld f.payload 0 1 ≤ 15)
    (heye : fld f.payload 1 1 = 0 ∨ (4 ≤ fld f.payload 1 1 ∧ fld f.payload 1 1 ≤ 64)) (hrsv : fld f.payload 2 2 = 0) :
    cmdMemTrain f s =
      { status := St.accepted,
        st := nextTraining { left := (List.range 4).filter (tst (fld f.payload 0 1)), tag := f.tag, began := s.now }
          { s with mem.eyeMin := keepN 0 (fld f.payload 1 1) s.mem.eyeMin } } := by
  have hreturns : (!s.pool.recs.isEmpty && ((List.range 4).filter (tst (fld f.payload 0 1))).any (fun c => !(mch s c).live))
      = false := by
    rcases hlive with h | h
    · simp [h]
    · simpa using fun _ => h
  unfold cmdMemTrain
  refine checked_ok ?_
  simp only [hreturns]
  simp [hmode, hrec, htrain, htest, hupdate, hmax, Nat.ne_of_gt hmin, heye, hrsv]

/-- The policies and masks of a request lie in their ranges (R453, R455). -/
def MapFields (p : List Byte) : Prop :=
  ∀ c, c < 4 → fld p (4 + c) 1 ≤ 2 ∧ fld p (8 + 4 * c) 4 % 16 = 0 ∧ fld p (8 + 4 * c) 4 < 2 ^ 21

/-- The page policies of a request set. -/
def policiesSet (p : List Byte) (s : State) : State :=
  (List.range 4).foldl (fun s c => setPolicy c (fld p (4 + c) 1) s) s

/-- The bank hashes of a request set with the policies; every predictor starts anew. -/
def banksSet (p : List Byte) (s : State) : State :=
  { (policiesSet p s) with
    mem.bankSel := Vector.ofFn (fun i => BitVec.ofNat 32 (fld p (8 + 4 * i.val) 4)),
    mem.ch := (policiesSet p s).mem.ch.map (fun m => { m with preds := Vector.replicate 16 2 }) }

/-- The answer of a request that leaves the memory so. -/
def memMapAnswer (act : Nat) (t : State) : Ans := { status := St.ok, st := t, payload := memMapReply t act }

theorem MapFields.policies {p : List Byte} (h : MapFields p) :
    (List.range 4).any (fun c => decide (2 < fld p (4 + c) 1)) = false := by
  simpa using fun c hc => (h c hc).1

theorem MapFields.masks {p : List Byte} (h : MapFields p) :
    (List.range 4).any (fun i => fld p (8 + 4 * i) 4 % 16 ≠ 0 || 2 ^ 21 ≤ fld p (8 + 4 * i) 4) = false := by
  simpa using fun c hc => (h c hc).2

section
variable (hrsv : fld f.payload 1 3 = 0) (hfields : MapFields f.payload)
include hrsv hfields

theorem cmdMemMap_reads (haction : fld f.payload 0 1 = 0) : cmdMemMap f s = memMapAnswer 0 s := by
  unfold cmdMemMap
  simp only [haction]
  refine (checked_ok ?_).trans rfl
  simp only [hrsv, hfields.policies, hfields.masks]
  rfl

theorem cmdMemMap_setsPolicies (haction : fld f.payload 0 1 = 2) :
    cmdMemMap f s = memMapAnswer 2 (policiesSet f.payload s) := by
  unfold cmdMemMap
  simp only [haction]
  refine (checked_ok ?_).trans rfl
  simp only [hrsv, hfields.policies, hfields.masks]
  rfl

theorem cmdMemMap_setsBanks (haction : fld f.payload 0 1 = 1)
    (hbits : (List.range 4).all (fun i => maskOk (fld f.payload (8 + 4 * i) 4)) = true) (hmode : s.power.mode = .warm)
    (hrec : recording s = false) (hpool : s.pool.recs = []) (htrain : s.longBusy 0x79 = false) (htest : s.longBusy 0xF1 = false)
    (hupdate : s.longBusy 0xF2 = false) :
    cmdMemMap f s = memMapAnswer 1 (banksSet f.payload s) := by
  have hfew : (List.range 4).any (fun i => !maskOk (fld f.payload (8 + 4 * i) 4)) = false := by
    rw [← List.not_all_eq_any_not, hbits]
    rfl
  unfold cmdMemMap
  simp only [haction]
  refine (checked_ok ?_).trans rfl
  simp only [hrsv, hfields.policies, hfields.masks, hfew, hmode, hrec, hpool, htrain, htest, hupdate]
  rfl
end

/-! ### AUX_CFG, AUX_READ (R444, R445) -/

/-- What an action of `AUX_CFG` does to its channel: 1 configures it, 2 disables it, 0 reads. -/
def auxSet (p : List Byte) (s : State) : State :=
  let n := fld p 0 1
  if fld p 1 1 = 1 then auxConfigure p n s
  else if fld p 1 1 = 2 then amonLatch (modAux n (fun c => { c with enabled := false, cfg := [by8 n, 2] ++ c.cfg.drop 2 }) s)
  else s

/-- A channel that nothing claims, whose change an armed context does not see, is configured. -/
theorem cmdAuxCfg_sets (hchannel : fld f.payload 0 1 ≤ 7) (haction : fld f.payload 1 1 ≤ 2)
    (hranges : auxBad (fld f.payload 1 1 = 1) f.payload = false)
    (hfree : fld f.payload 1 1 = 0 ∨ claimed s (fld f.payload 0 1) = false)
    (harmed : auxArmed s (fld f.payload 0 1) = false ∨ fld f.payload 1 1 = 0 ∨
      (fld f.payload 1 1 = 1 ∧ fld f.payload 2 1 = fld (aux s (fld f.payload 0 1)).cfg 2 1 ∧
        fld f.payload 4 1 = (aux s (fld f.payload 0 1)).odr) ∨
      (fld f.payload 1 1 = 2 ∧ (aux s (fld f.payload 0 1)).enabled = false))
    (hcoil : fld f.payload 1 1 = 1 → s.ochre.coilDue = none ∨ tst (fld f.payload 11 1) 2 = false ∨
      reqExc f.payload 0 = vget s.aux.exc 0) :
    cmdAuxCfg f s =
      { status := St.ok, st := auxSet f.payload s, payload := auxReply (auxSet f.payload s) (fld f.payload 0 1) } := by
  have hunseen : (fld f.payload 0 1 ≤ 7 && auxArmed s (fld f.payload 0 1) &&
      (fld f.payload 1 1 = 2 && (aux s (fld f.payload 0 1)).enabled || fld f.payload 1 1 = 1 &&
        (fld f.payload 2 1 ≠ fld (aux s (fld f.payload 0 1)).cfg 2 1 || fld f.payload 4 1 ≠ (aux s (fld f.payload 0 1)).odr)))
      = false := by
    rcases harmed with h | h | ⟨h, hsource, hrate⟩ | ⟨h, hoff⟩
    · simp [h]
    · simp [h]
    · simp [h, hsource, hrate]
    · simp [h, hoff]
  have hsource : (fld f.payload 1 1 = 1 && s.ochre.coilDue.isSome && tst (fld f.payload 11 1) 2 &&
      reqExc f.payload 0 ≠ vget s.aux.exc 0) = false := by
    by_cases h : fld f.payload 1 1 = 1
    · rcases hcoil h with hc | hc | hc <;> simp [hc]
    · simp [h]
  have hidle : ((fld f.payload 1 1 = 1 || fld f.payload 1 1 = 2) && (claimed s (fld f.payload 0 1) ||
      (fld f.payload 1 1 = 1 && s.ochre.coilDue.isSome && tst (fld f.payload 11 1) 2 &&
        reqExc f.payload 0 ≠ vget s.aux.exc 0))) = false := by
    rw [hsource]
    rcases hfree with h | h <;> simp [h]
  unfold cmdAuxCfg auxSet
  refine (checked_ok ?_).trans ?_
  · simp only [List.all_cons, hunseen, hidle]
    simp [hchannel, haction, hranges]
  · split
    next h => rw [if_pos h]
    next h => rw [if_neg (by rw [h]; decide), if_pos h]
    next h1 h2 => rw [if_neg h1, if_neg h2]

/-- The reply to a read: results, and the drops of its channels. -/
def auxReadReply (n drops : Nat) (got : List AuxRes) (s : State) : List Byte :=
  le1 n ++ zeros 1 ++ le2 got.length ++ le4 (min (2 ^ 32 - 1) drops) ++ le1 s.aux.lastWakeCh ++ zeros 3
    ++ leInt 4 s.aux.lastWake ++ got.flatMap auxEntry

theorem cmdAuxRead_takes (hchannel : fld f.payload 0 1 ≤ 7) (hrsv : fld f.payload 1 1 = 0) (hmin : 1 ≤ fld f.payload 2 2)
    (hmax : fld f.payload 2 2 ≤ 250) :
    let n := fld f.payload 0 1
    cmdAuxRead f s =
      { status := St.ok, st := modAux n (fun c => { c with buf := c.buf.drop (fld f.payload 2 2) }) s,
        payload := auxReadReply n (aux s n).dropped.toNat ((aux s n).buf.take (fld f.payload 2 2)) s } := by
  have hsome : fld f.payload 2 2 ≠ 0 := Nat.ne_of_gt hmin
  have hone : fld f.payload 0 1 ≠ 0xFF := by omega
  unfold cmdAuxRead
  refine (checked_ok ?_).trans ?_
  · simp [hchannel, hrsv, hmax]
  · simp only [hsome, hone, if_false]
    rfl

theorem cmdAuxRead_latest (hchannel : fld f.payload 0 1 ≤ 7 ∨ fld f.payload 0 1 = 0xFF) (hrsv : fld f.payload 1 1 = 0)
    (hnone : fld f.payload 2 2 = 0) :
    let chs := if fld f.payload 0 1 = 0xFF then List.range 8 else [fld f.payload 0 1]
    cmdAuxRead f s =
      { status := St.ok, st := s,
        payload := auxReadReply (fld f.payload 0 1) ((chs.map (fun i => (aux s i).dropped.toNat)).sum)
          (chs.filterMap (fun i => (aux s i).last)) s } := by
  unfold cmdAuxRead
  refine (checked_ok ?_).trans ?_
  · simp [hchannel, hrsv, hnone]
  · simp only [hnone, if_true]
    rfl

/-! ### AMON_CFG (R443, R446) -/

theorem cmdAmonCfg_sets (hfit : fld f.payload 1 1 = 2 → s.ochreFitted = true) (hranges : amonBad s f.payload = false) :
    let k := fld f.payload 0 1
    let cfg := (f.payload.drop 1).take 17
    let t := if fld f.payload 1 1 = 0xFF then s
      else if fld f.payload 1 1 = 0 then { s with aux.amon := vset s.aux.amon k { cfg := cfg } }
      else { s with aux.amon := vmod s.aux.amon k (fun a => { a with next := some cfg }) }
    cmdAmonCfg f s = { status := St.ok, st := t, payload := amonReply t k } := by
  unfold cmdAmonCfg
  refine checked_ok ?_
  simpa [hranges, or_iff_not_imp_left] using hfit

/-! ### PAIR_CFG, PAIR_STATUS, CASTLE (R514, R521 to R523) -/

/-- The fields of `PAIR_CFG` in range: the role and the length of the route may be 0 where the action does not configure. -/
structure PairFields (p : List Byte) : Prop where
  rsv3   : fld p 3 1 = 0
  rsv10  : fld p 10 2 = 0
  flags  : fld p 2 1 ≤ 3
  node   : fld p 8 2 ≤ 16383
  role   : 1 ≤ fld p 1 1 ∧ fld p 1 1 ≤ 2 ∨ fld p 0 1 ≠ 1 ∧ fld p 1 1 = 0
  route  : 100000 ≤ fld p 4 4 ∧ fld p 4 4 ≤ 10000000 ∨ fld p 0 1 ≠ 1 ∧ fld p 4 4 = 0

/-- What an action of `PAIR_CFG` does: 1 configures the pair, 2 dissolves it, 0 reads. -/
def pairSet (p : List Byte) (s : State) : State :=
  if fld p 0 1 = 1 then configurePair p s
  else if fld p 0 1 = 2 then { s with pair := { takeovers := s.pair.takeovers } } else s

theorem pairSet_read {p : List Byte} (h : fld p 0 1 = 0) : pairSet p s = s := by simp [pairSet, h]

theorem pairSet_form {p : List Byte} (h : fld p 0 1 = 1) : pairSet p s = configurePair p s := if_pos h

theorem pairSet_dissolve {p : List Byte} (h : fld p 0 1 = 2) :
    pairSet p s = { s with pair := { takeovers := s.pair.takeovers } } := by simp [pairSet, h]

/-- The answer of a request that leaves the pair so. -/
def pairAnswer (t : State) : Ans := { status := St.ok, st := t, payload := pairCfgReply t }

theorem cmdPairCfg_sets (hfit : s.pairFitted = true) (hfields : PairFields f.payload) (haction : fld f.payload 0 1 ≤ 2)
    (hmode : fld f.payload 0 1 = 0 ∨ s.inMode [.standby, .warm] = true)
    (hplan : fld f.payload 0 1 = 1 → planRules s s (configurePair f.payload s) = true) :
    cmdPairCfg f s = pairAnswer (pairSet f.payload s) := by
  obtain ⟨hrsv3, hrsv10, hflags, hnode, hrole, hroute⟩ := hfields
  have hwrong : ((fld f.payload 0 1 = 1 || fld f.payload 0 1 = 2) && !s.inMode [.standby, .warm]) = false := by
    rcases hmode with h | h <;> simp [h]
  have hrules : (fld f.payload 0 1 = 1 && !planRules s s (configurePair f.payload s)) = false := by simpa using hplan
  unfold cmdPairCfg pairSet
  refine (checked_ok ?_).trans ?_
  · simp only [List.all_cons, List.all_nil, hwrong, hrules]
    simp [hfit, hrsv3, hrsv10, hflags, hnode, haction, definedOr0, hrole, hroute]
  · split
    next h => rw [if_pos h]; rfl
    next h => rw [if_neg (by rw [h]; decide), if_pos h]; rfl
    next h1 h2 => rw [if_neg h1, if_neg h2]; rfl

theorem cmdPairStatus_reports (hfit : s.pairFitted = true) :
    cmdPairStatus f s = { status := St.ok, st := s, payload := pairStatusReply s } := by
  unfold cmdPairStatus
  exact checked_ok (by simp [hfit])

/-- The partner is told of a castle that this device's own host asked for. -/
def castleTold (mine : Bool) (act : Byte) (count : Nat) (s : State) : State :=
  if mine then send (.castle act count) s else s

/-- The phase that a castle leads to. -/
def castlePhase (mine : Bool) (act : Nat) : PairPhase := if act = 2 then .paired else if mine then .solo else .yielded

/-- The answer of a castle: at the boundary after launch `h`, or at once when no launches run. -/
def castleAnswer (f : Fetched) (s : State) : Ans :=
  let act := fld f.payload 0 1
  let mine : Bool := f.src ≠ .partner
  let reply (count : Nat) : List Byte := le8 count ++ le1 (castlePhase mine act).code ++ zeros 3
  match nextCount s with
  | some h =>
    { status := St.ok, payload := reply (h + 1),
      st := { (castleTold mine (by8 act) (h + 1) s) with pair.castle := some (by8 act, h + 1, mine) } }
  | none =>
    { status := St.ok, payload := reply s.light.launches, st := castleTold mine (by8 act) s.light.launches s,
      after := castleAt (by8 act) mine s.light.launches }

theorem castleAnswer_ne_busy : (castleAnswer f s).status ≠ St.busy := by
  unfold castleAnswer
  dsimp only
  split <;> exact ok_ne_busy

theorem cmdCastle_castles (hfit : s.pairFitted = true) (haction : fld f.payload 0 1 = 1 ∨ fld f.payload 0 1 = 2)
    (hrsv : fld f.payload 1 3 = 0) (hallowed : castleAllowed (fld f.payload 0 1) s = true) (hcastle : s.pair.castle = none)
    (htests : s.pair.tests = []) (hsurvey : s.pair.deferSurvey = false) :
    cmdCastle f s = castleAnswer f s := by
  have hdefined : inR (fld f.payload 0 1) 1 2 = true := inR_iff.mpr (by omega)
  unfold cmdCastle castleAnswer
  refine (checked_ok ?_).trans ?_
  · simp [hfit, hdefined, hrsv, hallowed, hcastle, htests, hsurvey]
  · cases nextCount s with
    | none => simp [castleTold, castlePhase]
    | some h => simp [castleTold, castlePhase]
end

/-- Settles O29: each command's own checks pass, and what it then answers is what its request is answered with; `MEM_MAP` by
whether it sets the bank hashes. -/
theorem memoryCommands : Obligations.MemoryCommands := by
  unfold Obligations.MemoryCommands
  intro r s u p masks
  refine ⟨?status, ?train, ?read, ?policies, ?banks⟩
  case status =>
    intro hready hflags hrsv
    exact answers_of hready (cmdMemStatus_reports (f := reqOf memStatusSpec r s) (s := u) hflags hrsv) ok_ne_busy
  case train =>
    intro hready hmode hrec htrain htest hupdate hlive hmin hmax heye hrsv
    exact answers_of hready (cmdMemTrain_accepted (f := reqOf memTrainSpec r s) hmode hrec htrain htest hupdate hlive hmin hmax
      heye hrsv) accepted_ne_busy
  case read =>
    intro hready haction hrsv hmasks
    exact answers_of hready (cmdMemMap_reads (f := reqOf memMapSpec r s) hrsv hmasks haction) ok_ne_busy
  case policies =>
    intro hready haction hrsv hmasks t
    exact answers_of hready (cmdMemMap_setsPolicies (f := reqOf memMapSpec r s) hrsv hmasks haction) ok_ne_busy
  case banks =>
    intro hready haction hrsv hmasks hbits hmode hrec hpool htrain htest hupdate v t
    exact answers_of hready (cmdMemMap_setsBanks (f := reqOf memMapSpec r s) hrsv hmasks haction hbits hmode hrec hpool htrain
      htest hupdate) ok_ne_busy

/-- Settles O30: each command's own checks pass, and what it then answers is what its request is answered with. -/
theorem sensorCommands : Obligations.SensorCommands := by
  unfold Obligations.SensorCommands
  intro r s u p
  refine ⟨?configure, ?take, ?latest, ?monitor⟩
  case configure =>
    intro hready hchannel haction hranges n c hfree harmed hcoil t
    exact answers_of hready (cmdAuxCfg_sets (f := reqOf auxCfgSpec r s) hchannel haction hranges hfree harmed hcoil) ok_ne_busy
  case take =>
    intro hready hchannel hrsv hmin hmax n got
    exact answers_of hready (cmdAuxRead_takes (f := reqOf auxReadSpec r s) hchannel hrsv hmin hmax) ok_ne_busy
  case latest =>
    intro hready hchannel hrsv hnone chs got
    exact answers_of hready (cmdAuxRead_latest (f := reqOf auxReadSpec r s) hchannel hrsv hnone) ok_ne_busy
  case monitor =>
    intro hready hfit hranges k cfg t
    exact answers_of hready (cmdAmonCfg_sets (f := reqOf amonCfgSpec r s) hfit hranges) ok_ne_busy

/-- Settles O31: each command's own checks pass; `PAIR_CFG` by its action, `CASTLE` by whether a launch is still to come. -/
theorem pairCommands : Obligations.PairCommands := by
  unfold Obligations.PairCommands
  intro r s u p
  refine ⟨?configure, ?status, ?castle⟩
  case configure =>
    intro hready hfit hrsv3 hrsv10 hflags hnode hrole hroute
    have hfields : PairFields (reqOf pairCfgSpec r s).payload := ⟨hrsv3, hrsv10, hflags, hnode, hrole, hroute⟩
    have hsets := cmdPairCfg_sets (f := reqOf pairCfgSpec r s) (s := u) hfit hfields
    refine ⟨fun haction => ?read, fun haction hmode hplan => ?form, fun haction hmode => ?dissolve⟩
    case read =>
      have hreads := hsets (haction.trans_le (by decide)) (.inl haction) (fun h => absurd (haction.symm.trans h) (by decide))
      exact answers_of hready (hreads.trans (congrArg pairAnswer (pairSet_read haction))) ok_ne_busy
    case form =>
      have hforms := hsets (haction.trans_le (by decide)) (.inr hmode) (fun _ => hplan)
      exact answers_of hready (hforms.trans (congrArg pairAnswer (pairSet_form haction))) ok_ne_busy
    case dissolve =>
      intro t
      have hdissolves := hsets haction.le (.inr hmode) (fun h => absurd (haction.symm.trans h) (by decide))
      exact answers_of hready (hdissolves.trans (congrArg pairAnswer (pairSet_dissolve haction))) ok_ne_busy
  case status =>
    intro hready hfit
    exact answers_of hready (cmdPairStatus_reports (f := reqOf pairStatusSpec r s) hfit) ok_ne_busy
  case castle =>
    intro hready hfit haction hrsv hallowed hcastle htests hsurvey mine after told
    have hcastles := cmdCastle_castles (f := reqOf castleSpec r s) (s := u) hfit haction hrsv hallowed hcastle htests hsurvey
    have hanswers := answers_of hready hcastles castleAnswer_ne_busy
    unfold castleAnswer at hanswers
    refine ⟨fun h hnext => ?_, fun hnext => ?_⟩
    · rw [hnext] at hanswers
      exact hanswers
    · rw [hnext] at hanswers
      exact hanswers

end Sys2Proof.Machine
end

section
/-! PROOFS. The registers of BAR0 and SMBus and the links as the host and the board see them (O33, O34, O36). -/

namespace Sys2Proof.Machine

open Sys2Proof

@[simp] theorem getQ_setQ_same (q : Nat) (x : PQueue) (s : State) : getQ q (setQ q x s) = x := by
  unfold getQ setQ
  split <;> rfl

/-! ### A base written after a flush that a recovery holds back (R354, R357, R374)

A `FLUSH` written during a recovery waits for its end in the queue, also in one that is disabled. The write of a base register
that then restarts the queue drops it, which the statement's restarted queue does not. -/

/-- A recovery with cause 1 begins in the device as reset leaves it. -/
def recovering : State := startRecovery 1 0xFFFF [] State.reset

/-- Queue 0, disabled, with a flush that waits for the end of that recovery. -/
def flushWaiting : State := setQ 0 { (getQ 0 recovering) with flush := some (0, 0, []) } recovering

/-- A `FLUSH` leaves the device so. -/
theorem execFlush_recovering : exec (.flush 0 0 []) recovering = .next flushWaiting := rfl

/-- A register of a queue that is disabled and idle is written, and the queue restarts. -/
theorem execQueueBaseSizeWrite_disabled {q : Fin 2} {reg : QueueReg} {v : U32} {s : State} (hup : s.hostUp = true)
    (hwrites : writesNothing reg v (getQ q.val s) = false) (hoff : (getQ q.val s).enable = false) (hidle : qIdle q.val s = true) :
    exec (.queueBaseSizeWrite q reg v) s = .next (setQ q.val (queueWrite reg v (getQ q.val s)) s) := by
  have hopen : ¬ (!s.hostUp || writesNothing reg v (getQ q.val s)) = true := by simp [hup, hwrites]
  have hfree : ¬ ((getQ q.val s).enable || !qIdle q.val s) = true := by simp [hoff, hidle]
  exact congrArg Host.Outcome.next ((if_neg hopen).trans (if_neg hfree))

/-- Refutes O33: after a write of `SQ_BASE` no flush waits in the queue, where the statement keeps the one that did. -/
theorem not_queueRegisters : ¬ Obligations.QueueRegisters := by
  unfold Obligations.QueueRegisters
  intro hregisters
  obtain ⟨-, -, -, -, -, hrestart, -⟩ := hregisters 0 .sqBaseLo 0 flushWaiting rfl
  obtain ⟨hbase, -⟩ := hrestart rfl rfl _ rfl
  rw [execQueueBaseSizeWrite_disabled rfl rfl rfl rfl] at hbase
  have hqueue := congrArg (getQ 0) (Host.Outcome.next.inj hbase)
  exact absurd (congrArg PQueue.flush hqueue) (by decide)

/-! ### CMD_CTRL, the keys, W1C flags and other registers (R355, R362, R552 to R559) -/

/-- A register write that is aligned and whole, to a register that the host reaches. -/
theorem execRegisterWrite_up {off size : Nat} {v : U32} {s : State} (hup : s.hostUp = true) :
    exec (.registerWrite off size v) s = .next (registerWrite off size v s) :=
  congrArg Host.Outcome.next (if_pos hup)

theorem registerWrite_discarded {off size : Nat} {v : U32} {s : State} (h : size ≠ 4 ∨ off % 4 ≠ 0) :
    registerWrite off size v s = s :=
  if_pos (by simpa using h)

theorem registerWrite_level {v : U32} {s : State} (h : v.toNat % 128 ≤ 64) :
    registerWrite 0x420 4 v s = { s with evq.level := v.toNat % 128 } :=
  if_pos h

/-- The words of the key registers are staged at their place. -/
theorem registerWrite_key (k : Fin 8) (v : U32) (s : State) : registerWrite (0x220 + 4 * k.val) 4 v s = stageKey k.val v s := by
  have haligned : ¬ ((4 : Nat) ≠ 4 || (0x220 + 4 * k.val) % 4 ≠ 0) = true := by simp
  have hctrl : ¬ 0x220 + 4 * k.val = 0x204 := by omega
  have hstage : inR (0x220 + 4 * k.val) 0x220 0x23C = true := inR_iff.mpr (by omega)
  have hplace : (0x220 + 4 * k.val - 0x220) / 4 = k.val := by omega
  unfold registerWrite
  rw [if_neg haligned, if_neg hctrl, if_pos hstage, hplace]

/-- Settles O34: each register by what a write to it does while the host link is up. -/
theorem controlRegisters : Obligations.ControlRegisters := by
  unfold Obligations.ControlRegisters
  intro v hw q k off size s hup key ctrl
  have hclears (reg : W1cReg) : exec (.w1cClear reg v hw) s = .next (w1cClear reg v hw s) :=
    congrArg Host.Outcome.next (if_pos hup)
  have hregister (off : Nat) := execRegisterWrite_up (off := off) (size := 4) (v := v) hup
  refine ⟨?load, ?clear, hclears _, hclears _, ?errors, hregister _, ?level, hregister _, ?stage, ?discard⟩
  case load => exact congrArg Host.Outcome.next (if_pos hup)
  case clear => exact congrArg Host.Outcome.next (if_pos hup)
  case errors => exact ⟨_, hclears _, rfl, rfl, rfl, rfl⟩
  case level => exact fun hlevel => (hregister _).trans (congrArg _ (registerWrite_level hlevel))
  case stage => exact (hregister _).trans (congrArg _ (registerWrite_key k v s))
  case discard => exact fun hbad => (execRegisterWrite_up hup).trans (congrArg _ (registerWrite_discarded hbad))

/-! ### SMBus, the board record and the links (R362, R554, R561 to R566) -/

/-- Settles O36: each row's conditions decide its branch. -/
theorem linksAndSmbus : Obligations.LinksAndSmbus := by
  unfold Obligations.LinksAndSmbus
  refine ⟨?smbus, ?links⟩
  case smbus =>
    intro key d v code s hup
    refine ⟨?load, ?clear, ?pointer, ?write, ?read, ?commit, ?reject, ?written, ?badKey, ?badClear, ?badWrite, ?badCommit,
      ?badPointer⟩
    case load => exact fun hkey => congrArg Host.Outcome.next (if_pos (by simp [hup, hkey]))
    case clear => exact fun hbit => congrArg Host.Outcome.next (if_pos (by simp [hup, hbit]))
    case pointer => exact congrArg Host.Outcome.next (if_pos (by simp [hup]))
    case write => exact congrArg Host.Outcome.next (if_pos (by simp [hup]))
    case read => exact congrArg Host.Outcome.next (if_pos (by simp [hup]))
    case commit =>
      intro hfree hcheck
      exact congrArg Host.Outcome.next ((if_neg (by simp [hup, hfree])).trans (if_pos (decide_eq_true hcheck)))
    case reject =>
      intro hfree hcheck
      exact congrArg Host.Outcome.next ((if_neg (by simp [hup, hfree])).trans (if_neg (by simpa [boardOk] using hcheck)))
    case written =>
      intro w hw
      simp only [exec, execBoardRecordWritten, hw]
    case badKey => exact congrArg Host.Outcome.next (if_neg (by simp))
    case badClear => exact congrArg Host.Outcome.next (if_neg (by simp))
    case badWrite => exact congrArg Host.Outcome.next (if_neg (by simp))
    case badCommit => exact congrArg Host.Outcome.next (if_pos (by simp))
    case badPointer => exact congrArg Host.Outcome.next (if_neg (by simp))
  case links =>
    intro k t port b s
    refine ⟨?reset, rfl, rfl, ?up, ?jtag⟩
    case reset => exact fun hup => ⟨_, congrArg Host.Outcome.next (if_neg (by simp [hup])), rfl⟩
    case up => exact fun hup => congrArg Host.Outcome.next (if_pos hup)
    case jtag => exact fun hup hperst hmode => congrArg Host.Outcome.next (if_pos (by
        show (s.poweredUp && !s.link.perstN && decide (s.power.mode = .standby)) = true
        simp [hup, hperst, hmode]))

end Sys2Proof.Machine
end

section
/-! PROOFS. What reaches the device and what waits in it: entries, datagrams, held and mirrored commands, recoveries (O37). Built
on Laws/State.lean. -/

namespace Sys2Proof.Machine

open Sys2Proof

/-! ### Rows whose command is there (R370, R372, R374) -/

section
variable {s : State} {t : Ps}

theorem execDeferRetry_held {src : Source} {h : HeldCmd} (hheld : heldOf src (s.adv t) = some h) :
    let u := s.adv t
    execDeferRetry t src s =
      .next (if u.pathDown || u.cmd.recovery.isSome || u.cmd.mirror.isSome || u.now < h.tried + 100000000 then u
        else drainPartner 64 (retry src h u)) := by
  simp only [execDeferRetry, hheld]

theorem execDeferTimeout_held {src : Source} {h : HeldCmd} (hheld : heldOf src (s.adv t) = some h) :
    let u := s.adv t
    execDeferTimeout t src s =
      .next (if u.pathDown || u.cmd.recovery.isSome || u.now < h.first + 100000000000 then u
        else drainPartner 64 (conclude h.req (reject St.timeout (unhold src u)) false)) := by
  simp only [execDeferTimeout, hheld]

theorem execMirrorReply_waiting {status : Byte} {m : MirrorWait} (hmirror : (s.adv t).cmd.mirror = some m) :
    execMirrorReply t status s = .next (if (s.adv t).pathDown then s.adv t else mirrorDone status m (s.adv t)) := by
  simp only [execMirrorReply, hmirror]

theorem execMirrorTimeout_waiting {m : MirrorWait} (hmirror : (s.adv t).cmd.mirror = some m) :
    let u := s.adv t
    execMirrorTimeout t s =
      .next (if u.pathDown || u.now < m.sent + 50000000 then u else mirrorDone (by8 St.timeout) m u) := by
  simp only [execMirrorTimeout, hmirror]

/-- The recovery in progress after `RECOVERY` has begun one where none was. -/
def recoveryBegun (cause : Byte) (unit : U16) (s : State) : State :=
  if s.cmd.recovery.isNone && cause.toNat ≤ 5 then startRecovery cause unit [] s else s

/-- A recovery in progress finishes, and then the partner's requests run. -/
theorem execRecovery_finishes {cause : Byte} {unit : U16} {e0 e1 : List EntryHdr} {x : RecoveryRec}
    (hup : (s.adv t).pathDown = false) (hrec : (recoveryBegun cause unit (s.adv t)).cmd.recovery = some x) :
    execRecovery t cause unit e0 e1 s =
      .next (drainPartner 64 (finishRecovery x e0 e1 (recoveryBegun cause unit (s.adv t)))) := by
  unfold recoveryBegun at hrec ⊢
  simp only [execRecovery, hup, hrec, Bool.false_eq_true, if_false]

theorem recoveryBegun_running {cause : Byte} {unit : U16} {x : RecoveryRec} (hrec : s.cmd.recovery = some x) :
    recoveryBegun cause unit s = s :=
  if_neg (by simp [hrec])

theorem recoveryBegun_starts {cause : Byte} {unit : U16} (hrec : s.cmd.recovery = none) (hcause : cause.toNat ≤ 5) :
    recoveryBegun cause unit s = startRecovery cause unit [] s :=
  if_pos (by simp [hrec, hcause])

/-- No recovery runs and the cause is none that begins one. -/
theorem execRecovery_idle {cause : Byte} {unit : U16} {e0 e1 : List EntryHdr} (hup : (s.adv t).pathDown = false)
    (hrec : (s.adv t).cmd.recovery = none) (hcause : 5 < cause.toNat) : execRecovery t cause unit e0 e1 s = .next (s.adv t) := by
  have hsame : recoveryBegun cause unit (s.adv t) = s.adv t := if_neg (by simp [Nat.not_le.mpr hcause])
  unfold recoveryBegun at hsame
  unfold execRecovery
  simp only [hup, Bool.false_eq_true, if_false]
  rw [hsame, hrec]

/-! ### Datagrams (R360, R602) -/

theorem execUdpDatagram_takes {port : Fin 2} {id : Nat} {low : U32} {bytes : List Byte} (hreach : udpLost (s.adv t) = false)
    (hport : ipUp port.val (s.adv t) = true) (hrec : (s.adv t).cmd.recovery = none) (hup : (s.adv t).mgmt.down = false) :
    execUdpDatagram t port id low bytes s = .next (takeDatagram id low bytes (s.adv t)) :=
  congrArg Host.Outcome.next ((if_neg (by simp [hreach, hport])).trans
    (if_neg (by simp [-State.adv_cmd, -State.adv_mgmt, hrec, hup])))

theorem execUdpDatagram_buffers {port : Fin 2} {id : Nat} {low : U32} {bytes : List Byte} (hreach : udpLost (s.adv t) = false)
    (hport : ipUp port.val (s.adv t) = true) (hwait : (s.adv t).cmd.recovery.isSome = true ∨ (s.adv t).mgmt.down = true) :
    execUdpDatagram t port id low bytes s = .next (bufferDatagram port.val (id, low, bytes) (s.adv t)) :=
  congrArg Host.Outcome.next ((if_neg (by simp [hreach, hport])).trans (if_pos (by simpa using hwait)))

/-- The gap is skipped 10 ms after the oldest request held. -/
theorem execUdpGap_skips {id : Nat} {urgent : Bool} {h : Ps × Fetched} {rest : List (Ps × Fetched)}
    (hheld : (udpQ id urgent (s.adv t)).held = h :: rest) (hdue : h.1 + 10000000000 ≤ (s.adv t).now)
    (hrec : (s.adv t).cmd.recovery = none) (hup : (s.adv t).pathDown = false) :
    execUdpGap t id urgent s = .next (skipGap id urgent (s.adv t)) :=
  congrArg Host.Outcome.next (if_pos (by simp [-State.adv_now, -State.adv_cmd, hheld, hdue, hrec, hup]))

/-! ### Flushes and the partner's requests (R357, R372, R376) -/

theorem execFlush_flushes {q : Fin 2} {es : List EntryHdr} (hhost : (s.adv t).hostUp = true) (hup : (s.adv t).pathDown = false)
    (hrec : (s.adv t).cmd.recovery = none) : execFlush t q es s = .next (flushQueue q es (s.adv t)) :=
  congrArg Host.Outcome.next ((if_neg (by simp [hhost, hup])).trans (if_neg (by simp [-State.adv_cmd, hrec])))

/-- A flush written during a recovery waits for its end. -/
theorem execFlush_waits {q : Fin 2} {es : List EntryHdr} (hhost : (s.adv t).hostUp = true) (hup : (s.adv t).pathDown = false)
    (hrec : (s.adv t).cmd.recovery.isSome = true) :
    let x := getQ q.val (s.adv t)
    execFlush t q es s = .next (setQ q.val { x with flush := some (x.sqHead, x.tail.toNat, es) } (s.adv t)) :=
  congrArg Host.Outcome.next ((if_neg (by simp [hhost, hup])).trans (if_pos hrec))
end

/-- The partner's requests wait while a recovery runs. -/
theorem drainPartner_recovering {n : Nat} {s : State} (h : s.cmd.recovery.isSome = true) : drainPartner n s = s := by
  cases n with
  | zero => rfl
  | succ n => exact if_pos (by rw [h]; rfl)

theorem execMirroredRequest_takes {op : Byte} {r : Req} {s : State} (hup : (arrived r s).pathDown = false)
    (hpair : (arrived r s).inPair = true) : execMirroredRequest op r s = .next (partnerRequest op r (arrived r s)) :=
  congrArg Host.Outcome.next (if_neg (by
    show ¬ ((arrived r s).pathDown || !(arrived r s).inPair) = true
    rw [hup, hpair]; decide))

/-- Settles O37: the lemma of each row, its conditions as the statement has them. -/
theorem transportEvents : Obligations.TransportEvents := by
  unfold Obligations.TransportEvents
  intro t q e es e1 port id low bytes urgent src op status cause r unit s u
  refine ⟨fun hmay => congrArg Host.Outcome.next (if_pos hmay), execUdpDatagram_takes, execUdpDatagram_buffers,
    fun _ _ => execUdpGap_skips, fun hhost => execFlush_flushes (t := t) hhost, fun hhost => execFlush_waits (t := t) hhost,
    ?retry, ?giveUp, execMirroredRequest_takes, ?requestWaits, ?reply, ?noReply, ?finish, ?begin, execRecovery_idle⟩
  case retry =>
    intro h hheld hup hrec hmirror hdue
    exact (execDeferRetry_held hheld).trans (congrArg _ (if_neg (by
      simp [-State.adv_now, show s.adv t = u from rfl, hup, hrec, hmirror, Nat.not_lt.mpr hdue])))
  case giveUp =>
    intro h hheld hup hrec hdue
    exact (execDeferTimeout_held hheld).trans (congrArg _ (if_neg (by
      simp [-State.adv_now, show s.adv t = u from rfl, hup, hrec, Nat.not_lt.mpr hdue])))
  case requestWaits =>
    intro hup hpair hrec
    exact (execMirroredRequest_takes hup hpair).trans (congrArg _ (drainPartner_recovering hrec))
  case reply =>
    intro m hmirror hup
    exact (execMirrorReply_waiting hmirror).trans (congrArg _ (if_neg (Bool.eq_false_iff.mp hup)))
  case noReply =>
    intro m hmirror hup hdue
    exact (execMirrorTimeout_waiting hmirror).trans (congrArg _ (if_neg (by
      simp [-State.adv_now, show s.adv t = u from rfl, hup, Nat.not_lt.mpr hdue])))
  case finish =>
    intro x hup hrec
    have hsame : recoveryBegun cause unit u = u := recoveryBegun_running hrec
    have hfinishes := execRecovery_finishes (t := t) (cause := cause) (unit := unit) (e0 := es) (e1 := e1) hup
      ((congrArg (fun v : State => v.cmd.recovery) hsame).trans hrec)
    exact hfinishes.trans (congrArg (fun v => Host.Outcome.next (drainPartner 64 (finishRecovery x es e1 v))) hsame)
  case begin =>
    intro x hup hrec hcause hbegun
    have hstarts : recoveryBegun cause unit u = startRecovery cause unit [] u := recoveryBegun_starts hrec hcause
    have hfinishes := execRecovery_finishes (t := t) (cause := cause) (unit := unit) (e0 := es) (e1 := e1) hup
      ((congrArg (fun v : State => v.cmd.recovery) hstarts).trans hbegun)
    exact hfinishes.trans (congrArg (fun v => Host.Outcome.next (drainPartner 64 (finishRecovery x es e1 v))) hstarts)

end Sys2Proof.Machine
end

section
/-! PROOFS. What one occurrence of a fault does: the log, the fault table and the item (R385, R480, R483, R518). -/

namespace Sys2Proof.Machine

open Sys2Proof

/-! ### Items that carry an epoch -/

theorem riseCheck_frame (n : Nat) (s : State) : ∃ l o, riseCheck n s = { s with link := l, outbox := o } := by
  unfold riseCheck
  split <;> exact ⟨_, _, rfl⟩

/-- An item goes to the event queue and asks for vector 1 perhaps; it changes nothing else. -/
theorem evtItemE_frame (type : Nat) (epoch : U16) (body : List Byte) (s : State) :
    ∃ q l o, evtItemE type epoch body s = { s with evq := q, link := l, outbox := o } := by
  unfold evtItemE evtItemAt
  extract_lets ws it v q u
  split
  · exact ⟨_, _, _, rfl⟩
  · split
    · exact ⟨_, _, _, rfl⟩
    · obtain ⟨l, o, h⟩ := riseCheck_frame v.evq.unread u
      exact ⟨_, l, o, h⟩

/-- An item of an epoch decided now, before it has its place. -/
def newItemE (type : Nat) (epoch : U16) (body : List Byte) (s : State) : EvtItem :=
  newItem type body { s with cmd.epoch := epoch }

theorem newItemE_length (type : Nat) (epoch : U16) (body : List Byte) (s : State) :
    (newItemE type epoch body s).words.length = cdiv body.length 8 + 1 :=
  newItem_length _ _ _

/-- The queue after an item at a cycle: it has its place, or does not fit and is counted as lost. -/
def EvqState.offered (it : EvtItem) (cyc : Nat) (q : EvqState) : EvqState :=
  if q.free cyc < it.words.length then { q with lost := satInc q.lost } else { q with items := placeItem it q.items }

theorem evtItemE_evq (type : Nat) (epoch : U16) (body : List Byte) (s : State) :
    (evtItemE type epoch body s).evq = (s.evq.forwarded s.cycle).offered (newItemE type epoch body s) s.cycle := by
  unfold evtItemE evtItemAt
  extract_lets ws it v q u
  have hplace : (if v.evq.fwdOn then u else riseCheck v.evq.unread u).evq = { q with items := placeItem it q.items } := by
    rw [apply_ite State.evq, riseCheck_evq, ite_self]
    exact congrArg (fun l => { q with items := l }) (if_neg (lt_irrefl s.now))
  rw [apply_ite State.evq, hplace]
  rfl

theorem EvqState.offered_admitted {it : EvtItem} {cyc : Nat} {q : EvqState} (hroom : it.words.length ≤ q.free cyc) :
    (q.offered it cyc).used = q.used + it.words.length ∧ (q.offered it cyc).lost = q.lost := by
  unfold EvqState.offered
  rw [if_neg (not_lt.mpr hroom)]
  exact ⟨wordCount_placeItem _ _, rfl⟩

theorem EvqState.offered_dropped {it : EvtItem} {cyc : Nat} {q : EvqState} (hfull : q.free cyc < it.words.length) :
    (q.offered it cyc).items = q.items ∧ (q.offered it cyc).lost = satInc q.lost := by
  unfold EvqState.offered
  rw [if_pos hfull]
  exact ⟨rfl, rfl⟩

/-! ### The fault table (R518) -/

theorem satInc_toNat (c : U32) : (satInc c).toNat = if c.toNat = 2 ^ 32 - 1 then c.toNat else c.toNat + 1 := by
  have hmax : c = BitVec.allOnes 32 ↔ c.toNat = 2 ^ 32 - 1 := by rw [BitVec.toNat_eq, BitVec.toNat_allOnes]
  unfold satInc
  split
  next h => rw [if_pos (hmax.mp h)]
  next h =>
    have hlast : ¬ c.toNat = 2 ^ 32 - 1 := mt hmax.mpr h
    rw [if_neg hlast, BitVec.toNat_add]
    have hroom : c.toNat + 1 < 2 ^ 32 := by omega
    exact Nat.mod_eq_of_lt hroom

/-- The entry of a code after one more occurrence. -/
def FaultEntry.again (o : FaultOcc) (sec : U32) (e : FaultEntry) : FaultEntry :=
  { e with count := satInc e.count, unread := e.unread || faultQueued o.code, retired := e.retired || o.retired,
           lastSec := sec, lastArg := BitVec.ofNat 32 o.a0 }

/-- The entry of a code that has none yet. -/
def FaultEntry.first (o : FaultOcc) (c : Nat) (sec : U32) : FaultEntry :=
  { code := o.code, cls := BitVec.ofNat 8 c, unread := faultQueued o.code, retired := o.retired, count := 1, lastSec := sec,
    lastArg := BitVec.ofNat 32 o.a0 }

section
variable {o : FaultOcc} {c : Nat} (hclass : faultClass o.code = some c)
include hclass

theorem faultTable_known {sec : U32} {t : List FaultEntry} (h : t.any (·.code = o.code) = true) :
    faultTable o sec t = t.map (fun e => if e.code = o.code then e.again o sec else e) := by
  simp only [faultTable, hclass, h, if_true]
  rfl

theorem faultTable_new {sec : U32} {t : List FaultEntry} (h : t.any (·.code = o.code) = false) :
    faultTable o sec t = t ++ [FaultEntry.first o c sec] := by
  simp only [faultTable, hclass, h]
  rfl

/-- The entry of a code in the table after an occurrence. -/
theorem find_faultTable_known {sec : U32} {t : List FaultEntry} (h : t.any (·.code = o.code) = true) (k : Nat) :
    (faultTable o sec t).find? (·.code = k) =
      (t.find? (·.code = k)).map (fun e => if e.code = o.code then e.again o sec else e) := by
  rw [faultTable_known hclass h, List.find?_map]
  congr 2
  funext e
  dsimp only [Function.comp]
  split <;> rfl

theorem faultCount_self (sec : U32) (t : List FaultEntry) :
    let n := faultCount o.code t
    faultCount o.code (faultTable o sec t) = if n = 2 ^ 32 - 1 then n else n + 1 := by
  unfold faultCount
  cases h : t.any (·.code = o.code) with
  | true =>
    rw [find_faultTable_known hclass h]
    obtain ⟨e, he⟩ := Option.isSome_iff_exists.mp (List.find?_isSome.mpr (List.any_eq_true.mp h))
    have hcode : e.code = o.code := by simpa using List.find?_some he
    simp only [he, Option.map_some, Option.getD_some, if_pos hcode]
    exact satInc_toNat e.count
  | false =>
    have hnone : t.find? (·.code = o.code) = none := by simpa using h
    simp [faultTable_new hclass h, hnone, FaultEntry.first]

theorem faultCount_other (sec : U32) (t : List FaultEntry) {k : Nat} (hk : k ≠ o.code) :
    faultCount k (faultTable o sec t) = faultCount k t := by
  unfold faultCount
  cases h : t.any (·.code = o.code) with
  | true =>
    rw [find_faultTable_known hclass h]
    cases he : t.find? (·.code = k) with
    | none => rfl
    | some e =>
      have hcode : e.code = k := by simpa using List.find?_some he
      simp only [Option.map_some, if_neg (hcode.trans_ne hk)]
  | false => simp [faultTable_new hclass h, FaultEntry.first, hk.symm]
end

/-! ### The occurrence (R480, R483) -/

/-- An occurrence logged and entered in the table; the first of a state-bound condition is remembered (R486). -/
def faultCounted (o : FaultOcc) (s : State) : State :=
  let s := logEntry o.code (o.logArg.getD o.a0) s
  let s := { s with fault.table := faultTable o (BitVec.ofNat 32 (s.devSec s.now)) s.fault.table }
  if faultBound o.code && !s.fault.bound.contains o.code then { s with fault.bound := o.code :: s.fault.bound } else s

/-- The log, the table and the conditions are all of the state that it changes. -/
theorem faultCounted_eq (o : FaultOcc) (s : State) :
    ∃ b, faultCounted o s = { s with fault := { (logEntry o.code (o.logArg.getD o.a0) s).fault with
      table := faultTable o (BitVec.ofNat 32 (s.devSec s.now)) s.fault.table, bound := b } } := by
  unfold faultCounted
  dsimp only
  split <;> exact ⟨_, rfl⟩

/-- The item of an occurrence, and what tells of it: the unread mark and vector 3 where the item is admitted (R555). -/
def faultTold (o : FaultOcc) (c ix : Nat) (s : State) : State :=
  let t := evtItemE 0x05 (if o.answers then s.answerEpoch else s.cmd.epoch) (faultBody o (faultCount o.code s.fault.table) ix) s
  let t := if s.admits 4 then { t with fault.unread := true } else t
  if s.admits 4 && (!s.fault.unread || 1 ≤ c) then reqVector 3 t else t

theorem raise_unqueued {o : FaultOcc} {c : Nat} (hclass : faultClass o.code = some c) (hqueued : faultQueued o.code = false)
    (s : State) : raise o s = faultCounted o s := by
  unfold raise
  simp only [hclass, hqueued]
  rfl

theorem raise_queued {o : FaultOcc} {c : Nat} (hclass : faultClass o.code = some c) (hqueued : faultQueued o.code = true)
    (s : State) : raise o s = faultTold o c s.fault.logNext.toNat (faultCounted o s) := by
  unfold raise
  simp only [hclass, hqueued]
  rfl

/-- The epoch that the item of an occurrence carries. -/
def faultEpoch (o : FaultOcc) (s : State) : U16 := if o.answers then s.answerEpoch else s.cmd.epoch

/-- What tells of an occurrence is in the event queue, the interrupt cause and what is sent, beside the unread mark. -/
theorem faultTold_eq (o : FaultOcc) (c ix : Nat) (s : State) :
    ∃ l out, faultTold o c ix s = { s with
      evq := (evtItemE 0x05 (faultEpoch o s) (faultBody o (faultCount o.code s.fault.table) ix) s).evq,
      link := l, outbox := out, fault := { s.fault with unread := s.admits 4 || s.fault.unread } } := by
  obtain ⟨q, l, out, hitem⟩ := evtItemE_frame 0x05 (faultEpoch o s) (faultBody o (faultCount o.code s.fault.table) ix) s
  unfold faultTold
  unfold faultEpoch at hitem ⊢
  simp only [hitem]
  cases s.admits 4 with
  | false => exact ⟨_, _, rfl⟩
  | true =>
    simp only [if_true]
    split <;> exact ⟨_, _, rfl⟩

theorem raise_unclassed {o : FaultOcc} (hclass : faultClass o.code = none) (s : State) : raise o s = faultCounted o s := by
  unfold raise
  simp only [hclass]
  rfl

/-- An occurrence changes what is counted of the faults, the event queue, the interrupt cause and what is sent. -/
theorem raise_frame (o : FaultOcc) (s : State) : ∃ log next table unread bound q l out, raise o s = { s with
    fault := { s.fault with log := log, logNext := next, table := table, unread := unread, bound := bound },
    evq := q, link := l, outbox := out } := by
  obtain ⟨b, hcounted⟩ := faultCounted_eq o s
  cases hclass : faultClass o.code with
  | none => exact ⟨_, _, _, _, _, _, _, _, (raise_unclassed hclass s).trans hcounted⟩
  | some c =>
    cases hqueued : faultQueued o.code with
    | false => exact ⟨_, _, _, _, _, _, _, _, (raise_unqueued hclass hqueued s).trans hcounted⟩
    | true =>
      obtain ⟨l, out, htold⟩ := faultTold_eq o c s.fault.logNext.toNat (faultCounted o s)
      rw [raise_queued hclass hqueued s, htold, hcounted]
      exact ⟨_, _, _, _, _, _, _, _, rfl⟩

theorem faultBody_length (o : FaultOcc) (count ix : Nat) : (faultBody o count ix).length = 24 := by
  simp [faultBody, le1, le2, le4]

/-- The item of an occurrence has four words. -/
theorem faultItem_length (o : FaultOcc) (count ix : Nat) (epoch : U16) (s : State) :
    (newItemE 0x05 epoch (faultBody o count ix) s).words.length = 4 := by
  rw [newItemE_length, faultBody_length]
  rfl

section
variable {o : FaultOcc} {c : Nat} (hclass : faultClass o.code = some c) (s : State)
include hclass

/-- The faults after an occurrence. -/
theorem raise_fault : ∃ b, (raise o s).fault = { (logEntry o.code (o.logArg.getD o.a0) s).fault with
    table := faultTable o (BitVec.ofNat 32 (s.devSec s.now)) s.fault.table, bound := b,
    unread := faultQueued o.code && s.admits 4 || s.fault.unread } := by
  obtain ⟨b, hcounted⟩ := faultCounted_eq o s
  refine ⟨b, ?_⟩
  cases hqueued : faultQueued o.code with
  | false => rw [raise_unqueued hclass hqueued s, hcounted]; rfl
  | true =>
    obtain ⟨l, out, htold⟩ := faultTold_eq o c s.fault.logNext.toNat (faultCounted o s)
    rw [raise_queued hclass hqueued s, htold, hcounted]
    rfl

theorem raise_evq_unqueued (hqueued : faultQueued o.code = false) : (raise o s).evq = s.evq := by
  obtain ⟨b, hcounted⟩ := faultCounted_eq o s
  rw [raise_unqueued hclass hqueued s, hcounted]

/-- The queue after an occurrence whose item is queued. -/
theorem raise_evq_queued (hqueued : faultQueued o.code = true) :
    ∃ it : EvtItem, it.words.length = 4 ∧ (raise o s).evq = (s.evq.forwarded s.cycle).offered it s.cycle := by
  obtain ⟨b, hcounted⟩ := faultCounted_eq o s
  obtain ⟨l, out, htold⟩ := faultTold_eq o c s.fault.logNext.toNat (faultCounted o s)
  have hevq : (faultCounted o s).evq = s.evq := by rw [hcounted]
  have hcycle : (faultCounted o s).cycle = s.cycle := by rw [hcounted]; rfl
  have hqueue := evtItemE_evq 0x05 (faultEpoch o (faultCounted o s))
    (faultBody o (faultCount o.code (faultCounted o s).fault.table) s.fault.logNext.toNat) (faultCounted o s)
  rw [hevq, hcycle] at hqueue
  rw [raise_queued hclass hqueued s, htold]
  exact ⟨_, faultItem_length _ _ _ _ _, hqueue⟩
end

end Sys2Proof.Machine
end

section
/-! PROOFS. How a command is answered: the reply, its entry in a completion queue, what it asks for and what it leaves alone (O54,
O57, O59). Built on Laws/State.lean. -/

namespace Sys2Proof.Machine

open Sys2Proof

/-! ### The reply (R347, R349) -/

theorem toNat_by8 {n : Nat} (h : n < 256) : (by8 n).toNat = n := by
  rw [by8, BitVec.toNat_ofNat]
  exact Nat.mod_eq_of_lt h

/-- The check at the end of a payload reads as what it was computed to be. -/
theorem fld_withCrc (l : List Byte) : fld (withCrc l) l.length 4 = (crc32c l).toNat := by
  have hcheck : ((withCrc l).drop l.length).take 4 = le4 (crc32c l).toNat := by
    rw [withCrc, List.drop_left]
    exact List.take_of_length_le (leBytes_length 4 _).le
  rw [fld, hcheck]
  exact leVal_leBytes 4 _ (crc32c l).isLt

theorem withCrc_length (l : List Byte) : (withCrc l).length = l.length + 4 := by
  simp [withCrc, le4]

theorem mkReply_payload_cons {f : Fetched} {status rflags partner : Nat} {payload : List Byte} (h : payload ≠ []) :
    (mkReply f status payload rflags partner).payload = withCrc payload :=
  if_neg (by simp [h])

theorem mkReply_payload_nil {f : Fetched} {status rflags partner : Nat} (h : f.opcode ≠ 0) :
    (mkReply f status [] rflags partner).payload = [] :=
  if_pos (by
    have hother : f.opcode ≠ 0#8 := h
    simp [hother])

/-! ### Entries of a completion queue (R354, R358) -/

section
variable (q : Nat) (f : Fetched) (r : Reply) (s : State)

/-- Does the payload of a reply reach `REPLY_ADDR` (R354; log 209)? -/
def payloadWritten : Bool := !r.payload.isEmpty && f.reply ≠ 0 && !Config.replyWriteFails s.freeIdx

/-- What has been sent once the payload is written. -/
def payloadSent : List Out :=
  if payloadWritten f r s = true then .replyWrite q f.reply r.payload :: s.outbox else s.outbox

theorem writePayload_eq :
    ∃ n, writePayload q f r s = (payloadWritten f r s, { s with freeIdx := n, outbox := payloadSent q f r s }) := by
  unfold writePayload payloadSent payloadWritten
  by_cases hnone : (r.payload.isEmpty || decide (f.reply = 0)) = true
  · have hunwritten : (!r.payload.isEmpty && decide (f.reply ≠ 0)) = false := by
      rcases Bool.or_eq_true_iff.mp hnone with h | h <;> simp_all
    exact ⟨s.freeIdx, by rw [if_pos hnone, hunwritten]; rfl⟩
  · have hwritten : (!r.payload.isEmpty && decide (f.reply ≠ 0)) = true := by simpa using hnone
    rw [if_neg hnone, hwritten]
    cases Config.replyWriteFails s.freeIdx <;> exact ⟨s.freeIdx + 1, rfl⟩

/-- A completion queue after one more entry: the position moves round the ring, the phase changes at its end. -/
def PQueue.posted (x : PQueue) : PQueue :=
  if x.cqPos + 1 = x.size then { x with cqPos := 0, phase := !x.phase } else { x with cqPos := x.cqPos + 1 }

/-- The entry of a reply. -/
def cqEntryOf : Out :=
  .cqEntry q (getQ q s).cqPos (getQ q s).phase (getQ q s).sqHead (payloadWritten f r s)
    (!r.payload.isEmpty && !payloadWritten f r s) r

/-- A reply's payload and entry written. -/
def entryWritten : State := send (cqEntryOf q f r s) (setQ q (getQ q s).posted (writePayload q f r s).2)

theorem getQ_congr {t : State} (h : t.cmd = s.cmd) (k : Nat) : getQ k t = getQ k s := by
  unfold getQ
  rw [h]

/-- A reply to a command that no PCIe reset has cut off: its entry, and vector 0 where it is asked for. -/
theorem writeCq_entry {abort : Bool} (h : s.cmd.orphans.any (fun o => o.1 = f.src ∧ o.2 = f.seq) = false) :
    writeCq q f r abort s =
      if f.has flNotify || abort then reqVector 0 (entryWritten q f r s) else entryWritten q f r s := by
  obtain ⟨n, hpayload⟩ := writePayload_eq q f r s
  unfold writeCq entryWritten cqEntryOf
  simp only [h, hpayload]
  rfl

/-- Beside the queue, what is sent and the free values, nothing changes. -/
theorem entryWritten_eq : ∃ n, entryWritten q f r s = setQ q (getQ q s).posted { s with
    freeIdx := n, outbox := cqEntryOf q f r s :: payloadSent q f r s } := by
  obtain ⟨n, hpayload⟩ := writePayload_eq q f r s
  refine ⟨n, ?_⟩
  unfold entryWritten setQ
  rw [hpayload]
  split <;> rfl
end

theorem getQ_setQ_other (q : Fin 2) (x : PQueue) (s : State) : getQ (1 - q.val) (setQ q.val x s) = getQ (1 - q.val) s := by
  revert q
  exact Fin.forall_fin_two.mpr ⟨rfl, rfl⟩

section
variable (q : Fin 2) (f : Fetched) (r : Reply) (s : State)

theorem entryWritten_queue : getQ q.val (entryWritten q.val f r s) = (getQ q.val s).posted := by
  obtain ⟨n, h⟩ := entryWritten_eq q.val f r s
  rw [h, getQ_setQ_same]

theorem entryWritten_otherQueue : getQ (1 - q.val) (entryWritten q.val f r s) = getQ (1 - q.val) s := by
  obtain ⟨n, h⟩ := entryWritten_eq q.val f r s
  rw [h, getQ_setQ_other]
  exact getQ_congr s rfl _

theorem entryWritten_outbox :
    (entryWritten q.val f r s).outbox = cqEntryOf q.val f r s :: payloadSent q.val f r s := by
  obtain ⟨n, h⟩ := entryWritten_eq q.val f r s
  rw [h, setQ_outbox]

theorem entryWritten_rest : (entryWritten q.val f r s).link = s.link ∧ (entryWritten q.val f r s).evq = s.evq ∧
    (entryWritten q.val f r s).fault = s.fault ∧ (entryWritten q.val f r s).light = s.light ∧
    (entryWritten q.val f r s).cores = s.cores := by
  obtain ⟨n, h⟩ := entryWritten_eq q.val f r s
  rw [h, setQ_link, setQ_evq, setQ_fault, setQ_light, setQ_cores]
  exact ⟨rfl, rfl, rfl, rfl, rfl⟩
end

/-- A request of vector 0 shows in its bit of `IRQ_CAUSE`, and while the vector is masked in its pending bit (R555). -/
theorem reqVector_zero_link (s : State) :
    (reqVector 0 s).link.irqCause.getLsbD 0 = true ∧
      (s.link.masked 0 = true → (reqVector 0 s).link.msixPend.getLsbD 0 = true) := by
  refine ⟨by simp [reqVector], fun h => ?_⟩
  simp [reqVector, h]

/-- Settles O57: the fields of the reply, then the entry with and without a request of vector 0. -/
theorem replies : Obligations.Replies := by
  unfold Obligations.Replies
  refine ⟨?fields, ?entry⟩
  case fields =>
    intro f status flags_ partner payload hstatus hflags hpartner r
    refine ⟨rfl, toNat_by8 hstatus, rfl, rfl, rfl, toNat_by8 hpartner, toNat_by8 hflags, fun hsome => ?_, fun hnone hop => ?_⟩
    · have hpayload : r.payload = withCrc payload := mkReply_payload_cons hsome
      rw [hpayload]
      exact ⟨withCrc_length payload, fld_withCrc payload⟩
    · subst hnone
      exact mkReply_payload_nil hop
  case entry =>
    intro q f r abort s horphan x t y written sent
    have hwrite : t = if f.has flNotify || abort then reqVector 0 (entryWritten q.val f r s) else entryWritten q.val f r s :=
      writeCq_entry q.val f r s horphan
    have hsent : (entryWritten q.val f r s).outbox = sent := entryWritten_outbox q f r s
    obtain ⟨hlink, hevq, hfault, hlight, hcores⟩ := entryWritten_rest q f r s
    have hqueues (k : Nat) : getQ k t = getQ k (entryWritten q.val f r s) := by
      rw [hwrite]
      split <;> rfl
    have hposted : y = x.posted := (hqueues q.val).trans (entryWritten_queue q f r s)
    refine ⟨fun hasked => ?_, fun hnotify hnormal => ?_, fun hend => hposted.trans (if_pos hend),
      fun hin => hposted.trans (if_neg hin), (hqueues _).trans (entryWritten_otherQueue q f r s), ?_⟩
    · have ht : t = reqVector 0 (entryWritten q.val f r s) := hwrite.trans (if_pos (Bool.or_eq_true_iff.mpr hasked))
      rw [ht, reqVector_outbox, hsent, hlink]
      exact ⟨rfl, (reqVector_zero_link _).1⟩
    · have ht : t = entryWritten q.val f r s := hwrite.trans (if_neg (by simp [hnotify, hnormal]))
      rw [ht]
      exact ⟨hsent, hlink⟩
    · rw [hwrite]
      split
      all_goals exact ⟨hevq, hfault, hlight, hcores⟩

/-- The answer to a command from a completion queue asks for and sends what its entry does. -/
theorem answer_pcie {q : Fin 2} {f : Fetched} (hsrc : f.src = .pcie q) (r : Reply) (abort : Bool) (s : State) :
    (answer f r abort s).link = (writeCq q.val f r abort (dropFetched f s)).link ∧
      (answer f r abort s).outbox = (writeCq q.val f r abort (dropFetched f s)).outbox := by
  unfold answer writeReply
  rw [hsrc]
  exact ⟨rfl, rfl⟩

/-- Settles O54: the entry of the answer asks for vector 0, which stays pending while the vector is masked. -/
theorem notifyRequests : Obligations.NotifyRequests := by
  unfold Obligations.NotifyRequests
  intro q f r abort s hsrc horphan hasked t
  let u := dropFetched f s
  have hwrite : writeCq q.val f r abort u = reqVector 0 (entryWritten q.val f r u) :=
    (writeCq_entry q.val f r u horphan).trans (if_pos (Bool.or_eq_true_iff.mpr hasked))
  obtain ⟨htlink, htout⟩ := answer_pcie hsrc r abort s
  rw [hwrite] at htlink htout
  obtain ⟨hlink, -⟩ := entryWritten_rest q f r u
  obtain ⟨hcause, hpending⟩ := reqVector_zero_link (entryWritten q.val f r u)
  rw [reqVector_outbox, hlink, entryWritten_outbox] at htout
  refine ⟨?cause, ?pending, cqEntryOf q.val f r u, payloadSent q.val f r u, ?sent, ⟨_, _, _, _, _, rfl⟩, ?payload⟩
  case cause =>
    rw [htlink]
    exact hcause
  case pending =>
    intro hmasked
    rw [htlink]
    exact hpending ((congrArg (LinkState.masked · 0) hlink).trans hmasked)
  case sent =>
    refine htout.trans ?_
    show (if s.link.masked 0 = true then _ else _) = _
    split <;> rfl
  case payload =>
    unfold payloadSent
    split
    · exact .inr rfl
    · exact .inl rfl

end Sys2Proof.Machine
end

section
/-! PROOFS. What answering a command leaves alone (O59). Built on Laws/State.lean. -/

namespace Sys2Proof.Machine

open Sys2Proof

/-- The link side but the interrupt cause and the pending bits. -/
def LinkState.untold (l : LinkState) : LinkState := { l with irqCause := 0, msixPend := 0 }

/-- All that answering a command leaves alone: the device beside the command path, what is sent, the link side, the faults and the
free values; of these the key, the epoch, the link side but the interrupts, and the faults but what is
counted of them. -/
structure Beside where
  device : State
  link   : LinkState
  key    : Option (List Byte)
  epoch  : U16
  faults : FaultState

/-- What answering leaves alone of a state. -/
def State.beside (s : State) : Beside :=
  { device := { s with cmd := {}, outbox := [], link := {}, fault := {}, freeIdx := 0 }, link := s.link.untold,
    key := s.cmd.key, epoch := s.cmd.epoch, faults := { s.fault with log := [], logNext := 0, table := [], bound := [] } }

/-- A device that is alike beside the command path, what is sent, the link side, the faults and the free values differs in these
only. -/
theorem eq_of_beside {s t : State} (h : t.beside = s.beside) :
    t = { s with cmd := t.cmd, outbox := t.outbox, link := t.link, fault := t.fault, freeIdx := t.freeIdx } ∧
      t.link = { s.link with irqCause := t.link.irqCause, msixPend := t.link.msixPend } :=
  ⟨congrArg (fun b : Beside => { b.device with
      cmd := t.cmd, outbox := t.outbox, link := t.link, fault := t.fault, freeIdx := t.freeIdx }) h,
    congrArg (fun b : Beside => { b.link with irqCause := t.link.irqCause, msixPend := t.link.msixPend }) h⟩

/-! ### The steps of an answer (R349, R354, R358, R360) -/

@[simp] theorem send_beside (o : Out) (s : State) : (send o s).beside = s.beside := rfl
@[simp] theorem took_beside (s : State) : s.took.beside = s.beside := rfl
@[simp] theorem reqVector_beside (v : Nat) (s : State) : (reqVector v s).beside = s.beside := rfl
@[simp] theorem modUdp_beside (id : Nat) (urgent : Bool) (f : UQueue → UQueue) (s : State) :
    (modUdp id urgent f s).beside = s.beside := rfl
@[simp] theorem dropFetched_beside (f : Fetched) (s : State) : (dropFetched f s).beside = s.beside := rfl
@[simp] theorem takeTurn_beside (x : Source) (s : State) : (takeTurn x s).beside = s.beside := rfl

@[simp] theorem setQ_beside (q : Nat) (x : PQueue) (s : State) : (setQ q x s).beside = s.beside := by
  unfold setQ
  split <;> rfl

/-- The entry in the log of a reply that a PCIe reset has cut off is no item (R386). -/
theorem raise_beside {o : FaultOcc} {c : Nat} (hclass : faultClass o.code = some c) (hqueued : faultQueued o.code = false)
    (s : State) : (raise o s).beside = s.beside := by
  obtain ⟨b, hcounted⟩ := faultCounted_eq o s
  rw [raise_unqueued hclass hqueued, hcounted]
  rfl

@[simp] theorem writeCq_beside (q : Nat) (f : Fetched) (r : Reply) (abort : Bool) (s : State) :
    (writeCq q f r abort s).beside = s.beside := by
  cases horphan : s.cmd.orphans.any (fun o => o.1 = f.src ∧ o.2 = f.seq) with
  | true =>
    unfold writeCq
    rw [if_pos horphan]
    exact raise_beside (c := 0) rfl rfl _
  | false =>
    have hentry : (entryWritten q f r s).beside = s.beside := by
      obtain ⟨n, h⟩ := entryWritten_eq q f r s
      rw [h, setQ_beside]
      rfl
    rw [writeCq_entry q f r s horphan]
    split
    · exact (reqVector_beside _ _).trans hentry
    · exact hentry

@[simp] theorem writeReply_beside (f : Fetched) (r : Reply) (abort : Bool) (s : State) :
    (writeReply f r abort s).beside = s.beside := by
  unfold writeReply sendReply
  split
  next => exact writeCq_beside _ _ _ _ _
  next =>
    dsimp only
    split
    · exact send_beside _ _
    · exact (modUdp_beside _ _ _ _).trans (send_beside _ _)
  next => exact send_beside _ _

@[simp] theorem answer_beside (f : Fetched) (r : Reply) (abort : Bool) (s : State) : (answer f r abort s).beside = s.beside :=
  (writeReply_beside f r abort (dropFetched f s)).trans (dropFetched_beside f s)

@[simp] theorem drainFailed_beside (n : Nat) (s : State) : (drainFailed n s).beside = s.beside := by
  induction n generalizing s with
  | zero => rfl
  | succ n ih =>
    unfold drainFailed
    split
    · split
      · rw [ih, answer_beside, takeTurn_beside]
      · rfl
    · rfl

@[simp] theorem settleFences_beside (n : Nat) (s : State) : (settleFences n s).beside = s.beside := by
  induction n generalizing s with
  | zero => rfl
  | succ n ih =>
    unfold settleFences
    dsimp only
    split
    · rw [ih, drainFailed_beside, answer_beside]
      rfl
    · rfl

@[simp] theorem settle_beside (s : State) : (settle s).beside = s.beside := by
  rw [settle, settleFences_beside, drainFailed_beside]

/-- A command whose reply nothing follows. -/
theorem conclude_beside (f : Fetched) {a : Ans} (hafter : ∀ u, a.after u = u) (deferred : Bool) :
    (conclude f a deferred).beside = a.st.beside := by
  unfold conclude
  extract_lets paired mirror okSt _ _ due _ long answered _ _ plain done _ uncounted
  have hdue : due.beside = a.st.beside := by
    unfold due
    split <;> rfl
  have hlong : long.beside = a.st.beside := by
    unfold long
    split <;> exact hdue
  have hdone : done.beside = a.st.beside := (answer_beside ..).trans hlong
  have huncounted : uncounted.beside = a.st.beside := by
    unfold uncounted
    split <;> exact hdone
  split
  · rw [hafter]
    exact hlong
  · rw [hafter, settle_beside]
    exact huncounted

/-- Settles O59: every step of the answer leaves the rest of the device alone. -/
theorem answersFrame : Obligations.AnswersFrame := by
  unfold Obligations.AnswersFrame
  intro f a hafter t
  have hbeside : t.beside = a.st.beside := conclude_beside f hafter false
  obtain ⟨hdevice, hlink⟩ := eq_of_beside hbeside
  exact ⟨hdevice, hlink, congrArg Beside.key hbeside, congrArg Beside.epoch hbeside,
    congrArg (fun b => b.faults.latch) hbeside, congrArg (fun b => b.faults.unread) hbeside⟩

end Sys2Proof.Machine
end

section
/-! PROOFS. What no operation on the way to STANDBY changes but the two that say so: the fatal latch, the mode and whether
launches run (R488-R490). One lemma per operation that the safe steps of R488 use. -/

namespace Sys2Proof.Machine

open Sys2Proof

/-- The fatal latch with what it remembers, the mode, and whether launches run. -/
structure Guard where
  latch     : Bool
  permanent : Bool
  fatalCode : Option Nat
  mode      : Mode
  running   : Bool

/-- The guard of a state. -/
def State.guard (s : State) : Guard :=
  { latch := s.fault.latch, permanent := s.fault.permanent, fatalCode := s.fault.fatalCode, mode := s.power.mode,
    running := s.light.running }

/-- The guard of what answering a command leaves alone. -/
def Beside.guard (b : Beside) : Guard :=
  { latch := b.faults.latch, permanent := b.faults.permanent, fatalCode := b.faults.fatalCode, mode := b.device.power.mode,
    running := b.device.light.running }

theorem guard_of_beside {s t : State} (h : t.beside = s.beside) : t.guard = s.guard := congrArg Beside.guard h

/-- An update that touches nothing of the guard. -/
@[simp] theorem guard_mk {s : State} {now freeIdx outbox part cmd evq flt mgmt pair pow link fibre lit time indigo ochre lock cal
    stages ctxs alarm thresh pool cores streams tim aux mem store}
    (hlatch : flt.latch = s.fault.latch) (hperm : flt.permanent = s.fault.permanent) (hcode : flt.fatalCode = s.fault.fatalCode)
    (hmode : pow.mode = s.power.mode) (hrun : lit.running = s.light.running) :
    (State.mk s.pending now freeIdx outbox part cmd evq flt mgmt pair pow link fibre lit time indigo ochre lock cal stages ctxs
      alarm thresh pool cores streams tim aux mem store).guard = s.guard := by
  simp only [State.guard, hlatch, hperm, hcode, hmode, hrun]

@[simp] theorem guard_ite {c : Prop} [Decidable c] {a b : State} :
    (if c then a else b).guard = if c then a.guard else b.guard := apply_ite _ _ _ _

@[simp] theorem guard_foldl {α : Type} {f : State → α → State} (hf : ∀ t x, (f t x).guard = t.guard) (l : List α) (s : State) :
    (l.foldl f s).guard = s.guard := by
  induction l generalizing s with
  | nil => rfl
  | cons x l ih => rw [List.foldl_cons, ih, hf]

/-! ### What is sent, the log, the faults and the event queue -/

@[simp] theorem took_guard (s : State) : s.took.guard = s.guard := rfl
@[simp] theorem send_guard (o : Out) (s : State) : (send o s).guard = s.guard := rfl
@[simp] theorem reqVector_guard (v : Nat) (s : State) : (reqVector v s).guard = s.guard := rfl
@[simp] theorem answer_guard (f : Fetched) (r : Reply) (abort : Bool) (s : State) : (answer f r abort s).guard = s.guard :=
  guard_of_beside (answer_beside ..)
@[simp] theorem settleFences_guard (n : Nat) (s : State) : (settleFences n s).guard = s.guard :=
  guard_of_beside (settleFences_beside ..)
@[simp] theorem raise_guard (o : FaultOcc) (s : State) : (raise o s).guard = s.guard := by
  obtain ⟨_, _, _, _, _, _, _, _, h⟩ := raise_frame o s
  rw [h]
  rfl

@[simp] theorem logEntry_guard (code arg : Nat) (s : State) : (logEntry code arg s).guard = s.guard := rfl

@[simp] theorem riseCheck_guard (before : Nat) (s : State) : (riseCheck before s).guard = s.guard := by simp [riseCheck]

@[simp] theorem evtItemAt_guard (t : Ps) (type : Nat) (epoch : U16) (body : List Byte) (s : State) :
    (evtItemAt t type epoch body s).guard = s.guard := by simp [evtItemAt]

@[simp] theorem evtItemE_guard (type : Nat) (epoch : U16) (body : List Byte) (s : State) :
    (evtItemE type epoch body s).guard = s.guard := by simp [evtItemE]

/-! ### The light and the changes of the plan (R56-R95) -/

@[simp] theorem tellHeld_guard (s : State) : (tellHeld s).guard = s.guard := by simp [tellHeld]

@[simp] theorem amonLatch_guard (s : State) : (amonLatch s).guard = s.guard := rfl

@[simp] theorem setDrives_guard (m : Mode) (s : State) : (setDrives m s).guard = s.guard := rfl

@[simp] theorem refreshDrives_guard (s : State) : (refreshDrives s).guard = s.guard := rfl

@[simp] theorem applyLaunchCfg_guard (p : List Byte) (s : State) : (applyLaunchCfg p s).guard = s.guard := rfl

@[simp] theorem applySlotCfg_guard (p : List Byte) (s : State) : (applySlotCfg p s).guard = s.guard := rfl

@[simp] theorem retakeHeld_guard (s : State) : (retakeHeld s).guard = s.guard := rfl

@[simp] theorem applyLightCfg_guard (p : List Byte) (s : State) : (applyLightCfg p s).guard = s.guard := rfl

@[simp] theorem applyPortSelect_guard (p : List Byte) (s : State) : (applyPortSelect p s).guard = s.guard := by
  simp [applyPortSelect]

@[simp] theorem applyAprCfg_guard (p : List Byte) (s : State) : (applyAprCfg p s).guard = s.guard := by simp [applyAprCfg]

@[simp] theorem restartAllSlots_guard (s : State) : (restartAllSlots s).guard = s.guard := rfl

@[simp] theorem applyIndigoCfg_guard (p : List Byte) (s : State) : (applyIndigoCfg p s).guard = s.guard := by
  simp [applyIndigoCfg]

@[simp] theorem restartAcc_guard (s : State) : (restartAcc s).guard = s.guard := rfl

@[simp] theorem applyMap_guard (img : List Byte) (s : State) : (applyMap img s).guard = s.guard := rfl

@[simp] theorem applyOchreCfg_guard (p : List Byte) (s : State) : (applyOchreCfg p s).guard = s.guard := by simp [applyOchreCfg]

@[simp] theorem restartFilters_guard (p : Nat → Bool) (s : State) : (restartFilters p s).guard = s.guard := rfl

@[simp] theorem setSource_guard (i : Nat) (e : Exc) (s : State) : (setSource i e s).guard = s.guard := by simp [setSource]

@[simp] theorem claimChannel_guard (ch rtd : Nat) (s : State) : (claimChannel ch rtd s).guard = s.guard := by
  simp [claimChannel]

@[simp] theorem applyRefCoil_guard (p : List Byte) (s : State) : (applyRefCoil p s).guard = s.guard := by simp [applyRefCoil]

@[simp] theorem freeLock_guard (tl : Nat) (s : State) : (freeLock tl s).guard = s.guard := rfl

@[simp] theorem applySync_guard (p : List Byte) (s : State) : (applySync p s).guard = s.guard := by simp [applySync]

@[simp] theorem applyPlan_guard (c : Change) (s : State) : (applyPlan c s).guard = s.guard := by
  unfold applyPlan
  split <;> simp

@[simp] theorem applyNow_guard (c : Change) (s : State) : (applyNow c s).guard = s.guard := by simp [applyNow]

/-! ### Burst checks and reserves -/

@[simp] theorem modCore_guard (c : Nat) (f : Core → Core) (s : State) : (modCore c f s).guard = s.guard := by rfl

@[simp] theorem burstCheck_guard (s : State) : (burstCheck s).guard = s.guard := by simp [burstCheck]

@[simp] theorem modCtx_guard (k : Nat) (f : Ctx → Ctx) (s : State) : (modCtx k f s).guard = s.guard := by rfl

@[simp] theorem claimReserve_guard (k : Nat) (s : State) : (claimReserve k s).guard = s.guard := by
  unfold claimReserve
  dsimp only
  split <;> exact modCtx_guard ..

@[simp] theorem endRearm_guard (k : Nat) (s : State) : (endRearm k s).guard = s.guard := by simp [endRearm]

@[simp] theorem rearmStopped_guard (s : State) : (rearmStopped s).guard = s.guard := by simp [rearmStopped]

/-! ### The calibration run and the fibre side (R194, R196) -/

@[simp] theorem calDone_guard (r : CalRun) (aborted : Option Nat) (epoch : U16) (s : State) :
    (calDone r aborted epoch s).guard = s.guard := by simp [calDone]

@[simp] theorem homeSwitch_guard (at_ : Nat) (s : State) : (homeSwitch at_ s).guard = s.guard := by simp [homeSwitch]

@[simp] theorem leaveStep_guard (k : Nat) (s : State) : (leaveStep k s).guard = s.guard := by
  unfold leaveStep
  split <;> simp

@[simp] theorem cutRun_guard (r : CalRun) (s : State) : (cutRun r s).2.guard = s.guard := by
  unfold cutRun
  dsimp only
  split <;> simp

@[simp] theorem endLong_guard (op : Nat) (s : State) : (endLong op s).guard = s.guard := by simp [endLong]

@[simp] theorem dropRun_guard (s : State) : (dropRun s).guard = s.guard := by
  unfold dropRun
  split <;> simp

@[simp] theorem fibreChange_guard (cause port status slots tag : Nat) (endCm first : Nat) (s : State) :
    (fibreChange cause port status slots tag endCm first s).guard = s.guard := by simp [fibreChange]

@[simp] theorem fibreEnd_guard (cause port status tag : Nat) (s : State) :
    (fibreEnd cause port status tag s).guard = s.guard := by simp [fibreEnd]

/-! ### Alarm pins and words (R227-R231) -/

@[simp] theorem setPin_guard (k : Nat) (p : AlmPin) (s : State) : (setPin k p s).guard = s.guard := rfl

@[simp] theorem releasePin_guard (k : Nat) (t : Ps) (s : State) : (releasePin k t s).guard = s.guard := by simp [releasePin]

@[simp] theorem startFrame_guard (w : U32) (t : Ps) (s : State) : (startFrame w t s).guard = s.guard := rfl

@[simp] theorem startIdle_guard (t : Ps) (s : State) : (startIdle t s).guard = s.guard := rfl

@[simp] theorem nextFrame_guard (e : Ps) (s : State) : (nextFrame e s).guard = s.guard := by
  unfold nextFrame
  split <;> simp

@[simp] theorem endPulse_guard (k : Nat) (t : Ps) (s : State) : (endPulse k t s).guard = s.guard := by simp [endPulse]

@[simp] theorem framesTo_guard (n : Nat) (t : Ps) (s : State) : (framesTo n t s).guard = s.guard := by
  induction n generalizing s with
  | zero => rfl
  | succ n ih =>
    unfold framesTo
    split
    · rfl
    · simp [ih]

@[simp] theorem alarmsTo_guard (t : Ps) (s : State) : (alarmsTo t s).guard = s.guard := by simp [alarmsTo]

@[simp] theorem timFeed_guard (code : Nat) (falling : Bool) (t : Ps) (s : State) :
    (timFeed code falling t s).guard = s.guard := rfl

@[simp] theorem assertPin_guard (k : Nat) (t : Ps) (s : State) : (assertPin k t s).guard = s.guard := by
  unfold assertPin
  dsimp only
  split
  · simp
  · simp
  · rfl

@[simp] theorem almsWord_guard (w : U32) (t : Ps) (s : State) : (almsWord w t s).guard = s.guard := by simp [almsWord]

@[simp] theorem sendAlarm_guard (a : AlarmDue) (s : State) : (sendAlarm a s).guard = s.guard := by simp [sendAlarm]

@[simp] theorem driveDue_guard (ready : AlarmDue → Bool) (s : State) : (driveDue ready s).guard = s.guard := by simp [driveDue]

@[simp] theorem quietAlarms_guard (s : State) : (quietAlarms s).guard = s.guard := by simp [quietAlarms]

/-! ### Patterns, bindings and cores that halt (R218, R308) -/

@[simp] theorem freeCopies_guard (s : State) : (freeCopies s).guard = s.guard := by simp [freeCopies]

@[simp] theorem restartRun_guard (k : Nat) (t : Ps) (recovery : Bool) (s : State) :
    (restartRun k t recovery s).guard = s.guard := rfl

@[simp] theorem setPattern_guard (k w : Nat) (v m : BitVec 256) (t : Ps) (s : State) :
    (setPattern k w v m t s).guard = s.guard := rfl

@[simp] theorem dropBinding_guard (k : Nat) (s : State) : (dropBinding k s).guard = s.guard := by simp [dropBinding]

@[simp] theorem dropBindings_guard (cs : List Nat) (s : State) : (dropBindings cs s).guard = s.guard := by simp [dropBindings]

@[simp] theorem haltCore_guard (c : Nat) (s : State) : (haltCore c s).guard = s.guard := by simp [haltCore]

@[simp] theorem haltBare_guard (s : State) : (haltBare s).guard = s.guard := by simp [haltBare]

@[simp] theorem haltCores_guard (m : Nat) (unbind : Bool) (s : State) : (haltCores m unbind s).guard = s.guard := by
  simp [haltCores]

@[simp] theorem lapsePoints_guard (k : Nat) (s : State) : (lapsePoints k s).guard = s.guard := by
  unfold lapsePoints
  dsimp only
  split
  · rfl
  · rw [freeCopies_guard, guard_foldl, modCtx_guard]
    intro t p
    split <;> simp

/-! ### Records and streams -/

@[simp] theorem retryReserves_guard (s : State) : (retryReserves s).guard = s.guard := by simp [retryReserves]

@[simp] theorem modRec_guard (h : Nat) (f : Record → Record) (s : State) : (modRec h f s).guard = s.guard := by rfl

@[simp] theorem beginRearm_guard (k : Nat) (s : State) : (beginRearm k s).guard = s.guard := by simp [beginRearm]

@[simp] theorem evtItem_guard (type : Nat) (body : List Byte) (s : State) : (evtItem type body s).guard = s.guard := by
  simp [evtItem]

@[simp] theorem recordDone_guard (r : Record) (s : State) : (recordDone r s).guard = s.guard := by simp [recordDone]

@[simp] theorem modStream_guard (k : Nat) (f : Stream → Stream) (s : State) : (modStream k f s).guard = s.guard := by rfl

@[simp] theorem putBlock_guard (k padFrom : Nat) (s : State) : (putBlock k padFrom s).guard = s.guard := by simp [putBlock]

@[simp] theorem putAll_guard (n k padFrom : Nat) (s : State) : (putAll n k padFrom s).guard = s.guard := by
  induction n generalizing padFrom s with
  | zero => rfl
  | succ n ih => simp [putAll, ih]

@[simp] theorem closeBlock_guard (k : Nat) (s : State) : (closeBlock k s).guard = s.guard := by simp [closeBlock]

@[simp] theorem endSave_guard (k : Nat) (s : State) : (endSave k s).guard = s.guard := by simp [endSave]

@[simp] theorem streamStopped_guard (k : Nat) (s : State) : (streamStopped k s).guard = s.guard := by simp [streamStopped]

@[simp] theorem completeRec_guard (h : Nat) (s : State) : (completeRec h s).guard = s.guard := by
  unfold completeRec
  split <;> simp

@[simp] theorem captured_guard (k h : Nat) (s : State) : (captured k h s).guard = s.guard := by
  unfold captured
  dsimp only
  split <;> simp

@[simp] theorem cut_guard (k h : Nat) (s : State) : (cut k h s).guard = s.guard := by
  unfold cut
  split <;> simp

@[simp] theorem abandonRec_guard (k : Nat) (s : State) : (abandonRec k s).guard = s.guard := by
  unfold abandonRec
  dsimp only
  split
  · rfl
  · split <;> simp

@[simp] theorem dropClaims_guard (k : Nat) (s : State) : (dropClaims k s).guard = s.guard := rfl

@[simp] theorem disarmNow_guard (k : Nat) (abandon : Bool) (s : State) : (disarmNow k abandon s).guard = s.guard := by
  unfold disarmNow
  dsimp only
  split
  · rfl
  · split
    · simp only [retryReserves_guard, modCtx_guard]
      split <;> simp
    · simp

/-! ### Triggers and their alarms (R220-R231) -/

@[simp] theorem takeEdges_guard (k : Nat) (p : TinWait → Bool) (s : State) : (takeEdges k p s).2.guard = s.guard := rfl

@[simp] theorem freeRec_guard (h : Nat) (s : State) : (freeRec h s).guard = s.guard := rfl

@[simp] theorem discardRec_guard (k : Nat) (s : State) : (discardRec k s).guard = s.guard := by
  unfold discardRec
  dsimp only
  split
  · rfl
  · split <;> simp

@[simp] theorem discardPast_guard (d : Decision) (was : Option Nat) (s : State) : (discardPast d was s).guard = s.guard := by
  simp [discardPast]

@[simp] theorem amendItems_guard (f : List U64 → List U64) (s : State) : (amendItems f s).guard = s.guard := rfl

@[simp] theorem joinAlarm_guard (k zone lineSeq : Nat) (s : State) : (joinAlarm k zone lineSeq s).guard = s.guard := rfl

@[simp] theorem joinTrigger_guard (k : Nat) (t : LastTrig) (cause zone : Nat) (s : State) :
    (joinTrigger k t cause zone s).guard = s.guard := by
  unfold joinTrigger
  (repeat' split) <;> simp

@[simp] theorem flushAlarms_guard (s : State) : (flushAlarms s).guard = s.guard := by simp [flushAlarms]

@[simp] theorem alarmIrq_guard (k : Nat) (t : Ps) (s : State) : (alarmIrq k t s).guard = s.guard := by
  unfold alarmIrq
  dsimp only
  split
  · rfl
  · simp

@[simp] theorem driveAlarms_guard (k : Nat) (dasPattern : Bool) (zone17 lineSeq : Nat) (dec : Ps) (s : State) :
    (driveAlarms k dasPattern zone17 lineSeq dec s).guard = s.guard := by
  unfold driveAlarms
  extract_lets lag due t _ u
  have ht : t.guard = s.guard := by
    unfold t
    split <;> rfl
  have hu : u.guard = s.guard := by simp [u, ht]
  split <;> simp [hu]

@[simp] theorem triggerItem_guard (k : Nat) (l : TrigLine) (cause zone : Nat) (handle : Option Nat) (dec : Ps) (s : State) :
    (triggerItem k l cause zone handle dec s).guard = s.guard := by simp [triggerItem]

@[simp] theorem addRec_guard (r : Record) (s : State) : (addRec r s).guard = s.guard := rfl

@[simp] theorem startRecord_guard (k : Nat) (l : TrigLine) (cause zone : Nat) (s : State) :
    (startRecord k l cause zone s).2.guard = s.guard := by simp [startRecord]

@[simp] theorem markLine_guard (k seq bits : Nat) (s : State) : (markLine k seq bits s).guard = s.guard := by
  unfold markLine
  dsimp only
  split
  · rfl
  · split <;> simp

@[simp] theorem missTrigger_guard (k : Nat) (l : TrigLine) (zone reason : Nat) (dec : Ps) (s : State) :
    (missTrigger k l zone reason dec s).guard = s.guard := by simp [missTrigger]

@[simp] theorem dispose_guard (k : Nat) (l : TrigLine) (cause zone : Nat) (dec : Ps) (s : State) :
    (dispose k l cause zone dec s).2.guard = s.guard := by
  unfold dispose
  dsimp only
  split
  · split
    · simp
    · split <;> simp
  · simp
  · simp
  · rfl

@[simp] theorem trigger_guard (k : Nat) (l : TrigLine) (cause zone : Nat) (dec : Ps) (s : State) :
    (trigger k l cause zone dec s).guard = s.guard := by
  unfold trigger
  dsimp only
  split <;> simp

@[simp] theorem adv_guard (s : State) (t : Ps) : (s.adv t).guard = s.guard := rfl

@[simp] theorem lineEnd_guard (k seq : Nat) (s : State) : (lineEnd k seq s).guard = s.guard := by
  unfold lineEnd
  dsimp only
  split
  · rfl
  · split
    · simp
    · split <;> simp

@[simp] theorem decideOne_guard (d : Decision) (s : State) : (decide_ d s).guard = s.guard := by simp [decide_]

@[simp] theorem decideAll_guard (ds : List Decision) (s : State) : (decideAll ds s).guard = s.guard := by simp [decideAll]

@[simp] theorem releaseEdges_guard (k : Nat) (s : State) : (releaseEdges k s).guard = s.guard := by simp [releaseEdges]

@[simp] theorem settleJobs_guard (k : Nat) (s : State) : (settleJobs k s).guard = s.guard := rfl

/-! ### Contexts disarmed, and what else STANDBY ends (R235, R411, R525) -/

@[simp] theorem applyPoint_guard (k : Nat) (a : CtxAct) (t : Ps) (s : State) : (applyPoint k a t s).guard = s.guard := by
  unfold applyPoint
  split <;> simp

@[simp] theorem stopNow_guard (k : Nat) (s : State) : (stopNow k s).guard = s.guard := by simp [stopNow]

@[simp] theorem standbyContexts_guard (s : State) : (standbyContexts s).guard = s.guard := by simp [standbyContexts]

@[simp] theorem ochreStops_guard (s : State) : (ochreStops s).guard = s.guard := rfl

@[simp] theorem dropRaw_guard (s : State) : (dropRaw s).guard = s.guard := by
  unfold dropRaw
  split <;> simp

@[simp] theorem releaseLock_guard (s : State) : (releaseLock s).guard = s.guard := by simp [releaseLock]

@[simp] theorem modeItem_guard (from_ to_ : Mode) (cause status : Nat) (tag : U16) (mcFlags : Nat) (s : State) :
    (modeItem from_ to_ cause status tag mcFlags s).guard = s.guard := by simp [modeItem]

end Sys2Proof.Machine
end

section
/-! PROOFS. A fault is logged, counted and queued; a fatal one makes the device safe (O58). -/

namespace Sys2Proof.Machine

open Sys2Proof

/-! ### The launches end, the device is safe, STANDBY (R235, R411, R488, R525) -/

/-- Without light. -/
def Guard.dark (g : Guard) : Guard := { g with running := false }

/-- In STANDBY, where no launches run. -/
def Guard.standby (g : Guard) : Guard := { g with mode := .standby, running := false }

theorem Guard.standby_of_dark {g : Guard} (hmode : g.mode = .standby) (hdark : g.running = false) : g.standby = g := by
  rw [Guard.standby, ← hmode, ← hdark]

theorem stopLaunches_guard (s : State) : (stopLaunches s).guard = s.guard.dark := by
  unfold stopLaunches
  extract_lets port _ told _ _ _ stopped _ switched
  have htold : told.guard = s.guard :=
    (tellHeld_guard _).trans ((guard_foldl (fun t c => applyNow_guard c t) _ _).trans rfl)
  have hstopped : stopped.guard = s.guard.dark := congrArg Guard.dark htold
  have hswitched : switched.guard = s.guard.dark := by
    unfold switched
    split <;> exact hstopped
  simpa using hswitched

/-- The launches end where any run. -/
theorem launchesStopped_guard (s : State) :
    (if s.light.running then stopLaunches s else s).guard = s.guard.dark := by
  cases hrun : s.light.running with
  | true => exact stopLaunches_guard s
  | false => exact congrArg (fun b => { s.guard with running := b }) hrun

theorem toStandby_guard (s : State) : (toStandby s).guard = s.guard.standby := by
  have hstopped := launchesStopped_guard s
  unfold toStandby
  extract_lets stopped _ still quiet
  have hstill : still.guard = s.guard.standby :=
    (standbyContexts_guard _).trans (congrArg (fun g : Guard => { g with mode := .standby }) hstopped)
  have hquiet : quiet.guard = s.guard.standby := by simpa [quiet] using hstill
  clear_value quiet
  exact hquiet

theorem makeSafe_guard (s : State) : (makeSafe s).guard = s.guard.dark := by
  unfold makeSafe
  extract_lets stopped _ dropped
  have hdropped : dropped.guard = s.guard.dark := by
    rw [← launchesStopped_guard s]
    exact dropRun_guard _
  clear_value dropped
  split
  next g _ =>
    extract_lets told _ cleared
    have hcleared : cleared.guard = s.guard.dark := by
      refine Eq.trans ?_ hdropped
      change told.guard = dropped.guard
      unfold told
      split <;> simp
    clear_value cleared
    split
    · exact hcleared
    · simpa using hcleared
  next => exact hdropped

/-- A duty cycle lingers after a fatal fault. -/
def lingered (s : State) : State :=
  if s.power.duty = .none then s else { s with power.duty := .linger (s.now + lingerPs s) }

@[simp] theorem lingered_guard (s : State) : (lingered s).guard = s.guard := by
  unfold lingered
  split <;> rfl

/-- Whatever mode or transition a device that is safe is in, it goes to STANDBY. -/
def leftForStandby (s : State) : State :=
  let s := lingered s
  if s.enteringSleep then toStandby s
  else match s.power.trans with
    | some x => modeItem x.from_ .standby 5 St.abortedFault 0 0 (toStandby { s with power.trans := none })
    | none =>
      if s.power.mode = .standby then setDrives .standby s else modeItem s.power.mode .standby 5 St.ok 0 0 (toStandby s)

theorem leftForStandby_guard {s : State} (hdark : s.light.running = false) :
    (leftForStandby s).guard = s.guard.standby := by
  unfold leftForStandby
  extract_lets u
  have hu : u.guard = s.guard := lingered_guard s
  clear_value u
  rw [← hu]
  split
  · exact toStandby_guard u
  · split
    · rw [modeItem_guard, toStandby_guard]
      rfl
    · split
      next hmode =>
        have hrun : u.light.running = false := (congrArg Guard.running hu).trans hdark
        rw [setDrives_guard, Guard.standby_of_dark hmode hrun]
      next => rw [modeItem_guard, toStandby_guard]

/-- A fatal fault logged, and the latch set (R488). -/
def latchedBy (o : FaultOcc) (perm : Bool) (s : State) : State :=
  let s := raise o s
  { s with fault.latch := true, fault.permanent := s.fault.permanent || perm,
           fault.fatalCode := some (s.fault.fatalCode.getD o.code) }

section
variable (o : FaultOcc) (perm : Bool) (s : State)

theorem latchedBy_power : (latchedBy o perm s).power = s.power := by
  obtain ⟨_, _, _, _, _, _, _, _, h⟩ := raise_frame o s
  simp only [latchedBy, h]

theorem latchedBy_light : (latchedBy o perm s).light = s.light := by
  obtain ⟨_, _, _, _, _, _, _, _, h⟩ := raise_frame o s
  simp only [latchedBy, h]

theorem latchedBy_guard : (latchedBy o perm s).guard =
    { s.guard with latch := true, permanent := s.fault.permanent || perm,
                   fatalCode := some (s.fault.fatalCode.getD o.code) } := by
  obtain ⟨_, _, _, _, _, _, _, _, h⟩ := raise_frame o s
  simp only [latchedBy, h]
  rfl

/-- A device that sleeps only latches the fault (R488). -/
theorem fatalSafe_sleeping (hasleep : s.power.sleeping = true) : fatalSafe o perm s = latchedBy o perm s :=
  if_pos ((congrArg PowerState.sleeping (latchedBy_power o perm s)).trans hasleep)

/-- A device that does not sleep is made safe and goes to STANDBY (R488, R489). -/
theorem fatalSafe_awake (hawake : s.power.sleeping = false) :
    fatalSafe o perm s = leftForStandby (makeSafe (latchedBy o perm s)) :=
  if_neg (ne_true_of_eq_false ((congrArg PowerState.sleeping (latchedBy_power o perm s)).trans hawake))

theorem fatalSafe_guard (hawake : s.power.sleeping = false) : (fatalSafe o perm s).guard =
    { latch := true, permanent := s.fault.permanent || perm, fatalCode := some (s.fault.fatalCode.getD o.code),
      mode := .standby, running := false } := by
  have hdark : (makeSafe (latchedBy o perm s)).light.running = false := congrArg Guard.running (makeSafe_guard _)
  rw [fatalSafe_awake o perm s hawake, leftForStandby_guard hdark, makeSafe_guard, latchedBy_guard]
  rfl
end

section
variable {o : FaultOcc} {c : Nat} (hclass : faultClass o.code = some c) (s : State)
include hclass

/-- The log after an occurrence (R385). -/
theorem raise_log : (raise o s).fault.log =
    { index := s.fault.logNext, sec := BitVec.ofNat 32 (s.devSec s.now), nsec := BitVec.ofNat 32 (s.devSubNs s.now),
      epoch := s.cmd.epoch, code := BitVec.ofNat 16 o.code, arg := BitVec.ofNat 32 (o.logArg.getD o.a0) }
      :: s.fault.log.take 4095 := by
  obtain ⟨b, h⟩ := raise_fault hclass s
  rw [h]
  rfl

theorem raise_logNext : (raise o s).fault.logNext = s.fault.logNext + 1 := by
  obtain ⟨b, h⟩ := raise_fault hclass s
  rw [h]
  rfl

theorem raise_table :
    (raise o s).fault.table = faultTable o (BitVec.ofNat 32 (s.devSec s.now)) s.fault.table := by
  obtain ⟨b, h⟩ := raise_fault hclass s
  rw [h]

theorem raise_unread : (raise o s).fault.unread = (faultQueued o.code && s.admits 4 || s.fault.unread) := by
  obtain ⟨b, h⟩ := raise_fault hclass s
  rw [h]
end

section
variable (o : FaultOcc) (s : State)

theorem raise_latch : (raise o s).fault.latch = s.fault.latch := congrArg Guard.latch (raise_guard o s)

theorem raise_rest : (raise o s).power = s.power ∧ (raise o s).light = s.light ∧ (raise o s).cores = s.cores ∧
    (raise o s).cmd = s.cmd := by
  obtain ⟨_, _, _, _, _, _, _, _, h⟩ := raise_frame o s
  simp only [h, and_self]
end

/-- Settles O58: the table, the log and the item of an occurrence, and the way to STANDBY of a fatal one. -/
theorem faultRaised : Obligations.FaultRaised := by
  unfold Obligations.FaultRaised
  constructor
  · intro o c s hclass t n
    obtain ⟨hpower, hlight, hcores, hcmd⟩ := raise_rest o s
    refine ⟨⟨_, _, raise_log hclass s, rfl, rfl, rfl, rfl, rfl⟩, raise_logNext hclass s, ?_, ?_, raise_latch o s, hpower, hlight,
      hcores, hcmd, ?_, ?_, ?_⟩
    · rw [raise_table hclass s]
      exact faultCount_self hclass _ _
    · intro k hk
      rw [raise_table hclass s]
      exact faultCount_other hclass _ _ hk
    · intro hqueued
      refine ⟨raise_evq_unqueued hclass s hqueued, ?_⟩
      rw [raise_unread hclass s, hqueued]
      rfl
    · intro hqueued hroom
      obtain ⟨it, hwords, hevq⟩ := raise_evq_queued hclass s hqueued
      obtain ⟨hused, hlost⟩ := EvqState.offered_admitted (it := it) (hwords.trans_le hroom)
      have hadmits : s.admits 4 = true := decide_eq_true hroom
      refine ⟨?_, ?_, ?_⟩
      · rw [raise_unread hclass s, hqueued, hadmits]
        rfl
      · rw [hevq, hused, hwords]
      · rw [hevq, hlost, EvqState.forwarded_lost]
    · intro hqueued hfull
      obtain ⟨it, hwords, hevq⟩ := raise_evq_queued hclass s hqueued
      obtain ⟨hitems, hlost⟩ := EvqState.offered_dropped (it := it) (hfull.trans_eq hwords.symm)
      have hadmits : s.admits 4 = false := decide_eq_false (not_le.mpr hfull)
      refine ⟨?_, ?_, ?_⟩
      · rw [raise_unread hclass s, hqueued, hadmits]
        rfl
      · rw [hevq, hitems]
      · rw [hevq, hlost, EvqState.forwarded_lost]
  · intro o perm s t
    have hpermanent (b : Bool) : (b = true → (b || perm) = true) ∧ (perm = true → (b || perm) = true) := by simp +contextual
    obtain ⟨hbefore, hnow⟩ := hpermanent s.fault.permanent
    cases hsleeping : s.power.sleeping with
    | true =>
      have ht : t = latchedBy o perm s := fatalSafe_sleeping o perm s hsleeping
      have hguard := latchedBy_guard o perm s
      rw [← ht] at hguard
      have hperm : t.fault.permanent = _ := congrArg Guard.permanent hguard
      exact ⟨congrArg Guard.latch hguard, fun h => hperm.trans (hbefore h), fun h => hperm.trans (hnow h),
        congrArg Guard.fatalCode hguard, nofun, fun _ => ⟨ht ▸ latchedBy_power o perm s, ht ▸ latchedBy_light o perm s⟩⟩
    | false =>
      have hguard : t.guard = _ := fatalSafe_guard o perm s hsleeping
      have hperm : t.fault.permanent = _ := congrArg Guard.permanent hguard
      exact ⟨congrArg Guard.latch hguard, fun h => hperm.trans (hbefore h), fun h => hperm.trans (hnow h),
        congrArg Guard.fatalCode hguard, fun _ => ⟨congrArg Guard.mode hguard, congrArg Guard.running hguard⟩, nofun⟩

end Sys2Proof.Machine
end

section
/-! PROOFS. Messages of network time, its time-outs, the second and the OCXO (O45). Built on Laws/State.lean and
Laws/Tables.lean. -/

namespace Sys2Proof.Machine

open Sys2Proof

/-! ### Messages (R391, R393, R394) -/

@[simp] theorem domain_setDomain_same {d : Nat} (hd : d < 2) (x : Domain) (s : State) : domain (setDomain d x s) d = x :=
  vget_vset_same _ _ _ hd

section
variable (src : PtpFrom) (a : PtpAnnounce) (now : Ps) (x : Domain)

/-- A transmitter at its Announce. -/
def announcer : PtpMaster := { id := src.id, data := a, at_ := now }

/-- The other transmitters heard within their receipt timeout (R395). -/
def otherMasters : List PtpMaster := x.masters.filter (fun y => y.id ≠ src.id && now < y.at_ + x.annTime y.data.interval)

/-- The best of the transmitters heard, the one of an Announce among them. -/
def bestMaster : PtpMaster := (otherMasters src now x).foldl (fun b y => if y.better b then y else b) (announcer src a now)

theorem takeAnnounce_eq : takeAnnounce src a now x = { x with
    masters := announcer src a now :: otherMasters src now x, sender := some (bestMaster src a now x).id,
    gm := (bestMaster src a now x).data.gm, steps := (bestMaster src a now x).data.steps, utc := (bestMaster src a now x).data.utc,
    lastAnn := (bestMaster src a now x).at_, annEvery := (bestMaster src a now x).data.interval } :=
  rfl

theorem bestMaster_alone (h : x.masters = []) : bestMaster src a now x = announcer src a now := by
  simp [bestMaster, otherMasters, h]

/-- The best is the transmitter of the Announce or another still within its receipt timeout. -/
theorem bestMaster_heard : bestMaster src a now x = announcer src a now ∨
    ∃ m ∈ x.masters, bestMaster src a now x = m ∧ now < m.at_ + x.annTime m.data.interval := by
  have hmem : bestMaster src a now x = announcer src a now ∨ bestMaster src a now x ∈ otherMasters src now x := by
    unfold bestMaster
    refine List.foldlRecOn (motive := fun b => b = announcer src a now ∨ b ∈ otherMasters src now x) _ _ (.inl rfl)
      fun b hb y hy => ?_
    split
    · exact .inr hy
    · exact hb
  refine hmem.imp_right fun h => ?_
  obtain ⟨hheard, hintime⟩ := List.mem_filter.mp h
  exact ⟨_, hheard, rfl, of_decide_eq_true (Bool.and_eq_true_iff.mp hintime).2⟩
end

section
variable {s : State} {t : Ps} {d : Fin 2} {src : PtpFrom}

/-- PTP does not run on a domain that is off, without its port or without the command path; nothing of another sender is taken. -/
theorem execPtpMessage_deaf (h : (s.adv t).pathDown = true ∨
      (if (domain (s.adv t) d.val).port = 0 then (s.adv t).link.eth0 else (s.adv t).link.eth1) = false ∨
      (domain (s.adv t) d.val).phase = 0 ∨ (domain (s.adv t) d.val).hears src = false)
    {a : PtpAnnounce} {rx tx : Nat} {two : Bool} {sync : Int} {fu : Option Int} {t4 freq : Int} :
    execPtpMessage t d (.announce src a) s = .next (s.adv t) ∧
      execPtpMessage t d (.pair src rx tx two sync fu t4 freq) s = .next (s.adv t) := by
  unfold execPtpMessage
  rcases h with h | h | h | h
  · simp only [h, Bool.true_or, if_true, and_self]
  · simp only [h, Bool.not_false, Bool.or_true, Bool.true_or, if_true, and_self]
  · simp only [h, decide_true, Bool.or_true, if_true, and_self]
  · simp only [h, Bool.false_and, Bool.false_eq_true, if_false, ite_self, and_self]

variable (hup : (s.adv t).pathDown = false)
  (hlink : (if (domain (s.adv t) d.val).port = 0 then (s.adv t).link.eth0 else (s.adv t).link.eth1) = true)
  (hon : (domain (s.adv t) d.val).phase ≠ 0) (hears : (domain (s.adv t) d.val).hears src = true)
include hup hlink hon hears

theorem execPtpMessage_announce (a : PtpAnnounce) : execPtpMessage t d (.announce src a) s =
    .next (setDomain d.val (takeAnnounce src a (s.adv t).now (domain (s.adv t) d.val)) (s.adv t)) := by
  unfold execPtpMessage
  simp only [hup, hlink, hon, hears, Bool.not_true, Bool.or_false, decide_false, Bool.false_eq_true, if_false, if_true]

/-- A pair is taken of the transmitter that the domain follows. -/
theorem execPtpMessage_pair {rx tx : Nat} {two : Bool} {sync : Int} {fu : Option Int} {t4 freq : Int} :
    execPtpMessage t d (.pair src rx tx two sync fu t4 freq) s =
      .next (if (domain (s.adv t) d.val).sender = some src.id then takePair d.val rx tx two sync fu t4 freq (s.adv t)
        else s.adv t) := by
  unfold execPtpMessage
  simp only [hup, hlink, hon, hears, Bool.not_true, Bool.or_false, decide_false, Bool.false_eq_true, if_false, Bool.true_and,
    decide_eq_true_eq]
end

/-- A Sync counted. -/
def syncCounted (x : Domain) : Domain := { x with syncRx := x.syncRx + 1 }

/-- The domain as a pair is taken: its Sync counted, its Delay_Req sent. -/
def pairTaken (d tx : Nat) (s : State) : State :=
  send (.delayReq (domain s d).port (fld (domain s d).cfg 1 1) tx) (setDomain d (syncCounted (domain s d)) s)

theorem domain_pairTaken {d : Nat} (hd : d < 2) (tx : Nat) (s : State) :
    domain (pairTaken d tx s) d = syncCounted (domain s d) :=
  domain_setDomain_same hd _ _

section
variable {s : State} {d rx tx : Nat} {t1 t4 freq : Int}

/-- The instant of the Sync is in itself or, with `twoStepFlag`, in its Follow_Up. -/
theorem takePair_timed (hd : d < 2) {two : Bool} {sync : Int} {fu : Option Int}
    (htime : if two = true then fu = some t1 else sync = t1) :
    takePair d rx tx two sync fu t4 freq s = ptpPair d rx tx t1 t4 freq (pairTaken d tx s) := by
  have hsome : (if two = true then fu else some sync) = some t1 := by
    split at htime
    next h => rw [if_pos h, htime]
    next h => rw [if_neg h, htime]
  unfold takePair
  simp only [hsome, domain_setDomain_same hd]
  rfl

theorem ptpPair_synced (h : (domain s d).synced = true) : ptpPair d rx tx t1 t4 freq s =
    ptpOffset d ((domain s d).pairOffset rx tx t1 t4) ((domain s d).pairPath rx tx t1 t4) freq s := if_pos h

/-- The first pair sets the copy, with no offset left. -/
theorem ptpPair_first (h : (domain s d).synced = false) : ptpPair d rx tx t1 t4 freq s =
    ptpOffset d 0 ((domain s d).pairPath rx tx t1 t4) freq (setDomain d
      { (domain s d).moveCopy ((domain s d).pairOffset rx tx t1 t4) (domain s d).cRate s.now with synced := true } s) :=
  if_neg (Bool.eq_false_iff.mp h)

/-- An offset beyond `OUTLIER` only counts (R394). -/
theorem ptpOffset_outlier {o : Int} {path : Nat} (hlocked : (domain s d).phase = 2) (hfar : (domain s d).outlier < o.natAbs) :
    ptpOffset d o path freq s =
      setDomain d { domain s d with outliers := satInc (domain s d).outliers } s := by
  unfold ptpOffset
  simp only [hlocked, hfar]
  rfl
end

theorem pairOffset_syncCounted (x : Domain) (rx tx : Nat) (t1 t4 : Int) :
    (syncCounted x).pairOffset rx tx t1 t4 = x.pairOffset rx tx t1 t4 := rfl

theorem pairPath_syncCounted (x : Domain) (rx tx : Nat) (t1 t4 : Int) :
    (syncCounted x).pairPath rx tx t1 t4 = x.pairPath rx tx t1 t4 := rfl

/-! ### Time-outs and the return to domain 0 (R395, R396) -/

/-- A domain whose lock is lost (R395). -/
def lostDomain (d : Nat) (s : State) : State :=
  selectedLost d (raise { code := 0x0800, unit := 0x0130 + d }
    (setDomain d { domain s d with phase := 3, streak := 0, lockedAt := none } s))

section
variable {s : State} {t : Ps} {d : Fin 2}

/-- A time-out that is over loses the domain. -/
theorem execAnnounceTimeout_over
    (h : (domain (s.adv t) d.val).lastAnn + (domain (s.adv t) d.val).annTime (domain (s.adv t) d.val).annEvery ≤ (s.adv t).now) :
    execAnnounceTimeout t d s = .next (loseDomain d.val (s.adv t)) :=
  congrArg Host.Outcome.next (if_pos (decide_eq_true h))

theorem execLossTimeout_over
    (h : (domain (s.adv t) d.val).lastPair + (domain (s.adv t) d.val).lossTime ≤ (s.adv t).now) :
    execLossTimeout t d s = .next (loseDomain d.val (s.adv t)) :=
  congrArg Host.Outcome.next (if_pos (decide_eq_true h))

theorem execAnnounceTimeout_early
    (h : (s.adv t).now < (domain (s.adv t) d.val).lastAnn + (domain (s.adv t) d.val).annTime (domain (s.adv t) d.val).annEvery) :
    execAnnounceTimeout t d s = .next (s.adv t) :=
  congrArg Host.Outcome.next (if_neg (fun hlate => Nat.not_le_of_lt h (of_decide_eq_true hlate)))

theorem execLossTimeout_early (h : (s.adv t).now < (domain (s.adv t) d.val).lastPair + (domain (s.adv t) d.val).lossTime) :
    execLossTimeout t d s = .next (s.adv t) :=
  congrArg Host.Outcome.next (if_neg (fun hlate => Nat.not_le_of_lt h (of_decide_eq_true hlate)))

theorem loseDomain_locked {k : Nat} (h : (domain s k).phase = 2) : loseDomain k s = lostDomain k s := if_pos h
theorem loseDomain_unlocked {k : Nat} (h : (domain s k).phase ≠ 2) : loseDomain k s = s := if_neg h

/-- No time-out concerns a domain that is not locked. -/
theorem execTimeouts_unlocked (h : (domain (s.adv t) d.val).phase ≠ 2) :
    execAnnounceTimeout t d s = .next (s.adv t) ∧ execLossTimeout t d s = .next (s.adv t) := by
  unfold execAnnounceTimeout execLossTimeout
  simp only [loseDomain_unlocked h, ite_self, and_self]

theorem execDomainRevert_due {l : Ps} (hlocked : (domain (s.adv t) 0).lockedAt = some l) (hphase : (domain (s.adv t) 0).phase = 2)
    (hrevert : (s.adv t).time.revert = true) (hother : (s.adv t).time.selected = some 1)
    (hlong : l + 60000000000000 ≤ (s.adv t).now) : execDomainRevert t s = .next (selectDomain 0 (s.adv t)) := by
  unfold execDomainRevert revertDue
  simp only [hlocked, hphase, hrevert, hother, hlong, decide_true, Bool.and_self, if_true]

/-! ### The second (R389) -/

theorem execSecondTick_due (hawake : s.power.sleeping = false) (hstarted : s.power.starting = false) (hdue : nextSecond s ≤ t) :
    let w := s.adv (nextSecond s)
    let e := epochItem false (w.devSec w.now) 0 w
    execSecondTick t s = .next (timFeed 0x30 false e.now (tickZones (statusSecond e))) :=
  congrArg Host.Outcome.next (if_neg (by simp [hawake, hstarted, hdue]))

theorem execSecondTick_none (h : s.power.sleeping = true ∨ s.power.starting = true ∨ t < nextSecond s) :
    execSecondTick t s = .next (s.adv t) :=
  congrArg Host.Outcome.next (if_pos (by simpa [or_assoc] using h))
end

/-! ### The OCXO (R399) -/

/-- `OCXO_WARM` once risen stays, and rises when both conditions hold. -/
theorem ocxoCheck_eq (s : State) : ocxoCheck s = { s with
    time.ocxoWarm := s.time.ocxoWarm || (s.time.ocxoRdy && s.time.ocxoPresent && 30 ≤ s.time.ocxoStreak) } := by
  unfold ocxoCheck
  split
  next h => rw [h, Bool.or_true]
  next h => rw [Bool.eq_false_iff.mpr h, Bool.or_false]

/-- An average taken, the `n`-th in a row that differs little from the one before. -/
def ocxoAveraged (freq : Int) (n : Nat) (s : State) : State :=
  { s with
    time.ocxoLast := some freq, time.ocxoPresent := true, time.ocxoStreak := n,
    time.ocxoWarm := s.time.ocxoWarm || (s.time.ocxoRdy && 30 ≤ n) }

section
variable {s : State} {t : Ps} {freq : Int}

theorem execOcxoAverage_first (hlast : s.time.ocxoLast = none) :
    execOcxoAverage t freq s = .next (ocxoAveraged freq 0 (s.adv t)) := by
  unfold execOcxoAverage
  simp only [State.adv_time, hlast, ocxoCheck_eq, Bool.and_true]
  rfl

theorem execOcxoAverage_next {l : Int} (hlast : s.time.ocxoLast = some l) :
    execOcxoAverage t freq s =
      .next (ocxoAveraged freq (if (freq - l).natAbs < 2000 then s.time.ocxoStreak + 1 else 0) (s.adv t)) := by
  unfold execOcxoAverage
  simp only [State.adv_time, hlast, ocxoCheck_eq, Bool.and_true, decide_eq_true_eq]
  rfl
end

/-- Settles O45: each message, time-out and reading by the lemma on its row. -/
theorem timeEvents : Obligations.TimeEvents := by
  unfold Obligations.TimeEvents
  intro t d src a rx tx two sync fu t4 freq s u x pair
  refine ⟨?announce, ?pair, fun h => execPtpMessage_deaf h, ?late, execTimeouts_unlocked, execAnnounceTimeout_early,
    execLossTimeout_early, fun _ => execDomainRevert_due, rfl, execSecondTick_due, execSecondTick_none, ?average, rfl, ?ready, rfl,
    rfl⟩
  case announce =>
    intro hup hlink hon hears
    refine ⟨execPtpMessage_announce hup hlink hon hears a, ⟨fun halone => ?_, ?_⟩, fun hsender => ?_⟩
    · rw [takeAnnounce_eq, bestMaster_alone src a u.now x halone]
      exact ⟨rfl, rfl, rfl, rfl, rfl⟩
    · rw [takeAnnounce_eq]
      exact (bestMaster_heard src a u.now x).imp (congrArg (fun m : PtpMaster => some m.id)) fun ⟨m, hm, hbest, hintime⟩ =>
        ⟨m, hm, congrArg (fun b : PtpMaster => some b.id) hbest, congrArg (fun b : PtpMaster => b.data.gm) hbest, hintime⟩
    · exact (execPtpMessage_pair hup hlink hon hears).trans (congrArg _ (if_neg hsender))
  case pair =>
    intro t1 hup hlink hon hears hsender htime t2 t3 o path y v
    have htaken : exec (.ptpMessage t d pair) s = .next (ptpPair d.val rx tx t1 t4 freq v) :=
      (execPtpMessage_pair hup hlink hon hears).trans
        (congrArg _ ((if_pos hsender).trans (takePair_timed d.isLt htime)))
    have hy : domain v d.val = y := domain_pairTaken d.isLt tx u
    have ho : (domain v d.val).pairOffset rx tx t1 t4 = o := by rw [hy]; exact pairOffset_syncCounted x rx tx t1 t4
    have hpath : (domain v d.val).pairPath rx tx t1 t4 = path := by rw [hy]; exact pairPath_syncCounted x rx tx t1 t4
    refine ⟨fun hsynced => ?_, fun hfirst => ?_⟩
    · have hoffset := ptpPair_synced (rx := rx) (tx := tx) (t1 := t1) (t4 := t4) (freq := freq)
        ((congrArg Domain.synced hy).trans hsynced)
      rw [ho, hpath] at hoffset
      refine ⟨htaken.trans (congrArg _ hoffset), fun hlocked hfar => ?_⟩
      have hout := ptpOffset_outlier (path := path) (freq := freq) ((congrArg Domain.phase hy).trans hlocked)
        ((congrArg Domain.outlier hy).trans_lt hfar)
      rw [hy] at hout
      exact htaken.trans (congrArg _ (hoffset.trans hout))
    · have hset := ptpPair_first (rx := rx) (tx := tx) (t1 := t1) (t4 := t4) (freq := freq)
        ((congrArg Domain.synced hy).trans hfirst)
      rw [ho, hpath, hy] at hset
      exact htaken.trans (congrArg _ hset)
  case late =>
    intro hlocked v
    have hlost : loseDomain d.val u = v := loseDomain_locked hlocked
    exact ⟨fun hlate => (execAnnounceTimeout_over hlate).trans (congrArg _ hlost),
      fun hlate => (execLossTimeout_over hlate).trans (congrArg _ hlost)⟩
  case average =>
    intro n hn
    cases hlast : s.time.ocxoLast with
    | none =>
      rw [show u.time.ocxoLast = none from hlast] at hn
      subst hn
      exact execOcxoAverage_first hlast
    | some l =>
      rw [show u.time.ocxoLast = some l from hlast] at hn
      subst hn
      exact execOcxoAverage_next hlast
  case ready => exact congrArg _ (ocxoCheck_eq _)

end Sys2Proof.Machine
end

section
/-! PROOFS. Refresh, errors, scrubbing and training of record memory (O47). Built on Laws/State.lean. -/

namespace Sys2Proof.Machine

open Sys2Proof

/-! ### Refresh (R460, R468) -/

/-- A channel at a refresh that is due: its die temperature and the refresh rate that goes with it. -/
def refreshRead (c : Nat) (s : State) : MemCh :=
  { mch s c with
    tDram := (Config.reading 10 s.freeIdx).toInt % 32768,
    refreshX := if 10500 < (Config.reading 10 s.freeIdx).toInt % 32768 then 2 else (Config.reading 11 s.freeIdx).toNat % 3 }

theorem refreshRead_rate (c : Nat) (s : State) : (refreshRead c s).refreshX ≤ 2 := by
  unfold refreshRead
  dsimp only
  split <;> omega

theorem refreshRead_hot {c : Nat} {s : State} (h : 10500 < (refreshRead c s).tDram) : (refreshRead c s).refreshX = 2 := if_pos h

section
variable {ch : Fin 4} {bank : Fin 16} {idle : Bool} {s : State} (hlive : (mch s ch.val).live = true)
  (hself : (mch s ch.val).selfRefresh = false) (hawake : s.power.sleeping = false)
include hlive hself hawake

/-- A refresh goes to a bank that is idle, or busy when eight are postponed. -/
theorem execRefreshDue_issued (hgo : idle = true ∨ 8 < (mch s ch.val).postponed + 1) : execRefreshDue ch bank idle s =
    .next (send (.refresh ch.val bank.val) (modMem ch.val (fun _ => { (refreshRead ch.val s).takeSet with
      postponed := 0, refreshes := (mch s ch.val).refreshes + ((mch s ch.val).postponed + 1) }) s.took)) :=
  congrArg Host.Outcome.next ((if_neg (by simp [hlive, hself, hawake])).trans (if_pos (by simpa using hgo)))

theorem execRefreshDue_postponed (hbusy : idle = false) (hfew : (mch s ch.val).postponed + 1 ≤ 8) :
    execRefreshDue ch bank idle s = .next (modMem ch.val (fun _ => { refreshRead ch.val s with
      postponed := (mch s ch.val).postponed + 1,
      postponeMax := max (mch s ch.val).postponeMax ((mch s ch.val).postponed + 1) }) s.took) :=
  congrArg Host.Outcome.next ((if_neg (by simp [hlive, hself, hawake])).trans (if_neg (by simpa [hbusy] using hfew)))
end

theorem execSelfRefreshReturn_standby {ch : Fin 4} {s : State} (hmode : s.power.mode = .standby)
    (hlive : (mch s ch.val).live = true) :
    execSelfRefreshReturn ch s = .next (modMem ch.val (fun y => { y with selfRefresh := true }) s) :=
  congrArg Host.Outcome.next (if_pos (by simp [hmode, hlive]))

/-! ### Where an address lies (R450, R452, R453) -/

theorem memPlace_some {s : State} {m : Nat} {p : MemPlace} (h : memPlace s m = some p) :
    let n := (liveChans s).length
    let q := m / 1792 / n
    m < n * 3758096384 ∧ (liveChans s)[m / 1792 % n]? = some p.chan ∧ p.row = q / 16 ∧ p.bank = bankOf s q ∧
      p.offset = m % 1792 ∧ p.burst = q * 28 + m % 1792 / 64 := by
  unfold memPlace at h
  dsimp only at h
  split at h
  next => cases h
  next c hc =>
    split at h
    next => cases h
    next hin =>
      cases h
      exact ⟨Nat.lt_of_not_le hin, hc, rfl, rfl, rfl, rfl⟩

/-! ### Errors (R463, R464) -/

/-- The uncorrectable errors of a channel within the last second. -/
def nearErrors (c : Nat) (s : State) : List Ps := (mch s c).uncorrAt.filter (fun x => s.now < x + 1000000000000)

/-- An uncorrectable error counted and told. -/
def uncorrTold (addr : Nat) (p : MemPlace) (s : State) : State :=
  raise { code := 0x0A01, unit := 0x0120 + p.chan, a0 := addr % 2 ^ 32, a1 := addr / 2 ^ 32 }
    (modMem p.chan (fun y => { y with
      eccUncorr := satInc y.eccUncorr, lastUncorr := BitVec.ofNat 32 p.burst, uncorrAt := nearErrors p.chan s ++ [s.now] }) s)

section
variable {s : State} {t : Ps} {f wd : Nat} {o : Fin 1792} {reader : MemReader}

theorem execMemEccUncorr_nowhere {rec : Option Nat} (hplace : memPlace (s.adv t) (f * 1792 + o.val) = none) :
    execMemEccUncorr t f o reader rec wd s = .next (s.adv t) := by
  unfold execMemEccUncorr
  simp only [hplace]

variable {p : MemPlace} (hplace : memPlace (s.adv t) (f * 1792 + o.val) = some p)
include hplace

/-- The sixteenth error within a second disables the channel. -/
theorem execMemEccUncorr_noRecord : execMemEccUncorr t f o reader none wd s =
    .next (if 15 ≤ (nearErrors p.chan (touch p (s.adv t))).length then
        disableChannels [(p.chan, 6)] (modMem p.chan (fun y => { y with uncorrAt := [] })
          (uncorrTold (f * 1792 + o.val) p (touch p (s.adv t))))
      else uncorrTold (f * 1792 + o.val) p (touch p (s.adv t))) := by
  unfold execMemEccUncorr
  simp only [hplace]
  rfl

/-- A word of a record is bad from then on, unless firmware was reading or the word lies in the firmware area. -/
theorem execMemEccUncorr_record {h : Nat} (hfew : (nearErrors p.chan (touch p (s.adv t))).length < 15) :
    let v := uncorrTold (f * 1792 + o.val) p (touch p (s.adv t))
    execMemEccUncorr t f o reader (some h) wd s =
      .next (if (decide (reader = .firmware) || inFirmware (f * 1792 + o.val)) = true then v
        else modRec h (fun r => { r with bad := wd :: r.bad }) v) := by
  unfold execMemEccUncorr
  simp only [hplace]
  exact congrArg Host.Outcome.next (if_neg (Nat.not_le.mpr hfew))
end

/-! ### Scrub passes and the ends of episodes (R459, R464, R469) -/

/-- Errors that a scrub pass corrected in a channel, counted. -/
def scrubCounted (c k : Nat) (s : State) : State :=
  modMem c (fun y => { y with eccCorr := satAdd y.eccCorr k, corrSec := some (s.devSec s.now) }) s

section
variable {s : State} {t : Ps} {ch : Fin 4}

/-- The first of a channel in each second is reported. -/
theorem execScrubPass_ite {k : Nat} (hk : k ≠ 0) (hlive : (mch (s.adv t) ch.val).live = true)
    (hmode : s.inMode [.warm, .acoustic, .survey, .full, .calibrate] = true) :
    let u := s.adv t
    let v := scrubCounted ch.val k u
    execScrubPass t ch k s = .next (if (mch u ch.val).corrSec = some (u.devSec u.now) then v
      else raise { code := 0x0A00, unit := 0x0120 + ch.val, a0 := (Config.reading 20 v.freeIdx).toNat,
                   a1 := (Config.reading 21 v.freeIdx).toNat % 4 } v.took) := by
  have hscrubs : ¬ (decide (k = 0) || !(mch (s.adv t) ch.val).live
      || !(s.adv t).inMode [.warm, .acoustic, .survey, .full, .calibrate]) = true := by
    rw [show (s.adv t).inMode _ = true from hmode]
    simp [hk, hlive]
  exact congrArg Host.Outcome.next (if_neg hscrubs)

theorem execRtDropEpisodeEnd_over {x : Ps} (hdrop : s.mem.dropAt = some x) (hquiet : x + 1000000000000 ≤ (s.adv t).now) :
    execRtDropEpisodeEnd t s = .next { (s.adv t) with mem.dropAt := none } := by
  have hover : (s.adv t).mem.dropAt.any (fun d => decide (d + 1000000000000 ≤ (s.adv t).now)) = true :=
    (Option.any_eq_true ..).mpr ⟨x, hdrop, decide_eq_true hquiet⟩
  exact congrArg Host.Outcome.next (if_pos hover)

theorem execMemTrainReq_first (hlive : (mch (s.adv t) ch.val).live = true) (hfirst : (mch (s.adv t) ch.val).drift = false) :
    execMemTrainReq t ch s = .next (raise { code := 0x0A06, unit := 0x0120 + ch.val }
      (modMem ch.val (fun y => { y with drift := true }) (s.adv t))) :=
  congrArg Host.Outcome.next (if_neg (by simp [hlive, hfirst]))
end

/-! ### Training (R466 to R468, R472) -/

/-- A channel's training noted, with the reason it failed for, 0 for none. -/
def trainingNoted (c r : Nat) (s : State) : State :=
  modMem c (fun y => { y with
    training := false, trainSec := BitVec.ofNat 32 (s.devSec s.now), trained := r = 0, drift := y.drift && r = 5 }) s

/-- The end of a channel's training: it passes, live or returned; late or bad while live; or it stays disabled. -/
theorem execMemTrainChannelDone_ofRun {s : State} {x : Training} {c : Nat} {rest : List Nat} (t : Ps) (d : TrainIn)
    (htrain : s.mem.train = some x) (hleft : x.left = c :: rest) :
    let u := s.adv t
    let r := trainReason u.mem.eyeMin d
    let v := trainingNoted c r u
    let z : Training := { x with left := rest }
    execMemTrainChannelDone t d s = .next (
      if r = 0 then
        nextTraining z (if (mch u c).live = true then
          modMem c (fun y => { y with newSet := some (eyesOf d, centresOf d, d.tapFs) }) v else returnChannel c d v)
      else if (mch u c).live = true then
        if r = 5 then nextTraining { z with late := true } v
        else nextTraining { z with degraded := true } (disableChannels [(c, r)] { v with mem.train := some z })
      else nextTraining { z with degraded := true, late := x.late || r = 5 } (modMem c (fun y => { y with reason := r }) v)) := by
  unfold execMemTrainChannelDone
  simp only [State.adv_mem, htrain, hleft]
  rfl

/-- Settles O47: each row by its lemma, with the branch that its hypotheses name. -/
theorem memoryEvents : Obligations.MemoryEvents := by
  unfold Obligations.MemoryEvents
  intro t ch bank idle f k wd o reader rec chans d s u c addr m
  refine ⟨?refresh, execMemEccUncorr_nowhere, ?uncorr, ?place, ?scrub, rfl, fun x => execRtDropEpisodeEnd_over,
    execSelfRefreshReturn_standby, execMemTrainReq_first, ?trained⟩
  case refresh =>
    intro hlive hself hawake
    exact ⟨refreshRead c s, rfl, refreshRead_rate c s, refreshRead_hot, execRefreshDue_issued (s := s) hlive hself hawake,
      execRefreshDue_postponed (s := s) hlive hself hawake⟩
  case uncorr =>
    intro p hplace w near v
    have hnone := execMemEccUncorr_noRecord (reader := reader) (wd := wd) hplace
    refine ⟨fun hfew => hnone.trans (congrArg _ (if_neg (Nat.not_le.mpr hfew))), fun hmany => hnone.trans (congrArg _ (if_pos hmany)),
      fun h hfew => ?_⟩
    refine (execMemEccUncorr_record hplace hfew).trans (congrArg _ ?_)
    simp only [Bool.or_eq_true, decide_eq_true_eq, inFirmware]
    rfl
  case place =>
    intro p hplace n
    have hframe : addr / 1792 = f := by omega
    have hoffset : addr % 1792 = o.val := by omega
    have hp := memPlace_some hplace
    rwa [hframe, hoffset] at hp
  case scrub =>
    intro hk hlive hmode sec v where_
    have hpass := execScrubPass_ite (t := t) hk hlive hmode
    exact ⟨fun htold => hpass.trans (congrArg _ (if_pos htold)),
      fun hnew => hpass.trans (congrArg _ (if_neg hnew))⟩
  case trained =>
    intro x rest htrain hleft r v z
    have hdone := execMemTrainChannelDone_ofRun t d htrain hleft
    refine ⟨fun hr hlive => ?_, fun hr hdead => ?_, fun hr hlive => ?_, fun hr hin hlive => ?_, fun hr hdead => ?_⟩
    · exact hdone.trans (congrArg _ ((if_pos hr).trans (congrArg _ (if_pos hlive))))
    · exact hdone.trans (congrArg _ ((if_pos hr).trans (congrArg _ (if_neg (Bool.eq_false_iff.mp hdead)))))
    · have hr0 : r ≠ 0 := by omega
      exact hdone.trans (congrArg _ ((if_neg hr0).trans ((if_pos hlive).trans (if_pos hr))))
    · exact hdone.trans (congrArg _ ((if_neg hr).trans ((if_pos hlive).trans (if_neg hin))))
    · exact hdone.trans (congrArg _ ((if_neg hr).trans (if_neg (Bool.eq_false_iff.mp hdead))))

end Sys2Proof.Machine
end

section
/-! PROOFS. What happens to the management controllers (O48). Built on Laws/State.lean. -/

namespace Sys2Proof.Machine

open Sys2Proof

section
variable {s : State} {t : Ps}

/-! ### A controller that runs (R494 to R496) -/

@[simp] theorem State.adv_poweredUp : (s.adv t).poweredUp = s.poweredUp := rfl

/-- The first failure is remembered with its instant. -/
theorem controllerFails_first (cause : Byte) (h : s.mgmt.failed = none) :
    controllerFails cause s = { s with mgmt.failed := some cause, mgmt.failedAt := s.now } := by
  unfold controllerFails
  simp only [h]

section
variable (hup : s.poweredUp = true) (hruns : s.mgmt.down = false)
include hup hruns

theorem execMgmtWatchdog_runs : execMgmtWatchdog t s = .next (controllerFails 4 (s.adv t)) :=
  congrArg Host.Outcome.next (if_pos (by simp [hup, hruns]))

theorem execMgmtLockstep_runs : execMgmtLockstep t s = .next (controllerFails 5 (s.adv t)) :=
  congrArg Host.Outcome.next (if_pos (by simp [hup, hruns]))

theorem execMgmtTakeover_ready {c : Byte} (hready : s.mgmt.ready = true) (hfailed : s.mgmt.failed = some c) :
    execMgmtTakeover t s = .next (takeControl c (s.adv t)) := by
  unfold execMgmtTakeover
  simp only [State.adv_mgmt, State.adv_poweredUp, hfailed, hup, hruns, hready, Bool.not_false, Bool.and_self, if_true]

theorem execMgmtRetestDone_retests {pass : Bool} (hretest : s.mgmt.retest = true) :
    execMgmtRetestDone t pass s = .next (retested pass (s.adv t)) :=
  congrArg Host.Outcome.next (if_pos (by simp [hup, hruns, hretest]))

/-- With no standby ready the fatal steps run and the controller reboots; an activation is no failure (R496, R500). -/
theorem execMgmtNoController_fails {c : Byte} (hnone : s.mgmt.ready = false) (hfailed : s.mgmt.failed = some c) (hc : c ≠ 7) :
    let v := fatalSafe { code := 0x0B02, unit := mgmtUnit s.mgmt.activeB } false (s.adv t)
    execMgmtNoController t s = .next { v with mgmt := { v.mgmt with failed := none, down := true } } :=
  congrArg Host.Outcome.next (if_neg (by simpa [hup, hruns, hnone, hfailed] using hc))
end

/-! ### Retests (R495) -/

theorem retested_pass : retested true s = { s with mgmt.retest := false, mgmt.ready := true } := rfl

/-- The controller that is not active retired. -/
def standbyRetired (s : State) : State :=
  if (!s.mgmt.activeB) = true then { s with mgmt.retest := false, mgmt.retiredB := true }
  else { s with mgmt.retest := false, mgmt.retiredA := true }

theorem retested_fail :
    retested false s = raise { code := 0x0B01, unit := mgmtUnit (!s.mgmt.activeB), retired := true } (standbyRetired s) := by
  unfold retested
  exact if_neg Bool.false_ne_true

theorem standbyRetired_retest : (standbyRetired s).mgmt.retest = false := by
  unfold standbyRetired
  split <;> rfl

theorem standbyRetired_activeA (h : s.mgmt.activeB = false) :
    standbyRetired s = { s with mgmt.retest := false, mgmt.retiredB := true } :=
  if_pos (by rw [h]; rfl)

theorem standbyRetired_activeB (h : s.mgmt.activeB = true) :
    standbyRetired s = { s with mgmt.retest := false, mgmt.retiredA := true } :=
  if_neg (by rw [h]; exact Bool.false_ne_true)

/-! ### The command path restarts, updates and self-tests end (R494, R499, R502) -/

theorem pathDown_of_down (h : s.mgmt.down = true) : s.pathDown = true := by simp [State.pathDown, h]

theorem execCommandPathRestart_restarts (hup : s.poweredUp = true) (hdown : s.mgmt.down = true) :
    let v := takeBuffers (s.adv t)
    execCommandPathRestart t s = .next (startRecovery 5 0xFFFF [] (bootController { v with mgmt.down := false })) :=
  congrArg Host.Outcome.next (if_pos (by simp [hup, hdown]))

theorem execFwUpdateDone_finishes {tag : U16} {act : Byte} {img : Option (List Byte)} {x verified back : Bool}
    (hupdate : (s.adv t).mgmt.update = some (tag, act, img, x)) (hpath : (s.adv t).pathDown = false) :
    execFwUpdateDone t verified back s = .next (finishUpdate tag act img verified back (s.adv t)) := by
  unfold execFwUpdateDone
  simp only [hupdate, hpath, Bool.false_eq_true, if_false]

theorem execSelfTestDone_finishes {tag : U16} {tests : Byte} {d : SelfTestIn}
    (htest : (s.adv t).mgmt.selfTest = some (tag, tests)) (hpath : (s.adv t).pathDown = false) :
    execSelfTestDone t d s = .next (finishTests tag tests d (s.adv t)) := by
  unfold execSelfTestDone
  simp only [htest, hpath, Bool.false_eq_true, if_false]
end

/-- Settles O48: each row by its lemma; a retest that fails by which controller is active. -/
theorem controllerEvents : Obligations.ControllerEvents := by
  unfold Obligations.ControllerEvents
  intro t pass verified back d s u
  refine ⟨fun hup hruns => ⟨execMgmtWatchdog_runs hup hruns, execMgmtLockstep_runs hup hruns, controllerFails_first (s := u) 4⟩,
    fun c hup hruns => execMgmtTakeover_ready hup hruns, ?passes, ?fails, ?none, execCommandPathRestart_restarts,
    fun _ _ _ _ => execFwUpdateDone_finishes, fun _ _ => execSelfTestDone_finishes⟩
  case passes =>
    intro hup hruns hretest hpass
    subst hpass
    exact execMgmtRetestDone_retests hup hruns hretest
  case fails =>
    intro hup hruns hretest hfail
    subst hfail
    refine ⟨standbyRetired u, execMgmtRetestDone_retests hup hruns hretest, standbyRetired_retest, fun hA => ?_, fun hB => ?_⟩
    · rw [standbyRetired_activeA (s := u) hA]
      exact ⟨rfl, rfl⟩
    · rw [standbyRetired_activeB (s := u) hB]
      exact ⟨rfl, rfl⟩
  case none =>
    intro c hup hruns hnone hfailed hc
    exact ⟨_, execMgmtNoController_fails hup hruns hnone hfailed hc, rfl, rfl, pathDown_of_down rfl, rfl⟩

end Sys2Proof.Machine
end

section
/-! PROOFS. The pair: heartbeats, a partner that is silent, lanes, the link and through-light (O49). Built on Laws/State.lean. -/

namespace Sys2Proof.Machine

open Sys2Proof

section
variable {s : State} {t : Ps}

/-! ### Heartbeats, lanes and the link (R504, R507, R512) -/

@[simp] theorem State.adv_inPair : (s.adv t).inPair = s.inPair := rfl

section
variable (hpair : s.inPair = true) (hawake : s.power.sleeping = false)
include hpair hawake

theorem execHeartbeatTx_sends : execHeartbeatTx s = .next (send (.heartbeat (heartbeatOf s)) s) :=
  congrArg Host.Outcome.next (if_pos (by simp [hpair, hawake]))

theorem execHeartbeatRx_takes (h : Heartbeat) : execHeartbeatRx t h s = .next (heartbeat h (s.adv t)) :=
  congrArg Host.Outcome.next (if_pos (by simp [hpair, hawake]))

theorem execPlinkUp_comesUp (hello : PartnerHello) : execPlinkUp t hello s = .next (linkUp hello (s.adv t)) :=
  congrArg Host.Outcome.next (if_pos (by simp [hpair, hawake]))

/-- A lane that was up goes down and is told. -/
theorem execPairLaneDown_lane0 (hup : s.pair.lane0 = true) :
    execPairLaneDown t 0 s = .next (pairFault 0x0C02 { (s.adv t) with pair.lane0 := false }) :=
  congrArg Host.Outcome.next (if_pos (by simp [hpair, hup, hawake]))

theorem execPairLaneDown_lane1 (hup : s.pair.lane1 = true) :
    execPairLaneDown t 1 s = .next (pairFault 0x0C02 { (s.adv t) with pair.lane1 := false }) :=
  congrArg Host.Outcome.next (if_pos (by simp [hpair, hup, hawake]))
end

/-! ### A partner that is silent (R509, R510) -/

theorem execPartnerLost_silent (hawake : s.power.sleeping = false) (hsilent : s.pair.lastHb + 4000000 ≤ (s.adv t).now) :
    execPartnerLost t s = .next (declareLost 0 (s.adv t)) :=
  congrArg Host.Outcome.next (if_neg (by
    rw [State.adv_power, hawake, Bool.false_or, decide_eq_true_eq]
    exact Nat.not_lt.mpr hsilent))

theorem execPartnerLost_heard (hheard : (s.adv t).now < s.pair.lastHb + 4000000) : execPartnerLost t s = .next (s.adv t) :=
  congrArg Host.Outcome.next (if_pos (by simp [-State.adv_now, hheard]))

/-- Without automatic takeover the slots stay as they are. -/
theorem declareLost_linkLost (hphase : s.pair.phase = .paired ∨ s.pair.phase = .yielded) (hauto : s.pair.autoTake = false) :
    declareLost 0 s = { s with
      pair.lane0 := false, pair.lane1 := false, pair.phase := .linkLost, pair.lossCause := 0, pair.partnerState := 0xFF } := by
  unfold declareLost
  rcases hphase with h | h <;> simp [h, hauto]

/-- A device that has no partner only loses the lanes. -/
theorem declareLost_alone (hpaired : s.pair.phase ≠ .paired) (hyielded : s.pair.phase ≠ .yielded) :
    declareLost 0 s = { s with pair.lane0 := false, pair.lane1 := false } := by
  unfold declareLost
  simp [hpaired, hyielded]

/-! ### Through-light (R508) -/

theorem execThruWindowEnd_awake {slot : Fin 8} {power : Int} {delay : Nat} (hawake : s.power.sleeping = false) :
    execThruWindowEnd t slot power delay s = .next (thruWindow slot.val power delay (s.adv t)) :=
  congrArg Host.Outcome.next (if_neg (Bool.eq_false_iff.mp hawake))

/-- A window noted with what it showed. -/
def thruNoted (power : Int) (delay absent : Nat) (lost : Bool) (s : State) : State :=
  { s with pair.thruHist := ((power, delay) :: s.pair.thruHist).take 256, pair.absent := absent, pair.thruLost := lost }

section
variable {slot : Nat} {power : Int} {delay : Nat} (hphase : s.pair.phase = .paired) (htests : s.pair.tests = [])
include hphase htests

theorem thruWindow_paired : thruWindow slot power delay s =
    if thruPresent s.pair power = true then thruNoted power delay 0 false s
    else
      let v := thruNoted power delay (s.pair.absent + 1) (s.pair.thruLost || 64 ≤ s.pair.absent + 1) s
      if (64 ≤ s.pair.absent + 1 && !s.pair.thruLost) = true then pairFault 0x0C04 v else v := by
  exact (if_neg (by simp [htests])).trans ((if_neg (by simp [hphase])).trans (if_pos hphase))
end
end

/-- Settles O49: each row by its lemma, a lane by which one it is, a window by whether light came through. -/
theorem pairEvents : Obligations.PairEvents := by
  unfold Obligations.PairEvents
  intro t lane slot power delay h hello s u
  refine ⟨fun hpair hawake => ⟨execHeartbeatTx_sends hpair hawake, execHeartbeatRx_takes hpair hawake h,
      execPlinkUp_comesUp hpair hawake hello⟩, fun hpair hawake => ⟨?lane0, ?lane1⟩, fun hawake hsilent =>
      ⟨execPartnerLost_silent hawake hsilent, declareLost_linkLost (s := u), declareLost_alone (s := u)⟩, execPartnerLost_heard,
    execThruWindowEnd_awake, fun hphase htests hpresent => (thruWindow_paired hphase htests).trans (if_pos hpresent), ?absent⟩
  case lane0 =>
    rintro rfl
    exact execPairLaneDown_lane0 hpair hawake
  case lane1 =>
    rintro rfl
    exact execPairLaneDown_lane1 hpair hawake
  case absent =>
    intro hphase htests habsent v
    refine (thruWindow_paired hphase htests).trans ((if_neg (Bool.eq_false_iff.mp habsent)).trans ?_)
    simp only [Bool.and_eq_true, decide_eq_true_eq, Bool.not_eq_true']
    rfl

end Sys2Proof.Machine
end

section
/-! PROOFS. The ends of transitions, wake requests, wakes and the duty cycle (O50). Built on Laws/State.lean. -/

namespace Sys2Proof.Machine

open Sys2Proof

section
variable {s : State} {t : Ps}

/-! ### Transitions (R536) -/

theorem endTransition_notYet {x : Transition} (htrans : s.power.trans = some x) (hwait : notYet x s = true) :
    endTransition s = s := by
  unfold endTransition
  simp only [htrans, hwait, if_true]

/-! ### Wake requests (R540, R541) -/

section
variable (c : Byte)

theorem requestWake_asleep (hasleep : s.power.sleeping = true) (hnone : s.power.waking = none) :
    requestWake c s = { s with power.waking := some c, power.wakeAt := s.now, power.wakeOther := false } := by
  unfold requestWake
  simp only [hasleep, hnone, if_true]

theorem requestWake_entering (hawake : s.power.sleeping = false) (hentering : s.enteringSleep = true) :
    requestWake c s = { s with power.wakeReq := s.power.wakeReq ++ [c] } := by
  unfold requestWake
  simp only [hawake, hentering, Bool.false_eq_true, if_false, if_true]

theorem requestWake_awake (hawake : s.power.sleeping = false) (hstays : s.enteringSleep = false) : requestWake c s = s := by
  unfold requestWake
  simp only [hawake, hstays, Bool.false_eq_true, if_false]
end

theorem execWakeTimer_off (hoff : s.power.wake.period = 0) : execWakeTimer t s = .next (s.adv t) :=
  congrArg Host.Outcome.next (if_pos hoff)

section
variable (hon : s.power.wake.period ≠ 0)
include hon

theorem execWakeTimer_asleep (hasleep : s.power.sleeping = true) :
    execWakeTimer t s = .next (requestWake 2 (s.adv t)) :=
  congrArg Host.Outcome.next ((if_neg hon).trans (if_pos (by simp [hasleep])))

/-- In STANDBY and above the timer is skipped, and counted. -/
theorem execWakeTimer_skipped (hawake : s.power.sleeping = false) (hstays : (s.adv t).enteringSleep = false)
    (hstarted : s.power.starting = false) (hsupply : s.power.supplyOut = none) :
    execWakeTimer t s = .next { (s.adv t) with power.timerSkipped := satInc s.power.timerSkipped } :=
  congrArg Host.Outcome.next ((if_neg hon).trans ((if_neg (by simp [hawake, hstays])).trans
    (if_neg (by simp [hstarted, hsupply]))))
end

/-! ### Wakes (R542) -/

theorem execWake_requested {c : Byte} {b : BootIn} (hwaking : s.power.waking = some c) (hasleep : s.power.sleeping = true) :
    execWake t b s = .next (wakeUp c b (s.adv t)) := by
  unfold execWake
  simp only [State.adv_power, hwaking, hasleep, if_true]

theorem execWake_none {b : BootIn} (hnone : s.power.waking = none) : execWake t b s = .next (s.adv t) := by
  unfold execWake
  simp only [State.adv_power, hnone]

/-! ### The duty cycle (R544) -/

/-- A dwell ends by time once no updates are left. -/
theorem execDutyDwellEnd_ite {n : Nat} {x : Ps} (hdwell : s.power.duty = .dwell n x) :
    execDutyDwellEnd t s = .next (if (decide (n = 0) && decide (x ≤ (s.adv t).now)) = true then
      { (s.adv t) with power.duty := .linger ((s.adv t).now + lingerPs (s.adv t)) } else s.adv t) := by
  unfold execDutyDwellEnd
  simp only [State.adv_power, hdwell]

theorem execDutyLingerEnd_returns {x : Ps} (hlinger : s.power.duty = .linger x) (hover : x ≤ (s.adv t).now)
    (hcal : (s.adv t).calibrating = false) (hawake : s.power.sleeping = false) (hstays : (s.adv t).enteringSleep = false)
    (hsupply : s.power.supplyOut = none) :
    execDutyLingerEnd t s = .next (beginTransition s.power.sleptIn 4 0 0 { (s.adv t) with power.duty := .none }) := by
  unfold execDutyLingerEnd
  simp only [State.adv_power, hlinger, hover, hcal, hawake, hstays, hsupply, decide_true, Bool.not_false, Option.isNone_none,
    Bool.and_self, if_true]
end

/-- Settles O50: each row by its lemma. -/
theorem modeEvents : Obligations.ModeEvents := by
  unfold Obligations.ModeEvents
  intro t b s u
  refine ⟨rfl, fun x => endTransition_notYet, fun hasleep hnone => congrArg _ (requestWake_asleep (s := u) 1 hasleep hnone),
    fun hawake hentering => congrArg _ (requestWake_entering (s := u) 1 hawake hentering),
    fun hawake hstays => congrArg _ (requestWake_awake (s := u) 1 hawake hstays), ?timer, execWakeTimer_skipped, execWakeTimer_off,
    fun c => execWake_requested, execWake_none, ?dwellOver, ?dwells, fun x => execDutyLingerEnd_returns⟩
  case timer =>
    intro hon hasleep hnone
    exact (execWakeTimer_asleep hon hasleep).trans (congrArg _ (requestWake_asleep (s := u) 2 hasleep hnone))
  case dwellOver =>
    intro x hdwell hover
    exact (execDutyDwellEnd_ite hdwell).trans (congrArg _ (if_pos (Bool.and_eq_true_iff.mpr ⟨rfl, decide_eq_true hover⟩)))
  case dwells =>
    intro n x hdwell hstays
    refine (execDutyDwellEnd_ite hdwell).trans (congrArg _ (if_neg ?_))
    rw [Bool.and_eq_true, decide_eq_true_eq, decide_eq_true_eq, not_and_or, not_le]
    exact hstays

end Sys2Proof.Machine
end

section
/-! PROOFS. Temperature, clocks and supplies, power down and up, and a start-up that a supply stops (O51, O55). Built on
Laws/State.lean. -/

namespace Sys2Proof.Machine

open Sys2Proof

section
variable {s : State} {t : Ps}

/-! ### Temperature (R545, R546) -/

/-- Is a temperature past the limit of the case or, for other evidence, of a die? -/
def tripsAt (evidence : Nat) (temp : Int) : Bool :=
  if evidence = 0 then decide (12700 < temp) else decide (14000 < temp)

theorem execThermalTrip_trips {ev : Fin 4} {temp : Int} (hup : s.poweredUp = true) (hhot : tripsAt ev.val temp = true) :
    execThermalTrip t ev temp s = .next (fatalSafe { code := 0x0D00, evidence := ev.val, a0 := argInt temp } false
      (if ev.val = 0 then { (s.adv t) with power.tCase := temp } else s.adv t)) :=
  congrArg Host.Outcome.next (if_pos (Bool.and_eq_true_iff.mpr ⟨hhot, hup⟩))

theorem execThermalTrip_within {ev : Fin 4} {temp : Int} (hcool : tripsAt ev.val temp = false) :
    execThermalTrip t ev temp s = .next (s.adv t) :=
  congrArg Host.Outcome.next (if_neg fun h => Bool.eq_false_iff.mp hcool (Bool.and_eq_true_iff.mp h).1)

theorem tecAtLimit_iff {dev cur : Int} : tecAtLimit dev cur = true ↔ 100 < dev.natAbs ∧ 2500000 ≤ cur.natAbs := by
  simp [tecAtLimit]

theorem execTecLimit_first {dev cur : Int} (hlimit : tecAtLimit dev cur = true) (hup : s.poweredUp = true)
    (hfirst : s.power.tecLimited = false) (hmode : s.power.mode ≠ .standby) :
    execTecLimit t dev cur s = .next (raise { code := 0x0D01, unit := 0x0187, a0 := argInt dev, a1 := argInt cur }
      { (s.adv t) with power.tecLimited := true, power.thermalCoarse := true }) :=
  congrArg Host.Outcome.next (if_neg (by simp [hlimit, hup, hfirst, hmode]))

theorem execTecLimit_quiet {dev cur : Int} (h : s.power.tecLimited = true ∨ tecAtLimit dev cur = false) :
    execTecLimit t dev cur s = .next (s.adv t) :=
  congrArg Host.Outcome.next (if_pos (by rcases h with h | h <;> simp [h]))

/-! ### Clocks (R531, R597) -/

theorem execRefclkLost_runs (hup : s.poweredUp = true) :
    execRefclkLost t s = .next (fatalSafe { code := 0x0D03, a0 := s.power.mode.code } false (s.adv t)) :=
  congrArg Host.Outcome.next (if_pos hup)

theorem execXtalFail_first {stopped : Bool} (hup : s.poweredUp = true) (hok : s.power.xtalOk = true) :
    execXtalFail t stopped s =
      .next (raise { code := 0x0E01, evidence := bit stopped } { (s.adv t) with power.xtalOk := false }) :=
  congrArg Host.Outcome.next (if_pos (by simp [hup, hok]))

/-- A crystal that has failed fails no more; its return ends the condition. -/
theorem execXtal_failed {stopped : Bool} (hfailed : s.power.xtalOk = false) :
    execXtalFail t stopped s = .next (s.adv t) ∧
      execXtalRestored t s = .next (endBound 0x0E01 { (s.adv t) with power.xtalOk := true }) :=
  ⟨congrArg Host.Outcome.next (if_neg (by simp [hfailed])), congrArg Host.Outcome.next (if_neg (by simp [hfailed]))⟩

/-! ### Supplies (R588, R596) -/

theorem supplyBad_iff {n mv : Nat} : supplyBad n mv = true ↔ mv < (supplyRange n).1 ∨ (supplyRange n).2 < mv := by
  simp [supplyBad]

theorem toSleep_trans (m : Mode) (s : State) : (toSleep m s).power.trans = none := by
  unfold toSleep
  extract_lets
  rfl

theorem loseDomains_trans (s : State) : (loseDomains s).power.trans = none := toSleep_trans .standby s

/-- No transition is left, and the excursion is remembered. -/
theorem supplyLost_power (n mv us : Nat) (s : State) :
    (supplyLost n mv us s).power.trans = none ∧ (supplyLost n mv us s).power.supplyOut = some (n, mv, us) := by
  unfold supplyLost
  extract_lets _ safe _ lingering _ lost
  have hlost : lost.power.trans = none := loseDomains_trans _
  clear_value lost
  exact ⟨hlost, rfl⟩

section
variable {supply : Fin 8} {mv us : Nat}

/-- `VDD_AON` is not watched; another supply must be out of its range for 10 us (R596). -/
theorem execSupplyFault_none (h : supply = 5 ∨ supplyBad supply.val mv = false ∨ us < 10) :
    execSupplyFault t supply mv us s = .next (s.adv t) := by
  refine congrArg Host.Outcome.next (if_pos ?_)
  rcases h with rfl | h | h
  · rfl
  · simp [h]
  · simp [h]

variable (hsupply : supply ≠ 5) (hbad : supplyBad supply.val mv = true) (hlong : 10 ≤ us) (hawake : s.power.sleeping = false)
  (hstarted : s.power.starting = false)
include hsupply hbad hlong hawake hstarted

/-- The row is about a supply that has left its range while the device is up. -/
theorem supplyFault_taken : ¬ (supply.val = 5 || !supplyBad supply.val mv || us < 10 || (s.adv t).power.sleeping
    || (s.adv t).power.starting) = true := by
  have hnot5 : supply.val ≠ 5 := fun h => hsupply (Fin.ext h)
  simp [hnot5, hbad, Nat.not_lt.mpr hlong, hawake, hstarted]

theorem execSupplyFault_first (hin : s.power.supplyOut = none) :
    execSupplyFault t supply mv us s = .next (supplyLost supply.val mv us (s.adv t)) := by
  refine congrArg Host.Outcome.next ((if_neg (supplyFault_taken hsupply hbad hlong hawake hstarted)).trans ?_)
  simp only [State.adv_power, hin]

/-- An excursion of another supply lengthens the one that stopped the device (log 153). -/
theorem execSupplyFault_other {n x y : Nat} (hout : s.power.supplyOut = some (n, x, y)) (hother : n ≠ supply.val) :
    execSupplyFault t supply mv us s = .next { (s.adv t) with power.supplyOut := some (n, x, y + us) } := by
  refine congrArg Host.Outcome.next ((if_neg (supplyFault_taken hsupply hbad hlong hawake hstarted)).trans ?_)
  simp only [State.adv_power, hout, hother, decide_false, Bool.false_and, Bool.false_eq_true, if_false]
end

theorem execSupplyRestored_out {b : BootIn} {n x y : Nat} (hout : s.power.supplyOut = some (n, x, y)) :
    execSupplyRestored t b s = .next (tellStart (startRecovery 5 0xFFFF
      [.fault 0x0E00 0xFFFF (by8 n) (BitVec.ofNat 32 x) (BitVec.ofNat 32 (min y (2 ^ 32 - 1))) false]
      (startDomains b (resetSettings (timeWake (s.adv t)))))) := by
  unfold execSupplyRestored
  simp only [State.adv_power, hout]
end

/-! ### Start-up (R593, R595) -/

/-- Training changes the memory and its pool. -/
theorem startTraining_frame (ds : List TrainIn) (s : State) :
    ∃ m p, startTraining ds s = { s with mem := m, pool := p } := by
  unfold startTraining
  extract_lets trained
  have htrained : ∃ m, trained = { s with mem := m } :=
    List.foldlRecOn (motive := fun u => ∃ m, u = { s with mem := m }) _ _ ⟨_, rfl⟩ (by
      rintro _ ⟨m, rfl⟩ c _
      exact ⟨_, rfl⟩)
  clear_value trained
  obtain ⟨m, rfl⟩ := htrained
  exact ⟨_, _, rfl⟩

/-- The controllers as a start finds them, their images as the boot flash holds them. -/
def imagesChecked (b : BootIn) (s : State) : State :=
  { s with mgmt := { s.mgmt with
      validA := b.imageAValid, validB := b.imageBValid,
      ready := !(if s.mgmt.activeB then s.mgmt.retiredA else s.mgmt.retiredB), retest := false, failed := none, down := false } }

/-- STANDBY, with controllers that run the images that the boot found. -/
theorem startDomains_starts (b : BootIn) (s : State) :
    let v := startDomains b s
    v.power = { s.power with
        mode := .standby, standbySince := s.now, sleeping := false, starting := false, waking := none, supplyOut := none } ∧
      v.mgmt.validA = b.imageAValid ∧ v.mgmt.validB = b.imageBValid ∧ v.mgmt.down = false ∧ v.link.pcieUp = s.link.perstN := by
  obtain ⟨m, p, htrained⟩ :=
    startTraining_frame b.training (applyBoard b.boardBad (bootController (imagesChecked b s)))
  unfold imagesChecked at htrained
  unfold startDomains
  simp only [htrained]
  exact ⟨rfl, rfl, rfl, rfl, rfl⟩

theorem raise_power (o : FaultOcc) (s : State) : (raise o s).power = s.power := (raise_rest o s).1

theorem tellDisabled_power (chs : List (Nat × Nat)) (s : State) : (tellDisabled chs s).power = s.power := by
  unfold tellDisabled
  extract_lets told
  have htold : told.power = s.power :=
    List.foldlRecOn (motive := fun u : State => u.power = s.power) _ _ rfl fun _ h _ _ => (raise_power ..).trans h
  split
  · exact (raise_power ..).trans htold
  · exact htold

theorem tellTraining_power (s : State) : (tellTraining s).power = s.power := by
  unfold tellTraining
  dsimp only
  split
  · rfl
  · exact tellDisabled_power _ s

/-- Telling what a start found changes no mode and no supply. -/
theorem tellStart_power (s : State) : (tellStart s).power = s.power := by
  unfold tellStart
  extract_lets trained img told
  have himg (ok : Bool) (unit : Nat) (u : State) : (img ok unit u).power = u.power := by
    unfold img
    split
    · rfl
    · exact raise_power ..
  have htold : told.power = s.power := ((himg ..).trans (himg ..)).trans (tellTraining_power s)
  clear_value told
  split <;> exact htold

/-- A device about to start, at an instant. -/
def aboutToStart (t : Ps) (s : State) : State :=
  { ((offState s).adv t).took with time.offset := Config.powerUpTime s.freeIdx, power.vddAon := true }

section
variable {s : State} (t : Ps) (b : BootIn) (hstarting : s.power.starting = true)
include hstarting

theorem execStartUpAbort_starting : execStartUpAbort s = .next (offState s) := congrArg Host.Outcome.next (if_pos hstarting)

theorem execPowerUp_starting : execPowerUp t b s = .next (tellStart (startDomains b (aboutToStart t s))) :=
  congrArg Host.Outcome.next (if_pos hstarting)
end

/-- Settles O51: each row by its lemma; what a start leaves by `startDomains_starts`. -/
theorem powerEvents : Obligations.PowerEvents := by
  unfold Obligations.PowerEvents
  intro t ev temp dev cur stopped supply mv us b s u
  refine ⟨?case_, ?die, ?cool, tecAtLimit_iff, execTecLimit_first, execTecLimit_quiet, execRefclkLost_runs, execXtalFail_first,
    execXtal_failed, supplyBad_iff, execSupplyFault_none, ?out, ?other, ?restored, rfl, execStartUpAbort_starting,
    ⟨rfl, rfl, rfl, rfl, rfl, rfl, rfl⟩, ?up⟩
  case case_ =>
    rintro hup rfl hhot
    exact execThermalTrip_trips hup (decide_eq_true hhot)
  case die =>
    intro hup hev hhot
    have hval : ev.val ≠ 0 := fun h => hev (Fin.ext h)
    have htrips : tripsAt ev.val temp = true := by simp [tripsAt, hval, hhot]
    exact (execThermalTrip_trips hup htrips).trans (congrArg _ (congrArg _ (if_neg hval)))
  case cool =>
    intro hcase hdie
    refine execThermalTrip_within ?_
    unfold tripsAt
    split
    next h => exact decide_eq_false (not_lt.mpr (hcase (Fin.ext h)))
    next h => exact decide_eq_false (not_lt.mpr (hdie fun h0 => h (congrArg Fin.val h0)))
  case out =>
    intro hsupply hbad hlong hawake hstarted hin
    exact ⟨execSupplyFault_first hsupply hbad hlong hawake hstarted hin, supplyLost_power ..⟩
  case other =>
    intro n x y hsupply hbad hlong hawake hstarted hout hother
    exact execSupplyFault_other hsupply hbad hlong hawake hstarted hout hother
  case restored =>
    intro n x y hout
    obtain ⟨hpower, -, -, hdown, -⟩ := startDomains_starts b (resetSettings (timeWake u))
    exact ⟨_, execSupplyRestored_out hout, rfl, congrArg PowerState.mode hpower, congrArg PowerState.supplyOut hpower, hdown⟩
  case up =>
    intro hstarting
    obtain ⟨hpower, hA, hB, -, hpcie⟩ := startDomains_starts b (aboutToStart t s)
    exact ⟨_, execPowerUp_starting t b hstarting, congrArg PowerState.mode hpower, congrArg PowerState.starting hpower,
      congrArg PowerState.sleeping hpower, congrArg PowerState.vddAon hpower, hA, hB, hpcie⟩

/-- Settles O55: the device is off again, as reset leaves it but for what waits to be sent; then it starts to STANDBY. -/
theorem startUpAbort : Obligations.StartUpAbort := by
  unfold Obligations.StartUpAbort
  intro t b s hstarting
  obtain ⟨hpower, -⟩ := startDomains_starts b (aboutToStart t (offState s))
  have htold := (tellStart_power _).trans hpower
  exact ⟨_, execStartUpAbort_starting hstarting, rfl, rfl, rfl, rfl, _, execPowerUp_starting t b rfl,
    congrArg PowerState.starting htold, congrArg PowerState.mode htold⟩

end Sys2Proof.Machine
end
